-- ==== Sys2Proof/Word.lean ====
section
/-!
DEFINITION. The word types, the identifiers of R12 and the shape of a register field.
-/

namespace Sys2Proof

/-- One byte. -/
abbrev Byte := BitVec 8

/-- One register word (R10: the Config Port carries 32-bit accesses). -/
abbrev Word := BitVec 32

/-- One 64-bit word of a packet header or a descriptor. -/
abbrev DWord := BitVec 64

/-- A context number (R12: up to 16 are resident). -/
abbrev Ctx := Fin 16

/-- An inter-chip port of the chip. -/
abbrev Port := Fin 16

/-- A Well slot of the chip. -/
abbrev WellNo := Fin 24

/-- A chip of the domain. -/
abbrev Chip := Fin 64

/-- The two Hub macros of a chip (R15) and the Heath inside each. -/
inductive Side where
  | a
  | b
  deriving DecidableEq, Repr, Inhabited

namespace Machine

/-- The access codes of R7; `rwd` is RW by the debug port only (R437). -/
inductive Acc where
  | ro | rw | w1c | w1s | rc | rwl | rwd
  deriving DecidableEq, Repr

/-- A field of a register: the window offset of its word, its lowest bit and its width. -/
structure Fld where
  off : Nat
  lo : Nat
  len : Nat
  deriving DecidableEq, Repr

/-- A field of a register row, with its access code and reset value. -/
structure FieldRow where
  lo : Nat
  len : Nat
  acc : Acc
  rst : Nat
  deriving DecidableEq, Repr

/-- A register row: its base offset, the strides and counts of its array, and its fields. -/
structure RegRow where
  base : Nat
  dims : List (Nat × Nat)
  fields : List FieldRow
  deriving DecidableEq, Repr

end Machine

end Sys2Proof
end

