-- ==== Sys2Proof/Syntax.lean ====
section
/-!
DEFINITION. The commands of the block, whole: one constructor per row of the spec's table, with the shapes of what
they carry (packets, flits, host commands).
-/

namespace Sys2Proof

/-- A packet of R187: the four header words and the bytes that follow the header. -/
structure Pkt where
  w0 : DWord
  w1 : DWord
  w2 : DWord
  w3 : DWord
  body : List Byte
  deriving DecidableEq, Repr

/-- A flit as it arrives (R181): bytes 0 to 7, the 264 body bytes, and the CRC field. `bad` is the framer's finding of
R302 that the slot is neither flit nor ordered set, or carries an FEC flag; `fixed` counts the codewords that the PHY has corrected since
the last slot (R301, R326). -/
structure Flit where
  head : DWord
  body : List Byte
  crc : Word
  bad : Bool
  fixed : Nat
  deriving DecidableEq, Repr

/-- A link that carries flits of R181: an inter-chip port, a Well link (R344) or the mirror channel (R398). -/
inductive LinkId where
  | port (p : Port)
  | well (w : WellNo)
  | mirror
  deriving DecidableEq, Repr

/-- What a host HBM4 command does to the DRAM (R239-R242, R383). -/
inductive HostCmd where
  | activate (ch bank row : Nat)
  | precharge (ch bank : Nat)
  | read (addr : Nat)
  | write (addr : Nat) (bytes : List Byte)
  | other
  deriving DecidableEq, Repr

/-- A master of R394. -/
inductive Master where
  | ring (c : Ctx)
  | well (w : WellNo)
  | peer (d : Chip)
  | debug
  | core
  deriving DecidableEq, Repr

/-- The memory of a part that holds a protected word (R194, R380, R408): a stack, the SRAM of an engine, a circular buffer (the expert
queues, the receive buffer of a port, the park area, another one), table SRAM, router SRAM, the Cistern, the Meadow, a control core. -/
inductive MemOf where
  | stack
  | engine (n : Nat)
  | queues
  | receive (p : Port)
  | park
  | buffer
  | table
  | router
  | cistern
  | meadow
  | core
  deriving DecidableEq, Repr

/-- A word as its reader gets it (R381, R387): part (0-23 Well, 24 Hub A, 25 Hub B) and memory, its address (a byte address in a stack,
table SRAM or router SRAM, else the word's index), its 80 bits as read, and the context whose attempt read it. -/
structure WordRead where
  part : Nat
  mem : MemOf
  addr : Nat
  word : BitVec 80
  ctx : Option Ctx
  deriving DecidableEq, Repr

/-- What the Heath finds on the xSPI device after a reset (R354, R375, R419): the parameter table was read, the
capacity in MiB, the sector size in KiB, and the sector headers and records are read from the device bytes. -/
structure NvDevice where
  readable : Bool
  mib : Nat
  sectorKib : Nat
  deriving DecidableEq, Repr

/-- A REMOVE set as it arrives (R303, R320): the port it arrives on and its PORT field, the sender's own port. -/
structure RemoveSet where
  port : Port
  far : Port
  deriving DecidableEq, Repr

/-- The commands of the block: one constructor per row of the spec's table of operations and events. The operands
are what arrives with the event: a register word, a packet, a read beat, a measurement, an instant. -/
inductive Instr where
  /-- TCK_RUN_SET (R37). -/
  | tckRunSet (v : Word)
  /-- TCK_RUN_CLEAR (R59). -/
  | tckRunClear (v : Word)
  /-- TCK_PERIOD_WRITE (R40). -/
  | tckPeriodWrite (v : Word)
  /-- MASTER_EMISSION (R52). -/
  | masterEmission
  /-- TICK_WATCHDOG (R54). -/
  | tickWatchdog
  /-- LOCAL_TICK (R53). -/
  | localTick
  /-- STARVED_TEST (R172). -/
  | starvedTest
  /-- TICK_IN_EDGE (R38). -/
  | tickInEdge (t : Nat)
  /-- TICK_IN_HOLDOVER (R38). -/
  | tickInHoldover
  /-- TICK_ORDERED_SET (R43). -/
  | tickOrderedSet (port : Port) (copy : Bool) (set : BitVec 192) (arrival : Nat)
  /-- TICK_SET_AT_MASTER (R36). -/
  | tickSetAtMaster (port : Port) (set : BitVec 192)
  /-- FOLLOWER_HOLDOVER (R44). -/
  | followerHoldover
  /-- CALIBRATION_STALE (R46). -/
  | calibrationStale
  /-- READY_REPORT (R51). -/
  | readyReport (p : Pkt)
  /-- PROGRESS_BEACON (R54). -/
  | progressBeacon (p : Pkt)
  /-- LOCAL_DONE (R52). -/
  | localDone (p : Pkt)
  /-- ABORT_NOTICE (R48). -/
  | abortNotice (p : Pkt)
  /-- LOCAL_FINISH (R50). -/
  | localFinish (c : Ctx)
  /-- DOORBELL (R71). -/
  | doorbell (c : Ctx) (v : Word)
  /-- CQ_HEAD_WRITE (R93). -/
  | cqHeadWrite (c : Ctx) (v : Word)
  /-- EQ_HEAD_WRITE (R93). -/
  | eqHeadWrite (v : Word)
  /-- CTX_RING_ENABLE (R69). -/
  | ctxRingEnable (c : Ctx) (v : Word)
  /-- CTX_RING_DISABLE (R94). -/
  | ctxRingDisable (c : Ctx) (v : Word)
  /-- EQ_ENABLE (R69). -/
  | eqEnable (v : Word)
  /-- DESCRIPTOR_FETCH (R76). -/
  | descriptorFetch (c : Ctx)
  /-- DESCRIPTOR_CHECK (R77). -/
  | descriptorCheck (c : Ctx)
  /-- REJECT_RETIRE (R81). -/
  | rejectRetire (c : Ctx)
  /-- COMPLETION_RECORD_WRITE (R86). -/
  | completionRecordWrite (c : Ctx)
  /-- COMPLETION_WRITE_RESPONSE (R91). -/
  | completionWriteResponse (c : Ctx) (err : Nat)
  /-- EVENT_RECORD_WRITE (R90). -/
  | eventRecordWrite
  /-- EVENT_WRITE_RESPONSE (R91). -/
  | eventWriteResponse (err : Nat)
  /-- LOAD_HOME_TABLE (R127). -/
  | loadHomeTable (v : Word)
  /-- LOAD_LAYER_ENTRIES (R127). -/
  | loadLayerEntries (v : Word)
  /-- LOAD_ROUTER_ROWS (R127). -/
  | loadRouterRows (v : Word)
  /-- COPY_ACTIVE_SET (R127). -/
  | copyActiveSet (v : Word)
  /-- LOAD_END (R127). -/
  | loadEnd
  /-- ARM (R101). -/
  | arm (c : Ctx)
  /-- DISARM (R104). -/
  | disarm (c : Ctx)
  /-- RESEED (R119). -/
  | reseed (v : Word)
  /-- SEEDING_DONE (R119). -/
  | seedingDone (entropy : List (BitVec 256)) (ok : Bool)
  /-- HOST_READ_DATA (R331). -/
  | hostReadData (tag : Fin 1024) (data : BitVec 512) (last : Bool) (err : Nat)
  /-- HOST_WRITE_RESPONSE (R331). -/
  | hostWriteResponse (tag : Fin 1024) (err : Nat)
  /-- ADMISSION_WINDOW (R155). -/
  | admissionWindow (c : Ctx)
  /-- CISTERN_GRANT (R166). -/
  | cisternGrant (pick : Nat)
  /-- FLIT_TRANSMIT (R183). -/
  | flitTransmit (link : LinkId)
  /-- FLIT_RECEIVE (R182). -/
  | flitReceive (link : LinkId) (flit : Flit)
  /-- RETRY_TIMEOUT (R182). -/
  | retryTimeout (link : LinkId)
  /-- DISPATCH (R197). -/
  | dispatch (p : Pkt)
  /-- EOD (R199). -/
  | eod (p : Pkt)
  /-- ISSUE_TILE (R200). -/
  | issueTile (home : Nat) (c : Ctx) (expert : Nat)
  /-- PARTIAL_TILE (R231). -/
  | partialTile (w : WellNo)
  /-- WELL_TILE_COMPLETE (R229). -/
  | wellTileComplete (w : WellNo) (cycles : Nat)
  /-- RETURN_PACKET (R207). -/
  | returnPacket (p : Pkt)
  /-- ROW_NORMALISE (R140). -/
  | rowNormalise
  /-- QUEUE_FLUSH (R195). -/
  | queueFlush (v : Word)
  /-- TAKE (R287). -/
  | take (slice : Nat) (src : Nat) (c : Ctx)
  /-- ANY_CONTEXT_TAKE (R289). -/
  | anyContextTake (slice : Nat) (src : Nat)
  /-- RELEASE_WORD (R170). -/
  | releaseWord (w : Word)
  /-- TILE_WEIGHT_WRITE (R335). -/
  | tileWeightWrite (slot : Nat) (j : Nat) (dw : Word)
  /-- CISTERN_DATA_ACCESS (R336). -/
  | cisternDataAccess (wr : Bool) (off : Nat) (data : List Byte)
  /-- SLICE_RESET (R352). -/
  | sliceReset (slice : Nat)
  /-- COLLECTIVE_START (R252). -/
  | collectiveStart (w : DWord)
  /-- COLLECTIVE_READY (R252). -/
  | collectiveReady (w : DWord)
  /-- COL_DESCRIPTOR_CHECK (R254). -/
  | colDescriptorCheck (ch : Fin 16)
  /-- COL_RESERVATION_GRANT (R268). -/
  | colReservationGrant (pick : Nat)
  /-- COL_START (R269). -/
  | colStart (p : Pkt)
  /-- COL_DATA (R264). -/
  | colData (p : Pkt)
  /-- COL_CREDIT (R269). -/
  | colCredit (p : Pkt)
  /-- COL_HOLD (R270). -/
  | colHold (p : Pkt)
  /-- COL_ABORT (R271). -/
  | colAbort (p : Pkt)
  /-- COL_FIN (R258). -/
  | colFin (p : Pkt)
  /-- COL_OUTPUTS_COMPLETE (R258). -/
  | colOutputsComplete (ch : Fin 16)
  /-- COL_STALL_COUNT (R270). -/
  | colStallCount
  /-- COL_RESTART_DRAINED (R258). -/
  | colRestartDrained (ch : Fin 16)
  /-- COL_CH_ENABLE (R258). -/
  | colChEnable (ch : Fin 16) (v : Word)
  /-- HK_START (R273). -/
  | hkStart
  /-- HK_DATA (R273). -/
  | hkData (p : Pkt)
  /-- HK_CLOSE (R273). -/
  | hkClose
  /-- TEMPLATE_LOAD (R281). -/
  | templateLoad (v : Word)
  /-- TEMPLATE_LOAD_END (R281). -/
  | templateLoadEnd
  /-- STEP_OPEN (R238). -/
  | stepOpen (w : WellNo) (p : Pkt)
  /-- STEP_CLOSE (R238). -/
  | stepClose (w : WellNo) (p : Pkt)
  /-- SCORE_ROW (R232). -/
  | scoreRow (w : WellNo) (p : Pkt)
  /-- SCORE_LOGITS (R109). -/
  | scoreLogits (w : WellNo) (p : Pkt)
  /-- LEDGER_WRITE (R238). -/
  | ledgerWrite (w : WellNo) (p : Pkt)
  /-- LEDGER_READ (R238). -/
  | ledgerRead (w : WellNo) (p : Pkt)
  /-- LEDGER_DATA (R238). -/
  | ledgerData (w : WellNo) (p : Pkt)
  /-- WELL_REPORT (R238). -/
  | wellReport (w : WellNo) (p : Pkt)
  /-- HOST_COMMAND (R240). -/
  | hostCommand (w : WellNo) (cmd : HostCmd)
  /-- HOST_REFRESH (R242). -/
  | hostRefresh (w : WellNo) (ch : Nat) (bank : Nat)
  /-- REFRESH_TAKEOVER (R242): `late` is the channel no refresh reached in time, none when the host is masked. -/
  | refreshTakeover (w : WellNo) (late : Option Nat)
  /-- PCAP_WINDOW_END (R244). -/
  | pcapWindowEnd (w : WellNo)
  /-- PCAP_REACHED (R244). -/
  | pcapReached (w : WellNo)
  /-- PRSNT_INSERT (R316). -/
  | prsntInsert (port : Port)
  /-- PRSNT_REMOVE (R316). -/
  | prsntRemove (port : Port)
  /-- ATTN_PRESS (R320). -/
  | attnPress (port : Port)
  /-- REMOVAL_WINDOW_CLOSE (R320). -/
  | removalWindowClose (port : Port)
  /-- REMOVE_REQUEST (R320). -/
  | removeRequest (x : RemoveSet)
  /-- REMOVE_AGREE (R320). -/
  | removeAgree (x : RemoveSet)
  /-- REMOVE_REFUSE (R320). -/
  | removeRefuse (x : RemoveSet)
  /-- REMOVE_CANCEL (R320). -/
  | removeCancel (x : RemoveSet)
  /-- REMOVE_DONE (R320). -/
  | removeDone (x : RemoveSet)
  /-- REMOVE_SILENCE (R320). -/
  | removeSilence (port : Port)
  /-- REMOVE_DRAINED (R320). -/
  | removeDrained (port : Port)
  /-- FORCE_SAFE (R321). -/
  | forceSafe (port : Port) (v : Word)
  /-- LINK_RESTART (R307). -/
  | linkRestart (port : Port) (v : Word)
  /-- PHY_LOCK (R307). -/
  | phyLock (port : Port) (lanes : Byte) (sameFar : Bool)
  /-- TRAIN_TIMEOUT (R307). -/
  | trainTimeout (port : Port)
  /-- LOSS_OF_LOCK (R307). -/
  | lossOfLock (port : Port)
  /-- UNC_CODEWORD_LIMIT (R307). -/
  | uncCodewordLimit (port : Port) (n : Nat)
  /-- BEACON (R308). -/
  | beacon (port : Port) (payload : BitVec 192) (t : Nat)
  /-- BEACON_SEND (R305). -/
  | beaconSend (port : Port)
  /-- BEACON_ABSENCE (R323). -/
  | beaconAbsence (d : Chip)
  /-- ABSENT_SET (R323). -/
  | absentSet (port : Port) (payload : BitVec 192)
  /-- SVC_ABSENT_CLEAR (R324). -/
  | svcAbsentClear (hi : Bool) (v : Word)
  /-- SVC_LEAVE (R322). -/
  | svcLeave (v : Word)
  /-- SVC_ID_LOCK (R313). -/
  | svcIdLock (v : Word)
  /-- SVC_BYP_CTRL_WRITE (R313). -/
  | svcBypCtrlWrite (v : Word)
  /-- BYPASS_HOLD_RELEASE (R314). -/
  | bypassHoldRelease
  /-- CAL_START (R367). -/
  | calStart (port : Port) (t : Nat)
  /-- CAL_REQ (R305). -/
  | calReq (port : Port) (payload : BitVec 192) (t2 : Nat) (t3 : Nat)
  /-- CAL_RSP (R305). -/
  | calRsp (port : Port) (payload : BitVec 192) (t4 : Nat)
  /-- CAL_LOST (R367). -/
  | calLost (port : Port)
  /-- EQ_ADAPTATION (R368). -/
  | eqAdaptation
  /-- WELL_LINK_RECAL (R368). -/
  | wellLinkRecal
  /-- DRAM_SCRUB (R369). -/
  | dramScrub (w : WellNo) (addr : Nat) (found : List (Nat × BitVec 80))
  /-- SRAM_SCRUB (R370): `read` is the memory and the 80 bits read at `addr` of it. -/
  | sramScrub (part : Nat) (addr : Nat) (read : MemOf × BitVec 80)
  /-- TEMP_SAMPLE (R371). -/
  | tempSample (readings : List (Option Int))
  /-- RDM_TRIGGER (R373). -/
  | rdmTrigger (w : WellNo) (ch : Nat) (bank : Nat) (row : Nat)
  /-- RDM_WINDOW_END (R373). -/
  | rdmWindowEnd (w : WellNo)
  /-- TELEMETRY_SAMPLE (R377). -/
  | telemetrySample (main : Nat) (bkup : Nat) (hubA : Nat) (hubB : Nat) (temps : List (Option Int))
  /-- NVM_ERASE (R375). -/
  | nvmErase
  /-- AON_RESET (R350). -/
  | aonReset (side : Side)
  /-- HUB_RESET (R350). -/
  | hubReset (side : Side)
  /-- SELF_TEST_DONE (R16). -/
  | selfTestDone (side : Side) (pass : Bool)
  /-- WEL_RESET (R350). -/
  | welReset (w : WellNo)
  /-- CFG_RESET (R350). -/
  | cfgReset (side : Side)
  /-- WELL_LINK_TRAINED (R4). -/
  | wellLinkTrained (w : WellNo)
  /-- WELL_LINK_RETRAIN (R345). -/
  | wellLinkRetrain (w : WellNo) (lanes : Nat)
  /-- WELL_LINK_DOWN (R345). -/
  | wellLinkDown (w : WellNo) (noLane : Bool)
  /-- CONFIG_ACCESS (R341). -/
  | configAccess (side : Side) (wr : Bool) (off : Nat) (v : Word)
  /-- SIDEBAND_TIMEOUT (R341). -/
  | sidebandTimeout (side : Side)
  /-- REGISTER_WRITE (R7). -/
  | registerWrite (off : Nat) (v : Word)
  /-- VAON_SOURCE_CHANGE (R359). -/
  | vaonSourceChange (side : Side) (toBkup : Bool) (mv : Nat) (t : Nat)
  /-- VDD_HUB_LOSS (R360). -/
  | vddHubLoss (side : Side) (mv : Nat)
  /-- VDD_WEL_LOSS (R19). -/
  | vddWelLoss (w : WellNo)
  /-- LEAD_HEATH_LOSS (R18). -/
  | leadHeathLoss
  /-- RESIDUE_FAILURE (R385). -/
  | residueFailure (part : Nat) (engine : Nat) (cell : Nat)
  /-- ENGINE_RELEASE (R386). -/
  | engineRelease (part : Nat) (v : Word) (pass : BitVec 16)
  /-- UNCORRECTABLE_WORD (R387). -/
  | uncorrectableWord (u : WordRead)
  /-- MASTER_RELEASE (R396). -/
  | masterRelease (m : Master)
  /-- CORE_WATCHDOG_EXPIRY (R401). -/
  | coreWatchdogExpiry (side : Side)
  /-- MIRROR_TAKEOVER (R403). -/
  | mirrorTakeover (t : Nat)
  /-- MIR_BEAT_SEND (R400). -/
  | mirBeatSend (side : Side)
  /-- MIR_BEAT_LOSS (R402). -/
  | mirBeatLoss (side : Side)
  /-- MIR_UPDATE (R399). -/
  | mirUpdate
  /-- MIR_ACK (R399). -/
  | mirAck (useq : Word)
  /-- MIR_FETCH (R391). -/
  | mirFetch (side : Side) (space : Nat) (off : Nat)
  /-- MIR_DATA (R391). -/
  | mirData (side : Side) (space : Nat) (off : Nat) (bad : Bool) (bytes : List Byte)
  /-- MIR_SYNC (R407). -/
  | mirSync (done : Bool) (t : Nat)
  /-- SWAP (R405). -/
  | swap (t : Nat)
  /-- REJOIN (R406). -/
  | rejoin
  /-- SYNC (R407). -/
  | sync (t : Nat)
  /-- MIRROR_DISABLE (R407). -/
  | mirrorDisable
  /-- DEBUG_HOLD_TIMEOUT (R394). -/
  | debugHoldTimeout
  /-- TOKEN_REFILL (R415). -/
  | tokenRefill
  /-- TRICKLE_FLUSH (R418). -/
  | trickleFlush (t : Nat)
  /-- EVR_FLUSH (R418). -/
  | evrFlush
  /-- PAGE_PROGRAM_DONE (R419). -/
  | pageProgramDone (ok : Bool)
  /-- EVR_CLEAR (R422). -/
  | evrClear
  /-- NV_ERASE (R422). -/
  | nvErase
  /-- EVR_CURSOR_LOAD (R420). -/
  | evrCursorLoad (v : Word)
  /-- NV_READ_DONE (R420). -/
  | nvReadDone (bytes : List Byte)
  /-- WIN15_AUTOINC (R420). -/
  | win15Autoinc
  /-- EVR_TRIG (R423). -/
  | evrTrig (v : Word)
  /-- RECORDER_START (R419). -/
  | recorderStart (dev : Option NvDevice)
  /-- IDCODE (R355). -/
  | idcode (side : Side)
  /-- REGACC (R355). -/
  | regacc (side : Side) (wr : Bool) (off : Nat) (v : Word)
  /-- ARBHOLD_TAKE (R439). -/
  | arbholdTake (t : Nat)
  /-- ARBHOLD_RELEASE (R439). -/
  | arbholdRelease (t : Nat)
  /-- TAP_BYPASS (R355). -/
  | tapBypass (side : Side) (code : Byte)
  /-- DBG_TRST (R351). -/
  | dbgTrst (side : Side) (rst : Bool) (en : Bool) (t : Nat)
  /-- CST_ENABLE (R164). -/
  | cstEnable (v : Word)
  /-- VAON_LOSS (R359). -/
  | vaonLoss (side : Side)
  /-- HP_RST_RELEASE (R352). -/
  | hpRstRelease (slice : Nat)
  /-- SLAVE_DECODE_ERROR (R335). -/
  | slaveDecodeError (slice : Nat) (op : Nat) (off : Nat)
  /-- CONTROL_CORE_ACCESS_VIOLATION (R394). -/
  | controlCoreAccessViolation (side : Side) (off : Nat)
  deriving DecidableEq, Repr

end Sys2Proof
end

