-- ==== Sys2Proof/Decode.lean ====
section
/-!
DEFINITION. The decoder over the spec's table of operations and events. The table gives no row any bits: a command of this
block arrives as an event with what it carries, and no word spells one.
-/

namespace Sys2Proof

/-- The command that a word spells by the bits the table gives its rows. Every row of the table has no bits (its
`fields` are empty), so no word spells a command. -/
def decodeTableWord (_nbits _w : Nat) : Option Instr := none

end Sys2Proof
end

