-- ==== Sys2Proof/Machine/Bits.lean ====
section
/-!
DEFINITION. Bit fields, byte order (R6), CRC-32C (R6), sparse maps in canonical form, and packet headers (R187).
-/

namespace Sys2Proof.Machine

open Sys2Proof

/-! ### Bit fields -/

/-- Bits [lo + len - 1 : lo] of a number. -/
def bitsOf (n lo len : Nat) : Nat := (n >>> lo) % 2 ^ len

/-- Bit `i` of a number, as 0 or 1. -/
def bitNat (b : Bool) : Nat := if b then 1 else 0

/-- The value of a field in its register word. -/
def Fld.get (f : Fld) (w : Word) : Nat := (w >>> f.lo).toNat % 2 ^ f.len

/-- The ones of a field. -/
def Fld.ones (f : Fld) : Word := BitVec.ofNat 32 (2 ^ f.len - 1) <<< f.lo

/-- A register word with one field replaced. -/
def Fld.put (f : Fld) (w : Word) (v : Nat) : Word :=
  (w &&& ~~~f.ones) ||| (BitVec.ofNat 32 (v % 2 ^ f.len) <<< f.lo)

/-- The numbers of the bits set in a mask, ascending, below `n`. -/
def bitsSet (n mask : Nat) : List Nat := (List.range n).filter fun i => mask.testBit i

/-- The mask with the bits of a list set. -/
def maskOf (l : List Nat) : Nat := l.foldl (fun m i => m ||| 2 ^ i) 0

/-- `a` is later than `b` in the order of R13. -/
def seqLater (a b : Word) : Bool :=
  let d := (a - b).toNat
  decide (1 ≤ d ∧ d ≤ 2 ^ 31 - 1)

/-! ### Byte order (R6: little-endian everywhere) -/

/-- A number as `n` bytes, least significant first. -/
def toBytes : Nat → Nat → List Byte
  | 0, _ => []
  | n + 1, v => BitVec.ofNat 8 v :: toBytes n (v / 256)

/-- The number that bytes spell, least significant first. -/
def ofBytes : List Byte → Nat
  | [] => 0
  | b :: bs => b.toNat + 256 * ofBytes bs

/-- `len` bytes from `off`, zeros where there are none. -/
def slice (bs : List Byte) (off len : Nat) : List Byte :=
  let t := (bs.drop off).take len
  t ++ List.replicate (len - t.length) 0

/-- A list of bytes brought to exactly `n` bytes with zeros at its end. -/
def padTo (n : Nat) (bs : List Byte) : List Byte := slice bs 0 n

/-! ### CRC-32C (R6) -/

/-- One bit of the reflected Castagnoli division. -/
def crcBit (c : Nat) : Nat := if c % 2 = 1 then (c / 2) ^^^ 0x82F63B78 else c / 2

/-- One byte of CRC-32C. -/
def crcByte (c : Nat) (b : Byte) : Nat :=
  let x := c ^^^ b.toNat
  crcBit (crcBit (crcBit (crcBit (crcBit (crcBit (crcBit (crcBit x)))))))

/-- CRC-32C of a list of bytes. -/
def crc32c (bs : List Byte) : Word :=
  BitVec.ofNat 32 ((bs.foldl crcByte 0xFFFFFFFF) ^^^ 0xFFFFFFFF)

/-! ### Sparse maps -/

/-- The value at a key: the entry's, or the default where nothing is listed. -/
def sget {α : Type} (d : Nat → α) : List (Nat × α) → Nat → α
  | [], k => d k
  | (a, v) :: t, k => if a = k then v else sget d t k

/-- Insert an entry in front of the first larger key. -/
def sins {α : Type} (k : Nat) (v : α) : List (Nat × α) → List (Nat × α)
  | [] => [(k, v)]
  | (a, x) :: t => if k < a then (k, v) :: (a, x) :: t else (a, x) :: sins k v t

/-- Write a value at a key, keeping the canonical form: the default is never listed. -/
def sput {α : Type} [DecidableEq α] (d : Nat → α) (m : List (Nat × α)) (k : Nat) (v : α) : List (Nat × α) :=
  let t := m.filter fun e => decide (e.1 ≠ k)
  if v = d k then t else sins k v t

/-- Keys strictly rising and no entry equal to the default. -/
def swf {α : Type} [DecidableEq α] (d : Nat → α) (m : List (Nat × α)) : Bool :=
  decide (m.Pairwise fun a b => a.1 < b.1) && m.all fun e => decide (e.2 ≠ d e.1)

/-- `len` bytes of a memory from an address. -/
def mread (d : Nat → Byte) (m : List (Nat × Byte)) (a : Nat) : Nat → List Byte
  | 0 => []
  | n + 1 => sget d m a :: mread d m (a + 1) n

/-- Write bytes at ascending addresses. -/
def mwrite (d : Nat → Byte) (m : List (Nat × Byte)) (a : Nat) : List Byte → List (Nat × Byte)
  | [] => m
  | b :: bs => mwrite d (sput d m a b) (a + 1) bs

/-! ### Packets (R187) -/

/-- PTYPE. -/
def ptypeOf (p : Pkt) : Nat := bitsOf p.w0.toNat 0 8
/-- CTX. -/
def ctxOf (p : Pkt) : Ctx := ⟨bitsOf p.w0.toNat 8 4, Nat.mod_lt _ (by decide)⟩
/-- ATT. -/
def attOf (p : Pkt) : Nat := bitsOf p.w0.toNat 12 3
/-- FMT: BF16 payload. -/
def fmtOf (p : Pkt) : Bool := p.w0.getLsbD 15
/-- SRC_CHIP. -/
def srcOf (p : Pkt) : Chip := ⟨bitsOf p.w0.toNat 16 6, Nat.mod_lt _ (by decide)⟩
/-- DST_CHIP. -/
def dstOf (p : Pkt) : Chip := ⟨bitsOf p.w0.toNat 22 6, Nat.mod_lt _ (by decide)⟩
/-- AXIS. -/
def axisOf (p : Pkt) : Nat := bitsOf p.w0.toNat 28 2
/-- SEQ. -/
def seqOf (p : Pkt) : Word := BitVec.ofNat 32 (p.w0.toNat >>> 32)

/-- Word 0 of a header; AXIS starts at 3, none. -/
def mkW0 (ptype : Nat) (c : Ctx) (att : Nat) (fmt : Bool) (src dst : Nat) (seq : Word) : DWord :=
  BitVec.ofNat 64 (ptype % 256 + c.val * 2 ^ 8 + (att % 8) * 2 ^ 12 + bitNat fmt * 2 ^ 15 + (src % 64) * 2 ^ 16 +
    (dst % 64) * 2 ^ 22 + 3 * 2 ^ 28 + seq.toNat * 2 ^ 32)

/-- A header with another AXIS (R185). -/
def setAxis (p : Pkt) (axis : Nat) : Pkt :=
  { p with w0 := (p.w0 &&& ~~~(3#64 <<< 28)) ||| (BitVec.ofNat 64 (axis % 4) <<< 28) }

/-- The 32 header bytes. -/
def headBytes (p : Pkt) : List Byte :=
  toBytes 8 p.w0.toNat ++ toBytes 8 p.w1.toNat ++ toBytes 8 p.w2.toNat ++ toBytes 8 p.w3.toNat

/-- The packet that header and payload bytes spell. -/
def pktOfBytes (bs : List Byte) : Pkt :=
  { w0 := BitVec.ofNat 64 (ofBytes (slice bs 0 8)), w1 := BitVec.ofNat 64 (ofBytes (slice bs 8 8)),
    w2 := BitVec.ofNat 64 (ofBytes (slice bs 16 8)), w3 := BitVec.ofNat 64 (ofBytes (slice bs 24 8)),
    body := bs.drop 32 }

/-- The virtual channel of a packet type (R187); none for a reserved type, and for the Hub-Well work of Well links. -/
def vcOf (ptype : Nat) : Option (List Nat) :=
  if ptype = 0x01 ∨ ptype = 0x02 then some [0]
  else if ptype = 0x03 ∨ ptype = 0x04 then some [1]
  else if ptype = 0x05 ∨ (0x08 ≤ ptype ∧ ptype ≤ 0x0B) then some [3]
  else if ptype = 0x10 then some [2]
  else if 0x11 ≤ ptype ∧ ptype ≤ 0x16 then some [3]
  else if 0x20 ≤ ptype ∧ ptype ≤ 0x25 then some [3]
  else none

/-- The bodies of the flits a packet is cut into: an EOD fills its first flit with entries (R191), every other packet
sends its payload in the flits after the first (R188). -/
def chunks264 : Nat → List Byte → List (List Byte)
  | 0, _ => []
  | n + 1, bs => if bs = [] then [] else padTo 264 (bs.take 264) :: chunks264 n (bs.drop 264)

/-- Flit bodies of a packet. -/
def flitBodies (p : Pkt) : List (List Byte) :=
  if ptypeOf p = 0x05 then chunks264 (p.body.length + 1) (headBytes p ++ p.body)
  else padTo 264 (headBytes p) :: chunks264 (p.body.length + 1) p.body

/-- The packet that a run of flit bodies, SOP to EOP, carries. -/
def pktOfBodies (bs : List (List Byte)) : Pkt :=
  match bs with
  | [] => pktOfBytes []
  | f :: rest =>
    let h := pktOfBytes f
    if ptypeOf h = 0x05 then { h with body := f.drop 32 ++ rest.flatten } else { h with body := rest.flatten }

end Sys2Proof.Machine
end

