-- ==== Sys2Proof/Machine/Ecc.lean ====
section
/-!
DEFINITION. The DEC-TED code of every protected word (R380) and what a reader makes of a word (R381).
-/

namespace Sys2Proof.Machine

open Sys2Proof

/-! ### The code (R380) -/

/-- The XOR of the first n values of a function. -/
def xorSum (f : Nat → Nat) : Nat → Nat
  | 0 => 0
  | n + 1 => xorSum f n ^^^ f n

/-- α^n in GF(2^7), α a root of x^7 + x^3 + 1, as its coefficients (R380). -/
def alpha : Nat → Nat
  | 0 => 1
  | n + 1 => let a := 2 * alpha n; if a < 128 then a else a ^^^ 0x89

/-- The bit of a stored word that is position j of the code: C for j below 14, then DATA (R380). -/
def codeBit (j : Nat) : Nat := if j < 14 then 64 + j else j - 14

/-- The syndrome Σ c_j α^(k j) of a word (R380, R381). -/
def syndrome (k : Nat) (w : BitVec 80) : Nat := xorSum (fun j => if w.getLsbD (codeBit j) then alpha (k * j) else 0) 78

/-- The XOR of the first n bits of a number. -/
def parity (n v : Nat) : Nat := xorSum (fun i => bitNat (v.testBit i)) n

/-- x^(14 + i) modulo the generator of the code: the product x^14 + x^9 + x^8 + x^6 + x^5 + x^4 + x^2 + x + 1 of the minimal polynomials of
α and α^3. -/
def checkTerm : Nat → Nat
  | 0 => 0x377
  | i + 1 => let r := 2 * checkTerm i; if r < 16384 then r else r ^^^ 0x4377

/-- The fourteen check bits C, with which Σ c_j α^j and Σ c_j α^3j are 0 (R380). -/
def checkBits (d : BitVec 64) : Nat := xorSum (fun i => if d.getLsbD i then checkTerm i else 0) 64

/-- The stored word of 64 data bits at a word address: DATA, C, P, A (R380). -/
def encodeWord (d : BitVec 64) (addr : Nat) : BitVec 80 :=
  let v := d.toNat + checkBits d * 2 ^ 64 + parity 64 addr * 2 ^ 79
  BitVec.ofNat 80 (v + parity 80 v * 2 ^ 78)

/-! ### A read (R381) -/

/-- The erroneous positions, at most two, that a pair of syndromes shows; none: no such pattern exists. -/
def locate (s1 s3 : Nat) : Option (List Nat) :=
  let tbl := (List.range 78).map fun j => (j, alpha j, alpha (3 * j))
  if s1 = 0 ∧ s3 = 0 then some []
  else match tbl.find? fun a => a.2.1 == s1 && a.2.2 == s3 with
    | some a => some [a.1]
    | none =>
      let pairs := (tbl.map fun a => (tbl.filter fun b => decide (b.1 < a.1)).map fun b => (a, b)).flatten
      (pairs.find? fun x => (x.1.2.1 ^^^ x.2.2.1) == s1 && (x.1.2.2 ^^^ x.2.2.2) == s3).map fun x => [x.2.1, x.1.1]

/-- What a reader finds of a word: clean, corrected to a word, uncorrectable, or written for another address. -/
inductive Verdict where
  | clean
  | corrected (w : BitVec 80)
  | uncorrectable
  | mismatch
  deriving DecidableEq, Repr

/-- A word with some of its bits turned. -/
def turnBits (w : BitVec 80) (l : List Nat) : BitVec 80 := l.foldl (fun (v : BitVec 80) (i : Nat) => v ^^^ BitVec.twoPow 80 i) w

/-- The decision table of R381 for a word as read and the address that was read. -/
def readWord (w : BitVec 80) (addr : Nat) : Verdict :=
  match locate (syndrome 1 w) (syndrome 3 w) with
  | none => .uncorrectable
  | some l =>
    let r := parity 80 w.toNat ^^^ (l.length % 2)
    let e := bitNat (w.getLsbD 79) ^^^ parity 64 addr
    let at_ := l.map codeBit
    if 2 < l.length + r then .uncorrectable
    else if r = 1 ∧ e = 1 then .corrected (turnBits w (at_ ++ [79]))
    else if r = 1 then .corrected (turnBits w (at_ ++ [78]))
    else if e = 1 then .mismatch
    else if l = [] then .clean
    else .corrected (turnBits w at_)

/-- The verdicts under which a word cannot be used (R381). -/
def Verdict.bad : Verdict → Bool
  | .uncorrectable | .mismatch => true
  | _ => false

/-- The data a reader delivers: corrected where it can be (R382), as stored otherwise (R383). -/
def deliverWord (w : BitVec 80) (addr : Nat) : BitVec 64 :=
  match readWord w addr with
  | .corrected v => v.truncate 64
  | _ => w.truncate 64

/-! ### Words of a memory

A memory keeps the bytes that its words were written with, and by byte address the words whose stored 80 bits are not the encoding of
those bytes, as the difference from it. -/

/-- Words in error: byte address, a multiple of 8, and the difference, never 0, in the canonical form of the sparse maps. -/
abbrev Flips := List (Nat × BitVec 80)

/-- A word that no entry names stands as it was written. -/
def noFlip (_ : Nat) : BitVec 80 := 0

/-- The stored word at a byte address. -/
def storedWord (m : List (Nat × Byte)) (dflt : Nat → Byte) (fl : Flips) (a : Nat) : BitVec 80 :=
  encodeWord (BitVec.ofNat 64 (ofBytes (mread dflt m a 8))) (a / 8) ^^^ sget noFlip fl a

/-- The words in error that a range of bytes touches. -/
def Flips.within (fl : Flips) (a n : Nat) : Flips := fl.filter fun x => decide (x.1 < a + n ∧ a < x.1 + 8)

/-- A write of bytes encodes the words it covers whole afresh (R383). -/
def Flips.written (fl : Flips) (a n : Nat) : Flips := fl.filter fun x => !decide (a ≤ x.1 ∧ x.1 + 8 ≤ a + n)

/-- A word is stored as given. -/
def Flips.put (fl : Flips) (m : List (Nat × Byte)) (dflt : Nat → Byte) (a : Nat) (w : BitVec 80) : Flips :=
  sput noFlip fl a (encodeWord (BitVec.ofNat 64 (ofBytes (mread dflt m a 8))) (a / 8) ^^^ w)

/-- The words of a range that read with a verdict. -/
def wordsThat (p : Verdict → Bool) (m : List (Nat × Byte)) (dflt : Nat → Byte) (fl : Flips) (a n : Nat) : List Nat :=
  ((fl.within a n).filter fun x => p (readWord (storedWord m dflt fl x.1) (x.1 / 8))).map (·.1)

/-- A corrected word. -/
def Verdict.fixed : Verdict → Bool
  | .corrected _ => true
  | _ => false

/-- Bytes as a reader delivers them: words in error corrected where they can be (R382). -/
def eccRead (m : List (Nat × Byte)) (dflt : Nat → Byte) (fl : Flips) (a n : Nat) : List Byte :=
  mread dflt ((fl.within a n).foldl (fun (v : List (Nat × Byte)) (x : Nat × BitVec 80) =>
    mwrite dflt v x.1 (toBytes 8 (deliverWord (storedWord m dflt fl x.1) (x.1 / 8)).toNat)) m) a n

end Sys2Proof.Machine
end

