-- ==== Sys2Proof/Config.lean ====
section
/-!
DEFINITION. The free values of the model: what the spec leaves open where the machine goes on. None has a body, so no proof
can see a value.
-/

namespace Sys2Proof.Config

/-- The thresholds of the free functions of the function units and of the noise source's unit, by function and place (log entries 9,
10). -/
opaque split : Nat → Nat → Nat

/-- Which of the values that R135 allows a function unit returns for an operand at which R136 orders nothing (log entry 9). -/
opaque fnPick : Nat → Nat → Nat

/-- The Wells in service on another chip, by chip and tick, as this chip knows them (log entry 23). -/
opaque peerWells : Nat → Nat → BitVec 24

/-- A fresh free word, by the counter `State.free` (log entry 4). -/
opaque freeWord : Nat → BitVec 32

/-- A fresh free byte, by the counter `State.free` (log entry 4). -/
opaque freeByte : Nat → BitVec 8

/-- A fresh free choice, by the counter `State.free` (log entry 4). -/
opaque freeNat : Nat → Nat

end Sys2Proof.Config
end

