-- ==== Sys2Proof/Machine/Fp.lean ====
section
/-!
DEFINITION. Floating-point arithmetic of the block: exact dyadic values, rounding to nearest even, the formats of R222, FP32
addition and multiplication (R133, R134), the special functions (R135-R137) and the conversions of R138, R189, R190, R227.
-/

namespace Sys2Proof.Machine

open Sys2Proof

/-- A decoded number: NaN, an infinity, or the exact value (-1)^neg × m × 2^e. -/
inductive FV where
  | nan
  | inf (neg : Bool)
  | fin (neg : Bool) (m : Nat) (e : Int)
  deriving DecidableEq, Repr

/-- A binary interchange format: fraction bits, exponent bits. -/
structure Fmt where
  frac : Nat
  expo : Nat
  deriving DecidableEq, Repr

/-- Exponent bias. -/
def Fmt.bias (f : Fmt) : Int := 2 ^ (f.expo - 1) - 1

/-- FP32. -/
def fp32 : Fmt := ⟨23, 8⟩
/-- BF16. -/
def bf16 : Fmt := ⟨7, 8⟩
/-- FP8 E4M3. -/
def e4m3 : Fmt := ⟨3, 4⟩
/-- FP8 E5M2. -/
def e5m2 : Fmt := ⟨2, 5⟩
/-- FP6 E3M2. -/
def e3m2 : Fmt := ⟨2, 3⟩
/-- FP6 E2M3. -/
def e2m3 : Fmt := ⟨3, 2⟩
/-- FP4 E2M1. -/
def e2m1 : Fmt := ⟨1, 2⟩

/-- The exact value of an encoding that is neither an infinity nor a NaN. -/
def Fmt.value (f : Fmt) (n : Nat) : FV :=
  let frac := bitsOf n 0 f.frac
  let ex := bitsOf n f.frac f.expo
  let neg := n.testBit (f.frac + f.expo)
  if ex = 0 then .fin neg frac (1 - f.bias - f.frac)
  else .fin neg (2 ^ f.frac + frac) ((ex : Int) - f.bias - f.frac)

/-- Decode FP32. -/
def of32 (w : Word) : FV :=
  let n := w.toNat
  if bitsOf n 23 8 = 255 then (if bitsOf n 0 23 = 0 then .inf (n.testBit 31) else .nan) else fp32.value n

/-- Decode BF16. -/
def ofBf (n : Nat) : FV := of32 (BitVec.ofNat 32 (n % 65536 * 65536))

/-- Decode E4M3: 0x7F and 0xFF are NaN, and there is no infinity. -/
def ofE4m3 (n : Nat) : FV := if n % 128 = 127 then .nan else e4m3.value n

/-- Decode E5M2. -/
def ofE5m2 (n : Nat) : FV :=
  if bitsOf n 2 5 = 31 then (if bitsOf n 0 2 = 0 then .inf (n.testBit 7) else .nan) else e5m2.value n

/-- Scale by a power of two. -/
def FV.scale (v : FV) (k : Int) : FV :=
  match v with
  | .fin s m e => .fin s m (e + k)
  | x => x

/-- Round m × 2^e to a multiple of 2^q, to nearest, ties to even: the multiple. -/
def roundAt (m : Nat) (e q : Int) : Nat :=
  if q ≤ e then m * 2 ^ (e - q).toNat
  else
    let d := (q - e).toNat
    let lo := m / 2 ^ d
    let r := m % 2 ^ d
    let half := 2 ^ (d - 1)
    if r < half then lo else if r > half then lo + 1 else lo + lo % 2

/-- The place of the last kept bit of m × 2^e in a format. -/
def Fmt.place (f : Fmt) (m : Nat) (e : Int) : Int :=
  max (1 - f.bias - f.frac) (e + (Nat.log2 m : Int) - f.frac)

/-- The encoding of a finite value rounded to nearest even with an unbounded exponent field: exponent field and
fraction as one number, without the sign. -/
def Fmt.encode (f : Fmt) (m : Nat) (e : Int) : Nat :=
  if m = 0 then 0
  else
    let q := f.place m e
    let k := roundAt m e q
    -- k is below 2^(frac+1), or equal to it after a carry
    let biased := (q - (1 - f.bias - f.frac)).toNat
    if k < 2 ^ f.frac then k else biased * 2 ^ f.frac + k

/-- Round to FP32: overflow becomes an infinity (R133), every NaN canonical (R134). -/
def to32 (v : FV) : Word :=
  match v with
  | .nan => 0x7FC00000#32
  | .inf s => if s then 0xFF800000#32 else 0x7F800000#32
  | .fin s m e => BitVec.ofNat 32 (min (fp32.encode m e) 0x7F800000 + bitNat s * 2 ^ 31)

/-- Exact product. -/
def FV.mul (a b : FV) : FV :=
  match a, b with
  | .nan, _ => .nan
  | _, .nan => .nan
  | .inf s, .inf t => .inf (s ^^ t)
  | .inf s, .fin t m _ => if m = 0 then .nan else .inf (s ^^ t)
  | .fin t m _, .inf s => if m = 0 then .nan else .inf (s ^^ t)
  | .fin s m e, .fin t n f => .fin (s ^^ t) (m * n) (e + f)

/-- Exact sum. -/
def FV.add (a b : FV) : FV :=
  match a, b with
  | .nan, _ => .nan
  | _, .nan => .nan
  | .inf s, .inf t => if s = t then .inf s else .nan
  | .inf s, .fin .. => .inf s
  | .fin .., .inf s => .inf s
  | .fin s m e, .fin t n f =>
    let q := min e f
    let x : Int := (if s then -1 else 1) * (m * 2 ^ (e - q).toNat : Nat)
    let y : Int := (if t then -1 else 1) * (n * 2 ^ (f - q).toNat : Nat)
    if x + y = 0 then .fin (s && t) 0 q else .fin (decide (x + y < 0)) (x + y).natAbs q

/-- FP32 multiplication (R133). -/
def mul32 (a b : Word) : Word := to32 ((of32 a).mul (of32 b))

/-- FP32 addition (R133). -/
def add32 (a b : Word) : Word := to32 ((of32 a).add (of32 b))

/-- Negation. -/
def neg32 (a : Word) : Word := a ^^^ 0x80000000#32

/-- FP32 subtraction as an addition of the negated operand. -/
def sub32 (a b : Word) : Word := add32 a (neg32 b)

/-- 1.0 in FP32. -/
def one32 : Word := 0x3F800000#32

/-- The largest finite FP32 value with a sign. -/
def big32 (neg : Bool) : Word := if neg then 0xFF7FFFFF#32 else 0x7F7FFFFF#32

/-- Is an FP32 value a NaN? -/
def isNan32 (w : Word) : Bool := of32 w == .nan

/-- Is an FP32 value finite? -/
def isFin32 (w : Word) : Bool := match of32 w with | .fin .. => true | _ => false

/-- Is an FP32 value ±0? -/
def isZero32 (w : Word) : Bool := w == 0#32 || w == 0x80000000#32

/-- The value order of two numbers, -0.0 equal to +0.0; false where either is a NaN. -/
def lt32 (a b : Word) : Bool :=
  match of32 a, of32 b with
  | .nan, _ => false
  | _, .nan => false
  | .inf s, .inf t => s && !t
  | .inf s, .fin .. => s
  | .fin .., .inf t => !t
  | .fin s m e, .fin t n f =>
    let q := min e f
    let x : Int := (if s then -1 else 1) * (m * 2 ^ (e - q).toNat : Nat)
    let y : Int := (if t then -1 else 1) * (n * 2 ^ (f - q).toNat : Nat)
    decide (x < y)

/-- R114: does key `a` come before key `b` by value alone? NaN ranks below every number. -/
def keyBefore (a b : Word) : Bool := if isNan32 a then false else if isNan32 b then true else lt32 b a

/-! ### BF16 and FP8 outputs -/

/-- RN_out of R138: BF16 bits and whether a finite value saturated. -/
def toBf (w : Word) : Nat × Bool :=
  match of32 w with
  | .nan => (0x7FC0, false)
  | .inf s => (0x7F80 + bitNat s * 2 ^ 15, false)
  | .fin s m e =>
    let k := bf16.encode m e
    if k ≥ 0x7F80 then (0x7F7F + bitNat s * 2 ^ 15, true) else (k + bitNat s * 2 ^ 15, false)

/-- A BF16 value in FP32. -/
def bfTo32 (n : Nat) : Word := to32 (ofBf n)

/-- Round to BF16 without the clamp of R138: a value beyond the range becomes an infinity (R190). -/
def toBfInf (v : FV) : Nat :=
  match v with
  | .nan => 0x7FC0
  | .inf s => 0x7F80 + bitNat s * 2 ^ 15
  | .fin s m e => min (bf16.encode m e) 0x7F80 + bitNat s * 2 ^ 15

/-- to_fp8 of R227 (AFMT 1 E4M3, 2 E5M2): bits and whether the value saturated. -/
def toFp8 (afmt : Nat) (v : FV) : Nat × Bool :=
  let (f, big, nan) : Fmt × Nat × Nat := if afmt = 1 then (e4m3, 0x7E, 0x7F) else (e5m2, 0x7B, 0x7E)
  match v with
  | .nan => (nan, false)
  | .inf s => (big + bitNat s * 128, true)
  | .fin s m e =>
    -- beyond the largest finite value, before rounding
    let beyond := match (FV.fin false m e).add (match f.value big with
        | .fin _ bm be => .fin true bm be
        | x => x) with
      | .fin t n _ => !t && n != 0
      | _ => false
    if beyond then (big + bitNat s * 128, true) else (f.encode m e + bitNat s * 128, false)

/-! ### Special functions (R135, R136, R137) -/

/-- A positive rational n / d × 2^k truncated to FP32 bits, and whether the truncation was exact. -/
def trunc32 (n d : Nat) (k : Int) : Nat × Bool :=
  if n = 0 ∨ d = 0 then (0, true)
  else
    -- scale so that the quotient has at least 64 bits
    let sh := 64 + Nat.log2 d
    let q := n * 2 ^ sh / d
    let exact := n * 2 ^ sh % d == 0
    let e : Int := k - sh
    let p := fp32.place q e
    if p ≤ e then (fp32.encode q e, exact)
    else
      let dd := (p - e).toNat
      (fp32.encode (q / 2 ^ dd) p, exact && q % 2 ^ dd == 0)

/-- With the sign of the exact result. -/
def withSign (neg : Bool) (w : Word) : Word := if neg then w ||| 0x80000000#32 else w

/-- The result of a function and whether it saturated (R137). -/
abbrev FnRes := Word × Bool

/-- m × 2^e as a fraction, and that times n / d. -/
def timesFrac (m : Nat) (e : Int) (n d : Nat) : Nat × Nat :=
  if 0 ≤ e then (n * m * 2 ^ e.toNat, d) else (n * m, d * 2 ^ (-e).toNat)

/-- The number that a magnitude (31 bits of a finite FP32 word) encodes, as m and e. -/
def magParts (a : Nat) : Nat × Int :=
  match of32 (BitVec.ofNat 32 a) with
  | .fin _ m e => (m, e)
  | _ => (0, 0)

/-! #### A free function that never falls (log entries 9, 10)

Every function from keys to places that never falls is one of these: each half of a range of places begins at a threshold, a free
value between the keys that reach the range. -/

/-- The place, among the 2^n from `base`, at which the free function `id` stands for a key in [lo, hi]. -/
def climb (id : Nat) : Nat → Nat → Nat → Nat → Nat → Nat
  | 0, base, _, _, _ => base
  | n + 1, base, lo, hi, key =>
    let mid := base + 2 ^ n
    let t := lo + Config.split id mid % (hi + 2 - lo)
    if key < t then climb id n base lo (t - 1) key else climb id n mid t hi key

/-- A value brought into a window of places. -/
def within (lo hi p : Nat) : Nat := max lo (min hi p)

/-! #### Windows of the bounds of R135 -/

/-- How far a result may lie from the exact one: `b` ulp, an ulp being the spacing of FP32 numbers at the exact result, or an
absolute 2^-k. -/
inductive Bound where
  | ulp (b : Nat)
  | abs (k : Nat)
  deriving DecidableEq, Repr

/-- The magnitudes that a bound allows about an exact n / d: the least, the greatest, and the exact one truncated. -/
def Bound.window (b : Bound) (n d : Nat) : Nat × Nat × Nat :=
  let t := (trunc32 n d 0).1
  let x := max 1 (t / 2 ^ 23)
  let (en, ed) : Nat × Nat := match b with
    | .ulp b => if 150 ≤ x then (b * 2 ^ (x - 150), 1) else (b, 2 ^ (150 - x))
    | .abs k => (1, 2 ^ k)
  let lo := if n * ed ≤ en * d then 0 else
    let t := trunc32 (n * ed - en * d) (d * ed) 0
    if t.2 then t.1 else t.1 + 1
  (lo, min 0x7F7FFFFF (trunc32 (n * ed + en * d) (d * ed) 0).1, t)

/-- The least magnitude allowed at the last operand whose exact result lies below a power of two, of the operands before `a`. Where
more than `fuel` operands lie between, they lie so close that one of them comes within an ulp of the power. -/
def leastBelow (win : Nat → Nat × Nat × Nat) (before : Nat → Nat) (edge b : Nat) : Nat → Nat → Nat
  | 0, _ => edge - b
  | n + 1, a =>
    let w := win (before a)
    if w.2.2 < edge then w.1 else leastBelow win before edge b n (before a)

/-- The window of an operand of a function that rises along `before`: an ulp doubles at a power of two, and what is allowed just above
it must not lie below what is allowed just below it (R136). -/
def risingWindow (win : Nat → Nat × Nat × Nat) (before : Nat → Nat) (b : Bound) (a : Nat) : Nat × Nat :=
  let w := win a
  let edge := w.2.2 / 2 ^ 23 * 2 ^ 23
  match b with
  | .abs _ => (w.1, w.2.1)
  | .ulp k => if edge ≤ w.1 then (w.1, w.2.1) else (max w.1 (leastBelow win before edge k 64 a), w.2.1)

/-- The next smaller magnitude. -/
def smaller (a : Nat) : Nat := a - 1
/-- The next larger magnitude. -/
def larger (a : Nat) : Nat := a + 1

/-- The key of a function that falls with the magnitude of its operand. -/
def fallKey (a : Nat) : Nat := 0x7F800000 - a

/-- The free magnitude of a function with a key, in a window. -/
def freeMag (id key lo hi : Nat) : Word := BitVec.ofNat 32 (within lo hi (climb id 31 0 0 0x7F800000 key))

/-! #### rcp, rsqrt, exp -/

/-- What R135 allows for 1/x. -/
def rcpWin (a : Nat) : Nat × Nat × Nat :=
  let p := magParts a
  let r := timesFrac p.1 p.2 1 1
  (Bound.ulp 1).window r.2 r.1

/-- rcp: at most 1 ulp from 1/x, falling on either side of 0. -/
def rcp (x : Word) : FnRes :=
  match of32 x with
  | .nan => (0x7FC00000#32, false)
  | .inf s => (if s then 0x80000000#32 else 0, false)
  | .fin s m e =>
    let a := x.toNat % 2 ^ 31
    if m = 0 ∨ (trunc32 1 m (-e)).1 ≥ 0x7F800000 then (big32 s, true)
    -- where the exact result is 1, that value (R137)
    else if a = 0x3F800000 then (withSign s one32, false)
    else
      let w := risingWindow rcpWin larger (.ulp 1) a
      let w1 : Nat × Nat := if a < 0x3F800000 then (max 0x3F800000 w.1, w.2) else (w.1, min 0x3F800000 w.2)
      (withSign s (freeMag (bitNat s) (fallKey a) w1.1 w1.2), false)

/-- What R135 allows for 1/√x: 1/√(m 2^e) = √(2^200 / m') × 2^(-100 - e'/2) with e' even. -/
def rsqrtWin (a : Nat) : Nat × Nat × Nat :=
  let p := magParts a
  let (m', e') : Nat × Int := if p.2 % 2 = 0 then (p.1, p.2) else (2 * p.1, p.2 - 1)
  let r := timesFrac 1 (-100 - e' / 2) (Nat.sqrt (2 ^ 200 / max 1 m')) 1
  (Bound.ulp 2).window r.1 r.2

/-- rsqrt: at most 2 ulp from 1/√x, falling. -/
def rsqrt (x : Word) : FnRes :=
  match of32 x with
  | .nan => (0x7FC00000#32, false)
  | .inf s => (if s then 0x7FC00000#32 else 0, false)
  | .fin s m _ =>
    let a := x.toNat % 2 ^ 31
    if m = 0 then (big32 false, true)
    else if s then (0x7FC00000#32, false)
    -- the exact result rounds to 1 (R137)
    else if a = 0x3F800000 ∨ a = 0x3F7FFFFF then (one32, false)
    else
      let w := risingWindow rsqrtWin larger (.ulp 2) a
      let w1 : Nat × Nat := if a < 0x3F800000 then (max 0x3F800000 w.1, w.2) else (w.1, min 0x3F800000 w.2)
      (freeMag 2 (fallKey a) w1.1 w1.2, false)

/-- e^(n/2^128) × 2^128 for 0 ≤ n < 2^128 by its series, to far below an FP32 ulp. -/
def expFrac (n : Nat) : Nat :=
  let one := 2 ^ 128
  let t := (List.range 40).foldl (fun (acc : Nat × Nat) (i : Nat) =>
    let term := acc.2 * n / (one * (i + 1))
    (acc.1 + term, term)) (one, one)
  t.1

/-- ln 2 × 2^128. -/
def ln2Fixed : Nat := 235865763225513294137944142764154484399

/-- A magnitude m × 2^e in units of 2^-k, truncated. -/
def fixedAt (k m : Nat) (e : Int) : Nat := if 0 ≤ e + k then m * 2 ^ (e + k).toNat else m / 2 ^ (-(e + k)).toNat

/-- e^-x for x = a / 2^128 as a fraction (n, d), to far below an FP32 ulp. -/
def expNeg (a : Nat) : Nat × Nat :=
  let q := (a + ln2Fixed - 1) / ln2Fixed
  (expFrac (q * ln2Fixed - a), 2 ^ (q + 128))

/-- e^x for x = a / 2^128. -/
def expPos (a : Nat) : Nat × Nat := (expFrac (a % ln2Fixed) * 2 ^ (a / ln2Fixed), 2 ^ 128)

/-- The exact e^x for x = ± the magnitude. -/
def expExact (neg : Bool) (a : Nat) : Nat × Nat :=
  let p := magParts a
  if neg then expNeg (fixedAt 128 p.1 p.2) else expPos (fixedAt 128 p.1 p.2)

/-- What R135 allows for e^x. -/
def expWin (neg : Bool) (a : Nat) : Nat × Nat × Nat :=
  let r := expExact neg a
  (Bound.ulp 2).window r.1 r.2

/-- exp: at most 2 ulp, rising. -/
def expF (x : Word) : FnRes :=
  match of32 x with
  | .nan => (0x7FC00000#32, false)
  | .inf s => if s then (0, false) else (big32 false, true)
  | .fin s m e =>
    let a := x.toNat % 2 ^ 31
    if m = 0 then (one32, false)
    -- |x| at or above 128: beyond the range on either side
    else if e + (Nat.log2 m : Int) ≥ 7 then (if s then (0, false) else (big32 false, true))
    -- the exact result rounds to 1 (R137)
    else if e + (Nat.log2 m : Int) < (if s then -25 else -24) ∨
        (s ∧ e + (Nat.log2 m : Int) = -25 ∧ m = 2 ^ Nat.log2 m) then (one32, false)
    else
      let r := expExact s a
      if (trunc32 r.1 r.2 0).1 ≥ 0x7F800000 then (big32 false, true)
      -- an exact result below 2^-150 is +0.0 (R137)
      else if r.1 * 2 ^ 150 < r.2 then (0, false)
      else
        let w := risingWindow (expWin s) (if s then larger else smaller) (.ulp 2) a
        if s then (freeMag 4 (fallKey a) w.1 (min 0x3F800000 w.2), false) else (freeMag 3 a (max 0x3F800000 w.1) w.2, false)

/-- A finite word, infinities brought to the largest finite value (R137). -/
def clamp32 (w : Word) : FnRes :=
  match of32 w with
  | .inf s => (big32 s, true)
  | _ => (w, false)

/-! #### The noise source's unit (R118) -/

/-- ln (n / 2^128) × 2^128 for n > 0, by n = f × 2^k with 1 ≤ f < 2 and ln f = 2 artanh ((f - 1) / (f + 1)). -/
def lnFixed (n : Nat) : Int :=
  let k := Nat.log2 n
  let f := n * 2 ^ 128 / 2 ^ k
  let y := (f - 2 ^ 128) * 2 ^ 128 / (f + 2 ^ 128)
  let sum := (List.range 45).foldl (fun (acc : Nat × Nat) (i : Nat) =>
    (acc.1 + acc.2 / (2 * i + 1), acc.2 * y / 2 ^ 128 * y / 2 ^ 128)) (0, y)
  (2 * sum.1 : Nat) + ((k : Int) - 128) * ln2Fixed

/-- The exact Gumbel value of a 24-bit uniform, -ln (-ln u) with u = (m + 0.5) × 2^-24, in units of 2^-128 (R118). -/
def gumbelExact (m : BitVec 24) : Int := -lnFixed (-lnFixed ((2 * m.toNat + 1) * 2 ^ 103)).toNat

/-- The places, counted from 2^31 at zero in the order of the numbers, of the lowest FP32 number not below lo × 2^-128 and of the
highest not above hi × 2^-128. -/
def window32 (lo hi : Int) : Nat × Nat :=
  let tl := trunc32 lo.natAbs 1 (-128)
  let th := trunc32 hi.natAbs 1 (-128)
  (if 0 ≤ lo then 2 ^ 31 + (if tl.2 then tl.1 else tl.1 + 1) else 2 ^ 31 - tl.1,
   if 0 ≤ hi then 2 ^ 31 + th.1 else 2 ^ 31 - (if th.2 then th.1 else th.1 + 1))

/-- The FP32 word at a place of `window32`. -/
def atPlace (p : Nat) : Word := if 2 ^ 31 ≤ p then BitVec.ofNat 32 (p - 2 ^ 31) else BitVec.ofNat 32 (2 ^ 31 + (2 ^ 31 - p))

/-- The noise value of a 24-bit uniform: a free word within 2^-16 × max(1, |g|) of the exact g, non-decreasing in m (R118). -/
def gumbel (m : BitVec 24) : Word :=
  let g := gumbelExact m
  let err : Int := (max (2 ^ 128) g.natAbs / 2 ^ 16 : Nat)
  let w := window32 (g - err) (g + err)
  atPlace (within w.1 w.2 (climb 20 32 0 0 (2 ^ 24 - 1) m.toNat))

/-! #### sigmoid, tanh, SiLU, GELU

Where the form of R135 cannot fall (every part of it rising), that form is evaluated and brought within the bound. On the negative side
of sigmoid, SiLU and GELU it multiplies a rising by a falling value; there the result is any that R135 to R137 allow (log entry 9). -/

/-- An exact result rounds to zero: it is at most 2^-150. -/
def toZero (r : Nat × Nat) : Bool := decide (r.1 * 2 ^ 150 ≤ r.2)

/-- A composed value brought into the window of its bound. -/
def bounded (lo hi : Nat) (w : Word) : Word := BitVec.ofNat 32 (within lo hi (w.toNat % 2 ^ 31))

/-- The exact sigmoid of ± a magnitude. -/
def sigmoidExact (neg : Bool) (a : Nat) : Nat × Nat :=
  let p := magParts a
  let r := expNeg (fixedAt 128 p.1 p.2)
  (if neg then r.1 else r.2, r.2 + r.1)

/-- The bound of sigmoid and of SiLU for ± a magnitude: `b` ulp, and absolute below -80. -/
def tailBound (b : Nat) (neg : Bool) (a : Nat) : Bound := if neg && decide (0x42A00000 < a) then .abs 126 else .ulp b

/-- The window of a falling negative side whose bound is absolute for magnitudes above `far`: what is allowed there does not exceed what is
allowed at `far` (R136). -/
def tailWindow (exact : Nat → Nat × Nat) (b far a : Nat) : Nat × Nat :=
  let win (bd : Bound) (a : Nat) : Nat × Nat × Nat := let r := exact a; bd.window r.1 r.2
  if far < a then
    let w := win (.abs 126) a
    (w.1, min w.2.1 (win (.ulp b) far).2.1)
  else risingWindow (fun a => win (if far < a then .abs 126 else .ulp b) a) larger (.ulp b) a

/-- sigmoid: at most 3 ulp from the exact value, and below -80 at most 2^-126. -/
def sigmoid (x : Word) : FnRes :=
  match of32 x with
  | .nan => (0x7FC00000#32, false)
  | .inf s => (if s then 0 else one32, false)
  | .fin s m e =>
    let a := x.toNat % 2 ^ 31
    if m = 0 then (0x3F000000#32, false)
    else if s then
      if e + (Nat.log2 m : Int) ≥ 7 ∨ toZero (sigmoidExact true a) then (0, false)
      else
        let w := tailWindow (sigmoidExact true) 3 0x42A00000 a
        (freeMag 5 (fallKey a) w.1 (min 0x3F000000 w.2), false)
    else
      let v := (rcp (add32 one32 (expF (neg32 x)).1)).1
      if e + (Nat.log2 m : Int) ≥ 7 then (v, false)
      else
        let r := sigmoidExact false a
        let w := (Bound.ulp 3).window r.1 r.2
        (bounded (max 0x3F000000 w.1) (min 0x3F800000 w.2.1) v, false)

/-- The exact tanh of a magnitude. -/
def tanhExact (a : Nat) : Nat × Nat :=
  let p := magParts a
  let r := expNeg (2 * fixedAt 128 p.1 p.2)
  (r.2 - r.1, r.2 + r.1)

/-- What R135 allows for tanh. -/
def tanhWin (a : Nat) : Nat × Nat × Nat :=
  let r := tanhExact a
  (if a < 0x3F000000 then Bound.abs 23 else Bound.ulp 3).window r.1 r.2

/-- tanh: the operand itself below 2^-12, else composed as R135 shows; at most 3 ulp from the exact value, and at most 2^-23 where
|x| < 0.5. -/
def tanhF (x : Word) : FnRes :=
  match of32 x with
  | .nan => (0x7FC00000#32, false)
  | .inf s => (withSign s one32, false)
  | .fin s m e =>
    if m = 0 ∨ e + (Nat.log2 m : Int) < -12 then (x, false)
    else
      let a := x.toNat % 2 ^ 31
      let ex := (expF (neg32 (mul32 0x40000000#32 (BitVec.ofNat 32 a)))).1
      let v := mul32 (sub32 one32 ex) (rcp (add32 one32 ex)).1
      if e + (Nat.log2 m : Int) ≥ 7 then (withSign s v, false)
      else if a < 0x3F000000 then
        let w := tanhWin a
        (withSign s (bounded (max 0x397FFFFF w.1) (min (tanhWin 0x3F000000).2.1 w.2.1) v), false)
      else
        let w := risingWindow tanhWin smaller (.ulp 3) a
        (withSign s (bounded w.1 (min 0x3F800000 w.2) v), false)

/-- The magnitude of a function on the negative side that rises with |x| up to `top`, falls from `low` on, and is only bounded between the
two (R136). `id` and `id + 1` are its free functions. -/
def hump (exact : Nat → Nat × Nat) (id b far top low a : Nat) : Word :=
  let win (a : Nat) : Nat × Nat × Nat := let r := exact a; (Bound.ulp b).window r.1 r.2
  if a ≤ top then
    let w := risingWindow win smaller (.ulp b) a
    freeMag id a w.1 w.2
  else if a < low then
    let w := win a
    BitVec.ofNat 32 (w.1 + Config.fnPick id a % (w.2.1 + 1 - w.1))
  else
    let w := tailWindow exact b far a
    freeMag (id + 1) (fallKey a) w.1 w.2

/-- The exact magnitude of x × sigmoid(x). -/
def siluExact (neg : Bool) (a : Nat) : Nat × Nat :=
  let p := magParts a
  let r := sigmoidExact neg a
  timesFrac p.1 p.2 r.1 r.2

/-- SiLU: x × sigmoid(x), at most 4 ulp from the exact value, and below -80 at most 2^-126. -/
def silu (x : Word) : FnRes :=
  match of32 x with
  | .nan => (0x7FC00000#32, false)
  | .inf s => if s then (0x80000000#32, false) else (big32 false, true)
  | .fin s m e =>
    let a := x.toNat % 2 ^ 31
    if m = 0 then (x, false)
    else if s then
      if e + (Nat.log2 m : Int) ≥ 7 ∨ toZero (siluExact true a) then (0x80000000#32, false)
      else (withSign true (hump (siluExact true) 6 4 0x42A00000 0x3FA30000 0x3FA40000 a), false)
    else
      let v := mul32 x (sigmoid x).1
      if e + (Nat.log2 m : Int) ≥ 7 then (v, false)
      else
        let w := risingWindow (fun a => let r := siluExact false a; (Bound.ulp 4).window r.1 r.2) smaller (.ulp 4) a
        (bounded w.1 w.2 v, false)

/-- √(2/π) × 2^160. -/
def geluFixed : Nat := 1166109592014436081468383460887399764390691815008

/-- The exact magnitude of GELU in tanh form, x × sigmoid(2u), u = √(2/π) × (x + 0.044715 x³), with the real constants. -/
def geluExact (neg : Bool) (a : Nat) : Nat × Nat :=
  let p := magParts a
  let y := fixedAt 160 p.1 p.2
  let r := expNeg (2 * geluFixed * (y + y * y / 2 ^ 160 * y / 2 ^ 160 * 44715 / 1000000) / 2 ^ 192)
  timesFrac p.1 p.2 (if neg then r.1 else r.2) (r.2 + r.1)

/-- 2u of GELU and of its derivative (R135, R235), each intermediate rounded. -/
def geluArg (x : Word) : Word :=
  mul32 0x40000000#32 (mul32 0x3F4C422A#32 (add32 x (mul32 0x3D372713#32 (mul32 (mul32 x x) x))))

/-- GELU, tanh form: at most 5 ulp from the exact value, and below -10 at most 2^-126. -/
def gelu (x : Word) : FnRes :=
  match of32 x with
  | .nan => (0x7FC00000#32, false)
  | .inf s => if s then (0x80000000#32, false) else (big32 false, true)
  | .fin s m e =>
    let a := x.toNat % 2 ^ 31
    if m = 0 then (x, false)
    else if s then
      if e + (Nat.log2 m : Int) ≥ 5 ∨ toZero (geluExact true a) then (0x80000000#32, false)
      else (withSign true (hump (geluExact true) 8 5 0x41200000 0x3F400000 0x3F410000 a), false)
    else
      let v := mul32 x (sigmoid (geluArg x)).1
      if e + (Nat.log2 m : Int) ≥ 4 then (v, false)
      else
        let w := risingWindow (fun a => let r := geluExact false a; (Bound.ulp 5).window r.1 r.2) smaller (.ulp 5) a
        (bounded w.1 w.2 v, false)

/-- The activation of a code of R139; codes 6 and 7 never reach it. -/
def actFn (code : Nat) (x : Word) : FnRes :=
  match code with
  | 1 => silu x
  | 2 => gelu x
  | 3 => sigmoid x
  | 4 => tanhF x
  | 5 => expF x
  | _ => (x, false)

/-- The fused form of R138 with FP32 output, and its saturations. -/
def fused (x b s : Word) (act : Nat) : Word × Nat :=
  let a := actFn act (add32 x b)
  (mul32 a.1 s, bitNat a.2)

/-- The derivative of R235, each intermediate rounded, from left to right, and whether its function saturated (R137). -/
def actDeriv (code : Nat) (x : Word) : FnRes :=
  match code with
  | 1 =>
    let g := (sigmoid x).1
    (mul32 g (add32 one32 (mul32 x (sub32 one32 g))), false)
  | 2 =>
    let t := (sigmoid (geluArg x)).1
    let d := mul32 0x3FCC422A#32 (add32 one32 (mul32 0x3E095D4F#32 (mul32 x x)))
    (add32 t (mul32 (mul32 x (mul32 t (sub32 one32 t))) d), false)
  | 3 =>
    let g := (sigmoid x).1
    (mul32 g (sub32 one32 g), false)
  | 4 =>
    let t := (tanhF x).1
    (sub32 one32 (mul32 t t), false)
  | 5 => expF x
  | _ => (one32, false)

/-! ### Sums in the order of R110 -/

/-- One level of the balanced tree: pairs (2i, 2i + 1). -/
def treeLevel : List Word → List Word
  | a :: b :: rest => add32 a b :: treeLevel rest
  | l => l

/-- The balanced tree of a chunk of at most 256 terms. -/
def treeSum (l : List Word) : Word := ((List.range 8).foldl (fun x _ => treeLevel x) l).headD 0

/-- Chunks of 256. -/
def chunksOf (n : Nat) : Nat → List Word → List (List Word)
  | 0, _ => []
  | k + 1, l => if l = [] then [] else l.take n :: chunksOf n k (l.drop n)

/-- Steps 2 and 3 of R110: chunk sums added in ascending order from +0.0. -/
def chunkedSum (l : List Word) : Word :=
  (chunksOf 256 (l.length + 1) l).foldl (fun acc c => add32 acc (treeSum c)) 0

/-- A dot product: exact FP32 products (rounded only outside the range), summed in the order of R110. -/
def dot (ws xs : List FV) : Word := chunkedSum ((ws.zip xs).map fun p => to32 (p.1.mul p.2))

/-- A sum in list order from +0.0. -/
def sumFrom0 (l : List Word) : Word := l.foldl add32 0

/-! ### Rows -/

/-- The BF16 elements of a row of bytes. -/
def bfRow : List Byte → List Nat
  | a :: b :: rest => (a.toNat + 256 * b.toNat) :: bfRow rest
  | _ => []

/-- BF16 elements as bytes. -/
def bfBytes (l : List Nat) : List Byte := (l.map fun n => toBytes 2 n).flatten

/-- The FP32 words of a row of bytes. -/
def wordRow (n : Nat) (bs : List Byte) : List Word :=
  (List.range n).map fun i => BitVec.ofNat 32 (ofBytes (slice bs (4 * i) 4))

/-- FP32 words as bytes. -/
def wordBytes (l : List Word) : List Byte := (l.map fun w => toBytes 4 w.toNat).flatten

/-- An FP32 row converted to BF16 by RN_out, with its saturations. -/
def rowToBf (l : List Word) : List Nat × Nat :=
  (l.map fun w => (toBf w).1, (l.filter fun w => (toBf w).2).length)

/-! ### MXFP8 payloads (R188, R189, R190) -/

/-- The scale of a block of BF16 values (R189). -/
def mxScale (vs : List Nat) : Nat :=
  if vs.any fun n => match ofBf n with | .fin .. => false | _ => true then 0xFF
  else
    let es := vs.filterMap fun n => match ofBf n with
      | .fin _ m e => if m = 0 then none else some (e + (Nat.log2 m : Int))
      | _ => none
    match es with
    | [] => 0
    | x :: xs =>
      let top := xs.foldl max x
      (max (-127) (min 127 (top - 8)) + 127).toNat

/-- One element of a block. -/
def mxElem (scale n : Nat) : Nat :=
  if scale = 0xFF then 0
  else
    let v := (ofBf n).scale (127 - (scale : Int))
    match v with
    | .fin s m e =>
      if m = 0 then bitNat s * 128
      else min (e4m3.encode m e) 0x7E + bitNat s * 128
    | _ => 0

/-- The MXFP8 chunks of a BF16 row: 256 element bytes, then 8 scale bytes, per 256 elements. -/
def mxEncode : Nat → List Nat → List Byte
  | 0, _ => []
  | k + 1, vs =>
    if vs = [] then []
    else
      let c := vs.take 256
      let blocks := (List.range 8).map fun b => (c.drop (32 * b)).take 32
      let sc := blocks.map mxScale
      let el := (blocks.zip sc).map fun p => p.1.map (mxElem p.2)
      (el.flatten ++ sc).map (BitVec.ofNat 8) ++ mxEncode k (vs.drop 256)

/-- Expansion of one MXFP8 element (R190). -/
def mxValue (scale el : Nat) : FV :=
  if scale = 0xFF then .nan else (ofE4m3 el).scale ((scale : Int) - 127)

/-- A payload expanded to exact values: `bf` for BF16 chunks, else MXFP8; `h` elements. -/
def payloadValues (bf : Bool) (h : Nat) (body : List Byte) : List FV :=
  if bf then
    ((List.range (h / 128)).map fun j => (bfRow (slice body (264 * j) 256)).map ofBf).flatten
  else
    ((List.range (h / 256)).map fun j =>
      let c := slice body (264 * j) 264
      (List.range 256).map fun i =>
        mxValue ((c.getD (256 + i / 32) 0).toNat) ((c.getD i 0).toNat)).flatten

/-- A payload as it lands (R190): BF16 unchanged; MXFP8 expanded to BF16, rounding only below 2^-126, an overflow an infinity. -/
def payloadBf (bf : Bool) (h : Nat) (body : List Byte) : List Byte :=
  if bf then ((List.range (h / 128)).map fun j => slice body (264 * j) 256).flatten
  else bfBytes ((payloadValues false h body).map toBfInf)

/-- A payload expanded to FP32 (R190, R206). -/
def payload32 (bf : Bool) (h : Nat) (body : List Byte) : List Word :=
  (payloadValues bf h body).map to32

/-- BF16 elements packed as a payload of the step's format (R188). -/
def encodePayload (bf : Bool) (vs : List Nat) : List Byte :=
  if bf then
    ((List.range (vs.length / 128)).map fun j =>
      bfBytes ((vs.drop (128 * j)).take 128) ++ List.replicate 8 0#8).flatten
  else mxEncode (vs.length / 256 + 1) vs

/-- Payload bytes of a row of hidden width `h`. -/
def payloadLen (bf : Bool) (h : Nat) : Nat := if bf then h / 128 * 264 else h / 256 * 264

end Sys2Proof.Machine
end

