-- ==== Sys2Proof/Machine/Regs.lean ====
section
/-!
DEFINITION. The register map: one constant per field of every register table of the spec (R425 and the
register rules it names), and one row per register for the access rules of R7, R8 and R9.
A field constant with arguments belongs to a register array: the arguments are the array indices in the order
of the spec's strides.
-/

namespace Sys2Proof.Machine


/-! HUB registers. -/

/-- Offset of `HUB_VERSION` (R434). -/
abbrev HUB_VERSION.reg : Nat := 0x000100
def HUB_VERSION.WORD : Fld := ⟨0x000100, 0, 32⟩
/-- Offset of `HUB_ID` (R434). -/
abbrev HUB_ID.reg : Nat := 0x000104
def HUB_ID.HUB : Fld := ⟨0x000104, 0, 1⟩
def HUB_ID.ROLE : Fld := ⟨0x000104, 1, 1⟩
def HUB_ID.LEAD : Fld := ⟨0x000104, 2, 1⟩
def HUB_ID.BIST_DONE : Fld := ⟨0x000104, 3, 1⟩
def HUB_ID.BIST_PASS : Fld := ⟨0x000104, 4, 1⟩
/-- Offset of `HUB_VENDOR` (R434). -/
abbrev HUB_VENDOR.reg : Nat := 0x000108
def HUB_VENDOR.VENDOR : Fld := ⟨0x000108, 0, 16⟩
def HUB_VENDOR.FAMILY : Fld := ⟨0x000108, 16, 8⟩
def HUB_VENDOR.BLOCK : Fld := ⟨0x000108, 24, 8⟩
/-- Offset of `HUB_UID_LO` (R434). -/
abbrev HUB_UID_LO.reg : Nat := 0x00010C
def HUB_UID_LO.UID : Fld := ⟨0x00010C, 0, 32⟩
/-- Offset of `HUB_UID_HI` (R434). -/
abbrev HUB_UID_HI.reg : Nat := 0x000110
def HUB_UID_HI.UID : Fld := ⟨0x000110, 0, 32⟩
/-- Offset of `HUB_BUILD` (R434). -/
abbrev HUB_BUILD.reg : Nat := 0x000114
def HUB_BUILD.BUILD : Fld := ⟨0x000114, 0, 32⟩
/-- Offset of `HUB_SCRATCH` (R434). -/
abbrev HUB_SCRATCH.reg (i : Nat) : Nat := 0x000120 + 0x4 * i
def HUB_SCRATCH.DATA (i : Nat) : Fld := ⟨0x000120 + 0x4 * i, 0, 32⟩

/-! TCK registers. -/

/-- Offset of `TCK_CTRL` (R59). -/
abbrev TCK_CTRL.reg : Nat := 0x010000
def TCK_CTRL.RUN : Fld := ⟨0x010000, 0, 1⟩
def TCK_CTRL.SRC : Fld := ⟨0x010000, 1, 2⟩
def TCK_CTRL.OVR_POLICY : Fld := ⟨0x010000, 3, 1⟩
def TCK_CTRL.OUT_WIDTH : Fld := ⟨0x010000, 4, 8⟩
def TCK_CTRL.LOCK : Fld := ⟨0x010000, 31, 1⟩
/-- Offset of `TCK_PERIOD` (R60). -/
abbrev TCK_PERIOD.reg : Nat := 0x010004
def TCK_PERIOD.PERIOD_US : Fld := ⟨0x010004, 0, 16⟩
def TCK_PERIOD.CUR_US : Fld := ⟨0x010004, 16, 16⟩
/-- Offset of `TCK_LEAD` (R61). -/
abbrev TCK_LEAD.reg : Nat := 0x010008
def TCK_LEAD.LEAD : Fld := ⟨0x010008, 0, 12⟩
/-- Offset of `TCK_TREE` (R62). -/
abbrev TCK_TREE.reg : Nat := 0x01000C
def TCK_TREE.PARENT : Fld := ⟨0x01000C, 0, 4⟩
def TCK_TREE.PARENT_V : Fld := ⟨0x01000C, 4, 1⟩
def TCK_TREE.CHILDREN : Fld := ⟨0x01000C, 16, 16⟩
/-- Offset of `TCK_STATUS` (R63). -/
abbrev TCK_STATUS.reg : Nat := 0x010010
def TCK_STATUS.ALIGNED : Fld := ⟨0x010010, 0, 1⟩
def TCK_STATUS.HOLDOVER : Fld := ⟨0x010010, 1, 1⟩
def TCK_STATUS.MASTER : Fld := ⟨0x010010, 2, 1⟩
def TCK_STATUS.HOPS : Fld := ⟨0x010010, 3, 4⟩
def TCK_STATUS.PATH : Fld := ⟨0x010010, 8, 12⟩
/-- Offset of `TCK_SKEW` (R64). -/
abbrev TCK_SKEW.reg : Nat := 0x010014
def TCK_SKEW.OFFSET : Fld := ⟨0x010014, 0, 16⟩
/-- Offset of `TCK_NOW_LO` (R65). -/
abbrev TCK_NOW_LO.reg : Nat := 0x010018
def TCK_NOW_LO.TICK : Fld := ⟨0x010018, 0, 32⟩
/-- Offset of `TCK_NOW_HI` (R65). -/
abbrev TCK_NOW_HI.reg : Nat := 0x01001C
def TCK_NOW_HI.TICK : Fld := ⟨0x01001C, 0, 16⟩
/-- Offset of `TCK_WD` (R66). -/
abbrev TCK_WD.reg : Nat := 0x010020
def TCK_WD.ENABLE : Fld := ⟨0x010020, 0, 1⟩
def TCK_WD.REPLAY_MAX : Fld := ⟨0x010020, 1, 3⟩
/-- Offset of `TCK_OVR_CNT` (R67). -/
abbrev TCK_OVR_CNT.reg : Nat := 0x010024
def TCK_OVR_CNT.COUNT : Fld := ⟨0x010024, 0, 32⟩
/-- Offset of `TCK_WD_CNT` (R67). -/
abbrev TCK_WD_CNT.reg : Nat := 0x010028
def TCK_WD_CNT.COUNT : Fld := ⟨0x010028, 0, 32⟩
/-- Offset of `TCK_ORPHAN_CNT` (R67). -/
abbrev TCK_ORPHAN_CNT.reg : Nat := 0x01002C
def TCK_ORPHAN_CNT.COUNT : Fld := ⟨0x01002C, 0, 32⟩
/-- Offset of `TCK_HOLD_CNT` (R67). -/
abbrev TCK_HOLD_CNT.reg : Nat := 0x010030
def TCK_HOLD_CNT.COUNT : Fld := ⟨0x010030, 0, 32⟩
/-- Offset of `TCK_CTXSET_LO` (R441). -/
abbrev TCK_CTXSET_LO.reg (i : Nat) : Nat := 0x010100 + 0x8 * i
def TCK_CTXSET_LO.CHIPS (i : Nat) : Fld := ⟨0x010100 + 0x8 * i, 0, 32⟩
/-- Offset of `TCK_CTXSET_HI` (R441). -/
abbrev TCK_CTXSET_HI.reg (i : Nat) : Nat := 0x010104 + 0x8 * i
def TCK_CTXSET_HI.CHIPS (i : Nat) : Fld := ⟨0x010104 + 0x8 * i, 0, 32⟩

/-! RNG registers. -/

/-- Offset of `RNG_EQ_BASE_LO` (R95). -/
abbrev RNG_EQ_BASE_LO.reg : Nat := 0x020000
def RNG_EQ_BASE_LO.ADDR : Fld := ⟨0x020000, 12, 20⟩
/-- Offset of `RNG_EQ_BASE_HI` (R95). -/
abbrev RNG_EQ_BASE_HI.reg : Nat := 0x020004
def RNG_EQ_BASE_HI.ADDR : Fld := ⟨0x020004, 0, 32⟩
/-- Offset of `RNG_EQ_CTRL` (R95). -/
abbrev RNG_EQ_CTRL.reg : Nat := 0x020008
def RNG_EQ_CTRL.LOG2 : Fld := ⟨0x020008, 0, 5⟩
def RNG_EQ_CTRL.ENABLE : Fld := ⟨0x020008, 8, 1⟩
def RNG_EQ_CTRL.IRQ_EN : Fld := ⟨0x020008, 9, 1⟩
def RNG_EQ_CTRL.IRQ_LEVEL : Fld := ⟨0x020008, 10, 2⟩
/-- Offset of `RNG_EQ_TAIL` (R95). -/
abbrev RNG_EQ_TAIL.reg : Nat := 0x02000C
def RNG_EQ_TAIL.INDEX : Fld := ⟨0x02000C, 0, 32⟩
/-- Offset of `RNG_EQ_HEAD` (R95). -/
abbrev RNG_EQ_HEAD.reg : Nat := 0x020010
def RNG_EQ_HEAD.INDEX : Fld := ⟨0x020010, 0, 32⟩
/-- Offset of `RNG_EQ_LOST` (R95). -/
abbrev RNG_EQ_LOST.reg : Nat := 0x020014
def RNG_EQ_LOST.COUNT : Fld := ⟨0x020014, 0, 32⟩
/-- Offset of `RNG_SQ_BASE_LO` (R96). -/
abbrev RNG_SQ_BASE_LO.reg (i : Nat) : Nat := 0x021000 + 0x40 * i
def RNG_SQ_BASE_LO.ADDR (i : Nat) : Fld := ⟨0x021000 + 0x40 * i, 12, 20⟩
/-- Offset of `RNG_SQ_BASE_HI` (R96). -/
abbrev RNG_SQ_BASE_HI.reg (i : Nat) : Nat := 0x021004 + 0x40 * i
def RNG_SQ_BASE_HI.ADDR (i : Nat) : Fld := ⟨0x021004 + 0x40 * i, 0, 32⟩
/-- Offset of `RNG_CQ_BASE_LO` (R96). -/
abbrev RNG_CQ_BASE_LO.reg (i : Nat) : Nat := 0x021008 + 0x40 * i
def RNG_CQ_BASE_LO.ADDR (i : Nat) : Fld := ⟨0x021008 + 0x40 * i, 12, 20⟩
/-- Offset of `RNG_CQ_BASE_HI` (R96). -/
abbrev RNG_CQ_BASE_HI.reg (i : Nat) : Nat := 0x02100C + 0x40 * i
def RNG_CQ_BASE_HI.ADDR (i : Nat) : Fld := ⟨0x02100C + 0x40 * i, 0, 32⟩
/-- Offset of `RNG_CTX_CTRL` (R96). -/
abbrev RNG_CTX_CTRL.reg (i : Nat) : Nat := 0x021010 + 0x40 * i
def RNG_CTX_CTRL.SQ_LOG2 (i : Nat) : Fld := ⟨0x021010 + 0x40 * i, 0, 5⟩
def RNG_CTX_CTRL.CQ_LOG2 (i : Nat) : Fld := ⟨0x021010 + 0x40 * i, 8, 5⟩
def RNG_CTX_CTRL.ENABLE (i : Nat) : Fld := ⟨0x021010 + 0x40 * i, 16, 1⟩
def RNG_CTX_CTRL.IRQ_EN (i : Nat) : Fld := ⟨0x021010 + 0x40 * i, 17, 1⟩
/-- Offset of `RNG_DOORBELL` (R96). -/
abbrev RNG_DOORBELL.reg (i : Nat) : Nat := 0x021014 + 0x40 * i
def RNG_DOORBELL.TAIL (i : Nat) : Fld := ⟨0x021014 + 0x40 * i, 0, 32⟩
/-- Offset of `RNG_SQ_HEAD` (R96). -/
abbrev RNG_SQ_HEAD.reg (i : Nat) : Nat := 0x021018 + 0x40 * i
def RNG_SQ_HEAD.INDEX (i : Nat) : Fld := ⟨0x021018 + 0x40 * i, 0, 32⟩
/-- Offset of `RNG_CQ_TAIL` (R96). -/
abbrev RNG_CQ_TAIL.reg (i : Nat) : Nat := 0x02101C + 0x40 * i
def RNG_CQ_TAIL.INDEX (i : Nat) : Fld := ⟨0x02101C + 0x40 * i, 0, 32⟩
/-- Offset of `RNG_CQ_HEAD` (R96). -/
abbrev RNG_CQ_HEAD.reg (i : Nat) : Nat := 0x021020 + 0x40 * i
def RNG_CQ_HEAD.INDEX (i : Nat) : Fld := ⟨0x021020 + 0x40 * i, 0, 32⟩
/-- Offset of `RNG_NEXT_SEQ` (R96). -/
abbrev RNG_NEXT_SEQ.reg (i : Nat) : Nat := 0x021024 + 0x40 * i
def RNG_NEXT_SEQ.SEQ (i : Nat) : Fld := ⟨0x021024 + 0x40 * i, 0, 32⟩
/-- Offset of `RNG_CTX_STATUS` (R96). -/
abbrev RNG_CTX_STATUS.reg (i : Nat) : Nat := 0x021028 + 0x40 * i
def RNG_CTX_STATUS.FETCHED (i : Nat) : Fld := ⟨0x021028 + 0x40 * i, 0, 1⟩
def RNG_CTX_STATUS.READY (i : Nat) : Fld := ⟨0x021028 + 0x40 * i, 1, 1⟩
def RNG_CTX_STATUS.ACTIVE (i : Nat) : Fld := ⟨0x021028 + 0x40 * i, 2, 1⟩
def RNG_CTX_STATUS.FROZEN (i : Nat) : Fld := ⟨0x021028 + 0x40 * i, 3, 1⟩
def RNG_CTX_STATUS.CQ_FULL (i : Nat) : Fld := ⟨0x021028 + 0x40 * i, 4, 1⟩
def RNG_CTX_STATUS.IDLE (i : Nat) : Fld := ⟨0x021028 + 0x40 * i, 5, 1⟩

/-! RTE registers. -/

/-- Offset of `RTE_LOAD_SRC_LO` (R127). -/
abbrev RTE_LOAD_SRC_LO.reg : Nat := 0x030000
def RTE_LOAD_SRC_LO.ADDR : Fld := ⟨0x030000, 6, 26⟩
/-- Offset of `RTE_LOAD_SRC_HI` (R127). -/
abbrev RTE_LOAD_SRC_HI.reg : Nat := 0x030004
def RTE_LOAD_SRC_HI.ADDR : Fld := ⟨0x030004, 0, 32⟩
/-- Offset of `RTE_LOAD_CTRL` (R127). -/
abbrev RTE_LOAD_CTRL.reg : Nat := 0x030008
def RTE_LOAD_CTRL.CTX : Fld := ⟨0x030008, 0, 4⟩
def RTE_LOAD_CTRL.KIND : Fld := ⟨0x030008, 4, 2⟩
def RTE_LOAD_CTRL.LAYER : Fld := ⟨0x030008, 8, 10⟩
def RTE_LOAD_CTRL.GO : Fld := ⟨0x030008, 31, 1⟩
/-- Offset of `RTE_LOAD_ARG` (R127). -/
abbrev RTE_LOAD_ARG.reg : Nat := 0x03000C
def RTE_LOAD_ARG.LEN : Fld := ⟨0x03000C, 0, 18⟩
def RTE_LOAD_ARG.DEST : Fld := ⟨0x03000C, 18, 8⟩
/-- Offset of `RTE_LOAD_STATUS` (R127). -/
abbrev RTE_LOAD_STATUS.reg : Nat := 0x030010
def RTE_LOAD_STATUS.BUSY : Fld := ⟨0x030010, 0, 1⟩
def RTE_LOAD_STATUS.DONE : Fld := ⟨0x030010, 1, 1⟩
def RTE_LOAD_STATUS.ERR : Fld := ⟨0x030010, 4, 4⟩
/-- Offset of `RTE_NAN_CNT` (R127). -/
abbrev RTE_NAN_CNT.reg : Nat := 0x030014
def RTE_NAN_CNT.COUNT : Fld := ⟨0x030014, 0, 32⟩
/-- Offset of `RTE_NOROUTER_CNT` (R127). -/
abbrev RTE_NOROUTER_CNT.reg : Nat := 0x030018
def RTE_NOROUTER_CNT.COUNT : Fld := ⟨0x030018, 0, 32⟩
/-- Offset of `RTE_CTX_CFG` (R128). -/
abbrev RTE_CTX_CFG.reg (i : Nat) : Nat := 0x031000 + 0x20 * i
def RTE_CTX_CFG.HIDW (i : Nat) : Fld := ⟨0x031000 + 0x20 * i, 0, 8⟩
def RTE_CTX_CFG.ALLOT_BASE (i : Nat) : Fld := ⟨0x031000 + 0x20 * i, 8, 8⟩
def RTE_CTX_CFG.ALLOT_SIZE (i : Nat) : Fld := ⟨0x031000 + 0x20 * i, 16, 9⟩
/-- Offset of `RTE_SWAP_CTRL` (R128). -/
abbrev RTE_SWAP_CTRL.reg (i : Nat) : Nat := 0x031004 + 0x20 * i
def RTE_SWAP_CTRL.ARM (i : Nat) : Fld := ⟨0x031004 + 0x20 * i, 0, 1⟩
def RTE_SWAP_CTRL.DISARM (i : Nat) : Fld := ⟨0x031004 + 0x20 * i, 1, 1⟩
/-- Offset of `RTE_SWAP_TICK_LO` (R128). -/
abbrev RTE_SWAP_TICK_LO.reg (i : Nat) : Nat := 0x031008 + 0x20 * i
def RTE_SWAP_TICK_LO.TICK (i : Nat) : Fld := ⟨0x031008 + 0x20 * i, 0, 32⟩
/-- Offset of `RTE_SWAP_TICK_HI` (R128). -/
abbrev RTE_SWAP_TICK_HI.reg (i : Nat) : Nat := 0x03100C + 0x20 * i
def RTE_SWAP_TICK_HI.TICK (i : Nat) : Fld := ⟨0x03100C + 0x20 * i, 0, 16⟩
/-- Offset of `RTE_SET_STATUS` (R128). -/
abbrev RTE_SET_STATUS.reg (i : Nat) : Nat := 0x031010 + 0x20 * i
def RTE_SET_STATUS.ACTIVE (i : Nat) : Fld := ⟨0x031010 + 0x20 * i, 0, 1⟩
def RTE_SET_STATUS.SHADOW (i : Nat) : Fld := ⟨0x031010 + 0x20 * i, 1, 2⟩
def RTE_SET_STATUS.ERR (i : Nat) : Fld := ⟨0x031010 + 0x20 * i, 4, 4⟩
def RTE_SET_STATUS.SWAPPED (i : Nat) : Fld := ⟨0x031010 + 0x20 * i, 8, 1⟩

/-! SFU registers. -/

/-- Offset of `SFU_INFO` (R146). -/
abbrev SFU_INFO.reg : Nat := 0x040000
def SFU_INFO.LANES : Fld := ⟨0x040000, 0, 16⟩
def SFU_INFO.SEEDW : Fld := ⟨0x040000, 16, 3⟩
def SFU_INFO.NORMS : Fld := ⟨0x040000, 19, 2⟩
/-- Offset of `SFU_SAT_CNT` (R146). -/
abbrev SFU_SAT_CNT.reg : Nat := 0x040004
def SFU_SAT_CNT.COUNT : Fld := ⟨0x040004, 0, 32⟩
/-- Offset of `SFU_RMS_NF_CNT` (R146). -/
abbrev SFU_RMS_NF_CNT.reg : Nat := 0x040008
def SFU_RMS_NF_CNT.COUNT : Fld := ⟨0x040008, 0, 32⟩
/-- Offset of `SFU_RMS_CFG` (R147). -/
abbrev SFU_RMS_CFG.reg (i : Nat) : Nat := 0x041000 + 0x10 * i
def SFU_RMS_CFG.GAIN_OFF (i : Nat) : Fld := ⟨0x041000 + 0x10 * i, 0, 18⟩
def SFU_RMS_CFG.GAIN_V (i : Nat) : Fld := ⟨0x041000 + 0x10 * i, 31, 1⟩
/-- Offset of `SFU_RMS_EPS` (R147). -/
abbrev SFU_RMS_EPS.reg (i : Nat) : Nat := 0x041004 + 0x10 * i
def SFU_RMS_EPS.EPS (i : Nat) : Fld := ⟨0x041004 + 0x10 * i, 0, 32⟩

/-! ADM registers. -/

/-- Offset of `ADM_INFO` (R174). -/
abbrev ADM_INFO.reg : Nat := 0x050000
def ADM_INFO.RATE : Fld := ⟨0x050000, 0, 8⟩
def ADM_INFO.AWIN_MAX : Fld := ⟨0x050000, 8, 4⟩
def ADM_INFO.POOLS : Fld := ⟨0x050000, 16, 8⟩
/-- Offset of `ADM_DROP_CNT` (R174). -/
abbrev ADM_DROP_CNT.reg : Nat := 0x050004
def ADM_DROP_CNT.COUNT : Fld := ⟨0x050004, 0, 32⟩
/-- Offset of `ADM_SPILL_CNT` (R174). -/
abbrev ADM_SPILL_CNT.reg : Nat := 0x050008
def ADM_SPILL_CNT.COUNT : Fld := ⟨0x050008, 0, 32⟩
/-- Offset of `ADM_RENORM_SKIP_CNT` (R174). -/
abbrev ADM_RENORM_SKIP_CNT.reg : Nat := 0x05000C
def ADM_RENORM_SKIP_CNT.COUNT : Fld := ⟨0x05000C, 0, 32⟩
/-- Offset of `ADM_WEL_THR` (R174). -/
abbrev ADM_WEL_THR.reg (i : Nat) : Nat := 0x050100 + 0x4 * i
def ADM_WEL_THR.THR (i : Nat) : Fld := ⟨0x050100 + 0x4 * i, 0, 16⟩
/-- Offset of `ADM_CTX_CFG` (R175). -/
abbrev ADM_CTX_CFG.reg (i : Nat) : Nat := 0x051000 + 0x10 * i
def ADM_CTX_CFG.CAPF_DEF (i : Nat) : Fld := ⟨0x051000 + 0x10 * i, 0, 8⟩
def ADM_CTX_CFG.CAP_MIN (i : Nat) : Fld := ⟨0x051000 + 0x10 * i, 8, 8⟩
def ADM_CTX_CFG.NODROP (i : Nat) : Fld := ⟨0x051000 + 0x10 * i, 16, 1⟩
def ADM_CTX_CFG.ORDER (i : Nat) : Fld := ⟨0x051000 + 0x10 * i, 17, 1⟩
def ADM_CTX_CFG.HOSTP (i : Nat) : Fld := ⟨0x051000 + 0x10 * i, 18, 1⟩
def ADM_CTX_CFG.AWIN (i : Nat) : Fld := ⟨0x051000 + 0x10 * i, 20, 4⟩
/-- Offset of `ADM_CTX_HOMECAP` (R175). -/
abbrev ADM_CTX_HOMECAP.reg (i : Nat) : Nat := 0x051004 + 0x10 * i
def ADM_CTX_HOMECAP.LIMIT (i : Nat) : Fld := ⟨0x051004 + 0x10 * i, 0, 20⟩
/-- Offset of `ADM_CTX_DROPS` (R175). -/
abbrev ADM_CTX_DROPS.reg (i : Nat) : Nat := 0x051008 + 0x10 * i
def ADM_CTX_DROPS.COUNT (i : Nat) : Fld := ⟨0x051008 + 0x10 * i, 0, 32⟩
/-- Offset of `ADM_CTX_SPILLS` (R175). -/
abbrev ADM_CTX_SPILLS.reg (i : Nat) : Nat := 0x05100C + 0x10 * i
def ADM_CTX_SPILLS.COUNT (i : Nat) : Fld := ⟨0x05100C + 0x10 * i, 0, 32⟩

/-! CST registers. -/

/-- Offset of `CST_CTRL` (R177). -/
abbrev CST_CTRL.reg : Nat := 0x058000
def CST_CTRL.ENABLE : Fld := ⟨0x058000, 0, 1⟩
/-- Offset of `CST_STATUS` (R177). -/
abbrev CST_STATUS.reg : Nat := 0x058004
def CST_STATUS.CFG_KIB : Fld := ⟨0x058004, 0, 17⟩
def CST_STATUS.CFG_ERR : Fld := ⟨0x058004, 17, 1⟩
/-- Offset of `CST_WAIT_CNT` (R177). -/
abbrev CST_WAIT_CNT.reg : Nat := 0x058008
def CST_WAIT_CNT.COUNT : Fld := ⟨0x058008, 0, 32⟩
/-- Offset of `CST_FALLBACK_CNT` (R177). -/
abbrev CST_FALLBACK_CNT.reg : Nat := 0x05800C
def CST_FALLBACK_CNT.COUNT : Fld := ⟨0x05800C, 0, 32⟩
/-- Offset of `CST_BADREL_CNT` (R177). -/
abbrev CST_BADREL_CNT.reg : Nat := 0x058010
def CST_BADREL_CNT.COUNT : Fld := ⟨0x058010, 0, 32⟩
/-- Offset of `CST_POOL_CFG` (R178). -/
abbrev CST_POOL_CFG.reg (i : Nat) : Nat := 0x058040 + 0x10 * i
def CST_POOL_CFG.SIZE_KIB (i : Nat) : Fld := ⟨0x058040 + 0x10 * i, 0, 7⟩
/-- Offset of `CST_POOL_COUNT` (R178). -/
abbrev CST_POOL_COUNT.reg (i : Nat) : Nat := 0x058044 + 0x10 * i
def CST_POOL_COUNT.COUNT (i : Nat) : Fld := ⟨0x058044 + 0x10 * i, 0, 17⟩
/-- Offset of `CST_POOL_FREE` (R178). -/
abbrev CST_POOL_FREE.reg (i : Nat) : Nat := 0x058048 + 0x10 * i
def CST_POOL_FREE.FREE (i : Nat) : Fld := ⟨0x058048 + 0x10 * i, 0, 17⟩
/-- Offset of `CST_POOL_LOW` (R178). -/
abbrev CST_POOL_LOW.reg (i : Nat) : Nat := 0x05804C + 0x10 * i
def CST_POOL_LOW.LOW (i : Nat) : Fld := ⟨0x05804C + 0x10 * i, 0, 17⟩
/-- Offset of `CST_QUOTA` (R179). -/
abbrev CST_QUOTA.reg (i : Nat) : Nat := 0x058100 + 0x4 * i
def CST_QUOTA.LIMIT (i : Nat) : Fld := ⟨0x058100 + 0x4 * i, 0, 17⟩
/-- Offset of `CST_USED` (R179). -/
abbrev CST_USED.reg (i : Nat) : Nat := 0x058180 + 0x4 * i
def CST_USED.KIB (i : Nat) : Fld := ⟨0x058180 + 0x4 * i, 0, 17⟩

/-! PMP registers. -/

/-- Offset of `PMP_VC_PRIO` (R216). -/
abbrev PMP_VC_PRIO.reg (i : Nat) : Nat := 0x060000 + 0x1000 * i
def PMP_VC_PRIO.PRIO (i : Nat) : Fld := ⟨0x060000 + 0x1000 * i, 0, 8⟩
/-- Offset of `PMP_VC_WT` (R216). -/
abbrev PMP_VC_WT.reg (i : Nat) : Nat := 0x060004 + 0x1000 * i
def PMP_VC_WT.WT (i : Nat) : Fld := ⟨0x060004 + 0x1000 * i, 0, 32⟩
/-- Offset of `PMP_PORT_CFG` (R216). -/
abbrev PMP_PORT_CFG.reg (i : Nat) : Nat := 0x060008 + 0x1000 * i
def PMP_PORT_CFG.AXIS (i : Nat) : Fld := ⟨0x060008 + 0x1000 * i, 0, 2⟩
def PMP_PORT_CFG.DATELINE (i : Nat) : Fld := ⟨0x060008 + 0x1000 * i, 2, 1⟩
/-- Offset of `PMP_RBUF` (R216). -/
abbrev PMP_RBUF.reg (i : Nat) : Nat := 0x06000C + 0x1000 * i
def PMP_RBUF.SHARE (i : Nat) : Fld := ⟨0x06000C + 0x1000 * i, 0, 32⟩
/-- Offset of `PMP_RETRY_CFG` (R216). -/
abbrev PMP_RETRY_CFG.reg (i : Nat) : Nat := 0x060010 + 0x1000 * i
def PMP_RETRY_CFG.TIMEOUT (i : Nat) : Fld := ⟨0x060010 + 0x1000 * i, 0, 12⟩
def PMP_RETRY_CFG.MAXRETRY (i : Nat) : Fld := ⟨0x060010 + 0x1000 * i, 12, 4⟩
/-- Offset of `PMP_CRC_ERR_CNT` (R216). -/
abbrev PMP_CRC_ERR_CNT.reg (i : Nat) : Nat := 0x060020 + 0x1000 * i
def PMP_CRC_ERR_CNT.COUNT (i : Nat) : Fld := ⟨0x060020 + 0x1000 * i, 0, 32⟩
/-- Offset of `PMP_REWIND_CNT` (R216). -/
abbrev PMP_REWIND_CNT.reg (i : Nat) : Nat := 0x060024 + 0x1000 * i
def PMP_REWIND_CNT.COUNT (i : Nat) : Fld := ⟨0x060024 + 0x1000 * i, 0, 32⟩
/-- Offset of `PMP_MERGE_CNT` (R216). -/
abbrev PMP_MERGE_CNT.reg (i : Nat) : Nat := 0x060028 + 0x1000 * i
def PMP_MERGE_CNT.COUNT (i : Nat) : Fld := ⟨0x060028 + 0x1000 * i, 0, 32⟩
/-- Offset of `PMP_RBUF_COR_CNT` (R216). -/
abbrev PMP_RBUF_COR_CNT.reg (i : Nat) : Nat := 0x06002C + 0x1000 * i
def PMP_RBUF_COR_CNT.COUNT (i : Nat) : Fld := ⟨0x06002C + 0x1000 * i, 0, 32⟩
/-- Offset of `PMP_LNK_CTRL` (R326). -/
abbrev PMP_LNK_CTRL.reg (i : Nat) : Nat := 0x060100 + 0x1000 * i
def PMP_LNK_CTRL.EN (i : Nat) : Fld := ⟨0x060100 + 0x1000 * i, 0, 1⟩
def PMP_LNK_CTRL.RESTART (i : Nat) : Fld := ⟨0x060100 + 0x1000 * i, 1, 1⟩
def PMP_LNK_CTRL.MINW (i : Nat) : Fld := ⟨0x060100 + 0x1000 * i, 2, 1⟩
def PMP_LNK_CTRL.TRAIN_MS (i : Nat) : Fld := ⟨0x060100 + 0x1000 * i, 4, 8⟩
def PMP_LNK_CTRL.RETRAIN_MS (i : Nat) : Fld := ⟨0x060100 + 0x1000 * i, 12, 8⟩
/-- Offset of `PMP_LNK_STATUS` (R326). -/
abbrev PMP_LNK_STATUS.reg (i : Nat) : Nat := 0x060104 + 0x1000 * i
def PMP_LNK_STATUS.STATE (i : Nat) : Fld := ⟨0x060104 + 0x1000 * i, 0, 4⟩
def PMP_LNK_STATUS.WIDTH4 (i : Nat) : Fld := ⟨0x060104 + 0x1000 * i, 4, 1⟩
def PMP_LNK_STATUS.VIA_BYPASS (i : Nat) : Fld := ⟨0x060104 + 0x1000 * i, 5, 1⟩
def PMP_LNK_STATUS.FCHIP (i : Nat) : Fld := ⟨0x060104 + 0x1000 * i, 6, 6⟩
def PMP_LNK_STATUS.FPORT (i : Nat) : Fld := ⟨0x060104 + 0x1000 * i, 12, 4⟩
def PMP_LNK_STATUS.LANES (i : Nat) : Fld := ⟨0x060104 + 0x1000 * i, 16, 8⟩
/-- Offset of `PMP_LNK_NEIGH` (R326). -/
abbrev PMP_LNK_NEIGH.reg (i : Nat) : Nat := 0x060108 + 0x1000 * i
def PMP_LNK_NEIGH.CHIP (i : Nat) : Fld := ⟨0x060108 + 0x1000 * i, 0, 6⟩
def PMP_LNK_NEIGH.PORT (i : Nat) : Fld := ⟨0x060108 + 0x1000 * i, 6, 4⟩
def PMP_LNK_NEIGH.V (i : Nat) : Fld := ⟨0x060108 + 0x1000 * i, 10, 1⟩
/-- Offset of `PMP_LNK_LAT` (R326). -/
abbrev PMP_LNK_LAT.reg (i : Nat) : Nat := 0x06010C + 0x1000 * i
def PMP_LNK_LAT.PS (i : Nat) : Fld := ⟨0x06010C + 0x1000 * i, 0, 20⟩
/-- Offset of `PMP_FEC_COR_CNT` (R326). -/
abbrev PMP_FEC_COR_CNT.reg (i : Nat) : Nat := 0x060110 + 0x1000 * i
def PMP_FEC_COR_CNT.COUNT (i : Nat) : Fld := ⟨0x060110 + 0x1000 * i, 0, 32⟩
/-- Offset of `PMP_FEC_UNC_CNT` (R326). -/
abbrev PMP_FEC_UNC_CNT.reg (i : Nat) : Nat := 0x060114 + 0x1000 * i
def PMP_FEC_UNC_CNT.COUNT (i : Nat) : Fld := ⟨0x060114 + 0x1000 * i, 0, 32⟩
/-- Offset of `PMP_LNK_DOWN_CNT` (R326). -/
abbrev PMP_LNK_DOWN_CNT.reg (i : Nat) : Nat := 0x060118 + 0x1000 * i
def PMP_LNK_DOWN_CNT.COUNT (i : Nat) : Fld := ⟨0x060118 + 0x1000 * i, 0, 32⟩
/-- Offset of `PMP_LNK_UNC` (R326). -/
abbrev PMP_LNK_UNC.reg (i : Nat) : Nat := 0x06011C + 0x1000 * i
def PMP_LNK_UNC.LIMIT (i : Nat) : Fld := ⟨0x06011C + 0x1000 * i, 0, 16⟩
/-- Offset of `PMP_INFO` (R217). -/
abbrev PMP_INFO.reg : Nat := 0x060800
def PMP_INFO.PORTS : Fld := ⟨0x060800, 0, 8⟩
def PMP_INFO.REPLAY : Fld := ⟨0x060800, 8, 8⟩
def PMP_INFO.QUEUES : Fld := ⟨0x060800, 16, 16⟩
/-- Offset of `PMP_Q_CTRL` (R217). -/
abbrev PMP_Q_CTRL.reg : Nat := 0x060804
def PMP_Q_CTRL.MODE : Fld := ⟨0x060804, 0, 1⟩
def PMP_Q_CTRL.FLUSH : Fld := ⟨0x060804, 1, 1⟩
def PMP_Q_CTRL.CTX : Fld := ⟨0x060804, 2, 4⟩
/-- Offset of `PMP_Q_COR_CNT` (R217). -/
abbrev PMP_Q_COR_CNT.reg : Nat := 0x060808
def PMP_Q_COR_CNT.COUNT : Fld := ⟨0x060808, 0, 32⟩
/-- Offset of `PMP_Q_WAIT_CNT` (R217). -/
abbrev PMP_Q_WAIT_CNT.reg : Nat := 0x06080C
def PMP_Q_WAIT_CNT.COUNT : Fld := ⟨0x06080C, 0, 32⟩
/-- Offset of `PMP_STALE_CNT` (R217). -/
abbrev PMP_STALE_CNT.reg : Nat := 0x060810
def PMP_STALE_CNT.COUNT : Fld := ⟨0x060810, 0, 32⟩
/-- Offset of `PMP_COUNT_ERR_CNT` (R217). -/
abbrev PMP_COUNT_ERR_CNT.reg : Nat := 0x060814
def PMP_COUNT_ERR_CNT.COUNT : Fld := ⟨0x060814, 0, 32⟩
/-- Offset of `PMP_ROUTE` (R217). -/
abbrev PMP_ROUTE.reg (i : Nat) : Nat := 0x060900 + 0x4 * i
def PMP_ROUTE.PORTS (i : Nat) : Fld := ⟨0x060900 + 0x4 * i, 0, 16⟩

/-! CMB registers. -/

/-- Offset of `CMB_INFO` (R218). -/
abbrev CMB_INFO.reg : Nat := 0x070000
def CMB_INFO.ACC_MIB : Fld := ⟨0x070000, 0, 8⟩
def CMB_INFO.PARK_MIB : Fld := ⟨0x070000, 8, 8⟩
def CMB_INFO.TILES : Fld := ⟨0x070000, 16, 12⟩
/-- Offset of `CMB_SPILLPARK_CNT` (R218). -/
abbrev CMB_SPILLPARK_CNT.reg : Nat := 0x070004
def CMB_SPILLPARK_CNT.COUNT : Fld := ⟨0x070004, 0, 32⟩
/-- Offset of `CMB_EMPTY_CNT` (R218). -/
abbrev CMB_EMPTY_CNT.reg : Nat := 0x070008
def CMB_EMPTY_CNT.COUNT : Fld := ⟨0x070008, 0, 32⟩
/-- Offset of `CMB_DUP_CNT` (R218). -/
abbrev CMB_DUP_CNT.reg : Nat := 0x07000C
def CMB_DUP_CNT.COUNT : Fld := ⟨0x07000C, 0, 32⟩
/-- Offset of `CMB_PARK_COR_CNT` (R218). -/
abbrev CMB_PARK_COR_CNT.reg : Nat := 0x070010
def CMB_PARK_COR_CNT.COUNT : Fld := ⟨0x070010, 0, 32⟩
/-- Offset of `CMB_CTX_LEDGER` (R219). -/
abbrev CMB_CTX_LEDGER.reg (i : Nat) : Nat := 0x071000 + 0x10 * i
def CMB_CTX_LEDGER.BASE_MIB (i : Nat) : Fld := ⟨0x071000 + 0x10 * i, 0, 17⟩
/-- Offset of `CMB_CTX_LEDGER_SZ` (R219). -/
abbrev CMB_CTX_LEDGER_SZ.reg (i : Nat) : Nat := 0x071004 + 0x10 * i
def CMB_CTX_LEDGER_SZ.SIZE_MIB (i : Nat) : Fld := ⟨0x071004 + 0x10 * i, 0, 16⟩
/-- Offset of `CMB_CTX_LEDGER_USE` (R219). -/
abbrev CMB_CTX_LEDGER_USE.reg (i : Nat) : Nat := 0x071008 + 0x10 * i
def CMB_CTX_LEDGER_USE.ENTRIES (i : Nat) : Fld := ⟨0x071008 + 0x10 * i, 0, 11⟩
/-- Offset of `CMB_CTX_LEDGER_OLD` (R219). -/
abbrev CMB_CTX_LEDGER_OLD.reg (i : Nat) : Nat := 0x07100C + 0x10 * i
def CMB_CTX_LEDGER_OLD.SEQ (i : Nat) : Fld := ⟨0x07100C + 0x10 * i, 0, 32⟩

/-! WEL registers. -/

/-- Offset of `WEL_VERSION` (R246). -/
abbrev WEL_VERSION.reg (i : Nat) : Nat := 0x080000 + 0x2000 * i
def WEL_VERSION.WORD (i : Nat) : Fld := ⟨0x080000 + 0x2000 * i, 0, 32⟩
/-- Offset of `WEL_INFO` (R246). -/
abbrev WEL_INFO.reg (i : Nat) : Nat := 0x080004 + 0x2000 * i
def WEL_INFO.ENGINES (i : Nat) : Fld := ⟨0x080004 + 0x2000 * i, 0, 8⟩
def WEL_INFO.CELLS (i : Nat) : Fld := ⟨0x080004 + 0x2000 * i, 8, 4⟩
def WEL_INFO.LANES (i : Nat) : Fld := ⟨0x080004 + 0x2000 * i, 16, 12⟩
/-- Offset of `WEL_INFO2` (R246). -/
abbrev WEL_INFO2.reg (i : Nat) : Nat := 0x080008 + 0x2000 * i
def WEL_INFO2.QUEUES (i : Nat) : Fld := ⟨0x080008 + 0x2000 * i, 0, 16⟩
def WEL_INFO2.CHANNELS (i : Nat) : Fld := ⟨0x080008 + 0x2000 * i, 16, 8⟩
def WEL_INFO2.LAND_MIB (i : Nat) : Fld := ⟨0x080008 + 0x2000 * i, 24, 8⟩
/-- Offset of `WEL_STATUS` (R246). -/
abbrev WEL_STATUS.reg (i : Nat) : Nat := 0x08000C + 0x2000 * i
def WEL_STATUS.IN_SERVICE (i : Nat) : Fld := ⟨0x08000C + 0x2000 * i, 0, 1⟩
def WEL_STATUS.LINK_UP (i : Nat) : Fld := ⟨0x08000C + 0x2000 * i, 1, 1⟩
def WEL_STATUS.SUPPLY_OK (i : Nat) : Fld := ⟨0x08000C + 0x2000 * i, 2, 1⟩
/-- Offset of `WEL_FENCE` (R246). -/
abbrev WEL_FENCE.reg (i : Nat) : Nat := 0x080010 + 0x2000 * i
def WEL_FENCE.FENCED (i : Nat) : Fld := ⟨0x080010 + 0x2000 * i, 0, 16⟩
/-- Offset of `WEL_ENG_PRIO` (R246). -/
abbrev WEL_ENG_PRIO.reg (i : Nat) : Nat := 0x080014 + 0x2000 * i
def WEL_ENG_PRIO.SCORE (i : Nat) : Fld := ⟨0x080014 + 0x2000 * i, 0, 2⟩
def WEL_ENG_PRIO.EXPERT (i : Nat) : Fld := ⟨0x080014 + 0x2000 * i, 2, 2⟩
/-- Offset of `WEL_ARB_CFG` (R246). -/
abbrev WEL_ARB_CFG.reg (i : Nat) : Nat := 0x080020 + 0x2000 * i
def WEL_ARB_CFG.LOCKMAX (i : Nat) : Fld := ⟨0x080020 + 0x2000 * i, 0, 4⟩
def WEL_ARB_CFG.RD_PRIO (i : Nat) : Fld := ⟨0x080020 + 0x2000 * i, 4, 2⟩
def WEL_ARB_CFG.WR_PRIO (i : Nat) : Fld := ⟨0x080020 + 0x2000 * i, 6, 2⟩
def WEL_ARB_CFG.SCRUB_PRIO (i : Nat) : Fld := ⟨0x080020 + 0x2000 * i, 8, 2⟩
def WEL_ARB_CFG.RDM_PRIO (i : Nat) : Fld := ⟨0x080020 + 0x2000 * i, 10, 2⟩
/-- Offset of `WEL_ARB_STATUS` (R246). -/
abbrev WEL_ARB_STATUS.reg (i : Nat) : Nat := 0x080024 + 0x2000 * i
def WEL_ARB_STATUS.HOST_ADD_NS (i : Nat) : Fld := ⟨0x080024 + 0x2000 * i, 0, 8⟩
def WEL_ARB_STATUS.REF_MODE (i : Nat) : Fld := ⟨0x080024 + 0x2000 * i, 8, 1⟩
def WEL_ARB_STATUS.TRP_NS (i : Nat) : Fld := ⟨0x080024 + 0x2000 * i, 16, 6⟩
/-- Offset of `WEL_REF_CFG` (R246). -/
abbrev WEL_REF_CFG.reg (i : Nat) : Nat := 0x080028 + 0x2000 * i
def WEL_REF_CFG.TIMEOUT_US (i : Nat) : Fld := ⟨0x080028 + 0x2000 * i, 0, 8⟩
/-- Offset of `WEL_HOST_WAIT_MAX` (R246). -/
abbrev WEL_HOST_WAIT_MAX.reg (i : Nat) : Nat := 0x080030 + 0x2000 * i
def WEL_HOST_WAIT_MAX.NS (i : Nat) : Fld := ⟨0x080030 + 0x2000 * i, 0, 16⟩
/-- Offset of `WEL_OPENROW_WAIT_CNT` (R246). -/
abbrev WEL_OPENROW_WAIT_CNT.reg (i : Nat) : Nat := 0x080034 + 0x2000 * i
def WEL_OPENROW_WAIT_CNT.COUNT (i : Nat) : Fld := ⟨0x080034 + 0x2000 * i, 0, 32⟩
/-- Offset of `WEL_REF_TAKEOVER_CNT` (R246). -/
abbrev WEL_REF_TAKEOVER_CNT.reg (i : Nat) : Nat := 0x080038 + 0x2000 * i
def WEL_REF_TAKEOVER_CNT.COUNT (i : Nat) : Fld := ⟨0x080038 + 0x2000 * i, 0, 32⟩
/-- Offset of `WEL_PCAP` (R246). -/
abbrev WEL_PCAP.reg (i : Nat) : Nat := 0x080040 + 0x2000 * i
def WEL_PCAP.CAP (i : Nat) : Fld := ⟨0x080040 + 0x2000 * i, 0, 10⟩
def WEL_PCAP.WIN_US (i : Nat) : Fld := ⟨0x080040 + 0x2000 * i, 12, 4⟩
def WEL_PCAP.LOCK (i : Nat) : Fld := ⟨0x080040 + 0x2000 * i, 31, 1⟩
/-- Offset of `WEL_PCAP_HEATH` (R246). -/
abbrev WEL_PCAP_HEATH.reg (i : Nat) : Nat := 0x080044 + 0x2000 * i
def WEL_PCAP_HEATH.CAP (i : Nat) : Fld := ⟨0x080044 + 0x2000 * i, 0, 10⟩
/-- Offset of `WEL_PCAP_STATUS` (R246). -/
abbrev WEL_PCAP_STATUS.reg (i : Nat) : Nat := 0x080048 + 0x2000 * i
def WEL_PCAP_STATUS.EFF (i : Nat) : Fld := ⟨0x080048 + 0x2000 * i, 0, 10⟩
def WEL_PCAP_STATUS.THROTTLING (i : Nat) : Fld := ⟨0x080048 + 0x2000 * i, 16, 1⟩
def WEL_PCAP_STATUS.HOST_OVER (i : Nat) : Fld := ⟨0x080048 + 0x2000 * i, 17, 1⟩
/-- Offset of `WEL_THR_CNT` (R246). -/
abbrev WEL_THR_CNT.reg (i : Nat) : Nat := 0x08004C + 0x2000 * i
def WEL_THR_CNT.COUNT (i : Nat) : Fld := ⟨0x08004C + 0x2000 * i, 0, 32⟩
/-- Offset of `WEL_COEF_ACT` (R246). -/
abbrev WEL_COEF_ACT.reg (i : Nat) : Nat := 0x080050 + 0x2000 * i
def WEL_COEF_ACT.PJ (i : Nat) : Fld := ⟨0x080050 + 0x2000 * i, 0, 16⟩
/-- Offset of `WEL_COEF_RD` (R246). -/
abbrev WEL_COEF_RD.reg (i : Nat) : Nat := 0x080054 + 0x2000 * i
def WEL_COEF_RD.FJ (i : Nat) : Fld := ⟨0x080054 + 0x2000 * i, 0, 16⟩
/-- Offset of `WEL_COEF_WR` (R246). -/
abbrev WEL_COEF_WR.reg (i : Nat) : Nat := 0x080058 + 0x2000 * i
def WEL_COEF_WR.FJ (i : Nat) : Fld := ⟨0x080058 + 0x2000 * i, 0, 16⟩
/-- Offset of `WEL_COEF_STATIC` (R246). -/
abbrev WEL_COEF_STATIC.reg (i : Nat) : Nat := 0x08005C + 0x2000 * i
def WEL_COEF_STATIC.MW (i : Nat) : Fld := ⟨0x08005C + 0x2000 * i, 0, 16⟩
/-- Offset of `WEL_ENERGY_LO` (R246). -/
abbrev WEL_ENERGY_LO.reg (i : Nat) : Nat := 0x080060 + 0x2000 * i
def WEL_ENERGY_LO.UJ (i : Nat) : Fld := ⟨0x080060 + 0x2000 * i, 0, 32⟩
/-- Offset of `WEL_ENERGY_HI` (R246). -/
abbrev WEL_ENERGY_HI.reg (i : Nat) : Nat := 0x080064 + 0x2000 * i
def WEL_ENERGY_HI.UJ (i : Nat) : Fld := ⟨0x080064 + 0x2000 * i, 0, 32⟩
/-- Offset of `WEL_SAT_CNT` (R246). -/
abbrev WEL_SAT_CNT.reg (i : Nat) : Nat := 0x080070 + 0x2000 * i
def WEL_SAT_CNT.COUNT (i : Nat) : Fld := ⟨0x080070 + 0x2000 * i, 0, 32⟩
/-- Offset of `WEL_PARTIAL_CNT` (R246). -/
abbrev WEL_PARTIAL_CNT.reg (i : Nat) : Nat := 0x080074 + 0x2000 * i
def WEL_PARTIAL_CNT.COUNT (i : Nat) : Fld := ⟨0x080074 + 0x2000 * i, 0, 32⟩
/-- Offset of `WEL_DIR_ERR_CNT` (R246). -/
abbrev WEL_DIR_ERR_CNT.reg (i : Nat) : Nat := 0x080078 + 0x2000 * i
def WEL_DIR_ERR_CNT.COUNT (i : Nat) : Fld := ⟨0x080078 + 0x2000 * i, 0, 32⟩
/-- Offset of `WEL_CTX_DIR0` (R247). -/
abbrev WEL_CTX_DIR0.reg (i : Nat) (j : Nat) : Nat := 0x081000 + 0x2000 * i + 0x40 * j
def WEL_CTX_DIR0.BASE_MIB (i : Nat) (j : Nat) : Fld := ⟨0x081000 + 0x2000 * i + 0x40 * j, 0, 17⟩
/-- Offset of `WEL_CTX_DIR1` (R247). -/
abbrev WEL_CTX_DIR1.reg (i : Nat) (j : Nat) : Nat := 0x081004 + 0x2000 * i + 0x40 * j
def WEL_CTX_DIR1.BASE_MIB (i : Nat) (j : Nat) : Fld := ⟨0x081004 + 0x2000 * i + 0x40 * j, 0, 17⟩
/-- Offset of `WEL_CTX_DIRSZ` (R247). -/
abbrev WEL_CTX_DIRSZ.reg (i : Nat) (j : Nat) : Nat := 0x081008 + 0x2000 * i + 0x40 * j
def WEL_CTX_DIRSZ.DSTRIDE (i : Nat) (j : Nat) : Fld := ⟨0x081008 + 0x2000 * i + 0x40 * j, 0, 15⟩
def WEL_CTX_DIRSZ.SIZE_MIB (i : Nat) (j : Nat) : Fld := ⟨0x081008 + 0x2000 * i + 0x40 * j, 16, 16⟩
/-- Offset of `WEL_CTX_WBASE` (R247). -/
abbrev WEL_CTX_WBASE.reg (i : Nat) (j : Nat) : Nat := 0x08100C + 0x2000 * i + 0x40 * j
def WEL_CTX_WBASE.BASE_MIB (i : Nat) (j : Nat) : Fld := ⟨0x08100C + 0x2000 * i + 0x40 * j, 0, 17⟩
/-- Offset of `WEL_CTX_WSIZE` (R247). -/
abbrev WEL_CTX_WSIZE.reg (i : Nat) (j : Nat) : Nat := 0x081010 + 0x2000 * i + 0x40 * j
def WEL_CTX_WSIZE.SIZE_MIB (i : Nat) (j : Nat) : Fld := ⟨0x081010 + 0x2000 * i + 0x40 * j, 0, 17⟩
/-- Offset of `WEL_CTX_ACTLOG` (R247). -/
abbrev WEL_CTX_ACTLOG.reg (i : Nat) (j : Nat) : Nat := 0x081014 + 0x2000 * i + 0x40 * j
def WEL_CTX_ACTLOG.BASE_MIB (i : Nat) (j : Nat) : Fld := ⟨0x081014 + 0x2000 * i + 0x40 * j, 0, 17⟩
/-- Offset of `WEL_CTX_ACTLOG_SZ` (R247). -/
abbrev WEL_CTX_ACTLOG_SZ.reg (i : Nat) (j : Nat) : Nat := 0x081018 + 0x2000 * i + 0x40 * j
def WEL_CTX_ACTLOG_SZ.SIZE_MIB (i : Nat) (j : Nat) : Fld := ⟨0x081018 + 0x2000 * i + 0x40 * j, 0, 16⟩
/-- Offset of `WEL_CTX_GLOG` (R247). -/
abbrev WEL_CTX_GLOG.reg (i : Nat) (j : Nat) : Nat := 0x08101C + 0x2000 * i + 0x40 * j
def WEL_CTX_GLOG.BASE_MIB (i : Nat) (j : Nat) : Fld := ⟨0x08101C + 0x2000 * i + 0x40 * j, 0, 17⟩
/-- Offset of `WEL_CTX_GLOG_SZ` (R247). -/
abbrev WEL_CTX_GLOG_SZ.reg (i : Nat) (j : Nat) : Nat := 0x081020 + 0x2000 * i + 0x40 * j
def WEL_CTX_GLOG_SZ.SIZE_MIB (i : Nat) (j : Nat) : Fld := ⟨0x081020 + 0x2000 * i + 0x40 * j, 0, 16⟩
/-- Offset of `WEL_CTX_ECHO` (R247). -/
abbrev WEL_CTX_ECHO.reg (i : Nat) (j : Nat) : Nat := 0x081024 + 0x2000 * i + 0x40 * j
def WEL_CTX_ECHO.BASE_MIB (i : Nat) (j : Nat) : Fld := ⟨0x081024 + 0x2000 * i + 0x40 * j, 0, 17⟩
def WEL_CTX_ECHO.SIZE_MIB (i : Nat) (j : Nat) : Fld := ⟨0x081024 + 0x2000 * i + 0x40 * j, 17, 8⟩

/-! COL registers. -/

/-- Offset of `COL_INFO` (R274). -/
abbrev COL_INFO.reg : Nat := 0x0C0000
def COL_INFO.CHANNELS : Fld := ⟨0x0C0000, 0, 8⟩
def COL_INFO.MAXMEM : Fld := ⟨0x0C0000, 8, 8⟩
/-- Offset of `COL_CFG` (R274). -/
abbrev COL_CFG.reg : Nat := 0x0C0004
def COL_CFG.THRESH_KIB : Fld := ⟨0x0C0004, 0, 16⟩
def COL_CFG.WD_LIMIT : Fld := ⟨0x0C0004, 16, 4⟩
def COL_CFG.RESTART_MAX : Fld := ⟨0x0C0004, 20, 3⟩
/-- Offset of `COL_HK_CFG` (R274). -/
abbrev COL_HK_CFG.reg : Nat := 0x0C0008
def COL_HK_CFG.PERIOD : Fld := ⟨0x0C0008, 0, 16⟩
def COL_HK_CFG.WAIT : Fld := ⟨0x0C0008, 16, 4⟩
def COL_HK_CFG.ENABLE : Fld := ⟨0x0C0008, 31, 1⟩
/-- Offset of `COL_HK_SLOWEST` (R274). -/
abbrev COL_HK_SLOWEST.reg : Nat := 0x0C000C
def COL_HK_SLOWEST.CHIP : Fld := ⟨0x0C000C, 0, 6⟩
def COL_HK_SLOWEST.VALID : Fld := ⟨0x0C000C, 6, 1⟩
def COL_HK_SLOWEST.MISSING : Fld := ⟨0x0C000C, 7, 1⟩
def COL_HK_SLOWEST.LATE : Fld := ⟨0x0C000C, 8, 24⟩
/-- Offset of `COL_STALL_CNT` (R274). -/
abbrev COL_STALL_CNT.reg : Nat := 0x0C0010
def COL_STALL_CNT.COUNT : Fld := ⟨0x0C0010, 0, 32⟩
/-- Offset of `COL_RESTART_CNT` (R274). -/
abbrev COL_RESTART_CNT.reg : Nat := 0x0C0014
def COL_RESTART_CNT.COUNT : Fld := ⟨0x0C0014, 0, 32⟩
/-- Offset of `COL_STALE_CNT` (R274). -/
abbrev COL_STALE_CNT.reg : Nat := 0x0C0018
def COL_STALE_CNT.COUNT : Fld := ⟨0x0C0018, 0, 32⟩
/-- Offset of `COL_DROP_CNT` (R274). -/
abbrev COL_DROP_CNT.reg : Nat := 0x0C001C
def COL_DROP_CNT.COUNT : Fld := ⟨0x0C001C, 0, 32⟩
/-- Offset of `COL_HK_MISS` (R274). -/
abbrev COL_HK_MISS.reg (i : Nat) : Nat := 0x0C0100 + 0x4 * i
def COL_HK_MISS.COUNT (i : Nat) : Fld := ⟨0x0C0100 + 0x4 * i, 0, 32⟩
/-- Offset of `COL_CH_CTRL` (R275). -/
abbrev COL_CH_CTRL.reg (i : Nat) : Nat := 0x0C1000 + 0x20 * i
def COL_CH_CTRL.ENABLE (i : Nat) : Fld := ⟨0x0C1000 + 0x20 * i, 0, 1⟩
def COL_CH_CTRL.CTX (i : Nat) : Fld := ⟨0x0C1000 + 0x20 * i, 4, 4⟩
def COL_CH_CTRL.IRQ_EN (i : Nat) : Fld := ⟨0x0C1000 + 0x20 * i, 8, 1⟩
/-- Offset of `COL_CH_SEQ` (R275). -/
abbrev COL_CH_SEQ.reg (i : Nat) : Nat := 0x0C1004 + 0x20 * i
def COL_CH_SEQ.SEQ (i : Nat) : Fld := ⟨0x0C1004 + 0x20 * i, 0, 32⟩
/-- Offset of `COL_CH_STATUS` (R275). -/
abbrev COL_CH_STATUS.reg (i : Nat) : Nat := 0x0C1008 + 0x20 * i
def COL_CH_STATUS.STATE (i : Nat) : Fld := ⟨0x0C1008 + 0x20 * i, 0, 3⟩
def COL_CH_STATUS.ALG_USED (i : Nat) : Fld := ⟨0x0C1008 + 0x20 * i, 4, 2⟩
def COL_CH_STATUS.ATT (i : Nat) : Fld := ⟨0x0C1008 + 0x20 * i, 6, 3⟩
/-- Offset of `COL_CH_READY` (R275). -/
abbrev COL_CH_READY.reg (i : Nat) : Nat := 0x0C100C + 0x20 * i
def COL_CH_READY.READY (i : Nat) : Fld := ⟨0x0C100C + 0x20 * i, 0, 32⟩
/-- Offset of `COL_CH_DONE_CNT` (R275). -/
abbrev COL_CH_DONE_CNT.reg (i : Nat) : Nat := 0x0C1010 + 0x20 * i
def COL_CH_DONE_CNT.COUNT (i : Nat) : Fld := ⟨0x0C1010 + 0x20 * i, 0, 32⟩

/-! CTX registers. -/

/-- Offset of `CTX_INFO` (R297). -/
abbrev CTX_INFO.reg : Nat := 0x0D0000
def CTX_INFO.CONTEXTS : Fld := ⟨0x0D0000, 0, 5⟩
def CTX_INFO.ACC_KIB : Fld := ⟨0x0D0000, 8, 8⟩
/-- Offset of `CTX_QUANTUM` (R297). -/
abbrev CTX_QUANTUM.reg : Nat := 0x0D0004
def CTX_QUANTUM.CYCLES : Fld := ⟨0x0D0004, 0, 16⟩
/-- Offset of `CTX_TPL_SRC_LO` (R297). -/
abbrev CTX_TPL_SRC_LO.reg : Nat := 0x0D0008
def CTX_TPL_SRC_LO.ADDR : Fld := ⟨0x0D0008, 6, 26⟩
/-- Offset of `CTX_TPL_SRC_HI` (R297). -/
abbrev CTX_TPL_SRC_HI.reg : Nat := 0x0D000C
def CTX_TPL_SRC_HI.ADDR : Fld := ⟨0x0D000C, 0, 32⟩
/-- Offset of `CTX_TPL_CTRL` (R297). -/
abbrev CTX_TPL_CTRL.reg : Nat := 0x0D0010
def CTX_TPL_CTRL.CTX : Fld := ⟨0x0D0010, 0, 4⟩
def CTX_TPL_CTRL.LEN : Fld := ⟨0x0D0010, 4, 9⟩
def CTX_TPL_CTRL.GO : Fld := ⟨0x0D0010, 31, 1⟩
/-- Offset of `CTX_TPL_STATUS` (R297). -/
abbrev CTX_TPL_STATUS.reg : Nat := 0x0D0014
def CTX_TPL_STATUS.BUSY : Fld := ⟨0x0D0014, 0, 1⟩
def CTX_TPL_STATUS.DONE : Fld := ⟨0x0D0014, 1, 1⟩
def CTX_TPL_STATUS.ERR : Fld := ⟨0x0D0014, 2, 4⟩
/-- Offset of `CTX_COEF_MAC` (R297). -/
abbrev CTX_COEF_MAC.reg : Nat := 0x0D0018
def CTX_COEF_MAC.FJ : Fld := ⟨0x0D0018, 0, 16⟩
/-- Offset of `CTX_COEF_FLIT` (R297). -/
abbrev CTX_COEF_FLIT.reg : Nat := 0x0D001C
def CTX_COEF_FLIT.PJ : Fld := ⟨0x0D001C, 0, 16⟩
/-- Offset of `CTX_COEF_HOSTB` (R297). -/
abbrev CTX_COEF_HOSTB.reg : Nat := 0x0D0020
def CTX_COEF_HOSTB.FJ : Fld := ⟨0x0D0020, 0, 16⟩
/-- Offset of `CTX_COEF_LOCK` (R297). -/
abbrev CTX_COEF_LOCK.reg : Nat := 0x0D0024
def CTX_COEF_LOCK.LOCK : Fld := ⟨0x0D0024, 0, 1⟩
/-- Offset of `CTX_ROLL_LO` (R297). -/
abbrev CTX_ROLL_LO.reg : Nat := 0x0D0028
def CTX_ROLL_LO.ADDR : Fld := ⟨0x0D0028, 6, 26⟩
/-- Offset of `CTX_ROLL_HI` (R297). -/
abbrev CTX_ROLL_HI.reg : Nat := 0x0D002C
def CTX_ROLL_HI.ADDR : Fld := ⟨0x0D002C, 0, 32⟩
/-- Offset of `CTX_SWITCH_CNT` (R297). -/
abbrev CTX_SWITCH_CNT.reg : Nat := 0x0D0030
def CTX_SWITCH_CNT.COUNT : Fld := ⟨0x0D0030, 0, 32⟩
/-- Offset of `CTX_SWITCH_MAX` (R297). -/
abbrev CTX_SWITCH_MAX.reg : Nat := 0x0D0034
def CTX_SWITCH_MAX.CYCLES : Fld := ⟨0x0D0034, 0, 16⟩
/-- Offset of `CTX_TAKE_EMPTY_CNT` (R297). -/
abbrev CTX_TAKE_EMPTY_CNT.reg : Nat := 0x0D0038
def CTX_TAKE_EMPTY_CNT.COUNT : Fld := ⟨0x0D0038, 0, 32⟩
/-- Offset of `CTX_MEMBERS_LO` (R298). -/
abbrev CTX_MEMBERS_LO.reg (i : Nat) : Nat := 0x0D1000 + 0x80 * i
def CTX_MEMBERS_LO.CHIPS (i : Nat) : Fld := ⟨0x0D1000 + 0x80 * i, 0, 32⟩
/-- Offset of `CTX_MEMBERS_HI` (R298). -/
abbrev CTX_MEMBERS_HI.reg (i : Nat) : Nat := 0x0D1004 + 0x80 * i
def CTX_MEMBERS_HI.CHIPS (i : Nat) : Fld := ⟨0x0D1004 + 0x80 * i, 0, 32⟩
/-- Offset of `CTX_PLAN0` (R298). -/
abbrev CTX_PLAN0.reg (i : Nat) : Nat := 0x0D1008 + 0x80 * i
def CTX_PLAN0.MAX_TOK (i : Nat) : Fld := ⟨0x0D1008 + 0x80 * i, 0, 20⟩
def CTX_PLAN0.MAX_K (i : Nat) : Fld := ⟨0x0D1008 + 0x80 * i, 20, 6⟩
def CTX_PLAN0.MAX_SHARED (i : Nat) : Fld := ⟨0x0D1008 + 0x80 * i, 26, 3⟩
/-- Offset of `CTX_PLAN1` (R298). -/
abbrev CTX_PLAN1.reg (i : Nat) : Nat := 0x0D100C + 0x80 * i
def CTX_PLAN1.LAYERS (i : Nat) : Fld := ⟨0x0D100C + 0x80 * i, 0, 11⟩
def CTX_PLAN1.MAX_VOCAB (i : Nat) : Fld := ⟨0x0D100C + 0x80 * i, 11, 19⟩
/-- Offset of `CTX_SHARE` (R298). -/
abbrev CTX_SHARE.reg (i : Nat) : Nat := 0x0D1010 + 0x80 * i
def CTX_SHARE.SHARE (i : Nat) : Fld := ⟨0x0D1010 + 0x80 * i, 0, 16⟩
/-- Offset of `CTX_ORDER` (R298). -/
abbrev CTX_ORDER.reg (i : Nat) : Nat := 0x0D1014 + 0x80 * i
def CTX_ORDER.OUT_MODE (i : Nat) : Fld := ⟨0x0D1014 + 0x80 * i, 0, 2⟩
def CTX_ORDER.IN_MODE (i : Nat) : Fld := ⟨0x0D1014 + 0x80 * i, 2, 2⟩
def CTX_ORDER.OT (i : Nat) : Fld := ⟨0x0D1014 + 0x80 * i, 4, 4⟩
def CTX_ORDER.OE (i : Nat) : Fld := ⟨0x0D1014 + 0x80 * i, 8, 4⟩
def CTX_ORDER.AFF (i : Nat) : Fld := ⟨0x0D1014 + 0x80 * i, 12, 1⟩
/-- Offset of `CTX_PRED` (R298). -/
abbrev CTX_PRED.reg (i : Nat) : Nat := 0x0D1018 + 0x80 * i
def CTX_PRED.COLW (i : Nat) : Fld := ⟨0x0D1018 + 0x80 * i, 0, 8⟩
def CTX_PRED.NCOLB (i : Nat) : Fld := ⟨0x0D1018 + 0x80 * i, 8, 10⟩
def CTX_PRED.LASTW (i : Nat) : Fld := ⟨0x0D1018 + 0x80 * i, 20, 8⟩
/-- Offset of `CTX_STATUS` (R298). -/
abbrev CTX_STATUS.reg (i : Nat) : Nat := 0x0D101C + 0x80 * i
def CTX_STATUS.TPL_V (i : Nat) : Fld := ⟨0x0D101C + 0x80 * i, 0, 1⟩
/-- Offset of `CTX_SPILL` (R298). -/
abbrev CTX_SPILL.reg (i : Nat) : Nat := 0x0D1020 + 0x80 * i
def CTX_SPILL.BASE_MIB (i : Nat) : Fld := ⟨0x0D1020 + 0x80 * i, 0, 17⟩
def CTX_SPILL.V (i : Nat) : Fld := ⟨0x0D1020 + 0x80 * i, 31, 1⟩
/-- Offset of `CTX_ACC_CYC_LO` (R298). -/
abbrev CTX_ACC_CYC_LO.reg (i : Nat) : Nat := 0x0D1028 + 0x80 * i
def CTX_ACC_CYC_LO.VAL (i : Nat) : Fld := ⟨0x0D1028 + 0x80 * i, 0, 32⟩
/-- Offset of `CTX_ACC_CYC_HI` (R298). -/
abbrev CTX_ACC_CYC_HI.reg (i : Nat) : Nat := 0x0D102C + 0x80 * i
def CTX_ACC_CYC_HI.VAL (i : Nat) : Fld := ⟨0x0D102C + 0x80 * i, 0, 32⟩
/-- Offset of `CTX_ACC_LINKB_LO` (R298). -/
abbrev CTX_ACC_LINKB_LO.reg (i : Nat) : Nat := 0x0D1030 + 0x80 * i
def CTX_ACC_LINKB_LO.VAL (i : Nat) : Fld := ⟨0x0D1030 + 0x80 * i, 0, 32⟩
/-- Offset of `CTX_ACC_LINKB_HI` (R298). -/
abbrev CTX_ACC_LINKB_HI.reg (i : Nat) : Nat := 0x0D1034 + 0x80 * i
def CTX_ACC_LINKB_HI.VAL (i : Nat) : Fld := ⟨0x0D1034 + 0x80 * i, 0, 32⟩
/-- Offset of `CTX_ACC_DRAMB_LO` (R298). -/
abbrev CTX_ACC_DRAMB_LO.reg (i : Nat) : Nat := 0x0D1038 + 0x80 * i
def CTX_ACC_DRAMB_LO.VAL (i : Nat) : Fld := ⟨0x0D1038 + 0x80 * i, 0, 32⟩
/-- Offset of `CTX_ACC_DRAMB_HI` (R298). -/
abbrev CTX_ACC_DRAMB_HI.reg (i : Nat) : Nat := 0x0D103C + 0x80 * i
def CTX_ACC_DRAMB_HI.VAL (i : Nat) : Fld := ⟨0x0D103C + 0x80 * i, 0, 32⟩
/-- Offset of `CTX_ACC_HOSTB_LO` (R298). -/
abbrev CTX_ACC_HOSTB_LO.reg (i : Nat) : Nat := 0x0D1040 + 0x80 * i
def CTX_ACC_HOSTB_LO.VAL (i : Nat) : Fld := ⟨0x0D1040 + 0x80 * i, 0, 32⟩
/-- Offset of `CTX_ACC_HOSTB_HI` (R298). -/
abbrev CTX_ACC_HOSTB_HI.reg (i : Nat) : Nat := 0x0D1044 + 0x80 * i
def CTX_ACC_HOSTB_HI.VAL (i : Nat) : Fld := ⟨0x0D1044 + 0x80 * i, 0, 32⟩
/-- Offset of `CTX_ACC_UJ_LO` (R298). -/
abbrev CTX_ACC_UJ_LO.reg (i : Nat) : Nat := 0x0D1048 + 0x80 * i
def CTX_ACC_UJ_LO.VAL (i : Nat) : Fld := ⟨0x0D1048 + 0x80 * i, 0, 32⟩
/-- Offset of `CTX_ACC_UJ_HI` (R298). -/
abbrev CTX_ACC_UJ_HI.reg (i : Nat) : Nat := 0x0D104C + 0x80 * i
def CTX_ACC_UJ_HI.VAL (i : Nat) : Fld := ⟨0x0D104C + 0x80 * i, 0, 32⟩
/-- Offset of `CTX_ACC_STEPS` (R298). -/
abbrev CTX_ACC_STEPS.reg (i : Nat) : Nat := 0x0D1050 + 0x80 * i
def CTX_ACC_STEPS.COUNT (i : Nat) : Fld := ⟨0x0D1050 + 0x80 * i, 0, 32⟩
/-- Offset of `CTX_ACC_REPLAYS` (R298). -/
abbrev CTX_ACC_REPLAYS.reg (i : Nat) : Nat := 0x0D1054 + 0x80 * i
def CTX_ACC_REPLAYS.COUNT (i : Nat) : Fld := ⟨0x0D1054 + 0x80 * i, 0, 32⟩
/-- Offset of `CTX_ACC_HTILES` (R298). -/
abbrev CTX_ACC_HTILES.reg (i : Nat) : Nat := 0x0D1058 + 0x80 * i
def CTX_ACC_HTILES.COUNT (i : Nat) : Fld := ⟨0x0D1058 + 0x80 * i, 0, 32⟩

/-! SVC registers. -/

/-- Offset of `SVC_ID` (R327). -/
abbrev SVC_ID.reg : Nat := 0x0E0000
def SVC_ID.CHIP : Fld := ⟨0x0E0000, 0, 6⟩
def SVC_ID.LOCK : Fld := ⟨0x0E0000, 15, 1⟩
def SVC_ID.DOMAIN : Fld := ⟨0x0E0000, 16, 16⟩
/-- Offset of `SVC_CTRL` (R327). -/
abbrev SVC_CTRL.reg : Nat := 0x0E0004
def SVC_CTRL.REQ : Fld := ⟨0x0E0004, 0, 1⟩
def SVC_CTRL.AUTO_REQ : Fld := ⟨0x0E0004, 1, 1⟩
def SVC_CTRL.LEAVE : Fld := ⟨0x0E0004, 2, 1⟩
/-- Offset of `SVC_DEB` (R327). -/
abbrev SVC_DEB.reg : Nat := 0x0E0008
def SVC_DEB.BTN_MS : Fld := ⟨0x0E0008, 0, 8⟩
def SVC_DEB.PRS_IN_MS : Fld := ⟨0x0E0008, 8, 8⟩
def SVC_DEB.PRS_OUT_MS : Fld := ⟨0x0E0008, 16, 8⟩
def SVC_DEB.WINDOW_S : Fld := ⟨0x0E0008, 24, 8⟩
/-- Offset of `SVC_BEACON` (R327). -/
abbrev SVC_BEACON.reg : Nat := 0x0E000C
def SVC_BEACON.PERIOD_US : Fld := ⟨0x0E000C, 0, 8⟩
def SVC_BEACON.ABS_US : Fld := ⟨0x0E000C, 8, 8⟩
/-- Offset of `SVC_DRAIN` (R327). -/
abbrev SVC_DRAIN.reg : Nat := 0x0E0010
def SVC_DRAIN.CTX : Fld := ⟨0x0E0010, 0, 16⟩
/-- Offset of `SVC_ABSENT_LO` (R327). -/
abbrev SVC_ABSENT_LO.reg : Nat := 0x0E0014
def SVC_ABSENT_LO.CHIPS : Fld := ⟨0x0E0014, 0, 32⟩
/-- Offset of `SVC_ABSENT_HI` (R327). -/
abbrev SVC_ABSENT_HI.reg : Nat := 0x0E0018
def SVC_ABSENT_HI.CHIPS : Fld := ⟨0x0E0018, 0, 32⟩
/-- Offset of `SVC_BYP_CTRL` (R327). -/
abbrev SVC_BYP_CTRL.reg : Nat := 0x0E001C
def SVC_BYP_CTRL.FORCE_INT : Fld := ⟨0x0E001C, 0, 1⟩
def SVC_BYP_CTRL.HOLD : Fld := ⟨0x0E001C, 1, 1⟩
/-- Offset of `SVC_BYP_STATUS` (R327). -/
abbrev SVC_BYP_STATUS.reg : Nat := 0x0E0020
def SVC_BYP_STATUS.INT : Fld := ⟨0x0E0020, 0, 1⟩
def SVC_BYP_STATUS.EXT : Fld := ⟨0x0E0020, 1, 1⟩
/-- Offset of `SVC_PORT` (R327). -/
abbrev SVC_PORT.reg (i : Nat) : Nat := 0x0E0100 + 0x8 * i
def SVC_PORT.LOCATE (i : Nat) : Fld := ⟨0x0E0100 + 0x8 * i, 0, 1⟩
def SVC_PORT.FORCE_SAFE (i : Nat) : Fld := ⟨0x0E0100 + 0x8 * i, 1, 1⟩
def SVC_PORT.BTN_EN (i : Nat) : Fld := ⟨0x0E0100 + 0x8 * i, 2, 1⟩
/-- Offset of `SVC_PORT_STATUS` (R327). -/
abbrev SVC_PORT_STATUS.reg (i : Nat) : Nat := 0x0E0104 + 0x8 * i
def SVC_PORT_STATUS.RPHASE (i : Nat) : Fld := ⟨0x0E0104 + 0x8 * i, 0, 3⟩
def SVC_PORT_STATUS.PRESENT (i : Nat) : Fld := ⟨0x0E0104 + 0x8 * i, 3, 1⟩
def SVC_PORT_STATUS.NEEDED (i : Nat) : Fld := ⟨0x0E0104 + 0x8 * i, 4, 1⟩

/-! RAS registers. -/

/-- Offset of `RAS_CFG` (R408). -/
abbrev RAS_CFG.reg : Nat := 0x0F0000
def RAS_CFG.CE_THRESH : Fld := ⟨0x0F0000, 0, 8⟩
def RAS_CFG.AUTO_REL : Fld := ⟨0x0F0000, 8, 1⟩
def RAS_CFG.DBG_HOLD_US : Fld := ⟨0x0F0000, 16, 16⟩
/-- Offset of `RAS_COR_CNT` (R408). -/
abbrev RAS_COR_CNT.reg : Nat := 0x0F0004
def RAS_COR_CNT.COUNT : Fld := ⟨0x0F0004, 0, 32⟩
/-- Offset of `RAS_UNC_CNT` (R408). -/
abbrev RAS_UNC_CNT.reg : Nat := 0x0F0008
def RAS_UNC_CNT.COUNT : Fld := ⟨0x0F0008, 0, 32⟩
/-- Offset of `RAS_ADDRMIS_CNT` (R408). -/
abbrev RAS_ADDRMIS_CNT.reg : Nat := 0x0F000C
def RAS_ADDRMIS_CNT.COUNT : Fld := ⟨0x0F000C, 0, 32⟩
/-- Offset of `RAS_RESIDUE_CNT` (R408). -/
abbrev RAS_RESIDUE_CNT.reg : Nat := 0x0F0010
def RAS_RESIDUE_CNT.COUNT : Fld := ⟨0x0F0010, 0, 32⟩
/-- Offset of `RAS_LOCKED_WR_CNT` (R408). -/
abbrev RAS_LOCKED_WR_CNT.reg : Nat := 0x0F0014
def RAS_LOCKED_WR_CNT.COUNT : Fld := ⟨0x0F0014, 0, 32⟩
/-- Offset of `RAS_LATE_NOTICE_CNT` (R408). -/
abbrev RAS_LATE_NOTICE_CNT.reg : Nat := 0x0F0018
def RAS_LATE_NOTICE_CNT.COUNT : Fld := ⟨0x0F0018, 0, 32⟩
/-- Offset of `RAS_UE_ADDR_LO` (R408). -/
abbrev RAS_UE_ADDR_LO.reg : Nat := 0x0F0020
def RAS_UE_ADDR_LO.ADDR : Fld := ⟨0x0F0020, 0, 32⟩
/-- Offset of `RAS_UE_ADDR_HI` (R408). -/
abbrev RAS_UE_ADDR_HI.reg : Nat := 0x0F0024
def RAS_UE_ADDR_HI.ADDR : Fld := ⟨0x0F0024, 0, 16⟩
def RAS_UE_ADDR_HI.PART : Fld := ⟨0x0F0024, 16, 5⟩
def RAS_UE_ADDR_HI.MEM : Fld := ⟨0x0F0024, 21, 3⟩
/-- Offset of `RAS_FENCE_HUB` (R408). -/
abbrev RAS_FENCE_HUB.reg : Nat := 0x0F0028
def RAS_FENCE_HUB.FENCED : Fld := ⟨0x0F0028, 0, 4⟩
/-- Offset of `RAS_FREEZE` (R408). -/
abbrev RAS_FREEZE.reg : Nat := 0x0F0030
def RAS_FREEZE.CTX : Fld := ⟨0x0F0030, 0, 16⟩
def RAS_FREEZE.DEBUG : Fld := ⟨0x0F0030, 16, 1⟩
/-- Offset of `RAS_FREEZE_WELL` (R408). -/
abbrev RAS_FREEZE_WELL.reg : Nat := 0x0F0034
def RAS_FREEZE_WELL.WELLS : Fld := ⟨0x0F0034, 0, 24⟩
/-- Offset of `RAS_FREEZE_PEER_LO` (R408). -/
abbrev RAS_FREEZE_PEER_LO.reg : Nat := 0x0F0038
def RAS_FREEZE_PEER_LO.CHIPS : Fld := ⟨0x0F0038, 0, 32⟩
/-- Offset of `RAS_FREEZE_PEER_HI` (R408). -/
abbrev RAS_FREEZE_PEER_HI.reg : Nat := 0x0F003C
def RAS_FREEZE_PEER_HI.CHIPS : Fld := ⟨0x0F003C, 0, 32⟩
/-- Offset of `RAS_WDOG` (R408). -/
abbrev RAS_WDOG.reg : Nat := 0x0F0040
def RAS_WDOG.PERIOD_US : Fld := ⟨0x0F0040, 0, 16⟩
def RAS_WDOG.LOCK : Fld := ⟨0x0F0040, 31, 1⟩
/-- Offset of `RAS_IRQ_STATUS` (R408). -/
abbrev RAS_IRQ_STATUS.reg : Nat := 0x0F0044
def RAS_IRQ_STATUS.UE : Fld := ⟨0x0F0044, 0, 1⟩
def RAS_IRQ_STATUS.FENCE : Fld := ⟨0x0F0044, 1, 1⟩
def RAS_IRQ_STATUS.FREEZE : Fld := ⟨0x0F0044, 2, 1⟩
def RAS_IRQ_STATUS.FAILOVER : Fld := ⟨0x0F0044, 3, 1⟩
def RAS_IRQ_STATUS.MIRROR : Fld := ⟨0x0F0044, 4, 1⟩
def RAS_IRQ_STATUS.THERMAL : Fld := ⟨0x0F0044, 5, 1⟩
/-- Offset of `RAS_IRQ_EN` (R408). -/
abbrev RAS_IRQ_EN.reg : Nat := 0x0F0048
def RAS_IRQ_EN.EN : Fld := ⟨0x0F0048, 0, 6⟩

/-! EVR registers. -/

/-- Offset of `EVR_CTRL` (R423). -/
abbrev EVR_CTRL.reg : Nat := 0x100000
def EVR_CTRL.LEVEL : Fld := ⟨0x100000, 0, 2⟩
def EVR_CTRL.FAULT_SEV : Fld := ⟨0x100000, 2, 2⟩
def EVR_CTRL.FLUSH : Fld := ⟨0x100000, 4, 1⟩
def EVR_CTRL.CLEAR : Fld := ⟨0x100000, 5, 1⟩
def EVR_CTRL.NV_ERASE : Fld := ⟨0x100000, 6, 1⟩
def EVR_CTRL.TRICKLE_N : Fld := ⟨0x100000, 8, 8⟩
def EVR_CTRL.TRICKLE_S : Fld := ⟨0x100000, 16, 8⟩
def EVR_CTRL.PF_MAX : Fld := ⟨0x100000, 24, 8⟩
/-- Offset of `EVR_STATUS` (R423). -/
abbrev EVR_STATUS.reg : Nat := 0x100004
def EVR_STATUS.NV : Fld := ⟨0x100004, 0, 1⟩
def EVR_STATUS.FLUSHING : Fld := ⟨0x100004, 1, 1⟩
def EVR_STATUS.ERASING : Fld := ⟨0x100004, 2, 1⟩
def EVR_STATUS.UNFLUSHED : Fld := ⟨0x100004, 16, 13⟩
/-- Offset of `EVR_RATE` (R423). -/
abbrev EVR_RATE.reg : Nat := 0x100008
def EVR_RATE.RATE : Fld := ⟨0x100008, 0, 8⟩
def EVR_RATE.BURST : Fld := ⟨0x100008, 8, 4⟩
/-- Offset of `EVR_NEWEST` (R423). -/
abbrev EVR_NEWEST.reg : Nat := 0x10000C
def EVR_NEWEST.RSEQ : Fld := ⟨0x10000C, 0, 32⟩
/-- Offset of `EVR_OLDEST` (R423). -/
abbrev EVR_OLDEST.reg : Nat := 0x100010
def EVR_OLDEST.RSEQ : Fld := ⟨0x100010, 0, 32⟩
/-- Offset of `EVR_FLUSHED` (R423). -/
abbrev EVR_FLUSHED.reg : Nat := 0x100014
def EVR_FLUSHED.RSEQ : Fld := ⟨0x100014, 0, 32⟩
/-- Offset of `EVR_OPSEC` (R423). -/
abbrev EVR_OPSEC.reg : Nat := 0x100018
def EVR_OPSEC.SEC : Fld := ⟨0x100018, 0, 32⟩
/-- Offset of `EVR_PCYC` (R423). -/
abbrev EVR_PCYC.reg : Nat := 0x10001C
def EVR_PCYC.COUNT : Fld := ⟨0x10001C, 0, 24⟩
/-- Offset of `EVR_TRIG` (R423). -/
abbrev EVR_TRIG.reg : Nat := 0x100020
def EVR_TRIG.NUM : Fld := ⟨0x100020, 0, 7⟩
def EVR_TRIG.ARG : Fld := ⟨0x100020, 8, 24⟩
/-- Offset of `EVR_SUPPR_CNT` (R423). -/
abbrev EVR_SUPPR_CNT.reg : Nat := 0x100024
def EVR_SUPPR_CNT.COUNT : Fld := ⟨0x100024, 0, 32⟩
/-- Offset of `EVR_OVWR_CNT` (R423). -/
abbrev EVR_OVWR_CNT.reg : Nat := 0x100028
def EVR_OVWR_CNT.COUNT : Fld := ⟨0x100028, 0, 32⟩
/-- Offset of `EVR_NV_ERR_CNT` (R423). -/
abbrev EVR_NV_ERR_CNT.reg : Nat := 0x10002C
def EVR_NV_ERR_CNT.COUNT : Fld := ⟨0x10002C, 0, 32⟩
/-- Offset of `EVR_CURSOR` (R423). -/
abbrev EVR_CURSOR.reg : Nat := 0x100030
def EVR_CURSOR.POS : Fld := ⟨0x100030, 0, 32⟩
/-- Offset of `EVR_RCTL` (R423). -/
abbrev EVR_RCTL.reg : Nat := 0x100034
def EVR_RCTL.SRC : Fld := ⟨0x100034, 0, 1⟩
def EVR_RCTL.AUTOINC : Fld := ⟨0x100034, 1, 1⟩
/-- Offset of `EVR_WSTAT` (R423). -/
abbrev EVR_WSTAT.reg : Nat := 0x100038
def EVR_WSTAT.HIT : Fld := ⟨0x100038, 0, 1⟩
def EVR_WSTAT.SKIPPED : Fld := ⟨0x100038, 1, 1⟩
def EVR_WSTAT.EMPTY : Fld := ⟨0x100038, 2, 1⟩
def EVR_WSTAT.BUSY : Fld := ⟨0x100038, 3, 1⟩
def EVR_WSTAT.BADCRC : Fld := ⟨0x100038, 4, 1⟩
/-- Offset of `EVR_WIN` (R423). -/
abbrev EVR_WIN.reg (i : Nat) : Nat := 0x100040 + 0x4 * i
def EVR_WIN.WORD (i : Nat) : Fld := ⟨0x100040 + 0x4 * i, 0, 32⟩
/-- Offset of `EVR_MATCH` (R423). -/
abbrev EVR_MATCH.reg (i : Nat) : Nat := 0x100080 + 0x4 * i
def EVR_MATCH.CODE (i : Nat) : Fld := ⟨0x100080 + 0x4 * i, 0, 16⟩
def EVR_MATCH.PROFILE (i : Nat) : Fld := ⟨0x100080 + 0x4 * i, 16, 2⟩
def EVR_MATCH.MODE (i : Nat) : Fld := ⟨0x100080 + 0x4 * i, 18, 2⟩
/-- Offset of `EVR_SNAP` (R423). -/
abbrev EVR_SNAP.reg (i : Nat) (j : Nat) : Nat := 0x100100 + 0x20 * i + 0x4 * j
def EVR_SNAP.V (i : Nat) (j : Nat) : Fld := ⟨0x100100 + 0x20 * i + 0x4 * j, 0, 1⟩
def EVR_SNAP.OFFSET (i : Nat) (j : Nat) : Fld := ⟨0x100100 + 0x20 * i + 0x4 * j, 2, 19⟩

/-! MIR registers. -/

/-- Offset of `MIR_CTRL` (R409). -/
abbrev MIR_CTRL.reg : Nat := 0x110000
def MIR_CTRL.SWAP : Fld := ⟨0x110000, 0, 1⟩
def MIR_CTRL.SYNC : Fld := ⟨0x110000, 1, 1⟩
def MIR_CTRL.AUTO_SYNC : Fld := ⟨0x110000, 2, 1⟩
def MIR_CTRL.REJOIN : Fld := ⟨0x110000, 3, 1⟩
def MIR_CTRL.DISABLE : Fld := ⟨0x110000, 4, 1⟩
/-- Offset of `MIR_STATUS` (R409). -/
abbrev MIR_STATUS.reg : Nat := 0x110004
def MIR_STATUS.ACTIVE : Fld := ⟨0x110004, 0, 1⟩
def MIR_STATUS.MSTATE : Fld := ⟨0x110004, 1, 2⟩
def MIR_STATUS.SELF : Fld := ⟨0x110004, 3, 1⟩
def MIR_STATUS.CAUSE : Fld := ⟨0x110004, 4, 4⟩
/-- Offset of `MIR_USEQ` (R409). -/
abbrev MIR_USEQ.reg : Nat := 0x110008
def MIR_USEQ.USEQ : Fld := ⟨0x110008, 0, 32⟩
/-- Offset of `MIR_ACKSEQ` (R409). -/
abbrev MIR_ACKSEQ.reg : Nat := 0x11000C
def MIR_ACKSEQ.USEQ : Fld := ⟨0x11000C, 0, 32⟩
/-- Offset of `MIR_FAILOVER_CNT` (R409). -/
abbrev MIR_FAILOVER_CNT.reg : Nat := 0x110010
def MIR_FAILOVER_CNT.COUNT : Fld := ⟨0x110010, 0, 32⟩
/-- Offset of `MIR_LAST_TICK_LO` (R409). -/
abbrev MIR_LAST_TICK_LO.reg : Nat := 0x110014
def MIR_LAST_TICK_LO.TICK : Fld := ⟨0x110014, 0, 32⟩
/-- Offset of `MIR_LAST_TICK_HI` (R409). -/
abbrev MIR_LAST_TICK_HI.reg : Nat := 0x110018
def MIR_LAST_TICK_HI.TICK : Fld := ⟨0x110018, 0, 16⟩
/-- Offset of `MIR_LAST_TIME` (R409). -/
abbrev MIR_LAST_TIME.reg : Nat := 0x11001C
def MIR_LAST_TIME.FO_100NS : Fld := ⟨0x11001C, 0, 16⟩
def MIR_LAST_TIME.SYNC_US : Fld := ⟨0x11001C, 16, 16⟩

/-! NSE registers. -/

/-- Offset of `NSE_CTRL` (R130). -/
abbrev NSE_CTRL.reg : Nat := 0x120000
def NSE_CTRL.SRC : Fld := ⟨0x120000, 0, 1⟩
def NSE_CTRL.RESEED : Fld := ⟨0x120000, 1, 1⟩
/-- Offset of `NSE_STATUS` (R130). -/
abbrev NSE_STATUS.reg : Nat := 0x120004
def NSE_STATUS.SEEDED : Fld := ⟨0x120004, 0, 1⟩
def NSE_STATUS.HEALTH_FAIL : Fld := ⟨0x120004, 1, 1⟩
def NSE_STATUS.LANES : Fld := ⟨0x120004, 8, 8⟩
/-- Offset of `NSE_DRAW_LO` (R130). -/
abbrev NSE_DRAW_LO.reg : Nat := 0x120008
def NSE_DRAW_LO.COUNT : Fld := ⟨0x120008, 0, 32⟩
/-- Offset of `NSE_DRAW_HI` (R130). -/
abbrev NSE_DRAW_HI.reg : Nat := 0x12000C
def NSE_DRAW_HI.COUNT : Fld := ⟨0x12000C, 0, 32⟩
/-- Offset of `NSE_SEED` (R130). -/
abbrev NSE_SEED.reg (i : Nat) : Nat := 0x120010 + 0x4 * i
def NSE_SEED.SEED (i : Nat) : Fld := ⟨0x120010 + 0x4 * i, 0, 32⟩

/-! HTH registers. -/

/-- Offset of `HTH_STATUS` (R378). -/
abbrev HTH_STATUS.reg : Nat := 0x130000
def HTH_STATUS.MAIN_GOOD : Fld := ⟨0x130000, 0, 1⟩
def HTH_STATUS.BKUP_GOOD : Fld := ⟨0x130000, 1, 1⟩
def HTH_STATUS.ON_BKUP : Fld := ⟨0x130000, 2, 1⟩
def HTH_STATUS.HUBA_GOOD : Fld := ⟨0x130000, 3, 1⟩
def HTH_STATUS.HUBB_GOOD : Fld := ⟨0x130000, 4, 1⟩
def HTH_STATUS.LEAD : Fld := ⟨0x130000, 5, 1⟩
def HTH_STATUS.PFAIL : Fld := ⟨0x130000, 6, 1⟩
/-- Offset of `HTH_SW_CNT` (R378). -/
abbrev HTH_SW_CNT.reg : Nat := 0x130004
def HTH_SW_CNT.COUNT : Fld := ⟨0x130004, 0, 32⟩
/-- Offset of `HTH_SUPPLY_MV` (R378). -/
abbrev HTH_SUPPLY_MV.reg : Nat := 0x130008
def HTH_SUPPLY_MV.MAIN : Fld := ⟨0x130008, 0, 16⟩
def HTH_SUPPLY_MV.BKUP : Fld := ⟨0x130008, 16, 16⟩
/-- Offset of `HTH_CAL` (R378). -/
abbrev HTH_CAL.reg : Nat := 0x130010
def HTH_CAL.CAL_PERIOD_US : Fld := ⟨0x130010, 0, 10⟩
def HTH_CAL.EQ_PERIOD_MS : Fld := ⟨0x130010, 16, 8⟩
def HTH_CAL.WL_RECAL_MS : Fld := ⟨0x130010, 24, 8⟩
/-- Offset of `HTH_SCRUB` (R378). -/
abbrev HTH_SCRUB.reg : Nat := 0x130014
def HTH_SCRUB.DRAM_PASS_H : Fld := ⟨0x130014, 0, 8⟩
def HTH_SCRUB.SRAM_PASS_S : Fld := ⟨0x130014, 8, 8⟩
def HTH_SCRUB.BURST_MAX : Fld := ⟨0x130014, 16, 8⟩
def HTH_SCRUB.DRAM_EN : Fld := ⟨0x130014, 24, 1⟩
def HTH_SCRUB.SRAM_EN : Fld := ⟨0x130014, 25, 1⟩
/-- Offset of `HTH_SCRUB_COR_CNT` (R378). -/
abbrev HTH_SCRUB_COR_CNT.reg : Nat := 0x130018
def HTH_SCRUB_COR_CNT.COUNT : Fld := ⟨0x130018, 0, 32⟩
/-- Offset of `HTH_SCRUB_UNC_CNT` (R378). -/
abbrev HTH_SCRUB_UNC_CNT.reg : Nat := 0x13001C
def HTH_SCRUB_UNC_CNT.COUNT : Fld := ⟨0x13001C, 0, 32⟩
/-- Offset of `HTH_RDM` (R378). -/
abbrev HTH_RDM.reg : Nat := 0x130020
def HTH_RDM.TH : Fld := ⟨0x130020, 0, 16⟩
def HTH_RDM.DIST : Fld := ⟨0x130020, 16, 2⟩
def HTH_RDM.WINDOW_MS : Fld := ⟨0x130020, 20, 8⟩
def HTH_RDM.EN : Fld := ⟨0x130020, 31, 1⟩
/-- Offset of `HTH_RDM_MAX` (R378). -/
abbrev HTH_RDM_MAX.reg : Nat := 0x130024
def HTH_RDM_MAX.MAX : Fld := ⟨0x130024, 0, 16⟩
/-- Offset of `HTH_RDM_CNT` (R378). -/
abbrev HTH_RDM_CNT.reg : Nat := 0x130028
def HTH_RDM_CNT.COUNT : Fld := ⟨0x130028, 0, 32⟩
/-- Offset of `HTH_RDM_OVF_CNT` (R378). -/
abbrev HTH_RDM_OVF_CNT.reg : Nat := 0x13002C
def HTH_RDM_OVF_CNT.COUNT : Fld := ⟨0x13002C, 0, 32⟩
/-- Offset of `HTH_THERM` (R378). -/
abbrev HTH_THERM.reg : Nat := 0x130030
def HTH_THERM.THROTTLE_C : Fld := ⟨0x130030, 0, 8⟩
def HTH_THERM.CRIT_C : Fld := ⟨0x130030, 8, 8⟩
def HTH_THERM.HOT_CAP : Fld := ⟨0x130030, 16, 10⟩
def HTH_THERM.STEP : Fld := ⟨0x130030, 26, 6⟩
/-- Offset of `HTH_THERM2` (R378). -/
abbrev HTH_THERM2.reg : Nat := 0x130034
def HTH_THERM2.SAMPLE_MS : Fld := ⟨0x130034, 0, 8⟩
def HTH_THERM2.HYST_C : Fld := ⟨0x130034, 8, 4⟩
/-- Offset of `HTH_NVM` (R378). -/
abbrev HTH_NVM.reg : Nat := 0x130040
def HTH_NVM.BASE_MIB : Fld := ⟨0x130040, 0, 8⟩
def HTH_NVM.ERASE_PER_H : Fld := ⟨0x130040, 16, 8⟩
/-- Offset of `HTH_NVM_STATUS` (R378). -/
abbrev HTH_NVM_STATUS.reg : Nat := 0x130044
def HTH_NVM_STATUS.SECTOR_KIB : Fld := ⟨0x130044, 0, 8⟩
def HTH_NVM_STATUS.MAX_ERASE : Fld := ⟨0x130044, 8, 24⟩
/-- Offset of `HTH_TELE` (R378). -/
abbrev HTH_TELE.reg : Nat := 0x130050
def HTH_TELE.PERIOD_MS : Fld := ⟨0x130050, 0, 16⟩
/-- Offset of `HTH_LOCK` (R378). -/
abbrev HTH_LOCK.reg : Nat := 0x130060
def HTH_LOCK.LOCK : Fld := ⟨0x130060, 0, 1⟩
/-- Offset of `HTH_TEMP` (R378). -/
abbrev HTH_TEMP.reg (i : Nat) : Nat := 0x130100 + 0x4 * i
def HTH_TEMP.TEMP (i : Nat) : Fld := ⟨0x130100 + 0x4 * i, 0, 8⟩
def HTH_TEMP.VALID (i : Nat) : Fld := ⟨0x130100 + 0x4 * i, 8, 1⟩
def HTH_TEMP.CAP (i : Nat) : Fld := ⟨0x130100 + 0x4 * i, 16, 10⟩

/-! DBG registers. -/

/-- Offset of `DBG_STATUS` (R437). -/
abbrev DBG_STATUS.reg : Nat := 0x140000
def DBG_STATUS.EN : Fld := ⟨0x140000, 0, 1⟩
def DBG_STATUS.TAP_RST : Fld := ⟨0x140000, 1, 1⟩
def DBG_STATUS.HOLDING : Fld := ⟨0x140000, 2, 1⟩
def DBG_STATUS.FROZEN : Fld := ⟨0x140000, 3, 1⟩
def DBG_STATUS.DEC_ERR : Fld := ⟨0x140000, 4, 1⟩
def DBG_STATUS.ARB : Fld := ⟨0x140000, 8, 8⟩
/-- Offset of `DBG_ARBSEL` (R437). -/
abbrev DBG_ARBSEL.reg : Nat := 0x140004
def DBG_ARBSEL.ARB : Fld := ⟨0x140004, 0, 8⟩
/-- Offset of `DBG_HOLD_MAX` (R437). -/
abbrev DBG_HOLD_MAX.reg : Nat := 0x140008
def DBG_HOLD_MAX.NS : Fld := ⟨0x140008, 0, 32⟩
/-- Offset of `DBG_REGACC_CNT` (R437). -/
abbrev DBG_REGACC_CNT.reg : Nat := 0x14000C
def DBG_REGACC_CNT.COUNT : Fld := ⟨0x14000C, 0, 32⟩
/-- Offset of `DBG_IDCODE` (R437). -/
abbrev DBG_IDCODE.reg : Nat := 0x140010
def DBG_IDCODE.ONE : Fld := ⟨0x140010, 0, 1⟩
def DBG_IDCODE.MFR : Fld := ⟨0x140010, 1, 11⟩
def DBG_IDCODE.PART : Fld := ⟨0x140010, 12, 16⟩
def DBG_IDCODE.VERSION : Fld := ⟨0x140010, 28, 4⟩

/-! The rows, block by block. -/

/-- Rows of the HUB block. -/
def rowsHub : List RegRow := [
  ⟨0x000100, [], [⟨0, 32, .ro, 0⟩]⟩,
  ⟨0x000104, [], [⟨0, 1, .ro, 0⟩, ⟨1, 1, .ro, 0⟩, ⟨2, 1, .ro, 0⟩, ⟨3, 1, .ro, 0⟩, ⟨4, 1, .ro, 0⟩]⟩,
  ⟨0x000108, [], [⟨0, 16, .ro, 2620⟩, ⟨16, 8, .ro, 1⟩, ⟨24, 8, .ro, 1⟩]⟩,
  ⟨0x00010C, [], [⟨0, 32, .ro, 0⟩]⟩,
  ⟨0x000110, [], [⟨0, 32, .ro, 0⟩]⟩,
  ⟨0x000114, [], [⟨0, 32, .ro, 0⟩]⟩,
  ⟨0x000120, [(0x4, 4)], [⟨0, 32, .rw, 0⟩]⟩]

/-- Rows of the TCK block. -/
def rowsTck : List RegRow := [
  ⟨0x010000, [], [⟨0, 1, .rw, 0⟩, ⟨1, 2, .rwl, 1⟩, ⟨3, 1, .rw, 0⟩, ⟨4, 8, .rw, 10⟩, ⟨31, 1, .w1s, 0⟩]⟩,
  ⟨0x010004, [], [⟨0, 16, .rw, 1000⟩, ⟨16, 16, .ro, 0⟩]⟩,
  ⟨0x010008, [], [⟨0, 12, .rw, 80⟩]⟩,
  ⟨0x01000C, [], [⟨0, 4, .rwl, 0⟩, ⟨4, 1, .rwl, 0⟩, ⟨16, 16, .rwl, 0⟩]⟩,
  ⟨0x010010, [], [⟨0, 1, .ro, 0⟩, ⟨1, 1, .ro, 0⟩, ⟨2, 1, .ro, 0⟩, ⟨3, 4, .ro, 0⟩, ⟨8, 12, .ro, 0⟩]⟩,
  ⟨0x010014, [], [⟨0, 16, .ro, 0⟩]⟩,
  ⟨0x010018, [], [⟨0, 32, .ro, 0⟩]⟩,
  ⟨0x01001C, [], [⟨0, 16, .ro, 0⟩]⟩,
  ⟨0x010020, [], [⟨0, 1, .rw, 1⟩, ⟨1, 3, .rw, 2⟩]⟩,
  ⟨0x010024, [], [⟨0, 32, .rc, 0⟩]⟩,
  ⟨0x010028, [], [⟨0, 32, .rc, 0⟩]⟩,
  ⟨0x01002C, [], [⟨0, 32, .rc, 0⟩]⟩,
  ⟨0x010030, [], [⟨0, 32, .rc, 0⟩]⟩,
  ⟨0x010100, [(0x8, 16)], [⟨0, 32, .rw, 0⟩]⟩,
  ⟨0x010104, [(0x8, 16)], [⟨0, 32, .rw, 0⟩]⟩]

/-- Rows of the RNG block. -/
def rowsRng : List RegRow := [
  ⟨0x020000, [], [⟨12, 20, .rw, 0⟩]⟩,
  ⟨0x020004, [], [⟨0, 32, .rw, 0⟩]⟩,
  ⟨0x020008, [], [⟨0, 5, .rw, 6⟩, ⟨8, 1, .rw, 0⟩, ⟨9, 1, .rw, 0⟩, ⟨10, 2, .rw, 2⟩]⟩,
  ⟨0x02000C, [], [⟨0, 32, .ro, 0⟩]⟩,
  ⟨0x020010, [], [⟨0, 32, .rw, 0⟩]⟩,
  ⟨0x020014, [], [⟨0, 32, .rc, 0⟩]⟩,
  ⟨0x021000, [(0x40, 16)], [⟨12, 20, .rw, 0⟩]⟩,
  ⟨0x021004, [(0x40, 16)], [⟨0, 32, .rw, 0⟩]⟩,
  ⟨0x021008, [(0x40, 16)], [⟨12, 20, .rw, 0⟩]⟩,
  ⟨0x02100C, [(0x40, 16)], [⟨0, 32, .rw, 0⟩]⟩,
  ⟨0x021010, [(0x40, 16)], [⟨0, 5, .rw, 6⟩, ⟨8, 5, .rw, 6⟩, ⟨16, 1, .rw, 0⟩, ⟨17, 1, .rw, 0⟩]⟩,
  ⟨0x021014, [(0x40, 16)], [⟨0, 32, .rw, 0⟩]⟩,
  ⟨0x021018, [(0x40, 16)], [⟨0, 32, .ro, 0⟩]⟩,
  ⟨0x02101C, [(0x40, 16)], [⟨0, 32, .ro, 0⟩]⟩,
  ⟨0x021020, [(0x40, 16)], [⟨0, 32, .rw, 0⟩]⟩,
  ⟨0x021024, [(0x40, 16)], [⟨0, 32, .rw, 0⟩]⟩,
  ⟨0x021028, [(0x40, 16)], [⟨0, 1, .ro, 0⟩, ⟨1, 1, .ro, 0⟩, ⟨2, 1, .ro, 0⟩, ⟨3, 1, .ro, 0⟩, ⟨4, 1, .ro, 0⟩, ⟨5, 1, .ro, 1⟩]⟩]

/-- Rows of the RTE block. -/
def rowsRte : List RegRow := [
  ⟨0x030000, [], [⟨6, 26, .rw, 0⟩]⟩,
  ⟨0x030004, [], [⟨0, 32, .rw, 0⟩]⟩,
  ⟨0x030008, [], [⟨0, 4, .rw, 0⟩, ⟨4, 2, .rw, 0⟩, ⟨8, 10, .rw, 0⟩, ⟨31, 1, .w1s, 0⟩]⟩,
  ⟨0x03000C, [], [⟨0, 18, .rw, 0⟩, ⟨18, 8, .rw, 0⟩]⟩,
  ⟨0x030010, [], [⟨0, 1, .ro, 0⟩, ⟨1, 1, .w1c, 0⟩, ⟨4, 4, .ro, 0⟩]⟩,
  ⟨0x030014, [], [⟨0, 32, .rc, 0⟩]⟩,
  ⟨0x030018, [], [⟨0, 32, .rc, 0⟩]⟩,
  ⟨0x031000, [(0x20, 16)], [⟨0, 8, .rw, 0⟩, ⟨8, 8, .rw, 0⟩, ⟨16, 9, .rw, 0⟩]⟩,
  ⟨0x031004, [(0x20, 16)], [⟨0, 1, .w1s, 0⟩, ⟨1, 1, .w1s, 0⟩]⟩,
  ⟨0x031008, [(0x20, 16)], [⟨0, 32, .rw, 0⟩]⟩,
  ⟨0x03100C, [(0x20, 16)], [⟨0, 16, .rw, 0⟩]⟩,
  ⟨0x031010, [(0x20, 16)], [⟨0, 1, .ro, 0⟩, ⟨1, 2, .ro, 0⟩, ⟨4, 4, .ro, 0⟩, ⟨8, 1, .w1c, 0⟩]⟩]

/-- Rows of the SFU block. -/
def rowsSfu : List RegRow := [
  ⟨0x040000, [], [⟨0, 16, .ro, 256⟩, ⟨16, 3, .ro, 7⟩, ⟨19, 2, .ro, 3⟩]⟩,
  ⟨0x040004, [], [⟨0, 32, .rc, 0⟩]⟩,
  ⟨0x040008, [], [⟨0, 32, .rc, 0⟩]⟩,
  ⟨0x041000, [(0x10, 16)], [⟨0, 18, .rw, 0⟩, ⟨31, 1, .rw, 0⟩]⟩,
  ⟨0x041004, [(0x10, 16)], [⟨0, 32, .rw, 925353388⟩]⟩]

/-- Rows of the ADM block. -/
def rowsAdm : List RegRow := [
  ⟨0x050000, [], [⟨0, 8, .ro, 32⟩, ⟨8, 4, .ro, 11⟩, ⟨16, 8, .ro, 4⟩]⟩,
  ⟨0x050004, [], [⟨0, 32, .rc, 0⟩]⟩,
  ⟨0x050008, [], [⟨0, 32, .rc, 0⟩]⟩,
  ⟨0x05000C, [], [⟨0, 32, .rc, 0⟩]⟩,
  ⟨0x050100, [(0x4, 24)], [⟨0, 16, .rw, 256⟩]⟩,
  ⟨0x051000, [(0x10, 16)], [⟨0, 8, .rw, 20⟩, ⟨8, 8, .rw, 4⟩, ⟨16, 1, .rw, 0⟩, ⟨17, 1, .rw, 0⟩, ⟨18, 1, .rw, 1⟩, ⟨20, 4, .rw, 11⟩]⟩,
  ⟨0x051004, [(0x10, 16)], [⟨0, 20, .rw, 0⟩]⟩,
  ⟨0x051008, [(0x10, 16)], [⟨0, 32, .rc, 0⟩]⟩,
  ⟨0x05100C, [(0x10, 16)], [⟨0, 32, .rc, 0⟩]⟩]

/-- Rows of the CST block. -/
def rowsCst : List RegRow := [
  ⟨0x058000, [], [⟨0, 1, .rw, 1⟩]⟩,
  ⟨0x058004, [], [⟨0, 17, .ro, 65536⟩, ⟨17, 1, .ro, 0⟩]⟩,
  ⟨0x058008, [], [⟨0, 32, .rc, 0⟩]⟩,
  ⟨0x05800C, [], [⟨0, 32, .rc, 0⟩]⟩,
  ⟨0x058010, [], [⟨0, 32, .rc, 0⟩]⟩,
  ⟨0x058040, [], [⟨0, 7, .rw, 2⟩]⟩,
  ⟨0x058050, [], [⟨0, 7, .rw, 8⟩]⟩,
  ⟨0x058060, [], [⟨0, 7, .rw, 32⟩]⟩,
  ⟨0x058070, [], [⟨0, 7, .rw, 64⟩]⟩,
  ⟨0x058044, [], [⟨0, 17, .rw, 2048⟩]⟩,
  ⟨0x058054, [], [⟨0, 17, .rw, 1024⟩]⟩,
  ⟨0x058064, [], [⟨0, 17, .rw, 1024⟩]⟩,
  ⟨0x058074, [], [⟨0, 17, .rw, 320⟩]⟩,
  ⟨0x058048, [], [⟨0, 17, .ro, 2048⟩]⟩,
  ⟨0x058058, [], [⟨0, 17, .ro, 1024⟩]⟩,
  ⟨0x058068, [], [⟨0, 17, .ro, 1024⟩]⟩,
  ⟨0x058078, [], [⟨0, 17, .ro, 320⟩]⟩,
  ⟨0x05804C, [], [⟨0, 17, .rc, 2048⟩]⟩,
  ⟨0x05805C, [], [⟨0, 17, .rc, 1024⟩]⟩,
  ⟨0x05806C, [], [⟨0, 17, .rc, 1024⟩]⟩,
  ⟨0x05807C, [], [⟨0, 17, .rc, 320⟩]⟩,
  ⟨0x058100, [(0x4, 18)], [⟨0, 17, .rw, 65536⟩]⟩,
  ⟨0x058180, [(0x4, 18)], [⟨0, 17, .ro, 0⟩]⟩]

/-- Rows of the PMP block. -/
def rowsPmp : List RegRow := [
  ⟨0x060000, [(0x1000, 16)], [⟨0, 8, .rw, 64⟩]⟩,
  ⟨0x060004, [(0x1000, 16)], [⟨0, 32, .rw, 17041416⟩]⟩,
  ⟨0x060008, [(0x1000, 16)], [⟨0, 2, .rw, 3⟩, ⟨2, 1, .rw, 0⟩]⟩,
  ⟨0x06000C, [(0x1000, 16)], [⟨0, 32, .rw, 135802928⟩]⟩,
  ⟨0x060010, [(0x1000, 16)], [⟨0, 12, .rw, 64⟩, ⟨12, 4, .rw, 8⟩]⟩,
  ⟨0x060020, [(0x1000, 16)], [⟨0, 32, .rc, 0⟩]⟩,
  ⟨0x060024, [(0x1000, 16)], [⟨0, 32, .rc, 0⟩]⟩,
  ⟨0x060028, [(0x1000, 16)], [⟨0, 32, .rc, 0⟩]⟩,
  ⟨0x06002C, [(0x1000, 16)], [⟨0, 32, .rc, 0⟩]⟩,
  ⟨0x060100, [(0x1000, 16)], [⟨0, 1, .rw, 1⟩, ⟨1, 1, .w1s, 0⟩, ⟨2, 1, .rw, 0⟩, ⟨4, 8, .rw, 200⟩, ⟨12, 8, .rw, 10⟩]⟩,
  ⟨0x060104, [(0x1000, 16)], [⟨0, 4, .ro, 0⟩, ⟨4, 1, .ro, 0⟩, ⟨5, 1, .ro, 0⟩, ⟨6, 6, .ro, 0⟩, ⟨12, 4, .ro, 0⟩, ⟨16, 8, .ro, 0⟩]⟩,
  ⟨0x060108, [(0x1000, 16)], [⟨0, 6, .rwl, 0⟩, ⟨6, 4, .rwl, 0⟩, ⟨10, 1, .rwl, 0⟩]⟩,
  ⟨0x06010C, [(0x1000, 16)], [⟨0, 20, .ro, 0⟩]⟩,
  ⟨0x060110, [(0x1000, 16)], [⟨0, 32, .rc, 0⟩]⟩,
  ⟨0x060114, [(0x1000, 16)], [⟨0, 32, .rc, 0⟩]⟩,
  ⟨0x060118, [(0x1000, 16)], [⟨0, 32, .rc, 0⟩]⟩,
  ⟨0x06011C, [(0x1000, 16)], [⟨0, 16, .rw, 16⟩]⟩,
  ⟨0x060800, [], [⟨0, 8, .ro, 16⟩, ⟨8, 8, .ro, 32⟩, ⟨16, 16, .ro, 2048⟩]⟩,
  ⟨0x060804, [], [⟨0, 1, .rw, 0⟩, ⟨1, 1, .w1s, 0⟩, ⟨2, 4, .rw, 0⟩]⟩,
  ⟨0x060808, [], [⟨0, 32, .rc, 0⟩]⟩,
  ⟨0x06080C, [], [⟨0, 32, .rc, 0⟩]⟩,
  ⟨0x060810, [], [⟨0, 32, .rc, 0⟩]⟩,
  ⟨0x060814, [], [⟨0, 32, .rc, 0⟩]⟩,
  ⟨0x060900, [(0x4, 64)], [⟨0, 16, .rw, 0⟩]⟩]

/-- Rows of the CMB block. -/
def rowsCmb : List RegRow := [
  ⟨0x070000, [], [⟨0, 8, .ro, 16⟩, ⟨8, 8, .ro, 4⟩, ⟨16, 12, .ro, 2048⟩]⟩,
  ⟨0x070004, [], [⟨0, 32, .rc, 0⟩]⟩,
  ⟨0x070008, [], [⟨0, 32, .rc, 0⟩]⟩,
  ⟨0x07000C, [], [⟨0, 32, .rc, 0⟩]⟩,
  ⟨0x070010, [], [⟨0, 32, .rc, 0⟩]⟩,
  ⟨0x071000, [(0x10, 16)], [⟨0, 17, .rw, 0⟩]⟩,
  ⟨0x071004, [(0x10, 16)], [⟨0, 16, .rw, 0⟩]⟩,
  ⟨0x071008, [(0x10, 16)], [⟨0, 11, .ro, 0⟩]⟩,
  ⟨0x07100C, [(0x10, 16)], [⟨0, 32, .ro, 0⟩]⟩]

/-- Rows of the WEL block. -/
def rowsWelA : List RegRow := [
  ⟨0x080000, [(0x2000, 24)], [⟨0, 32, .ro, 0⟩]⟩,
  ⟨0x080004, [(0x2000, 24)], [⟨0, 8, .ro, 16⟩, ⟨8, 4, .ro, 4⟩, ⟨16, 12, .ro, 256⟩]⟩,
  ⟨0x080008, [(0x2000, 24)], [⟨0, 16, .ro, 256⟩, ⟨16, 8, .ro, 32⟩, ⟨24, 8, .ro, 16⟩]⟩,
  ⟨0x08000C, [(0x2000, 24)], [⟨0, 1, .ro, 0⟩, ⟨1, 1, .ro, 0⟩, ⟨2, 1, .ro, 0⟩]⟩,
  ⟨0x080010, [(0x2000, 24)], [⟨0, 16, .w1c, 0⟩]⟩,
  ⟨0x080014, [(0x2000, 24)], [⟨0, 2, .rw, 1⟩, ⟨2, 2, .rw, 0⟩]⟩,
  ⟨0x080020, [(0x2000, 24)], [⟨0, 4, .rwl, 4⟩, ⟨4, 2, .rw, 1⟩, ⟨6, 2, .rw, 1⟩, ⟨8, 2, .rw, 0⟩, ⟨10, 2, .rw, 2⟩]⟩,
  ⟨0x080024, [(0x2000, 24)], [⟨0, 8, .ro, 0⟩, ⟨8, 1, .ro, 0⟩, ⟨16, 6, .ro, 0⟩]⟩,
  ⟨0x080028, [(0x2000, 24)], [⟨0, 8, .rw, 8⟩]⟩,
  ⟨0x080030, [(0x2000, 24)], [⟨0, 16, .rc, 0⟩]⟩,
  ⟨0x080034, [(0x2000, 24)], [⟨0, 32, .rc, 0⟩]⟩,
  ⟨0x080038, [(0x2000, 24)], [⟨0, 32, .rc, 0⟩]⟩,
  ⟨0x080040, [(0x2000, 24)], [⟨0, 10, .rw, 0⟩, ⟨12, 4, .rw, 1⟩, ⟨31, 1, .w1s, 0⟩]⟩,
  ⟨0x080044, [(0x2000, 24)], [⟨0, 10, .ro, 0⟩]⟩,
  ⟨0x080048, [(0x2000, 24)], [⟨0, 10, .ro, 0⟩, ⟨16, 1, .ro, 0⟩, ⟨17, 1, .ro, 0⟩]⟩,
  ⟨0x08004C, [(0x2000, 24)], [⟨0, 32, .rc, 0⟩]⟩,
  ⟨0x080050, [(0x2000, 24)], [⟨0, 16, .rwl, 600⟩]⟩,
  ⟨0x080054, [(0x2000, 24)], [⟨0, 16, .rwl, 9600⟩]⟩,
  ⟨0x080058, [(0x2000, 24)], [⟨0, 16, .rwl, 10400⟩]⟩,
  ⟨0x08005C, [(0x2000, 24)], [⟨0, 16, .rwl, 4200⟩]⟩,
  ⟨0x080060, [(0x2000, 24)], [⟨0, 32, .ro, 0⟩]⟩,
  ⟨0x080064, [(0x2000, 24)], [⟨0, 32, .ro, 0⟩]⟩,
  ⟨0x080070, [(0x2000, 24)], [⟨0, 32, .rc, 0⟩]⟩,
  ⟨0x080074, [(0x2000, 24)], [⟨0, 32, .rc, 0⟩]⟩]

/-- Rows of the WEL block. -/
def rowsWelB : List RegRow := [
  ⟨0x080078, [(0x2000, 24)], [⟨0, 32, .rc, 0⟩]⟩,
  ⟨0x081000, [(0x2000, 24), (0x40, 16)], [⟨0, 17, .rw, 0⟩]⟩,
  ⟨0x081004, [(0x2000, 24), (0x40, 16)], [⟨0, 17, .rw, 0⟩]⟩,
  ⟨0x081008, [(0x2000, 24), (0x40, 16)], [⟨0, 15, .rw, 0⟩, ⟨16, 16, .rw, 0⟩]⟩,
  ⟨0x08100C, [(0x2000, 24), (0x40, 16)], [⟨0, 17, .rw, 0⟩]⟩,
  ⟨0x081010, [(0x2000, 24), (0x40, 16)], [⟨0, 17, .rw, 0⟩]⟩,
  ⟨0x081014, [(0x2000, 24), (0x40, 16)], [⟨0, 17, .rw, 0⟩]⟩,
  ⟨0x081018, [(0x2000, 24), (0x40, 16)], [⟨0, 16, .rw, 0⟩]⟩,
  ⟨0x08101C, [(0x2000, 24), (0x40, 16)], [⟨0, 17, .rw, 0⟩]⟩,
  ⟨0x081020, [(0x2000, 24), (0x40, 16)], [⟨0, 16, .rw, 0⟩]⟩,
  ⟨0x081024, [(0x2000, 24), (0x40, 16)], [⟨0, 17, .rw, 0⟩, ⟨17, 8, .rw, 0⟩]⟩]

/-- Rows of the COL block. -/
def rowsCol : List RegRow := [
  ⟨0x0C0000, [], [⟨0, 8, .ro, 16⟩, ⟨8, 8, .ro, 64⟩]⟩,
  ⟨0x0C0004, [], [⟨0, 16, .rw, 256⟩, ⟨16, 4, .rw, 4⟩, ⟨20, 3, .rw, 2⟩]⟩,
  ⟨0x0C0008, [], [⟨0, 16, .rw, 1024⟩, ⟨16, 4, .rw, 2⟩, ⟨31, 1, .rw, 1⟩]⟩,
  ⟨0x0C000C, [], [⟨0, 6, .ro, 0⟩, ⟨6, 1, .ro, 0⟩, ⟨7, 1, .ro, 0⟩, ⟨8, 24, .ro, 0⟩]⟩,
  ⟨0x0C0010, [], [⟨0, 32, .rc, 0⟩]⟩,
  ⟨0x0C0014, [], [⟨0, 32, .rc, 0⟩]⟩,
  ⟨0x0C0018, [], [⟨0, 32, .rc, 0⟩]⟩,
  ⟨0x0C001C, [], [⟨0, 32, .rc, 0⟩]⟩,
  ⟨0x0C0100, [(0x4, 64)], [⟨0, 32, .rc, 0⟩]⟩,
  ⟨0x0C1000, [(0x20, 16)], [⟨0, 1, .rw, 0⟩, ⟨4, 4, .rw, 0⟩, ⟨8, 1, .rw, 0⟩]⟩,
  ⟨0x0C1004, [(0x20, 16)], [⟨0, 32, .rw, 0⟩]⟩,
  ⟨0x0C1008, [(0x20, 16)], [⟨0, 3, .ro, 0⟩, ⟨4, 2, .ro, 0⟩, ⟨6, 3, .ro, 0⟩]⟩,
  ⟨0x0C100C, [(0x20, 16)], [⟨0, 32, .ro, 0⟩]⟩,
  ⟨0x0C1010, [(0x20, 16)], [⟨0, 32, .rc, 0⟩]⟩]

/-- Rows of the CTX block. -/
def rowsCtxA : List RegRow := [
  ⟨0x0D0000, [], [⟨0, 5, .ro, 16⟩, ⟨8, 8, .ro, 128⟩]⟩,
  ⟨0x0D0004, [], [⟨0, 16, .rw, 4096⟩]⟩,
  ⟨0x0D0008, [], [⟨6, 26, .rw, 0⟩]⟩,
  ⟨0x0D000C, [], [⟨0, 32, .rw, 0⟩]⟩,
  ⟨0x0D0010, [], [⟨0, 4, .rw, 0⟩, ⟨4, 9, .rw, 0⟩, ⟨31, 1, .w1s, 0⟩]⟩,
  ⟨0x0D0014, [], [⟨0, 1, .ro, 0⟩, ⟨1, 1, .w1c, 0⟩, ⟨2, 4, .ro, 0⟩]⟩,
  ⟨0x0D0018, [], [⟨0, 16, .rwl, 200⟩]⟩,
  ⟨0x0D001C, [], [⟨0, 16, .rwl, 11200⟩]⟩,
  ⟨0x0D0020, [], [⟨0, 16, .rwl, 4000⟩]⟩,
  ⟨0x0D0024, [], [⟨0, 1, .w1s, 0⟩]⟩,
  ⟨0x0D0028, [], [⟨6, 26, .rw, 0⟩]⟩,
  ⟨0x0D002C, [], [⟨0, 32, .rw, 0⟩]⟩,
  ⟨0x0D0030, [], [⟨0, 32, .rc, 0⟩]⟩,
  ⟨0x0D0034, [], [⟨0, 16, .rc, 0⟩]⟩,
  ⟨0x0D0038, [], [⟨0, 32, .rc, 0⟩]⟩,
  ⟨0x0D1000, [(0x80, 16)], [⟨0, 32, .rw, 0⟩]⟩,
  ⟨0x0D1004, [(0x80, 16)], [⟨0, 32, .rw, 0⟩]⟩,
  ⟨0x0D1008, [(0x80, 16)], [⟨0, 20, .rw, 0⟩, ⟨20, 6, .rw, 0⟩, ⟨26, 3, .rw, 0⟩]⟩,
  ⟨0x0D100C, [(0x80, 16)], [⟨0, 11, .rw, 0⟩, ⟨11, 19, .rw, 0⟩]⟩,
  ⟨0x0D1010, [(0x80, 16)], [⟨0, 16, .rw, 1⟩]⟩,
  ⟨0x0D1014, [(0x80, 16)], [⟨0, 2, .rw, 3⟩, ⟨2, 2, .rw, 3⟩, ⟨4, 4, .rw, 0⟩, ⟨8, 4, .rw, 0⟩, ⟨12, 1, .rw, 0⟩]⟩,
  ⟨0x0D1018, [(0x80, 16)], [⟨0, 8, .rw, 4⟩, ⟨8, 10, .ro, 0⟩, ⟨20, 8, .ro, 0⟩]⟩,
  ⟨0x0D101C, [(0x80, 16)], [⟨0, 1, .ro, 0⟩]⟩,
  ⟨0x0D1020, [(0x80, 16)], [⟨0, 17, .rw, 0⟩, ⟨31, 1, .rw, 0⟩]⟩]

/-- Rows of the CTX block. -/
def rowsCtxB : List RegRow := [
  ⟨0x0D1028, [(0x80, 16)], [⟨0, 32, .ro, 0⟩]⟩,
  ⟨0x0D102C, [(0x80, 16)], [⟨0, 32, .ro, 0⟩]⟩,
  ⟨0x0D1030, [(0x80, 16)], [⟨0, 32, .ro, 0⟩]⟩,
  ⟨0x0D1034, [(0x80, 16)], [⟨0, 32, .ro, 0⟩]⟩,
  ⟨0x0D1038, [(0x80, 16)], [⟨0, 32, .ro, 0⟩]⟩,
  ⟨0x0D103C, [(0x80, 16)], [⟨0, 32, .ro, 0⟩]⟩,
  ⟨0x0D1040, [(0x80, 16)], [⟨0, 32, .ro, 0⟩]⟩,
  ⟨0x0D1044, [(0x80, 16)], [⟨0, 32, .ro, 0⟩]⟩,
  ⟨0x0D1048, [(0x80, 16)], [⟨0, 32, .ro, 0⟩]⟩,
  ⟨0x0D104C, [(0x80, 16)], [⟨0, 32, .ro, 0⟩]⟩,
  ⟨0x0D1050, [(0x80, 16)], [⟨0, 32, .ro, 0⟩]⟩,
  ⟨0x0D1054, [(0x80, 16)], [⟨0, 32, .ro, 0⟩]⟩,
  ⟨0x0D1058, [(0x80, 16)], [⟨0, 32, .ro, 0⟩]⟩]

/-- Rows of the SVC block. -/
def rowsSvc : List RegRow := [
  ⟨0x0E0000, [], [⟨0, 6, .rwl, 0⟩, ⟨15, 1, .w1s, 0⟩, ⟨16, 16, .rwl, 0⟩]⟩,
  ⟨0x0E0004, [], [⟨0, 1, .rw, 0⟩, ⟨1, 1, .rw, 1⟩, ⟨2, 1, .w1s, 0⟩]⟩,
  ⟨0x0E0008, [], [⟨0, 8, .rw, 20⟩, ⟨8, 8, .rw, 100⟩, ⟨16, 8, .rw, 1⟩, ⟨24, 8, .rw, 5⟩]⟩,
  ⟨0x0E000C, [], [⟨0, 8, .rw, 1⟩, ⟨8, 8, .rw, 20⟩]⟩,
  ⟨0x0E0010, [], [⟨0, 16, .rw, 0⟩]⟩,
  ⟨0x0E0014, [], [⟨0, 32, .w1c, 0⟩]⟩,
  ⟨0x0E0018, [], [⟨0, 32, .w1c, 0⟩]⟩,
  ⟨0x0E001C, [], [⟨0, 1, .rw, 0⟩, ⟨1, 1, .rw, 0⟩]⟩,
  ⟨0x0E0020, [], [⟨0, 1, .ro, 1⟩, ⟨1, 1, .ro, 1⟩]⟩,
  ⟨0x0E0100, [(0x8, 16)], [⟨0, 1, .rw, 0⟩, ⟨1, 1, .w1s, 0⟩, ⟨2, 1, .rw, 1⟩]⟩,
  ⟨0x0E0104, [(0x8, 16)], [⟨0, 3, .ro, 0⟩, ⟨3, 1, .ro, 0⟩, ⟨4, 1, .ro, 0⟩]⟩]

/-- Rows of the RAS block. -/
def rowsRas : List RegRow := [
  ⟨0x0F0000, [], [⟨0, 8, .rw, 16⟩, ⟨8, 1, .rw, 1⟩, ⟨16, 16, .rw, 100⟩]⟩,
  ⟨0x0F0004, [], [⟨0, 32, .rc, 0⟩]⟩,
  ⟨0x0F0008, [], [⟨0, 32, .rc, 0⟩]⟩,
  ⟨0x0F000C, [], [⟨0, 32, .rc, 0⟩]⟩,
  ⟨0x0F0010, [], [⟨0, 32, .rc, 0⟩]⟩,
  ⟨0x0F0014, [], [⟨0, 32, .rc, 0⟩]⟩,
  ⟨0x0F0018, [], [⟨0, 32, .rc, 0⟩]⟩,
  ⟨0x0F0020, [], [⟨0, 32, .ro, 0⟩]⟩,
  ⟨0x0F0024, [], [⟨0, 16, .ro, 0⟩, ⟨16, 5, .ro, 0⟩, ⟨21, 3, .ro, 0⟩]⟩,
  ⟨0x0F0028, [], [⟨0, 4, .w1c, 0⟩]⟩,
  ⟨0x0F0030, [], [⟨0, 16, .w1c, 0⟩, ⟨16, 1, .w1c, 0⟩]⟩,
  ⟨0x0F0034, [], [⟨0, 24, .w1c, 0⟩]⟩,
  ⟨0x0F0038, [], [⟨0, 32, .w1c, 0⟩]⟩,
  ⟨0x0F003C, [], [⟨0, 32, .w1c, 0⟩]⟩,
  ⟨0x0F0040, [], [⟨0, 16, .rwl, 200⟩, ⟨31, 1, .w1s, 0⟩]⟩,
  ⟨0x0F0044, [], [⟨0, 1, .w1c, 0⟩, ⟨1, 1, .w1c, 0⟩, ⟨2, 1, .w1c, 0⟩, ⟨3, 1, .w1c, 0⟩, ⟨4, 1, .w1c, 0⟩, ⟨5, 1, .w1c, 0⟩]⟩,
  ⟨0x0F0048, [], [⟨0, 6, .rw, 63⟩]⟩]

/-- Rows of the EVR block. -/
def rowsEvr : List RegRow := [
  ⟨0x100000, [], [⟨0, 2, .rw, 1⟩, ⟨2, 2, .rw, 3⟩, ⟨4, 1, .w1s, 0⟩, ⟨5, 1, .w1s, 0⟩, ⟨6, 1, .w1s, 0⟩, ⟨8, 8, .rw, 64⟩, ⟨16, 8, .rw, 10⟩, ⟨24, 8, .rw, 64⟩]⟩,
  ⟨0x100004, [], [⟨0, 1, .ro, 0⟩, ⟨1, 1, .ro, 0⟩, ⟨2, 1, .ro, 0⟩, ⟨16, 13, .ro, 0⟩]⟩,
  ⟨0x100008, [], [⟨0, 8, .rw, 16⟩, ⟨8, 4, .rw, 4⟩]⟩,
  ⟨0x10000C, [], [⟨0, 32, .ro, 0⟩]⟩,
  ⟨0x100010, [], [⟨0, 32, .ro, 0⟩]⟩,
  ⟨0x100014, [], [⟨0, 32, .ro, 0⟩]⟩,
  ⟨0x100018, [], [⟨0, 32, .ro, 0⟩]⟩,
  ⟨0x10001C, [], [⟨0, 24, .ro, 0⟩]⟩,
  ⟨0x100020, [], [⟨0, 7, .rw, 0⟩, ⟨8, 24, .rw, 0⟩]⟩,
  ⟨0x100024, [], [⟨0, 32, .rc, 0⟩]⟩,
  ⟨0x100028, [], [⟨0, 32, .rc, 0⟩]⟩,
  ⟨0x10002C, [], [⟨0, 32, .rc, 0⟩]⟩,
  ⟨0x100030, [], [⟨0, 32, .rw, 0⟩]⟩,
  ⟨0x100034, [], [⟨0, 1, .rw, 0⟩, ⟨1, 1, .rw, 0⟩]⟩,
  ⟨0x100038, [], [⟨0, 1, .ro, 0⟩, ⟨1, 1, .ro, 0⟩, ⟨2, 1, .ro, 0⟩, ⟨3, 1, .ro, 0⟩, ⟨4, 1, .ro, 0⟩]⟩,
  ⟨0x100040, [(0x4, 16)], [⟨0, 32, .ro, 0⟩]⟩,
  ⟨0x100080, [(0x4, 8)], [⟨0, 16, .rw, 0⟩, ⟨16, 2, .rw, 0⟩, ⟨18, 2, .rw, 0⟩]⟩,
  ⟨0x100100, [(0x20, 4), (0x4, 6)], [⟨0, 1, .rw, 0⟩, ⟨2, 19, .rw, 0⟩]⟩]

/-- Rows of the MIR block. -/
def rowsMir : List RegRow := [
  ⟨0x110000, [], [⟨0, 1, .w1s, 0⟩, ⟨1, 1, .w1s, 0⟩, ⟨2, 1, .rw, 1⟩, ⟨3, 1, .w1s, 0⟩, ⟨4, 1, .rw, 0⟩]⟩,
  ⟨0x110004, [], [⟨0, 1, .ro, 0⟩, ⟨1, 2, .ro, 0⟩, ⟨3, 1, .ro, 0⟩, ⟨4, 4, .ro, 0⟩]⟩,
  ⟨0x110008, [], [⟨0, 32, .ro, 0⟩]⟩,
  ⟨0x11000C, [], [⟨0, 32, .ro, 0⟩]⟩,
  ⟨0x110010, [], [⟨0, 32, .rc, 0⟩]⟩,
  ⟨0x110014, [], [⟨0, 32, .ro, 0⟩]⟩,
  ⟨0x110018, [], [⟨0, 16, .ro, 0⟩]⟩,
  ⟨0x11001C, [], [⟨0, 16, .ro, 0⟩, ⟨16, 16, .ro, 0⟩]⟩]

/-- Rows of the NSE block. -/
def rowsNse : List RegRow := [
  ⟨0x120000, [], [⟨0, 1, .rw, 0⟩, ⟨1, 1, .w1s, 0⟩]⟩,
  ⟨0x120004, [], [⟨0, 1, .ro, 0⟩, ⟨1, 1, .ro, 0⟩, ⟨8, 8, .ro, 128⟩]⟩,
  ⟨0x120008, [], [⟨0, 32, .ro, 0⟩]⟩,
  ⟨0x12000C, [], [⟨0, 32, .ro, 0⟩]⟩,
  ⟨0x120010, [(0x4, 8)], [⟨0, 32, .rw, 0⟩]⟩]

/-- Rows of the HTH block. -/
def rowsHth : List RegRow := [
  ⟨0x130000, [], [⟨0, 1, .ro, 0⟩, ⟨1, 1, .ro, 0⟩, ⟨2, 1, .ro, 0⟩, ⟨3, 1, .ro, 0⟩, ⟨4, 1, .ro, 0⟩, ⟨5, 1, .ro, 0⟩, ⟨6, 1, .ro, 0⟩]⟩,
  ⟨0x130004, [], [⟨0, 32, .rc, 0⟩]⟩,
  ⟨0x130008, [], [⟨0, 16, .ro, 0⟩, ⟨16, 16, .ro, 0⟩]⟩,
  ⟨0x130010, [], [⟨0, 10, .rw, 100⟩, ⟨16, 8, .rw, 64⟩, ⟨24, 8, .rw, 64⟩]⟩,
  ⟨0x130014, [], [⟨0, 8, .rw, 24⟩, ⟨8, 8, .rw, 10⟩, ⟨16, 8, .rw, 1⟩, ⟨24, 1, .rw, 1⟩, ⟨25, 1, .rw, 1⟩]⟩,
  ⟨0x130018, [], [⟨0, 32, .rc, 0⟩]⟩,
  ⟨0x13001C, [], [⟨0, 32, .rc, 0⟩]⟩,
  ⟨0x130020, [], [⟨0, 16, .rwl, 2048⟩, ⟨16, 2, .rwl, 2⟩, ⟨20, 8, .rwl, 32⟩, ⟨31, 1, .rwl, 1⟩]⟩,
  ⟨0x130024, [], [⟨0, 16, .rwl, 256⟩]⟩,
  ⟨0x130028, [], [⟨0, 32, .rc, 0⟩]⟩,
  ⟨0x13002C, [], [⟨0, 32, .rc, 0⟩]⟩,
  ⟨0x130030, [], [⟨0, 8, .rwl, 85⟩, ⟨8, 8, .rwl, 95⟩, ⟨16, 10, .rwl, 160⟩, ⟨26, 6, .rwl, 8⟩]⟩,
  ⟨0x130034, [], [⟨0, 8, .rw, 10⟩, ⟨8, 4, .rwl, 2⟩]⟩,
  ⟨0x130040, [], [⟨0, 8, .rwl, 1⟩, ⟨16, 8, .rwl, 64⟩]⟩,
  ⟨0x130044, [], [⟨0, 8, .ro, 0⟩, ⟨8, 24, .ro, 0⟩]⟩,
  ⟨0x130050, [], [⟨0, 16, .rw, 100⟩]⟩,
  ⟨0x130060, [], [⟨0, 1, .w1s, 0⟩]⟩,
  ⟨0x130100, [(0x4, 24)], [⟨0, 8, .ro, 0⟩, ⟨8, 1, .ro, 0⟩, ⟨16, 10, .ro, 0⟩]⟩]

/-- Rows of the DBG block. -/
def rowsDbg : List RegRow := [
  ⟨0x140000, [], [⟨0, 1, .ro, 0⟩, ⟨1, 1, .ro, 1⟩, ⟨2, 1, .ro, 0⟩, ⟨3, 1, .ro, 0⟩, ⟨4, 1, .w1c, 0⟩, ⟨8, 8, .ro, 0⟩]⟩,
  ⟨0x140004, [], [⟨0, 8, .rwd, 0⟩]⟩,
  ⟨0x140008, [], [⟨0, 32, .rc, 0⟩]⟩,
  ⟨0x14000C, [], [⟨0, 32, .rc, 0⟩]⟩,
  ⟨0x140010, [], [⟨0, 1, .ro, 1⟩, ⟨1, 11, .ro, 0⟩, ⟨12, 16, .ro, 0⟩, ⟨28, 4, .ro, 3⟩]⟩]

/-- The whole register map (R425). -/
def regMap : List RegRow :=
  rowsHub ++ rowsTck ++ rowsRng ++ rowsRte ++ rowsSfu ++ rowsAdm ++ rowsCst ++ rowsPmp ++ rowsCmb ++ rowsWelA ++ rowsWelB ++ rowsCol ++ rowsCtxA ++ rowsCtxB ++ rowsSvc ++ rowsRas ++ rowsEvr ++ rowsMir ++ rowsNse ++ rowsHth ++ rowsDbg

/-- Does the register array with this base and these strides hold an element at `off`? -/
def covers (base : Nat) : List (Nat × Nat) → Nat → Bool
  | [], off => off == base
  | (stride, count) :: rest, off =>
    decide (base ≤ off) && covers (base + stride * min ((off - base) / stride) (count - 1)) rest off

/-- The row that holds the register at a window offset (R426: none where no chapter assigns one). -/
def findReg (off : Nat) : Option RegRow :=
  regMap.find? fun r => covers r.base r.dims off

/-- The reset word of a row: each field at the reset value of its table. -/
def RegRow.resetNat (r : RegRow) : Nat :=
  r.fields.foldl (fun acc f => acc + f.rst * 2 ^ f.lo) 0

end Sys2Proof.Machine
end

