-- ==== Sys2Proof/Machine/State.lean ====
section
/-!
DEFINITION. The state of one chip that carries the block (R15-R19), as plain data: everything the spec names, the queue
of waiting commands, and the state after reset.
-/

namespace Sys2Proof.Machine

open Sys2Proof

/-- Bytes of a memory that differ from what an unwritten byte reads as: addresses strictly rising. -/
abbrev Mem := List Host.Cell

/-- Words of a register window that differ from their reset word, by byte offset, offsets strictly rising. -/
abbrev Win := List (Nat × Word)

/-- Why a command cannot be taken. No rule of the spec stops this block: every error is an effect on the state, so no
command raises a fault. The one name is kept for a state that the host itself could not have formed. -/
inductive Fault where
  /-- Raised by no command of the model; safe. -/
  | unreachable
  deriving DecidableEq, Repr

/-- Why a command has no meaning in the model. -/
inductive Refusal where
  /-- Raised by an arm of `exec` that has no meaning yet; safe. -/
  | notModelled (mnemonic : String)
  deriving DecidableEq, Repr

/-- The parameters that Evoune and the fuses set at build (R356, R434). Plain data of the state, so that a statement
about every state speaks of every build. -/
structure Build where
  integ : Nat
  slots : BitVec 24
  portsWired : BitVec 16
  hpSlices : Nat
  slvBase : Nat
  crdInit : Nat
  trpNs : Nat
  /-- Banks of a DRAM channel (log entry 112). -/
  dramBanks : Nat
  tickInDlyPs : Nat
  tickOutDlyPs : Nat
  xspiSck : Nat
  mfr : Nat
  part : Nat
  uid : Nat
  buildNo : Nat
  /-- Energy coefficient reset values (R356): WEL_COEF_ACT, RD, WR, STATIC and CTX_COEF_MAC, FLIT, HOSTB. -/
  coefAct : Nat
  coefRd : Nat
  coefWr : Nat
  coefStatic : Nat
  coefMac : Nat
  coefFlit : Nat
  coefHostb : Nat
  deriving DecidableEq, Repr

/-! ### Records of work -/

/-- The states of R47 that a step can be in on a member, RETIRED apart (its record is gone).
`retiring` is a step whose outcome is final although it did not commit and whose record is still to be
written (DEDUCED, log entry 8): it blocks the fetch of R76 as COMMITTED does. -/
inductive StepState where
  | fetched | ready | running | overtime | aborted | committed | retiring
  deriving DecidableEq, Repr

/-- A retention record (R55) with the step's state on this member. -/
structure Step where
  /-- The 128 bytes of the descriptor, byte 0 lowest. -/
  desc : BitVec 1024
  /-- Submission index, which is also the completion index (R81). -/
  index : Word
  state : StepState
  /-- The checks of R77 have run. -/
  checked : Bool
  finished : Bool
  replays : Nat
  launched : Bool
  /-- Tick of the first launch and of the launch of the current attempt. -/
  firstLaunch : Nat
  launch : Nat
  /-- The table bank active at the fetch, then the bank bound at launch (R103, R444); NEXP of the step's layer in the former (R75). -/
  bank : Nat
  fetchE : Nat
  /-- The banks have been swapped since the fetch (R444). -/
  swapped : Bool
  /-- Slot of the placement map in the echo region (R55, R248). -/
  slot : Nat
  /-- The placement of R28: the experts placed on the host path at launch. -/
  hostPlaced : List Nat
  /-- This member's shares of the slots' thresholds when the step reached READY (R156, R176). -/
  shares : List Nat
  /-- Wells (a mask) whose copy of the placement map was found uncorrectable (R248). -/
  mapSkip : Nat
  /-- Progress beacon already sent since the last accepted set (R54). -/
  beaconSent : Bool
  /-- An attempt of the step was aborted for UNCORRECTABLE or COUNT (R388). -/
  errAborted : Bool
  status : Nat
  detail : Nat
  complete : Bool
  endTick : Nat
  dropped : Nat
  spilled : Nat
  /-- Counts per expert of the attempt that committed, until its echo row is written (R156, R248). -/
  echo : List (Nat × Nat)
  /-- What the step's attempts have counted for the events that are written once for a step: tokens with a NaN in selection (R116),
  tokens that met an unseeded noise source (R119), tokens whose renormalisation was skipped and the first (R160), rows not finite and
  the first (R141). -/
  nanTokens : Nat
  unseeded : Nat
  renormSkip : Nat
  renormFirst : Nat
  rmsNf : Nat
  rmsFirst : Nat
  /-- The step has been counted as one without router (R107). -/
  noRouter : Bool
  /-- Whether the normaliser takes the unit gain for the step, once its Combine has started (R142). -/
  gainUnit : Option Bool
  /-- `TCK_NOW` when the step's record was formed; a record written again has the same contents (R82, R93). -/
  recTick : Option Nat
  /-- The record of the completion is out on the Host Port, and how often its write has failed (R338). -/
  recOut : Bool
  recErrs : Nat
  deriving DecidableEq, Repr

/-- An entry of the ledger index (R212): its forward step, what check 5 of R77 compares, and the share of each Well: slot,
first byte within the region, bytes. -/
structure LedgerEntry where
  seq : Word
  layer : Nat
  ntok : Nat
  tokBase : Nat
  shares : List (WellNo × Nat × Nat)
  valid : Bool
  /-- Written by an attempt that has not committed yet. -/
  tentative : Bool
  deriving DecidableEq, Repr

/-- Control-core data memory that the mirror holds (R397): retention records, templates, ledger index. -/
structure CoreMem where
  steps : Vector (List Step) 16
  tpl : Vector (List Byte) 16
  ledger : Vector (List LedgerEntry) 16
  /-- By context and Well: the byte of the region behind the share last committed (R212). -/
  shareEnd : Vector (List (WellNo × Nat)) 16
  deriving DecidableEq, Repr

/-- The port from which a register access comes (R10, R341, R437). -/
inductive AccessPort where
  | config | debug
  deriving DecidableEq, Repr

/-- One of the two Hub macros, kept by role: `act` holds the active role, `mir` the mirror role. -/
structure HubCore where
  side : Side
  /-- Held in reset by HUB_RST_N, by its Heath, or after a failover. -/
  inReset : Bool
  bistDone : Bool
  bistPass : Bool
  /-- Register window: words that differ from their reset word. -/
  win : Win
  /-- Writes of a _LO register that wait for the _HI write, per access port (R10). -/
  loHeld : List (AccessPort × Nat × Word)
  /-- Shadows of a _HI register taken at the read of its _LO (R10). -/
  shadow : List (AccessPort × Nat × Word)
  core : CoreMem
  /-- Table SRAM (R98), router-weight SRAM, noise lanes (R118). -/
  table : Mem
  router : Mem
  lanes : List (BitVec 256)
  /-- A seeding in progress: `some true` from the entropy source, `some false` from NSE_SEED (R119). -/
  seeding : Option Bool
  /-- Words of table SRAM and of router SRAM whose stored 80 bits are not the encoding of their bytes, by byte address, with the difference
  (R380). -/
  tableFlips : List (Nat × BitVec 80)
  routerFlips : List (Nat × BitVec 80)
  deriving DecidableEq, Repr

/-! ### Mirror channel -/

/-- What one MIR_UPDATE carries (R399, R400): a register word, bytes of the router SRAM or of the table SRAM, or
the control-core data memory. -/
inductive MirUpd where
  | reg (off : Nat) (v : Word)
  | router (addr : Nat) (bytes : List Byte)
  | table (addr : Nat) (bytes : List Byte)
  | core (m : CoreMem)
  deriving DecidableEq, Repr

/-- MSTATE of `MIR_STATUS` (R409). -/
inductive MState where
  | out | syncing | inSync | held
  deriving DecidableEq, Repr

/-- The effects of R399 that wait for an acknowledgement. -/
inductive HeldEffect where
  | readyReport (c : Ctx) (seq : Word) (replay : Bool)
  | cfgReady (side : Side)
  | loadDone
  | tplDone
  | armed (c : Ctx)
  deriving DecidableEq, Repr

/-- A failover in progress (R403): its cause, the instant of its trigger, whether the old Hub is reset. -/
structure Failover where
  cause : Nat
  at_ : Nat
  swap : Bool
  deriving DecidableEq, Repr

/-! ### Tick -/

/-- A ready report, local done or progress beacon as the master holds it (R51, R52, R54). -/
structure CtlRec where
  chip : Chip
  ctx : Ctx
  seq : Word
  att : Nat
  deriving DecidableEq, Repr

/-- The master's view of the running step of a context. -/
structure MasterRun where
  seq : Word
  launch : Nat
  /-- ATT of the attempt on each member, from its ready report. -/
  atts : List (Chip × Nat)
  /-- RUNNING became OVERTIME at the last tick. -/
  late : Bool
  deriving DecidableEq, Repr

/-- Tick state of the lead Heath (R36-R44, R51-R54). -/
structure TickBlock where
  /-- Instant of the next local tick on the master, where it is known. -/
  due : Option Nat
  /-- The ordered set accepted or formed for the coming tick, and its instant. -/
  set : Option (BitVec 192 × Nat)
  /-- Instant of the last local tick. -/
  lastFire : Nat
  /-- RUN was set and no tick has been taken since. -/
  first : Bool
  /-- The next set is a STOP set (R59). -/
  stop : Bool
  /-- Last accepted edge of TICK_IN since RUN was set (R38). -/
  edge : Option Nat
  /-- The master in holdover. -/
  holdover : Bool
  /-- Chip number of the master, from the last accepted set since RUN was set (R443). -/
  master : Option Chip
  /-- Control packets for the master held until a set is accepted (R443). -/
  held : List Pkt
  reports : List CtlRec
  dones : List CtlRec
  beats : List CtlRec
  running : Vector (Option MasterRun) 16
  /-- Contexts whose step the tick watchdog aborts at the coming emission. -/
  wdAbort : List Ctx
  /-- Packets discarded as stale per attempt: (context, SEQ, ATT, count, PTYPE of the first, reported). -/
  stale : List (Ctx × Word × Nat × Nat × Nat × Bool)
  /-- Packets discarded that belong to no attempt in this interval, and the PTYPE of the first. -/
  stalePlain : Nat
  stalePtype : Nat
  /-- TICK of the last tick set accepted from the parent port: its second copy is ignored (R304). -/
  seen : Option Nat
  /-- SEQ of the last ready report that this member sent for a context: the step that its LAUNCH bit starts (R51). -/
  reported : Vector (Option Word) 16
  /-- The calibration, by its port and instant, whose staleness event 0x0203 has reported (R46). -/
  staleCal : Option (Port × Nat)
  deriving DecidableEq, Repr

/-! ### Events, recorder -/

/-- An event as a block raises it (R88), before PHASE and LOST are known. -/
structure Event where
  code : Nat
  sev : Nat
  ctx : Option Ctx
  seq : Word
  tick : Nat
  source : Nat
  addr : Nat
  data : List Nat
  deriving DecidableEq, Repr

/-- The Hub's event writer (R90). -/
structure EventQueue where
  /-- Formed records waiting, oldest first. -/
  waiting : List Event
  /-- The record whose write is out, with how often the write has failed. -/
  inflight : Option (Event × Nat)
  /-- Records lost since the last one written. -/
  lost : Nat
  deriving DecidableEq, Repr

/-- A recorder record (R411) in the volatile ring. -/
structure RecEntry where
  ev : Event
  suppr : Nat
  rseq : Word
  opsec : Word
  frac : Nat
  pcyc : Nat
  /-- The six snapshot words, or none when NOSNAP is 1. -/
  snap : Option (List Word)
  flushed : Bool
  deriving DecidableEq, Repr

/-- A token bucket of R415: its code (none for the shared bucket), tokens, suppressed count. -/
structure Bucket where
  code : Option Nat
  tokens : Nat
  suppr : Nat
  deriving DecidableEq, Repr

/-- The flushes of R418. -/
inductive FlushKind where
  | trickle | fault | powerFail
  deriving DecidableEq, Repr

/-- A sector of the xSPI area (R375): index in the area, use sequence and erase count of its header, next free slot. -/
structure Sector where
  idx : Nat
  useSeq : Nat
  erases : Nat
  next : Nat
  bad : Bool
  deriving DecidableEq, Repr

/-- The event recorder of the lead Heath. -/
structure Recorder where
  ring : List RecEntry      -- oldest first, at most 4,096
  rseq : Word               -- RSEQ of the next record
  opsec0 : Nat              -- operating seconds at the start of this run
  start : Nat               -- instant of that start
  started : Bool            -- the device has been searched since the reset (R419)
  pcyc : Nat
  buckets : List Bucket
  flush : Option FlushKind
  /-- Records of the page program under way. -/
  page : List RecEntry
  nv : Bool
  nvMib : Nat
  sectorKib : Nat
  sectors : List Sector
  erasing : Bool
  nvErase : List Nat        -- sectors still to be erased by NV_ERASE
  eraseOf : Option Nat      -- sector whose erase is under way
  pfBudget : Nat            -- records the power-fail flush may still write
  suppr : Nat
  ovwr : Nat
  nvErr : Nat
  ovwrSec : Nat             -- second of the last overwrite, and records lost in it
  ovwrNow : Nat
  buf : List Word           -- the read buffer of R420
  hit : Bool
  skipped : Bool
  empty : Bool
  busy : Bool
  badCrc : Bool
  deriving DecidableEq, Repr

/-! ### Host Port -/

/-- What a master transfer is for; the response is dispatched on it (R331, R338). -/
inductive Purpose where
  | descriptor (c : Ctx)
  | input (c : Ctx) (seq : Word) (att : Nat) (tok : Nat)
  | noise (c : Ctx) (seq : Word) (att : Nat) (tok : Nat)
  | output (c : Ctx) (seq : Word) (att : Nat)
  | aux (c : Ctx) (seq : Word) (att : Nat)
  | completion (c : Ctx) (index : Word)
  | event
  | table (base : Nat)
  | template (base : Nat)
  | colDesc (ch : Nat)
  | colRead (ch : Nat) (shard chunk : Nat)
  | colWrite (ch : Nat) (shard chunk : Nat)
  | colCount (ch : Nat)
  | colRec (ch : Nat)
  | rollup
  deriving DecidableEq, Repr

/-- A master request: READ of `len` bytes, or WRITE of the bytes given, at a host address. -/
structure HostReq where
  why : Purpose
  write : Bool
  addr : Nat
  len : Nat
  data : List Byte
  deriving DecidableEq, Repr

/-- An outstanding master transaction (R333): its tag, the request, the bytes read so far, and whether it has become
an orphan (R58) or is being absorbed after a failover (R404). -/
structure HostTxn where
  tag : Fin 1024
  req : HostReq
  got : List Byte
  orphan : Bool
  deriving DecidableEq, Repr

/-- A slice of the Host Port (R330, R332): in reset, request credits its issuer holds, slave requests in progress. -/
structure Slice where
  inReset : Bool
  credits : Nat
  takes : List Nat       -- tile-table slots of takes whose response has not moved
  deriving DecidableEq, Repr

/-- The Host Port of the chip. -/
structure HostPort where
  queue : List HostReq
  txns : List HostTxn
  slices : List Slice
  deriving DecidableEq, Repr

/-! ### Links -/

/-- A flit waiting to be sent or kept for replay: SOP, EOP, body, and the packet it was cut from. -/
structure TxFlit where
  pair : Fin 8
  sop : Bool
  eop : Bool
  body : List Byte
  /-- Last flit of a copy whose acknowledgement releases Cistern references: the handles (R169). -/
  release : List Nat
  /-- Context, SEQ, ATT, PTYPE, SRC and DST of the packet, for R309 and R186. -/
  ctx : Ctx
  seq : Word
  att : Nat
  ptype : Nat
  src : Chip
  dst : Chip
  /-- The effective mask in force when the packet was routed (R310). -/
  mask : BitVec 16
  deriving DecidableEq, Repr

/-- The link layer of one link (R182-R184). -/
structure Link where
  txq : Vector (List TxFlit) 8
  /-- Unacknowledged flits with their FSEQ, oldest first: the replay buffer. -/
  replay : List (BitVec 12 × TxFlit)
  /-- How many flits of the replay buffer, from its oldest, have been sent again since the last rewind; none: no
  rewind under way. -/
  resend : Option Nat
  fseq : BitVec 12
  rewinds : Nat
  credits : Vector Nat 8
  crSeen : Vector (BitVec 10) 8
  rxNext : BitVec 12
  accepted : Bool
  nakSent : Bool
  nakDue : Bool
  part : Vector (List (List Byte)) 8
  /-- Flits of the packet in progress that have not left the receive buffer, and flits read from it in rewind mode and not yet released
  (R184, R196). -/
  held : Vector Nat 8
  kept : Vector Nat 8
  freed : Vector (BitVec 10) 8
  crTurn : Fin 8
  /-- By priority: the pair with the current turn and the flits sent in it (R183). -/
  turn : Vector (Option (Fin 8 × Nat)) 4
  lastPair : Vector (Fin 8) 4
  deriving DecidableEq, Repr

/-- The mirror channel between the Hubs and the state of the MIR block. -/
structure MirChan where
  link : Link
  mstate : MState
  useq : Word
  acked : Word
  /-- Updates sent and not yet applied, oldest first. -/
  sent : List (Word × MirUpd)
  /-- Effects held back until their update is acknowledged. -/
  effects : List (Word × HeldEffect)
  /-- Instant at which the synchronisation under way began; then the fields of `MIR_STATUS` and of the failover record. -/
  syncStart : Nat
  cause : Nat
  lastTick : Nat
  fo100ns : Nat
  syncUs : Nat
  /-- A line asked for with MIR_FETCH: space and offset. -/
  fetch : List (Side × Nat × Nat)
  /-- USEQ of the last update handed to the channel as flits. -/
  onLink : Word
  deriving DecidableEq, Repr

/-- A packet that has landed and waits for its stage: with the link, pair and flits whose credits it still holds. -/
structure Landed where
  pkt : Pkt
  hold : Option (LinkId × Fin 8 × Nat)
  /-- Handles of an own-chip copy, whose references are released when its stage has it (R169). -/
  release : List Nat := []
  /-- The packet waits and holds back those of its link and VC behind it (R197, R198). -/
  waits : Bool := false
  /-- The header has waited for a queue and has been counted in `PMP_Q_WAIT_CNT` (R198). -/
  counted : Bool := false
  deriving DecidableEq, Repr

/-- A packet in a Well's receive buffer for VC0 (R231), counted in `PMP_Q_WAIT_CNT` when it has waited for a queue. -/
structure RxPkt where
  pkt : Pkt
  counted : Bool
  deriving DecidableEq, Repr

/-- A packet on its way out, with its sub-class (R185) and the handles whose references its last flit's acknowledgement releases
(R169). -/
structure TxPkt where
  pkt : Pkt
  sub : Nat
  release : List Nat
  deriving DecidableEq, Repr

/-! ### Ports and the Heath -/

/-- Service and calibration state of one inter-chip port, beside its registers and its link. -/
structure PortState where
  link : Link
  /-- Good BEACONs in a row in CHECK, and trainings in a row without lock (R307). -/
  good : Nat
  trainFails : Nat
  /-- A BEACON with MSTATE other than 0 has arrived since the port came UP: a later MSTATE 0 asks for a restart (R403). -/
  locked : Bool
  /-- REMOVE with KIND 1 received, KIND 4 sent and received (R320). -/
  agreeRcvd : Bool
  doneSent : Bool
  doneRcvd : Bool
  /-- The port is out of the effective masks (R320 step 3). -/
  removed : Bool
  /-- Chips that have been the direct far end since their SVC_ABSENT bit was last cleared (R323). -/
  heard : List Chip
  /-- Outstanding calibration exchange: CSEQ and T1; the number of the next one (R305). -/
  cal : Option (Nat × Nat)
  calSeq : Nat
  /-- L of the latest exchange in ps, and when it was made (R367). -/
  lat : Option Nat
  calAt : Nat
  /-- When a removal was last refused (R317). -/
  refusedAt : Option Nat
  deriving DecidableEq, Repr

/-- The Heath of one Hub macro (R358, R359). -/
structure Heath where
  inReset : Bool
  mainGood : Bool
  bkupGood : Bool
  onBkup : Bool
  hubGood : Bool
  /-- Last sampled VDD_HUB of its macro, mV (R377). -/
  hubMv : Nat
  deriving DecidableEq, Repr

/-- The debug test access port of one Hub macro (R355, R437-R439). -/
structure DebugPort where
  en : Bool
  trst : Bool
  /-- Instruction code in the instruction register. -/
  ir : Byte
  /-- Arbiter held by ARBHOLD and since when. -/
  hold : Option (Nat × Nat)
  deriving DecidableEq, Repr

/-- What happens to a locked sequence of a Well on a DRAM channel: its row is precharged for a refresh, it goes on with its next burst
(R25, R242), or it is ended incomplete (R26). -/
inductive SeqMark where
  | precharged | resumed | incomplete
  deriving DecidableEq, Repr

/-- What the block drives at its pins and links, as it happens. -/
inductive Emission where
  | tickOut (at_ width : Nat)
  | orderedSet (port : Port) (ostype : Nat) (copy : Bool) (payload : BitVec 192) (crc marker : Word)
  | flit (link : LinkId) (head : DWord) (body : List Byte) (crc : Word)
  | cfgReady (side : Side) (rdata : Word) (err : Bool)
  | irqCq (c : Ctx)
  | irqEvt
  | irqRas
  /-- A master request with REQ_LEN, its tag, and of a write the bytes and their enables by beat (R330). -/
  | hostRequest (slice : Nat) (write : Bool) (addr len tag : Nat) (data : List Byte) (strb : List (BitVec 64))
  | slaveRead (slice : Option Nat) (data : List Byte) (err : Nat)
  | slaveWrite (slice : Option Nat) (err : Nat)
  | credit (slice : Nat) (n : Nat)
  | phyAdapt (port : Port)
  | wellRecal (w : WellNo)
  | sideband (w : WellNo) (off : Nat) (v : Word)
  | mirBeat (side : Side) (useq : Word) (active : Bool)
  | mirPacket (ptype : Nat) (w1 w2 : Nat) (bytes : List Byte)
  | xspi (op : Nat) (addr : Nat) (bytes : List Byte)
  | tdo (v : Word)
  | dram (w : WellNo) (cmd : HostCmd)
  | refresh (w : WellNo) (ch bank : Nat) (target : Option Nat)
  | hostData (w : WellNo) (bytes : List Byte) (bad : Bool)
  | selfRefresh (w : WellNo) (on : Bool)
  | lockedSeq (w : WellNo) (ch bank : Nat) (what : SeqMark)
  deriving DecidableEq, Repr

/-! ### Steps at work: sending side, receiving side, combine -/

/-- What Admit made of a copy (R150). -/
inductive Fate where
  | undecided | admitted | spilled | dropped
  deriving DecidableEq, Repr

/-- One copy of a token (R114, R155). -/
structure Copy where
  expert : Nat
  shared : Bool
  rank : Nat
  weight : Word
  gscore : Word
  fate : Fate
  dest : Nat
  bucket : Nat
  deriving DecidableEq, Repr

/-- A local token of the attempt in progress. -/
structure Token where
  t : Nat
  /-- Bytes of the input row and of the host noise received, by offset. -/
  row : List (Nat × List Byte)
  noise : List (Nat × List Byte)
  /-- Logits that Wells have returned, by expert (R109). -/
  logits : List (Nat × Word)
  /-- The row has been multicast in SCORE_ROW packets (R109). -/
  mcast : Bool
  selected : Bool
  copies : List Copy
  gmax : Word
  gsum : Word
  rfact : Word
  /-- Cistern buffer of the token (R168). -/
  handle : Option Nat
  emitted : Bool
  deriving DecidableEq, Repr

/-- The attempt of a context that is RUNNING or OVERTIME on this member: its sending side. -/
structure Attempt where
  seq : Word
  att : Nat
  toks : List Token
  /-- First token of the next admission window (R154). -/
  nextWin : Nat
  used : List (Nat × Nat)
  shUsed : List (Nat × Nat)
  wused : List (Nat × Nat)
  hused : List (Nat × Nat)
  drops : Nat
  spills : Nat
  /-- Copies in the order of Sort that the Pump has still to send: token, rank (R163). -/
  sendq : List (Nat × Nat)
  /-- Copies sent, per home and expert (R191). -/
  filled : List (Nat × Nat × Nat)
  eodSent : List Nat
  nanTokens : Nat
  unseeded : Nat
  renormSkip : Nat
  renormFirst : Nat
  /-- LEDGER_WRITE packets not yet taken by their Wells (R50, R212). -/
  ledgerPend : Nat
  /-- LEDGER_READ packets not yet answered: Well slot, address, length, token (R213). -/
  ledWait : List (Nat × Nat × Nat × Nat)
  /-- Wells of this chip that have reported local finish (R238). -/
  wellDone : List Nat
  /-- An abort notice for work on an absent Well has been sent (R197). -/
  absentSent : Bool
  /-- Tokens whose rows the normaliser found not finite, in order (R141). -/
  rmsNf : List Nat
  /-- The header of the ledger entry that a BACKWARD attempt works from, as its launch found it (R213). -/
  ledHead : List Byte
  deriving DecidableEq, Repr

/-- An EOD as a home holds it (R191, R199). -/
structure EodRec where
  src : Chip
  cap : Nat
  scap : Nat
  entries : List (Nat × Nat)
  deriving DecidableEq, Repr

/-- What a home holds of one attempt (R199): EODs and headers landed, per source and expert. -/
structure HomeRec where
  home : Nat
  ctx : Ctx
  seq : Word
  att : Nat
  eods : List EodRec
  landed : List (Chip × Nat × Nat)
  /-- One above the largest bucket landed from a source for an expert, of routed and of shared copies. -/
  tops : List (Chip × Nat × Nat × Nat)
  complete : Bool
  deriving DecidableEq, Repr

/-- An entry of an expert queue (R198), with the row it brings. -/
structure QEntry where
  handle : Nat
  src : Chip
  rank : Nat
  token : Nat
  weight : Word
  layer : Nat
  fast : Bool
  row : List Byte
  deriving DecidableEq, Repr

/-- A bound expert queue (R198). -/
structure Queue where
  ctx : Ctx
  seq : Word
  att : Nat
  expert : Nat
  entries : List QEntry
  /-- Entries read in rewind mode, between the release pointer and the read pointer (R196). -/
  kept : Nat := 0
  deriving DecidableEq, Repr

/-- A tile of the tile table (R201). -/
structure Tile where
  slot : Nat
  ctx : Ctx
  seq : Word
  att : Nat
  expert : Nat
  layer : Nat
  bwd : Bool
  bf16 : Bool
  entries : List QEntry
  /-- Copies whose handle the host has released, by position. -/
  released : List Nat
  taken : Bool
  /-- Aborted while the host held it: Return sends nothing for it (R215). -/
  dead : Bool
  issue : Nat
  deriving DecidableEq, Repr

/-- A returned rank that waits for its turn (R207): token row, rank, payload in FP32, where it is parked. -/
structure Parked where
  ctx : Ctx
  tok : Nat
  rank : Nat
  /-- The ranks it carries, and whether it is added without waiting for lower ranks (R210). -/
  ranks : Nat
  fast : Bool
  weight : Word
  row : List Word
  dw : Word
  /-- Cistern buffer that holds it, none for a park cell. -/
  handle : Option Nat
  cells : Nat
  deriving DecidableEq, Repr

/-- A token of the token table (R205). -/
structure MeadTok where
  ctx : Ctx
  t : Nat
  expected : Nat
  added : Nat
  acc : List Word
  slot : Bool
  dws : List (Nat × Word)
  deriving DecidableEq, Repr

/-- A table load in progress (R127): context, kind, where it goes and what has arrived (offset, bytes). -/
structure TableLoad where
  ctx : Ctx
  kind : Nat
  dest : Nat
  len : Nat
  got : List (Nat × List Byte)
  err : Nat
  deriving DecidableEq, Repr

/-- A template load in progress (R281). -/
structure TplLoad where
  ctx : Ctx
  len : Nat
  got : List (Nat × List Byte)
  err : Bool
  deriving DecidableEq, Repr

/-- What a Cistern request is for. -/
inductive CstWhy where
  | stage (c : Ctx) (t : Nat)
  | land (p : Pkt)
  | park (p : Parked) (hold : Option (LinkId × Fin 8 × Nat))
  | col (ch : Fin 16)
  deriving DecidableEq, Repr

/-- The work of the active Hub, none of it mirrored (R397). -/
structure Work where
  att : Vector (Option Attempt) 16
  homes : List HomeRec
  queues : List Queue
  tiles : List Tile
  issued : Nat
  /-- Deficits in copies of the any-context take address, its active context, last expert by source (R289). -/
  takeDef : Vector Int 16
  takeCtx : Option Ctx
  takeLast : List (Nat × Ctx × Nat)
  meadow : List MeadTok
  parked : List Parked
  /-- Finished rows that wait for a normaliser (R143). -/
  norm : List (Ctx × Nat)
  /-- TICKET counts (R288). -/
  tickets : Vector Nat 16
  /-- Scoring array (R282-R286): active context, deficits, tiles open by context: first token, tokens scored. -/
  scoreCtx : Option Ctx
  scoreDef : Vector Int 16
  /-- Accumulator bytes of a context that stand in its spill region (R285). -/
  spilled : List (Ctx × Nat)
  /-- The stage that admits windows: active context, deficits (R282). -/
  admCtx : Option Ctx
  admDef : Vector Int 16
  scoreOpen : List (Ctx × Nat × Nat)
  /-- A table load and a template load in progress (R102, R281). -/
  load : Option TableLoad
  tload : Option TplLoad
  /-- Energy per context not yet a whole microjoule, in fJ (R294). -/
  accFJ : Vector Nat 16
  /-- Fenced scoring engines with their reason: true RESIDUE, false MEMORY; the context and step of a MEMORY fence (R386). -/
  fenceWhy : List (Nat × Bool × Option (Ctx × Word))
  /-- The running scoring tile has failed the residue check once (R385). -/
  residueOnce : Bool
  deriving DecidableEq, Repr

/-- A request for a Cistern buffer (R166): requester, bytes, what it is for, whether it has waited since the last tick, and whether it is
counted in `CST_WAIT_CNT`. -/
structure CstReq where
  who : Nat
  bytes : Nat
  why : CstWhy
  waited : Bool
  counted : Bool
  deriving DecidableEq, Repr

/-- A Cistern buffer in use (R165-R171). -/
structure Buf where
  handle : Nat
  who : Nat
  count : Nat
  kib : Nat
  deriving DecidableEq, Repr

/-- The Cistern of the active Hub. -/
structure Cistern where
  bufs : List Buf
  /-- Handles on the free list a second time (R171). -/
  dup : List Nat
  /-- `CST_POOLn_LOW`; none: equal to COUNT. -/
  low : Vector (Option Nat) 4
  cfgErr : Bool
  data : Mem
  waits : List CstReq
  /-- Requesters with a buffer freed in this interval (R172). -/
  freed : List Nat
  last : Nat
  /-- Collective channel granted last (R268). -/
  colLast : Nat
  /-- Contexts that the last tick found starved (R172), until they are tested. -/
  starved : List Ctx
  deriving DecidableEq, Repr

/-- No attempt, nothing bound, nothing waiting. -/
def Work.fresh : Work :=
  { att := Vector.replicate 16 none, homes := [], queues := [], tiles := [], issued := 0,
    takeDef := Vector.replicate 16 0, takeCtx := none, takeLast := [], meadow := [], parked := [], norm := [],
    tickets := Vector.replicate 16 0, scoreCtx := none, scoreDef := Vector.replicate 16 0, spilled := [], admCtx := none, admDef := Vector.replicate 16 0, scoreOpen := [], load := none, tload := none,
    accFJ := Vector.replicate 16 0, fenceWhy := [], residueOnce := false }

/-- Every buffer free (R173). -/
def Cistern.fresh : Cistern :=
  { bufs := [], dup := [], low := Vector.replicate 4 none, cfgErr := false, data := [], waits := [], freed := [], last := 17, colLast := 15,
    starved := [] }


/-! ### Wells -/

/-- A step attempt as a Well holds it, from STEP_OPEN to STEP_CLOSE (R233, R236, R238). -/
structure WellOpen where
  ctx : Ctx
  seq : Word
  att : Nat
  opcode : Nat
  bank : Nat
  layer : Nat
  fwdSeq : Word
  /-- Activation-log records of a FORWARD attempt, in landing order: token, rank, expert, landed BF16 row. -/
  recs : List (Nat × Nat × Nat × List Byte)
  /-- Gradient-log records written and not written by a BACKWARD attempt (R236), and the next byte of the log. -/
  grads : Nat
  gover : Nat
  gnext : Nat
  /-- Words of the index of the forward step's activation-log entry, read into the landing buffer (R234); none while a BACKWARD attempt
  still waits for it. -/
  index : Option Nat
  /-- Reports of KIND 1 and KIND 2 sent. -/
  homeSent : Bool
  finSent : Bool
  deriving DecidableEq, Repr

/-- An expert tile of a Well (R200, R229). -/
structure WTile where
  ctx : Ctx
  seq : Word
  att : Nat
  expert : Nat
  layer : Nat
  bwd : Bool
  entries : List QEntry
  deriving DecidableEq, Repr

/-- A scoring tile of a Well (R232): tokens with their BF16 rows, in landing order. -/
structure ScoreTile where
  ctx : Ctx
  seq : Word
  att : Nat
  layer : Nat
  toks : List (Nat × List Byte)
  deriving DecidableEq, Repr

/-- A tile that an engine arbiter grants. -/
inductive WellWork where
  | expert (t : WTile)
  | score (t : ScoreTile)
  deriving DecidableEq, Repr

/-- An activation-log entry (R233): where its bytes lie and whether it is valid. -/
structure LogEntry where
  seq : Word
  start : Nat
  bytes : Nat
  valid : Bool
  deriving DecidableEq, Repr

/-- The row counters of one bank (R373): at most 8 rows with their counts. -/
structure BankRows where
  ch : Nat
  bank : Nat
  rows : List (Nat × Nat)
  /-- Targeted refreshes in this window, and whether event 0x0D31 was written in it (R374). -/
  targeted : Nat
  reported : Bool
  deriving DecidableEq, Repr

/-- What waits for the DRAM channels of a Well (R239): the index of a forward step's log read for STEP_OPEN, ledger bytes, the reads and
writes of the running tile, which ends after a number of cycles, a scrub burst with the words found in it, targeted refreshes. -/
inductive DramWhy where
  | opening (p : Pkt)
  | ledgerWrite (p : Pkt)
  | ledgerRead (p : Pkt)
  | tile (cycles : Nat)
  | scrub (addr : Nat) (found : List (Nat × BitVec 80))
  | refresh (ch bank row : Nat)
  deriving DecidableEq, Repr

/-- A waiting request, and whether it has been counted in `WEL_OPENROW_WAIT_CNT` (R241). -/
structure DramReq where
  why : DramWhy
  counted : Bool
  deriving DecidableEq, Repr

/-- One Well of the chip with the stack beneath it. -/
structure Well where
  version : Word
  inReset : Bool
  supplyOk : Bool
  linkUp : Bool
  inService : Bool
  /-- The host memory controller is in reset or powered down (R239). -/
  hostMasked : Bool
  link : Link
  /-- The link retrains: its flits wait (R345). -/
  retraining : Bool
  /-- Faulty link lanes known (R345). -/
  lanesBad : Nat
  stack : Mem
  /-- Words of the stack whose stored 80 bits are not the encoding of their bytes, by byte address, with the difference (R380, R383). -/
  flips : List (Nat × BitVec 80)
  /-- Requests of the Well's own channel requesters that wait, in the order they came, and by priority the requester granted last (R23,
  R239). -/
  dram : List DramReq
  dramLast : Vector Nat 4
  opens : List WellOpen
  homes : List HomeRec
  queues : List Queue
  waiting : List WellWork
  running : Option WellWork
  /-- Open scoring tiles, by attempt (R232). -/
  scoring : List ScoreTile
  /-- The receive buffer for VC0: DISPATCH and SCORE_ROW packets in arrival order; its head waits for a slot or a queue and holds back the
  others (R198, R231). -/
  rx : List RxPkt
  deficit : Vector Int 16
  activeCtx : Option Ctx
  actlog : Vector (List LogEntry) 16
  /-- Energy of the current window: of the host and of the Well, in fJ, and fJ not yet a whole microjoule (R243). -/
  hostFJ : Nat
  wellFJ : Nat
  restFJ : Nat
  overLast : Bool
  /-- Rows the host holds open: channel, bank, row (R241). -/
  hostRows : List (Nat × Nat × Nat)
  rows : List BankRows
  /-- The words of `HTH_RDM` and `HTH_RDM_MAX` that the Well applies in its current window (R378). -/
  rdm : Word
  rdmMax : Word
  /-- Temperature used for the cap, and samples in a row that could not be read (R371). -/
  tempT : Option Int
  tempFails : Nat
  /-- The running tile has failed the residue check once (R385). -/
  residueOnce : Bool
  /-- Fenced engines with their reason: true RESIDUE, false MEMORY; the context and step of a MEMORY fence (R386). -/
  fenceWhy : List (Nat × Bool × Option (Ctx × Word))
  deriving DecidableEq, Repr

/-- A Well before its link is trained: VDD_WEL good (PRESUMED, log entry 7), nothing in its buffers. -/
def Well.fresh : Well :=
  { version := 0x03000000, inReset := false, supplyOk := true, linkUp := false, inService := false, hostMasked := false,
    link := { txq := Vector.replicate 8 [], replay := [], resend := none, fseq := 0, rewinds := 0,
              credits := Vector.replicate 8 0, crSeen := Vector.replicate 8 0, rxNext := 0, accepted := false,
              nakSent := false, nakDue := false, part := Vector.replicate 8 [], held := Vector.replicate 8 0, kept := Vector.replicate 8 0, freed := Vector.replicate 8 0,
              crTurn := 0, turn := Vector.replicate 4 none, lastPair := Vector.replicate 4 7 }
    retraining := false, lanesBad := 0, stack := [], flips := [], dram := [], dramLast := Vector.replicate 4 3, opens := [], homes := [], queues := [], waiting := [], running := none,
    scoring := [], rx := [], deficit := Vector.replicate 16 0, activeCtx := none, actlog := Vector.replicate 16 [],
    hostFJ := 0, wellFJ := 0, restFJ := 0, overLast := false, hostRows := [], rows := [], rdm := 0x82020800, rdmMax := 0x100, tempT := none, tempFails := 0,
    residueOnce := false, fenceWhy := [] }

/-! ### Collectives -/

/-- A chunk of a collective held on this member: shard, chunk and phase, its FP32 words, and the (peer, direction) whose
buffer it occupies. -/
structure ColChunk where
  shard : Nat
  chunk : Nat
  phase : Nat
  words : List Word
  buf : Option (Chip × Nat)
  deriving DecidableEq, Repr

/-- A COL_DATA that waits for a credit: its peer, the direction, the packet, and the buffer it frees when sent. -/
structure ColOut where
  peer : Chip
  dir : Nat
  pkt : Pkt
  free : Option (Chip × Nat)
  deriving DecidableEq, Repr

/-- Volatile state of a collective channel (R252-R271). STATE, ALG_USED and ATT stand in `COL_CH_STATUS`. -/
structure Channel where
  /-- Address and 64 bytes of the descriptor. -/
  addr : Nat
  desc : BitVec 512
  fetched : Bool
  /-- Buffers the reservation of R268 needs and the handles it holds. -/
  need : Nat
  needBytes : Nat
  /-- The waiting reservation is counted in `CST_WAIT_CNT` (R166). -/
  counted : Bool
  bufs : List Nat
  /-- Peers whose COL_START of the current attempt has been received; COL_STARTs kept before the own one (R269). -/
  starts : List Chip
  kept : List Pkt
  /-- Credits held toward a peer and direction. -/
  credits : List (Chip × Nat × Nat)
  outq : List ColOut
  /-- Input counts read (R259), then input chunks read, asked for, and bytes received of each. -/
  counts : Option (List Nat)
  countBytes : List (Nat × List Byte)
  asked : List (Nat × Nat)
  inBytes : List (Nat × Nat × Nat × List Byte)
  own : List ColChunk
  /-- Chunks that have arrived and wait for the own term or their turn; under DIRECT `phase` holds the position. -/
  arrived : List ColChunk
  /-- Sums under DIRECT of the own shard: chunk, next position to be added, the sum so far (R266). -/
  sums : List (Nat × Nat × List Word)
  /-- Output chunks: shard, chunk, elements; with outstanding write bytes answered. -/
  outs : List (Nat × Nat × Nat)
  acked : List (Nat × Nat)
  /-- Output chunks of which a write has been answered with an error in this attempt (R256). -/
  bad : List (Nat × Nat)
  written : List (Nat × Nat)   -- CHUNKSj: shard, counter value written
  countsOut : Bool
  fins : List Chip
  finSent : Bool
  restarts : Nat
  newAtt : Nat
  /-- A restart for STALL or FAILOVER leaves OK, for UNCORRECTABLE leaves REPLAYED (R271). -/
  uncor : Bool
  dropped : Nat
  stalled : Nat
  hold : Bool
  moved : Bool
  heldFrom : List Chip
  /-- The final header has been formed: STATUS, DETAIL, COMPLETE; and its write is out. -/
  final : Option (Nat × Nat × Bool)
  finalOut : Bool
  deriving DecidableEq, Repr

/-- A channel with nothing running. -/
def Channel.fresh : Channel :=
  { addr := 0, desc := 0, fetched := false, need := 0, needBytes := 0, counted := false, bufs := [], starts := [], kept := [], credits := [], outq := [],
    counts := none, countBytes := [], asked := [], inBytes := [], own := [], arrived := [], sums := [], outs := [],
    acked := [], bad := [], written := [], countsOut := false, fins := [], finSent := false, restarts := 0, newAtt := 0,
    uncor := false, dropped := 0, stalled := 0, hold := false, moved := false, heldFrom := [], final := none,
    finalOut := false }

/-- An open housekeeping collective on the leader (R273): its starting tick, the instant of that tick, and the records of KIND 1 that have
arrived, with their instants. -/
structure HkOpen where
  tick : Nat
  startAt : Nat
  recs : List (Chip × Nat × List Byte)
  deriving DecidableEq, Repr

/-- The housekeeping collectives on this chip (R273): those that are open, in the order of their ticks, the tick of the last one closed,
and the latest record of KIND 2 of each chip. -/
structure Housekeeping where
  opened : List HkOpen
  closed : Nat
  tele : List (Chip × List Byte)
  deriving DecidableEq, Repr

/-- No housekeeping collective open. -/
def Housekeeping.fresh : Housekeeping := { opened := [], closed := 0, tele := [] }
/-! ### The chip -/

/-- The state of one chip. `act` is the Hub that holds the active role (or would, while `active` is false), `mir` the
other one. State that R397 does not mirror is kept once, outside `act` and `mir`: only the active Hub has it, and a new
active Hub starts with it empty. -/
structure State where
  build : Build
  /-- Commands that wait, first in first out (the form of this model). -/
  pending : List Instr
  /-- Heath time base in units of 0.625 ns (R349): the latest instant a command has named. -/
  now : Nat
  /-- Everything driven at pins and links, newest first. -/
  out : List Emission
  /-- Free values drawn so far (the model's own field; see Config). -/
  free : Nat
  active : Bool
  act : HubCore
  mir : HubCore
  /-- WEL pages (in the Wells) and the MIR block (the same in both Hubs, R409). -/
  cwin : Win
  mch : MirChan
  failover : Option Failover
  tick : TickBlock
  /-- Steps of each context that have had their COMMIT bit since its ring was enabled, by SEQ (R49, R389). -/
  commits : Vector (List Word) 16
  evq : EventQueue
  evr : Recorder
  host : HostPort
  /-- Config Port accesses to a WEL page that wait for the sideband (R341): side, write, offset, value. -/
  cfgWait : List (Side × Bool × Nat × Word)
  ports : Vector PortState 16
  landed : List Landed
  /-- Packets that wait for a change of route to drain (R310). -/
  routeWait : List TxPkt
  wells : Vector Well 24
  work : Work
  cist : Cistern
  chan : Vector Channel 16
  hk : Housekeeping
  heathA : Heath
  heathB : Heath
  lead : Side
  pfail : Bool
  intBypass : Bool
  /-- The debug test access ports of the two Hub macros. -/
  tapA : DebugPort
  tapB : DebugPort
  nvm : Mem
  /-- Instants of the sector erases of the last hour, and whether trickle flushing pauses at their limit (R376). -/
  erases : List Nat
  erasePaused : Bool
  /-- Words corrected in the current second: part, second of operation, count (R382). -/
  corrected : List (Nat × Nat × Nat)
  /-- Port and Well whose turn it is for an adaptation pass and a recalibration (R368). -/
  eqTurn : Nat
  wlTurn : Nat
  deriving DecidableEq, Repr

/-! ### Reset -/

/-- A sample build (DESIGN CHOICE, log entry 2): every Evoune parameter within its range of R356. -/
def Build.sample : Build :=
  { integ := 0, slots := 0xFFFFFF, portsWired := 0xFFFF, hpSlices := 16, slvBase := 0, crdInit := 8, trpNs := 15, dramBanks := 64,
    tickInDlyPs := 0, tickOutDlyPs := 0, xspiSck := 2, mfr := 0, part := 0, uid := 0, buildNo := 0,
    coefAct := 600, coefRd := 9600, coefWr := 10400, coefStatic := 4200, coefMac := 200, coefFlit := 11200,
    coefHostb := 4000 }

/-- Control-core memory at reset: no retention record, no template, no ledger entry. -/
def CoreMem.empty : CoreMem :=
  { steps := Vector.replicate 16 [], tpl := Vector.replicate 16 [], ledger := Vector.replicate 16 [], shareEnd := Vector.replicate 16 [] }

/-- A Hub right after its reset is released: every region at its reset values (R350), self-test not yet ended, noise
lanes being seeded from the entropy source (R119). -/
def HubCore.fresh (side : Side) (held : Bool) : HubCore :=
  { side := side, inReset := held, bistDone := false, bistPass := false, win := [], loHeld := [], shadow := [],
    core := CoreMem.empty, table := [], router := [], lanes := List.replicate 128 0#256, seeding := some true,
    tableFlips := [], routerFlips := [] }

/-- An idle link layer (R182, R184): nothing sent, nothing held, no credit. -/
def Link.fresh : Link :=
  { txq := Vector.replicate 8 [], replay := [], resend := none, fseq := 0, rewinds := 0,
    credits := Vector.replicate 8 0, crSeen := Vector.replicate 8 0, rxNext := 0, accepted := false, nakSent := false,
    nakDue := false, part := Vector.replicate 8 [], held := Vector.replicate 8 0, kept := Vector.replicate 8 0, freed := Vector.replicate 8 0, crTurn := 0, turn := Vector.replicate 4 none,
    lastPair := Vector.replicate 4 7 }

/-- A port at reset: DOWN, nothing known of the far end. -/
def PortState.fresh : PortState :=
  { link := Link.fresh, good := 0, trainFails := 0, locked := false,
    agreeRcvd := false, doneSent := false, doneRcvd := false, removed := false, heard := [], cal := none, calSeq := 0,
    lat := none, calAt := 0, refusedAt := none }

/-- Tick state at reset: no tick due, nothing reported. -/
def TickBlock.fresh : TickBlock :=
  { due := none, set := none, lastFire := 0, first := false, stop := false, edge := none, holdover := false,
    master := none, held := [], reports := [], dones := [], beats := [], running := Vector.replicate 16 none,
    wdAbort := [], stale := [], stalePlain := 0, stalePtype := 0, seen := none,
    reported := Vector.replicate 16 none, staleCal := none }

/-- The event recorder at reset: an empty ring, no device found yet (R412, R417). -/
def Recorder.fresh : Recorder :=
  { ring := [], rseq := 0, opsec0 := 0, start := 0, started := false, pcyc := 0, buckets := [], flush := none, page := [], nv := false,
    nvMib := 0, sectorKib := 0, sectors := [], erasing := false, nvErase := [], eraseOf := none, pfBudget := 0, suppr := 0, ovwr := 0,
    nvErr := 0, ovwrSec := 0, ovwrNow := 0, buf := List.replicate 16 0, hit := false, skipped := false, empty := false,
    busy := false, badCrc := false }

/-- A Heath on VAON_MAIN with every monitored supply good (PRESUMED, log entry 7). -/
def Heath.fresh : Heath :=
  { inReset := false, mainGood := true, bkupGood := true, onBkup := false, hubGood := true, hubMv := 0 }

/-- A debug port masked by its pins, with BYPASS selected (R355, R437). -/
def DebugPort.fresh : DebugPort := { en := false, trst := true, ir := 0xFF, hold := none }

/-- A released slice with its initial credits (R332). -/
def Slice.fresh (n : Nat) : Slice := { inReset := false, credits := n, takes := [] }

/-- The mirror channel at reset: the mirror out of service (R409). -/
def MirChan.fresh : MirChan :=
  { link := Link.fresh, mstate := .out, useq := 0, acked := 0, sent := [], effects := [], syncStart := 0, cause := 0,
    lastTick := 0, fo100ns := 0, syncUs := 0, fetch := [], onLink := 0 }

/-- The machine right after power-up reset: both Hubs released and in self-test (R16), no Hub active, internal bypass
engaged (R313), every register at its reset value, every queue and memory empty. -/
def State.reset : State :=
  { build := Build.sample, pending := [], now := 0, out := [], free := 0, active := false,
    act := HubCore.fresh .a false, mir := HubCore.fresh .b false, cwin := [], mch := MirChan.fresh, failover := none,
    tick := TickBlock.fresh, commits := Vector.replicate 16 [], evq := { waiting := [], inflight := none, lost := 0 }, evr := Recorder.fresh,
    host := { queue := [], txns := [], slices := List.replicate 16 (Slice.fresh 8) }, cfgWait := [],
    ports := Vector.replicate 16 PortState.fresh, landed := [], routeWait := [],
    wells := Vector.replicate 24 Well.fresh, work := Work.fresh, cist := Cistern.fresh,
    chan := Vector.replicate 16 Channel.fresh, hk := Housekeeping.fresh, heathA := Heath.fresh, heathB := Heath.fresh,
    lead := .a, pfail := false, intBypass := true,
    tapA := DebugPort.fresh, tapB := DebugPort.fresh, nvm := [], erases := [], erasePaused := false,
    corrected := [],
    eqTurn := 0, wlTurn := 0 }

end Sys2Proof.Machine
end

