-- ==== Sys2Proof/Machine/RegFile.lean ====
section
/-!
DEFINITION. The stored part of the register window: reset words, reading and writing a field, and the one store operation
that also feeds the mirror channel (R397, R399).
-/

namespace Sys2Proof.Machine

open Sys2Proof

/-- A word of one register whose reset value is an Evoune parameter (R356): coefficients. -/
def buildReset (b : Build) (off : Nat) : Option Word :=
  if 0x080000 ≤ off ∧ off < 0x0B0000 then
    match (off - 0x080000) % 0x2000 with
    | 0x50 => some (BitVec.ofNat 32 b.coefAct)
    | 0x54 => some (BitVec.ofNat 32 b.coefRd)
    | 0x58 => some (BitVec.ofNat 32 b.coefWr)
    | 0x5C => some (BitVec.ofNat 32 b.coefStatic)
    | _ => none
  else if off = CTX_COEF_MAC.reg then some (BitVec.ofNat 32 b.coefMac)
  else if off = CTX_COEF_FLIT.reg then some (BitVec.ofNat 32 b.coefFlit)
  else if off = CTX_COEF_HOSTB.reg then some (BitVec.ofNat 32 b.coefHostb)
  else none

/-- The word of an offset after reset (R7 and the register tables); 0 where no register lies. -/
def resetWord (b : Build) (off : Nat) : Word :=
  match buildReset b off with
  | some w => w
  | none =>
    match findReg off with
    | some r => BitVec.ofNat 32 r.resetNat
    | none => 0

/-- The WEL pages, which lie in the Wells (R346). -/
def welOff (off : Nat) : Bool := decide (0x080000 ≤ off ∧ off < 0x0B0000)

/-- The MIR block, the same in both Hubs (R409). -/
def mirOff (off : Nat) : Bool := decide (0x110000 ≤ off ∧ off < 0x120000)

/-- What exists once per chip. -/
def chipOff (off : Nat) : Bool := welOff off || mirOff off

/-- R397: the registers of the window that the mirror Hub holds, the WEL registers among them (R249). The accounting counters follow at
each tick (R293). -/
def mirrored (off : Nat) : Bool :=
  !(mirOff off) &&
  !(decide (RAS_COR_CNT.reg ≤ off ∧ off ≤ RAS_LATE_NOTICE_CNT.reg)) &&
  !(decide (0x140000 ≤ off ∧ off < 0x150000)) &&
  !(decide (off = HUB_ID.reg)) &&
  !(decide (EVR_WSTAT.reg ≤ off ∧ off < 0x100080)) &&
  !(decide (CST_USED.reg 0 ≤ off ∧ off ≤ CST_USED.reg 17)) &&
  !(decide (0x058040 ≤ off ∧ off < 0x058080) && decide (off % 0x10 ≥ 8))

/-- An accounting counter (R293), mirrored at each tick and not by each change. -/
def accounting (off : Nat) : Bool :=
  decide (0x0D1000 ≤ off ∧ off < 0x0D1800) && decide ((off - 0x0D1000) % 0x80 ≥ 0x28)

/-- Send one update on the mirror channel: the next USEQ, in order (R399). Nothing is sent while no mirror is in
service. -/
def MirChan.push (m : MirChan) (u : MirUpd) : MirChan :=
  match m.mstate with
  | .syncing | .inSync => { m with useq := m.useq + 1, sent := m.sent ++ [(m.useq + 1, u)] }
  | .out | .held => m

/-- The stored word at a window offset of the active Hub. -/
def State.word (s : State) (off : Nat) : Word :=
  sget (resetWord s.build) (if chipOff off then s.cwin else s.act.win) off

/-- The stored word at a window offset of the mirror Hub, which has a copy of the WEL registers (R249). -/
def State.mirWord (s : State) (off : Nat) : Word :=
  sget (resetWord s.build) (if mirOff off then s.cwin else s.mir.win) off

/-- Store a word at a window offset of the active Hub; a mirrored register sends an update (R399). -/
def State.setWord (s : State) (off : Nat) (v : Word) : State :=
  let mch := if mirrored off && !accounting off then s.mch.push (.reg off v) else s.mch
  if chipOff off then { s with cwin := sput (resetWord s.build) s.cwin off v, mch := mch }
  else { s with act := { s.act with win := sput (resetWord s.build) s.act.win off v }, mch := mch }

/-- The debug port of a side. -/
def State.tap (s : State) (side : Side) : DebugPort := match side with | .a => s.tapA | .b => s.tapB

/-- Change the debug port of a side. -/
def State.modTap (s : State) (side : Side) (f : DebugPort → DebugPort) : State :=
  match side with
  | .a => { s with tapA := f s.tapA }
  | .b => { s with tapB := f s.tapB }

/-- The debug port of the Hub with the active role. -/
def State.dbg (s : State) : DebugPort := s.tap s.act.side

/-- Read a field. -/
def State.rd (s : State) (f : Fld) : Nat := f.get (s.word f.off)

/-- Store a field. -/
def State.wr (s : State) (f : Fld) (v : Nat) : State := s.setWord f.off (f.put (s.word f.off) v)

/-- Add to a counter that saturates at its field's largest value. -/
def State.bumpBy (s : State) (f : Fld) (n : Nat) : State := s.wr f (min (2 ^ f.len - 1) (s.rd f + n))

/-- Count one in a saturating counter. -/
def State.bump (s : State) (f : Fld) : State := s.bumpBy f 1

/-- Store a field when it does not hold the value already. -/
def State.wrIf (s : State) (f : Fld) (v : Nat) : State := if s.rd f = v then s else s.wr f v

/-- A _LO/_HI pair as one number (R10). -/
def State.rd2 (s : State) (lo hi : Fld) : Nat := s.rd lo + s.rd hi * 2 ^ lo.len

/-- Store a pair. -/
def State.wr2 (s : State) (lo hi : Fld) (v : Nat) : State := (s.wr lo v).wr hi (v / 2 ^ lo.len)

/-- `TCK_NOW` (R65). -/
def State.tickNow (s : State) : Nat := s.rd2 TCK_NOW_LO.TICK TCK_NOW_HI.TICK

/-- `SVC_ID.CHIP`: the chip's own number. -/
def State.chip (s : State) : Nat := s.rd SVC_ID.CHIP

/-- `SVC_ABSENT` as a mask of chips. -/
def State.absent (s : State) : Nat := s.rd2 SVC_ABSENT_LO.CHIPS SVC_ABSENT_HI.CHIPS

/-- The member set of a context: `CTX_MEMBERS`, where 0 stands for the own chip alone (R278). -/
def State.members (s : State) (c : Ctx) : Nat :=
  let m := s.rd2 (CTX_MEMBERS_LO.CHIPS c) (CTX_MEMBERS_HI.CHIPS c)
  if m = 0 then 2 ^ s.chip else m

/-- The steps of a context (its retention records). -/
def State.steps (s : State) (c : Ctx) : List Step := s.act.core.steps[c]

/-- Store control-core memory; the mirror follows (R399). -/
def State.setCore (s : State) (m : CoreMem) : State :=
  { s with act := { s.act with core := m }, mch := s.mch.push (.core m) }

/-- Store the steps of a context. -/
def State.setSteps (s : State) (c : Ctx) (l : List Step) : State :=
  s.setCore { s.act.core with steps := s.act.core.steps.set c l }

/-- Change the steps of a context that meet a condition. -/
def State.modStep (s : State) (c : Ctx) (p : Step → Bool) (f : Step → Step) : State :=
  s.setSteps c ((s.steps c).map fun st => if p st then f st else st)

/-- RUNNING or OVERTIME. -/
def Step.live (st : Step) : Bool := st.state == .running || st.state == .overtime

/-- The step of a context that is RUNNING or OVERTIME. -/
def State.liveStep (s : State) (c : Ctx) : Option Step := (s.steps c).find? Step.live

/-- Bits of the descriptor: byte offset of the word, lowest bit, width (R74). -/
def Step.bits (st : Step) (byte lo len : Nat) : Nat := bitsOf st.desc.toNat (8 * byte + lo) len

/-- OPCODE (R74). -/
def Step.opcode (st : Step) : Nat := st.bits 0 0 4
/-- SEQ. -/
def Step.seq (st : Step) : Word := BitVec.ofNat 32 (st.bits 4 0 32)
/-- INMODE. -/
def Step.inmode (st : Step) : Nat := st.bits 0 8 2
/-- GATE. -/
def Step.gate (st : Step) : Nat := st.bits 0 10 2
/-- NOISE. -/
def Step.noise (st : Step) : Nat := st.bits 0 12 2
/-- PAYLOAD: 1 BF16. -/
def Step.payload (st : Step) : Bool := st.bits 0 14 1 == 1
/-- COMBINE: 1 fast. -/
def Step.fast (st : Step) : Bool := st.bits 0 15 1 == 1
/-- RMSNORM. -/
def Step.rmsnorm (st : Step) : Bool := st.bits 0 16 1 == 1
/-- RENORM. -/
def Step.renorm (st : Step) : Nat := st.bits 0 17 2
/-- LAYER. -/
def Step.layer (st : Step) : Nat := st.bits 8 0 10
/-- TOPK. -/
def Step.topk (st : Step) : Nat := st.bits 8 10 6
/-- NSHARED. -/
def Step.nshared (st : Step) : Nat := st.bits 8 16 3
/-- CAPF. -/
def Step.capf (st : Step) : Nat := st.bits 8 19 8
/-- NTOK. -/
def Step.ntok (st : Step) : Nat := st.bits 0x0C 0 22
/-- TOK_BASE. -/
def Step.tokBase (st : Step) : Nat := st.bits 0x10 0 22
/-- FWD_SEQ. -/
def Step.fwdSeq (st : Step) : Word := BitVec.ofNat 32 (st.bits 0x14 0 32)
/-- IN_PITCH. -/
def Step.inPitch (st : Step) : Nat := st.bits 0x18 0 24
/-- OUT_PITCH. -/
def Step.outPitch (st : Step) : Nat := st.bits 0x1C 0 24
/-- IN_ADDR. -/
def Step.inAddr (st : Step) : Nat := st.bits 0x20 0 64
/-- OUT_ADDR. -/
def Step.outAddr (st : Step) : Nat := st.bits 0x28 0 64
/-- AUX_ADDR. -/
def Step.auxAddr (st : Step) : Nat := st.bits 0x30 0 64
/-- NOISE_ADDR. -/
def Step.noiseAddr (st : Step) : Nat := st.bits 0x38 0 64
/-- NVOC. -/
def Step.nvoc (st : Step) : Nat := st.bits 0x40 0 19
/-- TEMP. -/
def Step.temp (st : Step) : Nat := st.bits 0x44 0 16
/-- USER. -/
def Step.user (st : Step) : Nat := st.bits 0x48 0 64

/-- The ring of a context is frozen as a master (R394). -/
def State.ringFrozen (s : State) (c : Ctx) : Bool := (s.rd RAS_FREEZE.CTX).testBit c

/-- The Hub is a tick master by its SRC (R36). -/
def State.isMaster (s : State) : Bool := s.rd TCK_CTRL.SRC == 0 || s.rd TCK_CTRL.SRC == 2

/-- The context's ring is enabled. -/
def State.ctxOn (s : State) (c : Ctx) : Bool := s.rd (RNG_CTX_CTRL.ENABLE c) == 1

/-- The Wells in service, ascending. -/
def State.serviceWells (s : State) : List WellNo := (List.finRange 24).filter fun w => s.wells[w].inService

/-- Later of two instants: the time base never runs backward. -/
def State.at (s : State) (t : Nat) : State := { s with now := max s.now t }

/-- Drive something at a pin or link. -/
def State.emit (s : State) (e : Emission) : State := { s with out := e :: s.out }

end Sys2Proof.Machine
end

