-- ==== Sys2Proof/Machine/Views.lean ====
section
/-!
DEFINITION. What a read of the register window returns (R7, R425): the stored word with the fields that show state kept
elsewhere. A view has no side effect.
-/

namespace Sys2Proof.Machine

open Sys2Proof

/-- Data words of the capability entries (R433), by entry number (ID 1 is 0) and word. The mirror's window reads the fields of `SVC_ID` as
last mirrored (R431); INSERV and NV are mirrored at once (log entry 117). -/
def capData (s : State) (side : Side) (entry k : Nat) : Nat :=
  let b := s.build
  let id (f : Fld) : Nat := f.get (if side = s.act.side then s.word f.off else s.mirWord f.off)
  match entry, k with
  | 0, 0 => b.hpSlices % 256 + (b.crdInit % 256) * 2 ^ 8 + bitNat (side == .b) * 2 ^ 16
  | 0, 2 => (b.slvBase / 2 ^ 27 * 2 ^ 27) % 2 ^ 32
  | 0, 3 => b.slvBase / 2 ^ 32
  | 1, 0 => b.tickInDlyPs % 2 ^ 16 + (b.tickOutDlyPs % 2 ^ 16) * 2 ^ 16
  | 1, 1 => 0xFFFF0002
  | 1, 2 => 0x14 + 0xF * 2 ^ 8
  | 2, 0 => 0x10 + 0x06 * 2 ^ 8 + 0x10 * 2 ^ 16
  | 2, 1 => 0x80 + 0x20 * 2 ^ 8 + 0x40 * 2 ^ 16
  | 3, 0 => 0x4000 + 0x80 * 2 ^ 16
  | 3, 1 => 0x4000 + 0x20 * 2 ^ 16 + 4 * 2 ^ 24
  | 3, 2 => 0x100 + 0x2000 * 2 ^ 16
  | 3, 3 => 0x40000 + 0x400 * 2 ^ 20
  | 4, 0 => 0x0100 + 7 * 2 ^ 16 + 4 * 2 ^ 20 + 0x3F * 2 ^ 24
  | 5, 0 => 0x20 + 0xB * 2 ^ 8 + 4 * 2 ^ 12 + 0x12 * 2 ^ 16
  | 5, 1 => 0x10000
  | 5, 2 => 0x8000
  | 6, 0 => b.portsWired.toNat + 0x10 * 2 ^ 16 + 8 * 2 ^ 24
  | 6, 1 => 0x0800 + 0x0400 * 2 ^ 16
  | 6, 2 => 0x0200 + 0x0118 * 2 ^ 16
  | 6, 3 => 0x00C8 + 4 * 2 ^ 16 + 0x04 * 2 ^ 24
  | 7, 0 => 0x10 + 0x04 * 2 ^ 8 + 0x800 * 2 ^ 16
  | 7, 1 => 0x3E00
  | 8, 0 => b.slots.toNat + ((bitsSet 24 b.slots.toNat).length) * 2 ^ 24
  | 8, 1 => maskOf (s.serviceWells.map (·.val))
  | 8, 2 => 0x10 + 4 * 2 ^ 8 + 0x100 * 2 ^ 16
  | 8, 3 => 0x0100 + 0x60 * 2 ^ 16 + 0x08 * 2 ^ 24
  | 9, 0 => 0x10 + 0x40 * 2 ^ 8 + 8 * 2 ^ 16 + 0xE * 2 ^ 20
  | 10, 0 => 0x10 + 0x10 * 2 ^ 8 + 0x80 * 2 ^ 16
  | 10, 1 => 0x80000
  | 10, 2 => 0xFFFF
  | 11, 0 => id SVC_ID.CHIP + id SVC_ID.LOCK * 2 ^ 6 + id SVC_ID.DOMAIN * 2 ^ 16
  | 11, 1 => 0x40 + 8 * 2 ^ 8
  | 12, 0 => 7
  | 12, 1 => 0x000A
  | 13, 0 => 0x1000 + 0x40 * 2 ^ 16 + 0x80 * 2 ^ 24
  | 13, 1 => b.xspiSck % 4 + bitNat s.evr.nv * 2 ^ 8 + (if s.evr.nv then s.evr.nvMib % 2 ^ 16 else 0) * 2 ^ 16
  | 14, 0 => 0x0032 + 0x03E8 * 2 ^ 16
  | 14, 1 => 0x00E0
  | 15, 0 => 0x80 + 0x01 * 2 ^ 8 + 0x0100 * 2 ^ 16
  | _, _ => 0

/-- BLOCK of each capability entry (R432). -/
def capBlock : List Nat :=
  [0x000100, 0x010000, 0x020000, 0x030000, 0x040000, 0x050000, 0x060000, 0x070000, 0x080000, 0x0C0000, 0x0D0000,
   0x0E0000, 0x0F0000, 0x100000, 0x110000, 0x120000]

/-- A word of the capability list (R427, R428, R432): entry 0 at 0, entry i at 0x400 + 0x20 (i - 1). -/
def capWord (s : State) (side : Side) (off : Nat) : Option Nat :=
  let at_ (i r : Nat) : Option Nat :=
    match r with
    | 0 => some ((i + 1) + 0x01 * 2 ^ 16 + 2 * 2 ^ 24)
    | 4 => some (if i = 15 then 0 else 0x400 + 0x20 * i)
    | 8 => some (capBlock.getD i 0)
    | 12 => some 0
    | _ => some (capData s side i ((r - 16) / 4))
  if off < 0x20 then at_ 0 off
  else if 0x400 ≤ off ∧ off < 0x5E0 then at_ ((off - 0x400) / 0x20 + 1) ((off - 0x400) % 0x20)
  else none

/-- Fields of `RNG_CTX_STATUS` (R96). -/
def State.ctxStatus (s : State) (h : HubCore) (c : Ctx) : Nat :=
  let l := h.core.steps[c]
  let fetched := l.any fun st => st.state == .fetched
  let ready := l.any fun st => st.state == .ready
  let act := l.any fun st => st.state != .fetched && st.state != .ready
  let idle := !fetched && !ready && !act
  bitNat fetched + bitNat ready * 2 + bitNat act * 4 + bitNat (s.ringFrozen c) * 8 +
    s.rd (RNG_CTX_STATUS.CQ_FULL c) * 16 + bitNat idle * 32

/-- Every step of the context is over and its record written (`RNG_CTX_STATUS.IDLE`). -/
def State.idle (s : State) (c : Ctx) : Bool := (s.steps c).isEmpty

/-- Newest RSEQ of the ring, or 0. -/
def Recorder.newest (r : Recorder) : Word := match r.ring.getLast? with | some e => e.rseq | none => 0

/-- Oldest RSEQ of the ring, or 0. -/
def Recorder.oldest (r : Recorder) : Word := match r.ring with | e :: _ => e.rseq | [] => 0

/-- `EVR_FLUSHED` (R423). -/
def Recorder.flushedTo (r : Recorder) : Word :=
  match r.ring.find? fun e => !e.flushed with
  | some e => e.rseq - 1
  | none => r.newest

/-- MSTATE of `MIR_STATUS`. -/
def MState.code : MState → Nat
  | .out => 0 | .syncing => 1 | .inSync => 2 | .held => 3

/-! ### Cistern pools -/

/-- Buffers of a pool, and the size of one in KiB. -/
def State.poolCount (s : State) (n : Nat) : Nat := s.rd (CST_POOL_COUNT.COUNT n)
/-- SIZE_KIB of a pool. -/
def State.poolKib (s : State) (n : Nat) : Nat := s.rd (CST_POOL_CFG.SIZE_KIB n)

/-- Pool of a handle (R165). -/
def handlePool (h : Nat) : Nat := bitsOf h 16 2
/-- INDEX of a handle (R165). -/
def handleIndex (h : Nat) : Nat := bitsOf h 0 16

/-- Free buffers of a pool: those not in use, and those on the free list a second time (R171). -/
def State.poolFree (s : State) (n : Nat) : Nat :=
  s.poolCount n - (s.cist.bufs.filter fun b => handlePool b.handle == n).length +
    (s.cist.dup.filter fun h => handlePool h == n).length

/-- KiB charged to a requester (R167). -/
def State.cstUsed (s : State) (q : Nat) : Nat :=
  (s.cist.bufs.filter fun b => b.who == q).foldl (fun a b => a + b.kib) 0

/-- Least FREE since the last read (R178). -/
def State.poolLow (s : State) (n : Nat) : Nat :=
  match s.cist.low.toList.getD n none with
  | some l => l
  | none => s.poolFree n

/-- A Cistern state register. -/
def State.cistView (s : State) (raw : Word) (off : Nat) : Word :=
  if off = CST_STATUS.reg then
    BitVec.ofNat 32 ((List.range 4).foldl (fun a n => a + s.poolKib n * s.poolCount n) 0 % 2 ^ 17 +
      bitNat s.cist.cfgErr * 2 ^ 17)
  else if 0x058180 ≤ off then BitVec.ofNat 32 (s.cstUsed ((off - 0x058180) / 4))
  else match off % 0x10 with
    | 8 => BitVec.ofNat 32 (s.poolFree ((off - 0x058040) / 0x10))
    | 12 => BitVec.ofNat 32 (s.poolLow ((off - 0x058040) / 0x10))
    | _ => raw

/-! ### Well pages -/

/-- The effective cap of R244 in 0.25 W units; 0 for none. -/
def State.effCap (s : State) (w : Nat) : Nat :=
  let a := s.rd (WEL_PCAP.CAP w)
  let b := s.rd (WEL_PCAP_HEATH.CAP w)
  if a = 0 then b else if b = 0 then a else min a b

/-- `HOST_ADD_NS` of R240: 2 + 0.512 LOCKMAX + TRP_NS, rounded up. -/
def State.hostAdd (s : State) (w : Nat) : Nat :=
  2 + s.build.trpNs + (512 * s.rd (WEL_ARB_CFG.LOCKMAX w) + 999) / 1000

/-- A register of a Well page; the page of an absent Well reads 0. -/
def State.wellView (s : State) (raw : Word) (off : Nat) : Word :=
  let w := (off - 0x080000) / 0x2000
  let r := (off - 0x080000) % 0x2000
  match s.wells.toList[w]? with
  | none => 0
  | some k =>
    if !k.inService then 0
    else match r with
      | 0x000 => k.version
      | 0x00C => BitVec.ofNat 32 (bitNat k.inService + bitNat k.linkUp * 2 + bitNat k.supplyOk * 4)
      | 0x024 => (WEL_ARB_STATUS.TRP_NS w).put ((WEL_ARB_STATUS.HOST_ADD_NS w).put raw (s.hostAdd w)) s.build.trpNs
      | 0x048 => (WEL_PCAP_STATUS.EFF w).put raw (s.effCap w)
      | _ => raw

/-- NCOLB and LASTW of `CTX_PRED` (R291). -/
def State.predView (s : State) (raw : Word) (off : Nat) : Word :=
  let c := (off - 0x0D1000) / 0x80
  let colw := s.rd (CTX_PRED.COLW c)
  let h64 := 4 * s.rd (RTE_CTX_CFG.HIDW c)
  let n := (h64 + colw - 1) / colw
  let last := h64 - (n - 1) * colw
  if colw = 0 then raw else (CTX_PRED.LASTW c).put ((CTX_PRED.NCOLB c).put raw n) (if n = 0 then 0 else last)

/-- The word of a Hub's window at an offset, as a read returns it. `side` is the Hub whose window is read. -/
def State.viewOf (s : State) (side : Side) (off : Nat) : Word :=
  let isAct := side == s.act.side
  let h := if isAct then s.act else s.mir
  let raw := if isAct then s.word off else s.mirWord off
  let puts (l : List (Fld × Nat)) : Word := l.foldl (fun w x => x.1.put w x.2) raw
  match capWord s side off with
  | some n => BitVec.ofNat 32 n
  | none =>
    if off = HUB_VERSION.reg then BitVec.ofNat 32 (0x03000000 + s.build.integ % 256)
    else if off = HUB_ID.reg then
      BitVec.ofNat 32 (bitNat (side == .b) + bitNat (isAct && s.active) * 2 + bitNat (s.lead == side) * 4 +
        bitNat h.bistDone * 8 + bitNat h.bistPass * 16)
    else if off = HUB_UID_LO.reg then BitVec.ofNat 32 s.build.uid
    else if off = HUB_UID_HI.reg then BitVec.ofNat 32 (s.build.uid / 2 ^ 32)
    else if off = HUB_BUILD.reg then BitVec.ofNat 32 s.build.buildNo
    else if off = TCK_STATUS.reg then
      puts [(TCK_STATUS.MASTER, bitNat (s.isMaster && s.rd TCK_CTRL.RUN == 1)),
            (TCK_STATUS.HOLDOVER, if s.isMaster then bitNat s.tick.holdover else s.rd TCK_STATUS.HOLDOVER),
            (TCK_STATUS.PATH, if s.isMaster then 0 else s.rd TCK_STATUS.PATH)]
    else if 0x021000 ≤ off ∧ off < 0x021400 ∧ off % 0x40 = 0x28 then
      BitVec.ofNat 32 (s.ctxStatus h ⟨((off - 0x021000) / 0x40) % 16, Nat.mod_lt _ (by decide)⟩)
    else if 0x031000 ≤ off ∧ off < 0x031200 ∧ off % 0x20 = 0x10 then
      -- an arm is reported once its update is acknowledged (R399)
      let c : Ctx := ⟨((off - 0x031000) / 0x20) % 16, Nat.mod_lt _ (by decide)⟩
      if s.mch.effects.any fun e => e.2 == .armed c then (RTE_SET_STATUS.SHADOW c.val).put raw 0 else raw
    else if off = CST_STATUS.reg ∨ (isAct ∧ ((0x058040 ≤ off ∧ off < 0x058080) ∨ (0x058180 ≤ off ∧ off < 0x0581C8))) then
      s.cistView raw off
    else if 0x071000 ≤ off ∧ off < 0x071100 ∧ off % 0x10 ≥ 8 then
      let l := (h.core.ledger[(((off - 0x071000) / 0x10) % 16)]'(Nat.mod_lt _ (by decide))).filter fun e =>
        e.valid && !e.tentative
      if off % 0x10 = 8 then BitVec.ofNat 32 l.length
      else match l with | e :: _ => e.seq | [] => 0
    else if 0x080000 ≤ off ∧ off < 0x0B0000 then s.wellView raw off
    else if off = SVC_BYP_STATUS.reg then
      BitVec.ofNat 32 (bitNat s.intBypass + bitNat (!(s.rd SVC_BYP_CTRL.HOLD == 1 && !(match s.lead with
        | .a => s.heathA | .b => s.heathB).inReset)) * 2)
    else if off = MIR_CTRL.reg then raw
    else if off = MIR_STATUS.reg then
      BitVec.ofNat 32 (bitNat (s.act.side == .b) + s.mch.mstate.code * 2 + bitNat (isAct && s.active) * 8 +
        (s.mch.cause % 16) * 16)
    else if off = MIR_USEQ.reg then s.mch.useq
    else if off = MIR_ACKSEQ.reg then s.mch.acked
    else if off = MIR_LAST_TICK_LO.reg then BitVec.ofNat 32 s.mch.lastTick
    else if off = MIR_LAST_TICK_HI.reg then BitVec.ofNat 32 (s.mch.lastTick / 2 ^ 32 % 2 ^ 16)
    else if off = MIR_LAST_TIME.reg then BitVec.ofNat 32 (min 0xFFFF s.mch.fo100ns + (min 0xFFFF s.mch.syncUs) * 2 ^ 16)
    else if off = EVR_STATUS.reg then
      BitVec.ofNat 32 (bitNat s.evr.nv + bitNat s.evr.flush.isSome * 2 + bitNat s.evr.erasing * 4 +
        (s.evr.ring.filter fun e => !e.flushed).length * 2 ^ 16)
    else if off = EVR_NEWEST.reg then s.evr.newest
    else if off = EVR_OLDEST.reg then s.evr.oldest
    else if off = EVR_FLUSHED.reg then s.evr.flushedTo
    else if off = EVR_OPSEC.reg then BitVec.ofNat 32 (s.evr.opsec0 + (s.now - s.evr.start) / 1600000000)
    else if off = EVR_PCYC.reg then BitVec.ofNat 32 (s.evr.pcyc % 2 ^ 24)
    else if off = EVR_SUPPR_CNT.reg then BitVec.ofNat 32 s.evr.suppr
    else if off = EVR_OVWR_CNT.reg then BitVec.ofNat 32 s.evr.ovwr
    else if off = EVR_NV_ERR_CNT.reg then BitVec.ofNat 32 s.evr.nvErr
    else if off = EVR_CTRL.reg then
      puts [(EVR_CTRL.FLUSH, bitNat (s.evr.flush == some .fault)), (EVR_CTRL.CLEAR, 0), (EVR_CTRL.NV_ERASE, 0)]
    else if off = EVR_WSTAT.reg then
      BitVec.ofNat 32 (bitNat s.evr.hit + bitNat s.evr.skipped * 2 + bitNat s.evr.empty * 4 + bitNat s.evr.busy * 8 +
        bitNat s.evr.badCrc * 16)
    else if 0x100040 ≤ off ∧ off < 0x100080 then s.evr.buf.getD ((off - 0x100040) / 4) 0
    else if off = HTH_STATUS.reg then
      let m := match side with | .a => s.heathA | .b => s.heathB
      BitVec.ofNat 32 (bitNat m.mainGood + bitNat m.bkupGood * 2 + bitNat m.onBkup * 4 + bitNat s.heathA.hubGood * 8 +
        bitNat s.heathB.hubGood * 16 + bitNat (s.lead == .b) * 32 + bitNat s.pfail * 64)
    else if off = HTH_NVM_STATUS.reg then
      puts [(HTH_NVM_STATUS.SECTOR_KIB, if s.evr.nv then s.evr.sectorKib / 4 else 0),
            (HTH_NVM_STATUS.MAX_ERASE, min 0xFFFFFF (s.evr.sectors.foldl (fun n x => max n x.erases) 0))]
    else if off = DBG_STATUS.reg then
      let d := s.tap side
      puts [(DBG_STATUS.EN, bitNat d.en), (DBG_STATUS.TAP_RST, bitNat d.trst),
            (DBG_STATUS.HOLDING, bitNat d.hold.isSome), (DBG_STATUS.FROZEN, s.rd RAS_FREEZE.DEBUG),
            (DBG_STATUS.ARB, match d.hold with | some (a, _) => a | none => 0)]
    else if off = DBG_IDCODE.reg then
      BitVec.ofNat 32 (1 + (s.build.mfr % 2 ^ 11) * 2 + (s.build.part % 2 ^ 16) * 2 ^ 12 + 3 * 2 ^ 28)
    else if 0x0D1000 ≤ off ∧ off < 0x0D1800 ∧ off % 0x80 = 0x18 then s.predView raw off
    else raw

/-- The word of the active Hub's window. -/
def State.view (s : State) (off : Nat) : Word := s.viewOf s.act.side off

end Sys2Proof.Machine
end

