-- ==== Sys2Proof/Machine/Events.lean ====
section
/-!
DEFINITION. Raising an event (R88, R90), and the event recorder's forming of records (R411-R418, R424).
-/

namespace Sys2Proof.Machine

open Sys2Proof

/-- SOURCE of R88: own chip, part, number. -/
def State.source (s : State) (part num : Nat) : Nat := (s.chip % 64) * 1024 + (part % 32) * 32 + num % 32

/-- The part code of the active Hub (R88). -/
def State.hubPart (s : State) : Nat := match s.act.side with | .a => 24 | .b => 25

/-- The lead Heath. -/
def State.leadHeath (s : State) : Heath := match s.lead with | .a => s.heathA | .b => s.heathB

/-- The lead Heath runs. -/
def State.leadUp (s : State) : Bool := !s.leadHeath.inReset

/-- A Hub holds the active role and is out of reset. -/
def State.hubUp (s : State) : Bool := s.active && !s.act.inReset

/-- Operating time of the lead Heath in units of 1/256 s (R412). -/
def State.op256 (s : State) : Nat := s.evr.opsec0 * 256 + (s.now - s.evr.start) * 256 / 1600000000

/-- Rule 1 of R413: the lowest `EVR_MATCH` entry that names the code, as (MODE, PROFILE). -/
def State.evrMatch (s : State) (code : Nat) : Option (Nat × Nat) :=
  ((List.range 8).find? fun n =>
      (s.rd (EVR_MATCH.MODE n) == 1 || s.rd (EVR_MATCH.MODE n) == 2) && s.rd (EVR_MATCH.CODE n) == code).map
    fun n => (s.rd (EVR_MATCH.MODE n), s.rd (EVR_MATCH.PROFILE n))

/-- The six snapshot words of a profile, read without side effect (R414). -/
def State.snapshot (s : State) (profile : Nat) : Option (List Word) :=
  if s.hubUp then
    some ((List.range 6).map fun j =>
      if s.rd (EVR_SNAP.V profile j) = 1 then s.view (4 * s.rd (EVR_SNAP.OFFSET profile j)) else 0)
  else none

/-- The bucket of a code (R415): its own, or the shared one after the 128th code. -/
def bucketKey (bs : List Bucket) (code : Nat) : Option Nat :=
  if bs.any fun b => b.code == some code then some code
  else if (bs.filter fun b => b.code.isSome).length < 128 then some code else none

/-- The buckets with one that has the key; a new bucket starts full. -/
def withBucket (bs : List Bucket) (key : Option Nat) (burst : Nat) : List Bucket :=
  if bs.any fun b => b.code == key then bs else bs ++ [⟨key, burst, 0⟩]

/-- The unflushed records of the ring, oldest first. -/
def Recorder.unflushed (r : Recorder) : List RecEntry := r.ring.filter fun e => !e.flushed

/-- The records of the next page program of a flush (R418). -/
def Recorder.pageFor (r : Recorder) (k : FlushKind) : List RecEntry :=
  let u := r.unflushed
  match k with
  | .trickle => if u.length ≥ 4 then u.take 4 else []
  | .fault => u.take 4
  | .powerFail => (u.reverse.take (min 4 r.pfBudget))

/-- Begin the next page of the flush under way, or end the flush when nothing is left for it. A page program already
running is waited for (R418). -/
def Recorder.startPage (r : Recorder) : Recorder :=
  match r.flush, r.page with
  | some k, [] =>
    let pg := r.pageFor k
    if pg = [] then { r with flush := none } else { r with page := pg }
  | _, _ => r

/-- A fault flush starts, or extends the one that runs (R418); a power-fail flush is not displaced. -/
def Recorder.faultFlush (r : Recorder) : Recorder :=
  if !r.nv then r
  else match r.flush with
    | some .powerFail => r
    | _ => ({ r with flush := some .fault }).startPage

/-- Put a formed record into the ring (R416). -/
def State.ringPut (s : State) (e : RecEntry) : State :=
  let r := s.evr
  let sec := s.op256 / 256
  match r.ring with
  | old :: rest =>
    if r.ring.length < 4096 then { s with evr := { r with ring := r.ring ++ [e], rseq := r.rseq + 1 } }
    else
      let lost := !old.flushed
      { s with evr := { r with
          ring := rest ++ [e], rseq := r.rseq + 1
          ovwr := if lost then min (2 ^ 32 - 1) (r.ovwr + 1) else r.ovwr
          ovwrNow := if lost then (if r.ovwrSec = sec then r.ovwrNow + 1 else 1) else r.ovwrNow
          ovwrSec := if lost then sec else r.ovwrSec } }
  | [] => { s with evr := { r with ring := [e], rseq := r.rseq + 1 } }

/-- Offer an event to the recorder (R413): match, rate limit, record, fault flush. -/
def State.record (s : State) (e : Event) : State :=
  if !s.leadUp then s
  else
    let m := s.evrMatch e.code
    let take : Bool := match m with
      | some (mode, _) => mode == 1
      | none => decide (s.rd EVR_CTRL.LEVEL ≤ e.sev)
    if !take then s
    else
      let r := s.evr
      let key := bucketKey r.buckets e.code
      let bs := withBucket r.buckets key (s.rd EVR_RATE.BURST)
      let b := (bs.find? fun b => b.code == key).getD ⟨key, 0, 0⟩
      let s1 :=
        if b.tokens = 0 then
          { s with evr := { r with
              buckets := bs.map fun (x : Bucket) => if x.code == key then { x with suppr := x.suppr + 1 } else x
              suppr := min (2 ^ 32 - 1) (r.suppr + 1) } }
        else
          let s0 := { s with evr := { r with
              buckets := bs.map fun (x : Bucket) => if x.code == key then { x with tokens := x.tokens - 1, suppr := 0 } else x } }
          s0.ringPut
            { ev := e, suppr := min 255 b.suppr, rseq := r.rseq, opsec := BitVec.ofNat 32 (s.op256 / 256)
              frac := s.op256 % 256, pcyc := r.pcyc
              snap := s.snapshot (match m with | some (_, p) => p | none => 0), flushed := false }
      if s.rd EVR_CTRL.FAULT_SEV ≤ e.sev then { s1 with evr := s1.evr.faultFlush } else s1

/-- Form a record for the event ring (R90): while 64 wait, it is lost. A Hub that is not up has no event ring. -/
def State.enqueue (s : State) (e : Event) : State :=
  if !s.hubUp then s
  else if s.evq.waiting.length < 64 then { s with evq := { s.evq with waiting := s.evq.waiting ++ [e] } }
  else
    { (s.bump RNG_EQ_LOST.COUNT) with evq := { s.evq with lost := s.evq.lost + 1 } }

/-- Raise an event: the event ring and the recorder both get it (R88, R413). -/
def State.raiseEv (s : State) (e : Event) : State := (s.enqueue e).record e

/-- Raise an event of a part of this chip. -/
def State.raiseFrom (s : State) (part num code sev : Nat) (data : List Nat) (c : Option Ctx := none)
    (seq : Word := 0) (addr : Nat := 0) : State :=
  s.raiseEv { code := code, sev := sev, ctx := c, seq := seq, tick := s.tickNow, source := s.source part num,
              addr := addr, data := data }

/-- Raise an event of the active Hub. -/
def State.raise (s : State) (code sev : Nat) (data : List Nat) (c : Option Ctx := none) (seq : Word := 0)
    (addr : Nat := 0) : State :=
  s.raiseFrom s.hubPart 0 code sev data c seq addr

/-- Raise an event of the Heath (part 26, R379). -/
def State.raiseHeath (s : State) (code sev : Nat) (data : List Nat) (addr : Nat := 0) : State :=
  s.raiseFrom 26 0 code sev data none 0 addr

/-- A second in which unflushed records were overwritten has ended: event 0x0E02 (R416). -/
def State.overwriteReport (s : State) : State :=
  if s.evr.ovwrNow ≠ 0 ∧ s.evr.ovwrSec ≠ s.op256 / 256 then
    let n := s.evr.ovwrNow
    { s with evr := { s.evr with ovwrNow := 0 } }.raiseHeath 0x0E02 1 [n]
  else s

/-- Set a bit of `RAS_IRQ_STATUS`; IRQ_RAS pulses when an enabled bit changes from 0 to 1 (R408). -/
def State.rasIrq (s : State) (f : Fld) : State :=
  if s.rd f = 0 then
    let s1 := s.wr f 1
    if (s.rd RAS_IRQ_EN.EN).testBit f.lo && s.active then s1.emit .irqRas else s1
  else s

/-- Freeze a master (R394): its bit, event 0x0D07 of a part, IRQ_RAS. The dependent steps are aborted by the caller. -/
def State.setFrozen (s : State) (m : Master) (data2 : Nat) (part : Nat := s.hubPart) : State :=
  let (s1, d0, d1, c) : State × Nat × Nat × Option Ctx := match m with
    | .ring c => (s.wr RAS_FREEZE.CTX (s.rd RAS_FREEZE.CTX ||| 2 ^ c.val), 0, c.val, some c)
    | .well w => (s.wr RAS_FREEZE_WELL.WELLS (s.rd RAS_FREEZE_WELL.WELLS ||| 2 ^ w.val), 1, w.val, none)
    | .peer d =>
      (if d.val < 32 then s.wr RAS_FREEZE_PEER_LO.CHIPS (s.rd RAS_FREEZE_PEER_LO.CHIPS ||| 2 ^ d.val)
        else s.wr RAS_FREEZE_PEER_HI.CHIPS (s.rd RAS_FREEZE_PEER_HI.CHIPS ||| 2 ^ (d.val - 32)), 2, d.val, none)
    | .debug => (s.wr RAS_FREEZE.DEBUG 1, 3, 0, none)
    | .core => (s, 4, 0, none)
  (s1.raiseFrom part 0 0x0D07 3 [d0, d1, data2] c).rasIrq RAS_IRQ_STATUS.FREEZE

/-- Is a peer chip frozen (R394)? -/
def State.peerFrozen (s : State) (d : Chip) : Bool :=
  (s.rd2 RAS_FREEZE_PEER_LO.CHIPS RAS_FREEZE_PEER_HI.CHIPS).testBit d.val

/-- Is a Well link frozen? -/
def State.wellFrozen (s : State) (w : WellNo) : Bool := (s.rd RAS_FREEZE_WELL.WELLS).testBit w.val

end Sys2Proof.Machine
end

