-- ==== Sys2Proof/Machine/Ops.lean ====
section
/-!
DEFINITION. Shared operations: Host Port master requests (R330-R334), sending packets by route (R185-R187, R310), links,
mirror effects, abort notices.
-/

namespace Sys2Proof.Machine

open Sys2Proof

/-! ### Accounting (R293, R294) -/

/-- Add to a 64-bit counter pair, without saturation. -/
def State.addPair (s : State) (lo hi : Fld) (n : Nat) : State := s.wr2 lo hi ((s.rd2 lo hi + n) % 2 ^ 64)

/-- Charge engine cycles to a context. -/
def State.accCyc (s : State) (c : Ctx) (n : Nat) : State := s.addPair (CTX_ACC_CYC_LO.VAL c) (CTX_ACC_CYC_HI.VAL c) n

/-- Charge energy in fJ to a context. -/
def State.accEnergy (s : State) (c : Ctx) (fj : Nat) : State :=
  let t := s.work.accFJ[c] + fj
  let s1 := { s with work := { s.work with accFJ := s.work.accFJ.set c (t % 10 ^ 9) } }
  s1.addPair (CTX_ACC_UJ_LO.VAL c) (CTX_ACC_UJ_HI.VAL c) (t / 10 ^ 9)

/-- Charge a flit sent on an inter-chip port or Well link. -/
def State.accFlit (s : State) (c : Ctx) : State :=
  (s.addPair (CTX_ACC_LINKB_LO.VAL c) (CTX_ACC_LINKB_HI.VAL c) 280).accEnergy c (s.rd CTX_COEF_FLIT.PJ * 1000)

/-- Charge Host Port beats. -/
def State.accHost (s : State) (c : Ctx) (beats : Nat) : State :=
  (s.addPair (CTX_ACC_HOSTB_LO.VAL c) (CTX_ACC_HOSTB_HI.VAL c) (64 * beats)).accEnergy c
    (64 * beats * s.rd CTX_COEF_HOSTB.FJ)

/-- Charge MACs. -/
def State.accMacs (s : State) (c : Ctx) (n : Nat) : State := s.accEnergy c (n * s.rd CTX_COEF_MAC.FJ)

/-- Change one Well. -/
def State.modWell (s : State) (w : WellNo) (f : Well → Well) : State :=
  { s with wells := s.wells.set w (f s.wells[w]) }

/-- The context to which a master transfer is charged (R293): its step's, that of a load, that of a collective's channel, or that of the
event whose record it writes. -/
def State.payer (s : State) : Purpose → Option Ctx
  | .descriptor c => some c
  | .input c _ _ _ => some c
  | .noise c _ _ _ => some c
  | .output c _ _ => some c
  | .aux c _ _ => some c
  | .completion c _ => some c
  | .event => s.evq.inflight.bind fun x => x.1.ctx
  | .table _ => s.work.load.map (·.ctx)
  | .template _ => s.work.tload.map (·.ctx)
  | .colDesc ch | .colRead ch _ _ | .colWrite ch _ _ | .colCount ch | .colRec ch =>
    some ⟨s.rd (COL_CH_CTRL.CTX ch) % 16, Nat.mod_lt _ (by decide)⟩
  | .rollup => none

/-- The beats of a request are charged when it is issued (R293, R294). -/
def State.accIssue (s : State) (r : HostReq) : State :=
  match s.payer r.why with
  | some c => s.accHost c ((r.len + 63) / 64)
  | none => s

/-! ### Host Port master -/

/-- A transfer cut into requests of at most 8 beats that stay within a 512-byte block, so within one 4 KiB page; a first
piece that does not start on a 64-byte boundary is a single beat (R331). Each piece is (address, length). -/
def splitReq : Nat → Nat → Nat → List (Nat × Nat)
  | 0, _, _ => []
  | n + 1, a, len =>
    if len = 0 then []
    else
      let room := if a % 64 = 0 then 512 - a % 512 else 64 - a % 64
      let k := min len room
      (a, k) :: splitReq n (a + k) (len - k)

/-- The first tag that no outstanding transaction holds (R333). -/
def freeTag (l : List HostTxn) : Option (Fin 1024) :=
  (List.finRange 1024).find? fun t => l.all fun x => x.tag != t

/-- The slice of a master request (R334). -/
def State.sliceOf (s : State) (addr : Nat) : Nat := (addr / 4096) % s.build.hpSlices

/-- A slice is in reset (nothing is issued on it, R350). -/
def State.sliceHeld (s : State) (n : Nat) : Bool :=
  match s.host.slices[n]? with | some x => x.inReset | none => false

/-- The debug port holds the grant of an arbiter, by its code of R438. -/
def State.arbHeld (s : State) (code : Nat) : Bool := match s.dbg.hold with | some (a, _) => a == code | none => false

/-- The active Hub takes what goes by an arbiter that the debug port can hold (R25, R438): 0x00 for register writes through the Config
Port, 0x08 to 0x0C for the buses of the regions Front, Ledger, Pump, Meadow and Control. A command that meets a hold waits at its
requester (log entry 114). -/
def State.busUp (s : State) (code : Nat) : Bool := s.hubUp && !s.arbHeld code

/-- The slave half takes requests: the Hub runs, and the debug port does not hold the slave arbiter (R438, code 1). -/
def State.slaveUp (s : State) : Bool := s.hubUp && !s.arbHeld 1

/-- Beats of 64 bytes of a request (R330). -/
def HostReq.beats (r : HostReq) : Nat := (r.addr % 64 + r.len + 63) / 64

/-- The byte enables of a write, by beat; a read has none. -/
def HostReq.strobes (r : HostReq) : List (BitVec 64) :=
  if r.write then (List.range r.beats).map fun b =>
    BitVec.ofNat 64 (maskOf ((List.range 64).filter fun i => decide (r.addr % 64 ≤ 64 * b + i ∧ 64 * b + i < r.addr % 64 + r.len)))
  else []

/-- A swap waits for an idle point of the Host Port: nothing more is issued (R17). -/
def State.swapping (s : State) : Bool := match s.failover with | some fo => fo.swap | none => false

/-- Issue one waiting request when its slice runs, a tag is free and the issue arbiter is not held; keep it waiting
otherwise. -/
def State.issueOne (s : State) (r : HostReq) : State :=
  let sl := s.sliceOf r.addr
  match freeTag s.host.txns with
  | some t =>
    if s.sliceHeld sl || s.arbHeld 2 || s.swapping then { s with host := { s.host with queue := s.host.queue ++ [r] } }
    else
      (({ s with host := { s.host with txns := s.host.txns ++ [{ tag := t, req := r, got := [], orphan := false }] } } : State).accIssue
        r).emit (.hostRequest sl r.write r.addr (r.beats - 1) t.val r.data r.strobes)
  | none => { s with host := { s.host with queue := s.host.queue ++ [r] } }

/-- Issue the waiting requests in order, as far as tags and slices allow. -/
def State.issueAll (s : State) : State :=
  s.host.queue.foldl State.issueOne { s with host := { s.host with queue := [] } }

/-- Ask the host for `len` bytes at an address. -/
def State.hostRead (s : State) (why : Purpose) (addr len : Nat) : State :=
  (splitReq (len + 1) addr len).foldl (fun (s : State) (x : Nat × Nat) => s.issueOne ⟨why, false, x.1, x.2, []⟩) s

/-- Write bytes at a host address. -/
def State.hostWrite (s : State) (why : Purpose) (addr : Nat) (bytes : List Byte) : State :=
  (splitReq (bytes.length + 1) addr bytes.length).foldl
    (fun (s : State) (x : Nat × Nat) => s.issueOne ⟨why, true, x.1, x.2, slice bytes (x.1 - addr) x.2⟩) s

/-- A transfer that belongs to a step attempt of a context. -/
def Purpose.ofStep (c : Ctx) (seq : Word) (att : Nat) : Purpose → Bool
  | .input c' q a _ => c' == c && q == seq && a == att
  | .noise c' q a _ => c' == c && q == seq && a == att
  | .output c' q a => c' == c && q == seq && a == att
  | .aux c' q a => c' == c && q == seq && a == att
  | _ => false

/-- The outstanding reads of an aborted attempt become orphans, counted in `TCK_ORPHAN_CNT`; its requests not yet issued
are dropped (R58). -/
def State.orphan (s : State) (c : Ctx) (seq : Word) (att : Nat) : State :=
  let hit (r : HostReq) : Bool := r.why.ofStep c seq att
  let n := (s.host.txns.filter fun t => hit t.req && !t.req.write && !t.orphan).length
  let s1 := { s with host := { s.host with
      queue := s.host.queue.filter fun r => !hit r
      txns := s.host.txns.map fun t => if hit t.req then { t with orphan := true } else t } }
  if n = 0 then s1 else s1.bumpBy TCK_ORPHAN_CNT.COUNT n

/-- Every write of a step's output and auxiliary regions has been answered (R91). -/
def State.writesDone (s : State) (c : Ctx) (seq : Word) : Bool :=
  let mine (r : HostReq) : Bool := r.write && (match r.why with
    | .output c' q _ => c' == c && q == seq
    | .aux c' q _ => c' == c && q == seq
    | _ => false)
  !(s.host.queue.any mine) && !(s.host.txns.any fun t => mine t.req)

/-! ### Links and routes -/

/-- State of a port (R306). -/
def State.portState (s : State) (p : Port) : Nat := s.rd (PMP_LNK_STATUS.STATE p)

/-- A port is in UP or RETRAIN. -/
def State.portAlive (s : State) (p : Port) : Bool := s.portState p == 3 || s.portState p == 4

/-- Change one port. -/
def State.modPort (s : State) (p : Port) (f : PortState → PortState) : State :=
  { s with ports := s.ports.set p (f s.ports[p]) }

/-- Change the link of a port, Well or mirror channel. -/
def State.modLink (s : State) (l : LinkId) (f : Link → Link) : State :=
  match l with
  | .port p => s.modPort p fun x => { x with link := f x.link }
  | .well w => { s with wells := s.wells.set w { s.wells[w] with link := f s.wells[w].link } }
  | .mirror => { s with mch := { s.mch with link := f s.mch.link } }

/-- The link layer of a link. -/
def State.link (s : State) (l : LinkId) : Link :=
  match l with
  | .port p => s.ports[p].link
  | .well w => s.wells[w].link
  | .mirror => s.mch.link

/-- The effective mask toward a chip (R310). -/
def State.effMask (s : State) (d : Chip) : Nat :=
  let m := s.rd (PMP_ROUTE.PORTS d)
  maskOf (((List.finRange 16).filter fun p => m.testBit p.val && s.portAlive p && !s.ports[p].removed).map (·.val))

/-- The port of a mask that a packet takes (R186). -/
def routePort (mask src dst : Nat) : Option Port :=
  let l := (List.finRange 16).filter fun p => mask.testBit p.val
  match l with
  | [] => none
  | _ => l[(src + dst) % l.length]?

/-- The sub-class and AXIS a packet gets on a port (R185). -/
def State.subClass (s : State) (p : Port) (pkt : Pkt) (sub : Nat) : Nat :=
  let ax := s.rd (PMP_PORT_CFG.AXIS p)
  if s.rd (PMP_PORT_CFG.DATELINE p) = 1 then 1
  else if ax ≠ axisOf pkt ∨ ax = 3 then 0 else sub

/-- The virtual channel a packet is sent on (R187, R267). -/
def sendVc (ptype : Nat) : Nat :=
  if ptype = 0x01 ∨ ptype = 0x02 then 0
  else if ptype = 0x03 ∨ ptype = 0x04 then 1
  else if ptype = 0x10 then 2 else 3

/-- The flits of a packet, for one pair. -/
def flitsOf (pkt : Pkt) (pair : Fin 8) (release : List Nat) (mask : Nat) : List TxFlit :=
  let bs := flitBodies pkt
  let n := bs.length
  (bs.zip (List.range n)).map fun x =>
    { pair := pair, sop := x.2 == 0, eop := x.2 + 1 == n, body := x.1
      release := if x.2 + 1 = n then release else []
      ctx := ctxOf pkt, seq := seqOf pkt, att := attOf pkt, ptype := ptypeOf pkt, src := srcOf pkt, dst := dstOf pkt
      mask := BitVec.ofNat 16 mask }

/-- Hand a packet to a link's transmit queue. -/
def State.enqueueOn (s : State) (l : LinkId) (pkt : Pkt) (sub : Nat) (release : List Nat) (mask : Nat) : State :=
  let pair : Fin 8 := ⟨(2 * sendVc (ptypeOf pkt) + sub) % 8, Nat.mod_lt _ (by decide)⟩
  s.modLink l fun k => { k with txq := k.txq.set pair (k.txq[pair] ++ flitsOf pkt pair release mask) }

/-- A packet toward the chip handed to a port under another mask is not yet acknowledged or discarded (R310). -/
def State.oldRoute (s : State) (d : Chip) (mask : Nat) : Bool :=
  (List.finRange 16).any fun p =>
    let k := s.ports[p].link
    let hit (f : TxFlit) : Bool := f.dst == d && f.mask != BitVec.ofNat 16 mask
    (k.replay.any fun x => hit x.2) || (k.txq.toList.any fun q => q.any hit)

/-- Land a packet on this chip. -/
def State.landHere (s : State) (pkt : Pkt) (hold : Option (LinkId × Fin 8 × Nat) := none) (release : List Nat := []) : State :=
  { s with landed := s.landed ++ [{ pkt := pkt, hold := hold, release := release }] }

/-- Release one reference (R169, R170). At 0 the buffer returns to its pool; a release of a buffer that is not in use
puts it on the free list a second time (R171). -/
def State.release (s : State) (h : Nat) : State :=
  match s.cist.bufs.find? fun b => b.handle == h with
  | none => { s with cist := { s.cist with dup := s.cist.dup ++ [h] } }
  | some b =>
    if b.count ≤ 1 then
      { s with cist := { s.cist with bufs := s.cist.bufs.erase b, freed := s.cist.freed ++ [b.who] } }
    else
      { s with cist := { s.cist with bufs := s.cist.bufs.map fun x =>
          if x = b then { x with count := x.count - 1 } else x } }

/-- Release references that may be there. -/
def State.releaseAll (s : State) (hs : List Nat) : State := hs.foldl State.release s

/-- Release the reference of a transmitted or discarded flit (R169). -/
def State.releaseOpt (s : State) (h : Option Nat) : State := match h with | some x => s.release x | none => s

/-- What became of a packet given to the routes. -/
inductive Sent where
  | landed | queued | waits | noRoute
  deriving DecidableEq, Repr

/-- Send a packet by the routes of R186 over the effective mask, without the consequences of R186 for a packet that has
no route. -/
def State.sendRaw (s : State) (t : TxPkt) : State × Sent :=
  let d := dstOf t.pkt
  if d.val = s.chip then (s.landHere t.pkt none t.release, .landed)
  else
    let m := s.effMask d
    match routePort m (srcOf t.pkt).val d.val with
    | none => (s, .noRoute)
    | some p =>
      if s.oldRoute d m || (s.routeWait.any fun x => dstOf x.pkt == d) then
        ({ s with routeWait := s.routeWait ++ [t] }, .waits)
      else
        let sub' := s.subClass p t.pkt t.sub
        (s.enqueueOn (.port p) (setAxis t.pkt (s.rd (PMP_PORT_CFG.AXIS p))) sub' t.release m, .queued)

/-- Send one copy of an abort notice; without a route it is discarded with event 0x0705 (R186). -/
def State.sendNotice (s : State) (p : Pkt) : State :=
  match s.sendRaw ⟨p, 0, []⟩ with
  | (s1, .noRoute) => s1.raise 0x0705 2 [(dstOf p).val, ptypeOf p]
  | (s1, _) => s1

/-- The copies of an abort notice (R192) that a chip creates, to a set of chips and to the master (R48), whose copy is held in its order
while no master is known (R443). -/
def State.abortTo (s : State) (src dsts : Nat) (c : Ctx) (seq : Word) (att cause detail : Nat) : State :=
  let mk (d : Nat) : Pkt :=
    { w0 := mkW0 0x0B c att false src d seq, w1 := BitVec.ofNat 64 (cause % 16 + (detail % 256) * 16), w2 := 0, w3 := 0
      body := [] }
  let all := dsts ||| (match s.tick.master with
    | some m => 2 ^ m.val
    | none => 0)
  let s1 : State := (bitsSet 64 all).foldl (fun (s : State) (d : Nat) => s.sendNotice (mk d)) s
  if s.isMaster || s.tick.master.isSome then s1
  else { s1 with tick := { s1.tick with held := s1.tick.held ++ [mk 0] } }

/-- An abort notice of this member for a step attempt, to every member of the context and to the master. A member sends none after it
has sent the step's local done (R49). -/
def State.sendAbort (s : State) (c : Ctx) (seq : Word) (att cause detail : Nat) : State :=
  let done := (s.steps c).any fun st => st.seq == seq && st.live && st.finished
  if done then s else s.abortTo s.chip (s.members c ||| 2 ^ s.chip) c seq att cause detail

/-- In whose name this chip aborts a step of which it discards data (R186, R309): none for its own; a forwarding Hub that is no member of
the step's context sends the notice in the name of the packet's sender, to the packet's two ends: its own would freeze it there (R394, R441;
log entry 106). -/
def State.noticeName (s : State) (src dst : Chip) (c : Ctx) : Option (Chip × Chip) :=
  if src.val = s.chip ∨ (s.members c).testBit src.val then none else some (src, dst)

/-- An abort notice under that name; a copy goes to the master. -/
def State.noticeAs (s : State) (name : Option (Chip × Chip)) (c : Ctx) (seq : Word) (att cause detail : Nat) : State :=
  match name with
  | none => s.sendAbort c seq att cause detail
  | some (src, dst) => s.abortTo src.val (2 ^ src.val ||| 2 ^ dst.val) c seq att cause detail

/-- The step of a discarded packet is aborted with cause ABSENT (R186). -/
def State.routeAbort (s : State) (p : Pkt) : State :=
  s.noticeAs (s.noticeName (srcOf p) (dstOf p) (ctxOf p)) (ctxOf p) (seqOf p) (attOf p) 2 0x20

/-- Send a packet of a step; without a route it is discarded, its references are released, event 0x0705 is written and the step is
aborted with cause ABSENT (R169, R186). -/
def State.send (s : State) (pkt : Pkt) (release : List Nat := []) (sub : Nat := 0) : State :=
  match s.sendRaw ⟨pkt, sub, release⟩ with
  | (s1, .noRoute) =>
    let s2 := (s1.releaseAll release).raise 0x0705 2 [(dstOf pkt).val, ptypeOf pkt]
    if (1 ≤ ptypeOf pkt ∧ ptypeOf pkt ≤ 5) ∨ (8 ≤ ptypeOf pkt ∧ ptypeOf pkt ≤ 0x0A) then s2.routeAbort pkt else s2
  | (s1, _) => s1

/-- Packets that waited for a change of route leave once it has drained (R310). -/
def State.pumpWaiting (s : State) : State :=
  let l := s.routeWait
  l.foldl (fun (s : State) (t : TxPkt) => s.send t.pkt t.release t.sub) { s with routeWait := [] }

/-- A packet to a Well of this chip over its Well link; a frozen link carries only STEP_CLOSE (R395). -/
def State.sendWell (s : State) (w : WellNo) (pkt : Pkt) (release : List Nat := []) : State :=
  if s.wellFrozen w && ptypeOf pkt != 0x31 then s.releaseAll release else s.enqueueOn (.well w) pkt 0 release 0

/-- Bytes of the word `w1` of a step control packet: a control message for the tick master (R443). -/
def State.sendMaster (s : State) (ptype : Nat) (c : Ctx) (seq : Word) (att : Nat) (w1 : Nat) : State :=
  let mk (d : Nat) : Pkt :=
    { w0 := mkW0 ptype c att false s.chip d seq, w1 := BitVec.ofNat 64 w1, w2 := 0, w3 := 0, body := [] }
  if s.isMaster then s.landHere (mk s.chip)
  else match s.tick.master with
    | some m => s.send (mk m.val)
    | none => { s with tick := { s.tick with held := s.tick.held ++ [mk 0] } }

/-- The messages held for a master that was not known leave toward it, in order; a master that is a member of the context has
had its copy of an abort notice (R443). -/
def State.sendHeld (s : State) (m : Chip) : State :=
  let l := s.tick.held.filter fun p => !(ptypeOf p == 0x0B && (s.members (ctxOf p)).testBit m.val)
  l.foldl (fun (s : State) (p : Pkt) => s.send { p with w0 := (p.w0 &&& ~~~(0x3F#64 <<< 22)) ||| (BitVec.ofNat 64 m.val <<< 22) })
    { s with tick := { s.tick with held := [] } }

/-! ### Taking a landed packet -/

/-- A link receive buffer of this Hub is in rewind mode (R196). -/
def State.rewindMode (s : State) : LinkId → Bool
  | .port _ => s.rd PMP_Q_CTRL.MODE == 1
  | _ => false

/-- Flits leave the receive buffer: their credits return (R184). In rewind mode they are freed only when the release pointer moves
(R196). -/
def State.freeHold (s : State) (h : Option (LinkId × Fin 8 × Nat)) : State :=
  match h with
  | some (l, pair, n) =>
    if s.rewindMode l then s.modLink l fun k => { k with kept := k.kept.set pair (k.kept[pair] + n) }
    else s.modLink l fun k => { k with freed := k.freed.set pair (k.freed[pair] + BitVec.ofNat 10 n) }
  | none => s

/-- A packet among the landed ones. -/
def State.landedOf (s : State) (p : Pkt) : Option Landed := s.landed.find? fun l => l.pkt == p

/-- What a landed packet holds of a receive buffer. -/
def State.holdOf (s : State) (p : Pkt) : Option (LinkId × Fin 8 × Nat) := (s.landedOf p).bind (·.hold)

/-- Take a packet out of the landed packets, when it is there, with the handles it brings; its flits stay in the receive buffer. -/
def State.takeRaw (s : State) (p : Pkt) : State × List Nat :=
  match s.landedOf p with
  | some l => ({ s with landed := s.landed.erase l }, l.release)
  | none => (s, [])

/-- Take a packet out of the landed packets, with the handles it brings. -/
def State.takeWith (s : State) (p : Pkt) : State × List Nat :=
  let r := s.takeRaw p
  (r.1.freeHold (s.holdOf p), r.2)

/-- Take a packet out of the landed packets: its stage has it, or it is discarded, and its references are released (R169). -/
def State.takeLanded (s : State) (p : Pkt) : State :=
  let r := s.takeWith p
  r.1.releaseAll r.2

/-! ### Stale packets (R193) -/

/-- Count a discarded packet of a step attempt. -/
def State.stalePkt (s : State) (p : Pkt) : State :=
  let s1 := s.bump PMP_STALE_CNT.COUNT
  let key (x : Ctx × Word × Nat × Nat × Nat × Bool) : Bool :=
    x.1 == ctxOf p && x.2.1 == seqOf p && x.2.2.1 == attOf p
  let l := s1.tick.stale
  let l' := if l.any key then
      l.map fun x => if key x then (x.1, x.2.1, x.2.2.1, x.2.2.2.1 + 1, x.2.2.2.2.1, x.2.2.2.2.2) else x
    else l ++ [(ctxOf p, seqOf p, attOf p, 1, ptypeOf p, false)]
  { s1 with tick := { s1.tick with stale := l' } }

/-- A packet names an attempt of a step that this member holds: a packet of a step or of a Well, with the SEQ of a step of its context
and an ATT that the step has had (log entry 107). -/
def State.namesAttempt (s : State) (p : Pkt) : Bool :=
  decide ((1 ≤ ptypeOf p ∧ ptypeOf p ≤ 0x0B) ∨ (0x30 ≤ ptypeOf p ∧ ptypeOf p ≤ 0x3F)) &&
    (s.steps (ctxOf p)).any fun st => st.seq == seqOf p && decide (attOf p ≤ st.replays)

/-- Count a packet discarded under R187 or R192: with its attempt where it belongs to one, otherwise with those of its interval (R193). -/
def State.staleAny (s : State) (p : Pkt) : State :=
  if s.namesAttempt p then s.stalePkt p else
  let s1 := s.bump PMP_STALE_CNT.COUNT
  { s1 with tick := { s1.tick with
      stalePlain := s1.tick.stalePlain + 1
      stalePtype := if s1.tick.stalePlain = 0 then ptypeOf p else s1.tick.stalePtype } }

/-- The step of a packet, when (CTX, SEQ, ATT) is the current attempt of a RUNNING or OVERTIME step (R193). -/
def State.current (s : State) (p : Pkt) : Option Step :=
  (s.steps (ctxOf p)).find? fun st => st.live && st.seq == seqOf p && st.replays % 8 == attOf p

/-! ### Progress (R54) -/

/-- The first counted event after an accepted tick set sends a progress beacon. -/
def State.progress (s : State) (c : Ctx) : State :=
  match s.liveStep c with
  | some st =>
    if st.beaconSent then s
    else (s.modStep c (fun x => x.live) fun x => { x with beaconSent := true }).sendMaster 0x09 c st.seq st.replays 0
  | none => s

/-! ### Mirror effects (R399) -/

/-- An effect that waits for the last update sent, or happens at once when no mirror is in service. -/
def State.hold (s : State) (e : HeldEffect) (now : State → State) : State :=
  match s.mch.mstate with
  | .syncing | .inSync =>
    if s.mch.acked = s.mch.useq then now s
    else { s with mch := { s.mch with effects := s.mch.effects ++ [(s.mch.useq, e)] } }
  | .out | .held => now s

/-- Send a ready report (R51, R192). -/
def State.readyReport (s : State) (c : Ctx) (seq : Word) (att : Nat) : State :=
  ({ s with tick := { s.tick with reported := s.tick.reported.set c (some seq) } } : State).sendMaster 0x08 c seq att (if att = 0 then 0 else 1)

/-! ### Collectives: the abort of R271 -/

/-- The member set of a channel's collective. -/
def Channel.members (k : Channel) : Nat := bitsOf k.desc.toNat 64 64

/-- SEQ of a channel's descriptor. -/
def Channel.seq (k : Channel) : Word := BitVec.ofNat 32 (bitsOf k.desc.toNat 32 32)

/-- A channel number as the CTX field of a collective packet (R267). -/
def chanCtx (ch : Fin 16) : Ctx := ch

/-- A collective packet of a channel's current attempt to a chip. -/
def State.colPkt (s : State) (ch : Fin 16) (ptype d w1 w2 : Nat) : Pkt :=
  { w0 := mkW0 ptype (chanCtx ch) (s.rd (COL_CH_STATUS.ATT ch)) false s.chip d s.chan[ch].seq
    w1 := BitVec.ofNat 64 w1, w2 := BitVec.ofNat 64 w2, w3 := 0, body := [] }

/-- A collective packet without payload to every member, the own chip among them. -/
def State.colAll (s : State) (ch : Fin 16) (ptype w1 w2 : Nat) : State :=
  (bitsSet 64 (s.chan[ch].members ||| 2 ^ s.chip)).foldl
    (fun (s : State) (d : Nat) => s.send (s.colPkt ch ptype d w1 w2)) s

/-- COL_ABORT to every member (R271). A cause that permits a restart names the next attempt. A member sends none after its
COL_FIN. -/
def State.colAbortSend (s : State) (ch : Fin 16) (cause newatt : Nat) : State :=
  let n := if cause ≤ 3 then s.rd (COL_CH_STATUS.ATT ch) + 1 else newatt
  if s.chan[ch].finSent then s else s.colAll ch 0x14 (cause % 16 + (n % 8) * 16) 0

end Sys2Proof.Machine
end

