-- ==== Sys2Proof/Machine/Tables.lean ====
section
/-!
DEFINITION. The table set of a context (R98-R100), the stacks, the echo region and placement (R28, R156, R248), and the
accounting counters (R293, R294).
-/

namespace Sys2Proof.Machine

open Sys2Proof

/-! ### Table SRAM -/

/-- What a byte of table SRAM reads as until it is loaded (R98): 0xFF in a home table, 0 in a layer table. -/
def tblDefault (a : Nat) : Byte := if a % 98304 < 32768 then 0xFF else 0

/-- Byte address of a context's bank in table SRAM: home table of 32 KiB, then layer table of 64 KiB. -/
def tblBase (c : Ctx) (bank : Nat) : Nat := (c.val * 2 + bank % 2) * 98304

/-- Default of memories whose unwritten bytes read 0 (log entry 5). -/
def zeroByte (_ : Nat) : Byte := 0

/-- The home of an expert in a bank. -/
def State.home (s : State) (c : Ctx) (bank e : Nat) : Nat :=
  ofBytes (eccRead s.act.table tblDefault s.act.tableFlips (tblBase c bank + 2 * e) 2)

/-- Chip of a home (R12). -/
def homeChip (h : Nat) : Nat := bitsOf h 10 6
/-- Slot of a home (R12). -/
def homeSlot (h : Nat) : Nat := bitsOf h 5 5
/-- The home of a chip and a slot. -/
def mkHome (chip slot : Nat) : Nat := chip % 64 * 1024 + slot % 32 * 32
/-- The host path of a chip. -/
def hostPath (chip : Nat) : Nat := mkHome chip 24

/-- The 64 bytes of a layer entry. -/
def State.layerBytes (s : State) (c : Ctx) (bank l : Nat) : List Byte :=
  eccRead s.act.table tblDefault s.act.tableFlips (tblBase c bank + 32768 + 64 * l) 64

/-- A layer entry (R100). -/
structure LayerE where
  loc : Nat
  normSel : Bool
  gscore : Bool
  nexp : Nat
  groups : Nat
  topg : Nat
  scale : Word
  tau : Word
  rowBase : Nat
  biasOff : Nat
  wells : Nat
  shId : List Nat
  shW : List Word
  /-- Every reserved field is 0. -/
  clean : Bool
  deriving DecidableEq, Repr

/-- Decode a layer entry. -/
def decodeLayer (b : List Byte) : LayerE :=
  let w (o n : Nat) : Nat := ofBytes (slice b o n)
  let w0 := w 0 4
  let w4 := w 4 4
  { loc := bitsOf w0 0 2, normSel := w0.testBit 2, gscore := w0.testBit 3, nexp := bitsOf w0 16 15
    groups := bitsOf w4 0 8 + 1, topg := bitsOf w4 8 8 + 1
    scale := BitVec.ofNat 32 (w 8 4), tau := BitVec.ofNat 32 (w 0x0C 4), rowBase := w 0x10 8, biasOff := w 0x18 4
    wells := bitsOf (w 0x1C 4) 0 24
    shId := (List.range 4).map fun j => bitsOf (w (0x20 + 2 * j) 2) 0 14
    shW := (List.range 4).map fun j => BitVec.ofNat 32 (w (0x28 + 4 * j) 4)
    clean := bitsOf w0 4 12 == 0 && bitsOf w0 31 1 == 0 && bitsOf w4 16 16 == 0 && bitsOf (w 0x1C 4) 24 8 == 0 &&
      (List.range 4).all (fun j => bitsOf (w (0x20 + 2 * j) 2) 14 2 == 0) && w 0x38 8 == 0 }

/-- The layer entry of a context's bank. -/
def State.layer (s : State) (c : Ctx) (bank l : Nat) : LayerE := decodeLayer (s.layerBytes c bank l)

/-- The active bank (R102). -/
def State.activeBank (s : State) (c : Ctx) : Nat := s.rd (RTE_SET_STATUS.ACTIVE c)

/-- Hidden width of a context. -/
def State.hid (s : State) (c : Ctx) : Nat := s.rd (RTE_CTX_CFG.HIDW c) * 256

/-- First byte and length of a context's router-SRAM allotment. -/
def State.allot (s : State) (c : Ctx) : Nat × Nat :=
  (s.rd (RTE_CTX_CFG.ALLOT_BASE c) * 65536, s.rd (RTE_CTX_CFG.ALLOT_SIZE c) * 65536)

/-- Bytes of the router SRAM at an offset of a context's allotment. -/
def State.routerBytes (s : State) (c : Ctx) (off n : Nat) : List Byte :=
  eccRead s.act.router zeroByte s.act.routerFlips ((s.allot c).1 + off) n

/-- Bytes written into a Hub's table SRAM; the words they cover are encoded afresh (R380). -/
def HubCore.putTable (h : HubCore) (a : Nat) (bs : List Byte) : HubCore :=
  { h with table := mwrite tblDefault h.table a bs, tableFlips := Flips.written h.tableFlips a bs.length }

/-- Bytes written into a Hub's router-weight SRAM. -/
def HubCore.putRouter (h : HubCore) (a : Nat) (bs : List Byte) : HubCore :=
  { h with router := mwrite zeroByte h.router a bs, routerFlips := Flips.written h.routerFlips a bs.length }

/-- Write table SRAM; the mirror follows (R397). -/
def State.writeTable (s : State) (a : Nat) (bs : List Byte) : State :=
  { s with act := s.act.putTable a bs, mch := s.mch.push (.table a bs) }

/-- Write router-weight SRAM; the mirror follows. -/
def State.writeRouter (s : State) (a : Nat) (bs : List Byte) : State :=
  { s with act := s.act.putRouter a bs, mch := s.mch.push (.router a bs) }

/-! ### Stacks -/

/-- A word is delivered corrected (R382): counted, and event 0x0D01 once for a second in which a part passes the threshold. -/
def State.correctedWord (s : State) (part : Nat) : State :=
  let sec := s.op256 / 256
  let n := match s.corrected.find? fun x => x.1 == part && x.2.1 == sec with
    | some x => x.2.2 + 1
    | none => 1
  let s1 : State := { s.bump RAS_COR_CNT.COUNT with
    corrected := (s.corrected.filter fun x => x.1 != part) ++ [(part, sec, n)] }
  if n = s.rd RAS_CFG.CE_THRESH + 1 then s1.raise 0x0D01 1 [n, part] else s1

/-- Bytes of a stack as a reader gets them (R382). -/
def State.stackRead (s : State) (w : WellNo) (a n : Nat) : List Byte := eccRead s.wells[w].stack zeroByte s.wells[w].flips a n

/-- Write a stack; a word written whole is encoded afresh (R383). -/
def State.stackWrite (s : State) (w : WellNo) (a : Nat) (bs : List Byte) : State :=
  s.modWell w fun k => { k with stack := mwrite zeroByte k.stack a bs, flips := Flips.written k.flips a bs.length }

/-- Bytes of a stack written 0. -/
def State.stackZero (s : State) (w : WellNo) (a n : Nat) : State :=
  s.modWell w fun k => { k with
    stack := k.stack.filter fun x => !(decide (a ≤ x.1 ∧ x.1 < a + n)), flips := Flips.written k.flips a n }

/-- The uncorrectable words of a range of a stack, by byte address. -/
def State.badWords (s : State) (w : WellNo) (a n : Nat) : List Nat := wordsThat Verdict.bad s.wells[w].stack zeroByte s.wells[w].flips a n

/-- An 8-byte word of a stack is uncorrectable. -/
def State.badWord (s : State) (w : WellNo) (a : Nat) : Bool := s.badWords w (a / 8 * 8) 8 != []

/-- The stored word at a byte address of a stack. -/
def State.stackWord (s : State) (w : WellNo) (a : Nat) : BitVec 80 := storedWord s.wells[w].stack zeroByte s.wells[w].flips a

/-- Words of a range that are delivered corrected are counted (R382). -/
def State.countFixed (s : State) (w : WellNo) (a n : Nat) : State :=
  (wordsThat Verdict.fixed s.wells[w].stack zeroByte s.wells[w].flips a n).foldl (fun (s : State) (_ : Nat) => s.correctedWord w.val) s

/-- The pages of 1 KiB of a range of bytes (R244). -/
def pagesOf (a n : Nat) : List Nat := if n = 0 then [] else (List.range ((a + n + 1023) / 1024 - a / 1024)).map (a / 1024 + ·)

/-- Channel, bank and row of a page (log entry 112). -/
def Build.pagePlace (b : Build) (p : Nat) : Nat × Nat × Nat :=
  let n := max 1 b.dramBanks
  (p % 32, p / 32 % n, p / (32 * n))

/-! ### Row counters (R373) -/

/-- The counters of a bank. -/
def bankOf (l : List BankRows) (ch bank : Nat) : BankRows :=
  (l.find? fun b => b.ch == ch && b.bank == bank).getD { ch := ch, bank := bank, rows := [], targeted := 0, reported := false }

/-- Store the counters of a bank. -/
def setBank (l : List BankRows) (b : BankRows) : List BankRows := (l.filter fun x => !(x.ch == b.ch && x.bank == b.bank)) ++ [b]

/-- Count an activate in a frequent-items table of 8 counters: a row with a counter gains one, a free counter is taken, and with
none free every counter loses one. -/
def countRow (rows : List (Nat × Nat)) (row : Nat) : List (Nat × Nat) :=
  if rows.any fun r => r.1 == row then rows.map fun r => if r.1 = row then (r.1, r.2 + 1) else r
  else if rows.length < 8 then rows ++ [(row, 1)]
  else (rows.map fun r => (r.1, r.2 - 1)).filter fun r => r.2 != 0

/-- A setting of `HTH_RDM` as a Well applies it in its current window (R373, R378). -/
def State.rdmOf (s : State) (w : WellNo) (f : Fld) : Nat := f.get s.wells[w].rdm

/-- The targeted refreshes a Well allows a bank in its current window (R374, R378). -/
def State.rdmBudget (s : State) (w : WellNo) : Nat := HTH_RDM_MAX.MAX.get s.wells[w].rdmMax

/-- A window of a Well begins: it applies the settings as they stand (R378). -/
def State.rdmWindow (s : State) (w : WellNo) : State :=
  s.modWell w fun k => { k with rows := [], rdm := s.word HTH_RDM.reg, rdmMax := s.word HTH_RDM_MAX.reg }

/-- An activate of a row, by channel, bank and row. -/
def countActivate (l : List BankRows) (x : Nat × Nat × Nat) : List BankRows :=
  let b := bankOf l x.1 x.2.1
  setBank l { b with rows := countRow b.rows x.2.2 }

/-- An activate of a bank, from the host or from the Well. -/
def State.activated (s : State) (w : WellNo) (ch bank row : Nat) : State :=
  if s.rdmOf w HTH_RDM.EN = 0 then s else s.modWell w fun k => { k with rows := countActivate k.rows (ch, bank, row) }

/-! ### Traffic of a Well (R243, R293, R294) -/

/-- Charge DRAM traffic of a Well for a context: bytes read and written at an address, one activate for each 1 KiB page touched (log
entry 22), counted for its row (R373); the Well's own window estimate follows (R243). -/
def State.accDram (s : State) (w : WellNo) (c : Ctx) (a rdB wrB : Nat) : State :=
  let pages := pagesOf a (rdB + wrB)
  let fj := pages.length * s.rd (WEL_COEF_ACT.PJ w) * 1000 + rdB * s.rd (WEL_COEF_RD.FJ w) + wrB * s.rd (WEL_COEF_WR.FJ w)
  let s1 : State := s.modWell w fun k => { k with
    wellFJ := k.wellFJ + fj
    rows := if s.rdmOf w HTH_RDM.EN = 0 then k.rows else (pages.map s.build.pagePlace).foldl countActivate k.rows }
  (s1.addPair (CTX_ACC_DRAMB_LO.VAL c) (CTX_ACC_DRAMB_HI.VAL c) (rdB + wrB)).accEnergy c fj

/-- A Well reads a range of its stack for a context. -/
def State.readDram (s : State) (w : WellNo) (c : Ctx) (a n : Nat) : State := (s.countFixed w a n).accDram w c a n 0

/-- A Well writes bytes to its stack for a context. -/
def State.writeDram (s : State) (w : WellNo) (c : Ctx) (a : Nat) (bs : List Byte) : State :=
  (s.stackWrite w a bs).accDram w c a 0 bs.length

/-! ### Echo region and placement -/

/-- First byte of a context's echo region in a Well's stack. -/
def State.echoBase (s : State) (w : WellNo) (c : Ctx) : Nat := s.rd (WEL_CTX_ECHO.BASE_MIB w.val c.val) * 2 ^ 20

/-- The echoed count of an expert of a layer (R156, R248): read from the lowest in-service Well; an uncorrectable word
reads 0, and without a Well in service every count is 0. -/
def State.echoCount (s : State) (c : Ctx) (layer e : Nat) : Nat :=
  match s.serviceWells with
  | [] => 0
  | w :: _ =>
    let a := s.echoBase w c + 8192 + 32768 * layer + 2 * e
    if s.badWord w a then 0 else ofBytes (s.stackRead w a 2)

/-- Members of a context in ascending order. -/
def State.memberList (s : State) (c : Ctx) : List Nat := bitsSet 64 (s.members c)

/-- This member's share of a slot's threshold (R156). -/
def State.share (s : State) (c : Ctx) (slot : Nat) : Nat :=
  let ms := s.memberList c
  let thr := s.rd (ADM_WEL_THR.THR slot)
  let m := ms.idxOf s.chip
  thr / ms.length + bitNat (decide (m < thr % ms.length))

/-- The experts of a layer: routed IDs, and the shared ones of its entry. -/
def LayerE.experts (l : LayerE) : List Nat := (List.range l.nexp ++ l.shId).dedup

/-- Experts of a layer that are placed on the host path (R28, R29, R156, R157). `zero` stands for echoed counts of zero. -/
def State.placeHost (s : State) (c : Ctx) (bank layer : Nat) (zero : Bool) : List Nat :=
  if s.rd (ADM_CTX_CFG.HOSTP c) = 0 then []
  else (s.layer c bank layer).experts.filter fun e =>
    let slot := homeSlot (s.home c bank e)
    let n := if zero then 0 else s.echoCount c layer e
    decide (slot < 24 ∧ s.share c slot < n)

/-- The control core reads the echoed counts that a placement needs, in bursts of 64 bytes, from the lowest Well in service (R248): the
traffic is charged, corrected words are counted, and so is every uncorrectable one (R382). -/
def State.echoReads (s : State) (c : Ctx) (bank layer : Nat) : State :=
  match s.serviceWells with
  | [] => s
  | w :: _ =>
    if s.rd (ADM_CTX_CFG.HOSTP c) = 0 then s
    else
      let a := s.echoBase w c + 8192 + 32768 * layer
      (((s.layer c bank layer).experts.map fun e => (a + 2 * e) / 64 * 64).dedup).foldl (fun (s : State) (x : Nat) =>
        let n := (s.badWords w x 64).length
        (if n = 0 then s else s.bumpBy RAS_UNC_CNT.COUNT n).readDram w c x 64) s

/-- The 2,048 bytes of a placement map (R248). -/
def placementMap (l : LayerE) (host : List Nat) : List Byte :=
  let es := l.experts.filter fun e => !host.contains e
  (List.range 2048).map fun i =>
    BitVec.ofNat 8 (maskOf ((List.range 8).filter fun b => es.contains (8 * i + b)))

/-- Write a step's placement map to every in-service Well (R248). The slot is SEQ mod 4; without a Well in service the
control core holds the placement, and the slot is 4. -/
def State.writePlacement (s : State) (c : Ctx) (seq : Word) (l : LayerE) (host : List Nat) : State × Nat :=
  match s.serviceWells with
  | [] => (s, 4)
  | ws =>
    let m := seq.toNat % 4
    let bs := placementMap l host
    (ws.foldl (fun (s : State) (w : WellNo) => s.writeDram w c (s.echoBase w c + 2048 * m) bs) s, m)

/-- The Well whose copy of a placement map a step reads: the first in-service one, in ascending slot order, whose copy no
attempt of the step has found uncorrectable (R248). -/
def State.mapWell (s : State) (skip : Nat) : Option WellNo := s.serviceWells.find? fun w => !skip.testBit w.val

/-- A Well's copy of a placement map holds an uncorrectable word. -/
def State.mapBad (s : State) (w : WellNo) (c : Ctx) (slot : Nat) : Bool :=
  s.badWords w (s.echoBase w c + 2048 * slot) 2048 != []

/-- Is an expert placed on the Well path for a step (R28)? -/
def State.placedWell (s : State) (c : Ctx) (st : Step) (e : Nat) : Bool :=
  if st.slot = 4 then !st.hostPlaced.contains e
  else match s.mapWell st.mapSkip with
    | some w => ((s.stackRead w (s.echoBase w c + 2048 * st.slot + e / 8) 1).headD 0).getLsbD (e % 8)
    | none => !st.hostPlaced.contains e

/-- Bytes of a context's echo region on a Well that hold its maps and rows: what it needs, as far as the region reaches (R248). -/
def State.echoBytes (s : State) (w : WellNo) (c : Ctx) : Nat :=
  min (8192 + 32768 * s.rd (CTX_PLAN1.LAYERS c)) (s.rd (WEL_CTX_ECHO.SIZE_MIB w.val c.val) * 2 ^ 20)

/-- Zero the echo rows of a context on a Well. -/
def State.zeroRows (s : State) (c : Ctx) (w : WellNo) : State :=
  let a := s.echoBase w c + 8192
  let n := s.echoBytes w c - 8192
  (s.stackZero w a n).accDram w c a 0 n

/-- Zero every echo row of a context on every in-service Well (R248). -/
def State.zeroEcho (s : State) (c : Ctx) : State := s.serviceWells.foldl (fun (s : State) (w : WellNo) => s.zeroRows c w) s

/-- `n` bytes of one Well's stack from `a` copied to another's from `b`, both multiples of 8; an uncorrectable word stays one. -/
def State.copyStack (s : State) (v w : WellNo) (a b n : Nat) : State :=
  let cells := s.wells[v].stack.filter fun x => decide (a ≤ x.1 ∧ x.1 < a + n)
  let bad := (Flips.within s.wells[v].flips a n).filter fun x => s.badWord v x.1
  let s1 : State := cells.foldl (fun (s : State) (x : Host.Cell) => s.stackWrite w (b + (x.1 - a)) [x.2]) (s.stackZero w b n)
  s1.modWell w fun k => { k with flips := bad.foldl (fun (fl : Flips) (x : Nat × BitVec 80) => sput noFlip fl (b + (x.1 - a)) x.2) k.flips }

/-- A Well that enters service gets the copy of a context's echo region that the control core keeps on every Well in service (R248): that
of the lowest of them, or, when it is the first, rows of zero (log entry 113). -/
def State.echoCopy (s : State) (w : WellNo) (c : Ctx) : State :=
  match s.serviceWells with
  | [] => s.zeroRows c w
  | v :: _ =>
    let n := s.echoBytes w c
    ((s.readDram v c (s.echoBase v c) n).copyStack v w (s.echoBase v c) (s.echoBase w c) n).accDram w c (s.echoBase w c) 0 n

end Sys2Proof.Machine
end

