-- ==== Sys2Proof/Machine/Cistern.lean ====
section
/-!
DEFINITION. The Cistern (R164-R171, R177-R179): pools, requests, references, data, and its enable.
-/

namespace Sys2Proof.Machine

open Sys2Proof

/-- Bytes of a pool's buffers. -/
def State.poolBytes (s : State) (n : Nat) : Nat := s.poolKib n * 1024

/-- First Cistern byte of a pool (R165). -/
def State.poolBase (s : State) (n : Nat) : Nat :=
  (List.range n).foldl (fun a i => a + s.poolBytes i * s.poolCount i) 0

/-- The handle of a buffer (R165). -/
def State.mkHandle (s : State) (pool idx : Nat) : Nat :=
  idx % 65536 + pool % 4 * 65536 + bitNat (s.act.side == .b) * 2 ^ 18

/-- First Cistern byte of the buffer that a handle names. -/
def State.bufAddr (s : State) (h : Nat) : Nat :=
  s.poolBase (handlePool h) + handleIndex h * s.poolBytes (handlePool h)

/-- Enabled pools that hold `n` bytes, smallest first. -/
def State.fitting (s : State) (n : Nat) : List Nat :=
  (List.range 4).filter fun p => decide (s.poolCount p ≠ 0 ∧ n ≤ s.poolBytes p)

/-- The pool a request goes to (R166): the first fitting one with a free buffer. -/
def State.poolFor (s : State) (n : Nat) : Option Nat := (s.fitting n).find? fun p => decide (0 < s.poolFree p)

/-- The requester's quota has room for a buffer of a pool (R167). -/
def State.quotaRoom (s : State) (q pool : Nat) : Bool :=
  decide (s.cstUsed q + s.poolKib pool ≤ s.rd (CST_QUOTA.LIMIT q))

/-- A request can be granted now. -/
def State.grantable (s : State) (q n : Nat) : Bool :=
  s.rd CST_CTRL.ENABLE == 1 && (match s.poolFor n with
    | some p => s.quotaRoom q p
    | none => false)

/-- Indices of a pool that are free: not in use, or on the free list a second time (R171). -/
def State.freeIndices (s : State) (pool : Nat) : List Nat :=
  let used := (s.cist.bufs.filter fun b => handlePool b.handle == pool).map fun b => handleIndex b.handle
  let twice := (s.cist.dup.filter fun h => handlePool h == pool).map handleIndex
  ((List.range (s.poolCount pool)).filter fun i => !used.contains i) ++ twice

/-- The choice of a free buffer: `pick` counts along the free indices (the spec names no order). -/
def State.pickHandle (s : State) (pool pick : Nat) : Nat :=
  let l := s.freeIndices pool
  s.mkHandle pool (l.getD (pick % max 1 l.length) 0)

/-- Keep LOW of a pool at the least FREE (R178). -/
def State.noteLow (s : State) (pool : Nat) : State :=
  let f := s.poolFree pool
  let l := match s.cist.low.toList.getD pool none with
    | some x => min x f
    | none => f
  { s with cist := { s.cist with low := s.cist.low.setIfInBounds pool (some l) } }

/-- Take a buffer for a requester with a reference count: charged at its size, fallback counted (R166, R167). -/
def State.takeBuf (s : State) (q n count pick : Nat) : Option (State × Nat) :=
  match s.poolFor n with
  | none => none
  | some p =>
    if !s.quotaRoom q p then none
    else
      let h := s.pickHandle p pick
      let s0 : State := if (s.fitting n).head? = some p then s else s.bump CST_FALLBACK_CNT.COUNT
      let again := s0.cist.dup.contains h && (s0.cist.bufs.any fun b => b.handle == h)
      let s1 : State := { s0 with cist := { s0.cist with
          bufs := s0.cist.bufs ++ [⟨h, q, count, s0.poolKib p⟩]
          dup := if again then s0.cist.dup.erase h else s0.cist.dup } }
      some (s1.noteLow p, h)

/-- Take buffers of one size for requester 16 (R268). -/
def State.takeMany (n bytes pick : Nat) : Option (State × List Nat) → Option (State × List Nat) :=
  fun acc => (List.range n).foldl (fun (a : Option (State × List Nat)) (_ : Nat) =>
    match a with
    | none => none
    | some (s, hs) =>
      if s.grantable 16 bytes then (s.takeBuf 16 bytes 1 pick).map fun r => (r.1, hs ++ [r.2]) else none) acc

/-- Requests that wait behind one another: a context's Stage requests, Land's requests in arrival order, a context's parked
returns (R168, R197). -/
def CstWhy.line : CstWhy → Nat
  | .stage c _ => c.val
  | .land _ => 16
  | .park p _ => 17 + p.ctx.val
  | .col _ => 33

/-- The requests with those that wait marked as counted: one that cannot be granted as the buffers and quotas stand, or stands behind one
of its line that cannot. -/
def State.marked (s : State) : List CstReq :=
  (s.cist.waits.foldl (fun (a : List Nat × List CstReq) (r : CstReq) =>
    let b := a.1.contains r.why.line || !s.grantable r.who r.bytes
    (if b then a.1 ++ [r.why.line] else a.1, a.2 ++ [{ r with counted := r.counted || b }])) ([], [])).2

/-- A collective's reservation waits and is not yet counted. -/
def State.resWaits (s : State) (ch : Fin 16) : Bool :=
  s.rd (COL_CH_STATUS.STATE ch) == 3 && !s.chan[ch].counted &&
    (State.takeMany s.chan[ch].need s.chan[ch].needBytes 0 (some (s, []))).isNone

/-- A request that waits counts once in `CST_WAIT_CNT` (R166): requests are looked at when one is made and after every grant. -/
def State.markWaits (s : State) : State :=
  let l := s.marked
  let n := (l.filter (·.counted)).length - (s.cist.waits.filter (·.counted)).length
  let chs := (List.finRange 16).filter s.resWaits
  let s1 : State := if n + chs.length = 0 then s else s.bumpBy CST_WAIT_CNT.COUNT (n + chs.length)
  { s1 with
    cist := { s1.cist with waits := l }
    chan := chs.foldl (fun (v : Vector Channel 16) (ch : Fin 16) => v.set ch { v[ch] with counted := true }) s1.chan }

/-- Ask for a buffer (R166). -/
def State.cistAsk (s : State) (q n : Nat) (why : CstWhy) : State :=
  ({ s with cist := { s.cist with waits := s.cist.waits ++ [⟨q, n, why, false, false⟩] } } : State).markWaits

/-- Bytes of a buffer. -/
def State.bufRead (s : State) (h n : Nat) : List Byte := mread zeroByte s.cist.data (s.bufAddr h) n

/-- Write bytes of a buffer. -/
def State.bufWrite (s : State) (h : Nat) (bs : List Byte) : State :=
  { s with cist := { s.cist with data := mwrite zeroByte s.cist.data (s.bufAddr h) bs } }

/-- Set the reference count of a buffer. -/
def State.setCount (s : State) (h n : Nat) : State :=
  { s with cist := { s.cist with bufs := s.cist.bufs.map fun b => if b.handle = h then { b with count := n } else b } }

/-! ### CST_CTRL.ENABLE (R164) -/

/-- The first enabled pool that breaks the rules of R164; 4 when only the sum does. -/
def State.cistBadPool (s : State) : Option Nat :=
  let en := (List.range 4).filter fun p => s.poolCount p != 0
  let bad := en.find? fun p =>
    decide (s.poolKib p = 0 ∨ 64 < s.poolKib p) || en.any fun q => decide (q < p ∧ s.poolKib p ≤ s.poolKib q)
  match bad with
  | some p => some p
  | none =>
    if 65536 < (List.range 4).foldl (fun a p => a + s.poolKib p * s.poolCount p) 0 then
      -- the pool at which the sum passes the limit
      some (((List.range 4).find? fun p =>
        decide (65536 < (List.range (p + 1)).foldl (fun a q => a + s.poolKib q * s.poolCount q) 0)).getD 3)
    else none

/-- A write of `CST_CTRL` (R164). -/
def cstEnable (v : Word) (s : State) : State :=
  let now := s.rd CST_CTRL.ENABLE
  let want := CST_CTRL.ENABLE.get v
  if want = now then { s with cist := { s.cist with cfgErr := false } }
  else if want = 1 then
    match s.cistBadPool with
    | some p =>
      let kib := (List.range 4).foldl (fun a p => a + s.poolKib p * s.poolCount p) 0
      { s with cist := { s.cist with cfgErr := true } }.raise 0x0605 2 [kib, p]
    | none => ({ s with cist := { s.cist with cfgErr := false } } : State).wr CST_CTRL.ENABLE 1
  else
    if (List.range 4).all fun p => s.poolFree p == s.poolCount p then
      ({ s with cist := { s.cist with cfgErr := false } } : State).wr CST_CTRL.ENABLE 0
    else ({ s with cist := { s.cist with cfgErr := true } } : State).raise 0x0601 1 [CST_CTRL.reg, v.toNat]

/-- CST_ENABLE. -/
def execCstEnable (v : Word) (s : State) : Host.Outcome State Fault Refusal :=
  .next (if s.busUp 0 then cstEnable v s else s)

/-! ### Stage buffers of an attempt -/

/-- Requests of a context that wait and are withdrawn with its attempt (R197). -/
def CstWhy.ofCtx (c : Ctx) : CstWhy → Bool
  | .stage c' _ => c' == c
  | .land p => ctxOf p == c
  | .park p _ => p.ctx == c
  | .col _ => false

/-- Withdraw the waiting requests of a context; returns that wait for a buffer leave the receive buffer (R195, R197). -/
def State.withdraw (s : State) (c : Ctx) : State :=
  let gone := s.cist.waits.filter fun r => r.why.ofCtx c
  gone.foldl (fun (s : State) (r : CstReq) => match r.why with
    | .park _ h => s.freeHold h
    | _ => s) { s with cist := { s.cist with waits := s.cist.waits.filter fun r => !r.why.ofCtx c } }

end Sys2Proof.Machine
end

