-- ==== Sys2Proof/Machine/Stop.lean ====
section
/-!
DEFINITION. How an attempt ends (R48, R158, R215, R388): its stages' work is flushed, its references released, and the step
replays or retires.
-/

namespace Sys2Proof.Machine

open Sys2Proof

/-! ### Flushing an attempt (R195, R215) -/

/-- A step packet of an attempt. -/
def ofAttempt (c : Ctx) (seq : Word) (att : Nat) (p : Pkt) : Bool :=
  decide (1 ≤ ptypeOf p ∧ ptypeOf p ≤ 5) && ctxOf p == c && seqOf p == seq && attOf p == att % 8

/-- A flit of a packet of an attempt. -/
def TxFlit.ofAttempt (c : Ctx) (seq : Word) (att : Nat) (f : TxFlit) : Bool :=
  decide (1 ≤ f.ptype ∧ f.ptype ≤ 5) && f.ctx == c && f.seq == seq && f.att == att % 8

/-- A transmit queue without the packets that meet a condition; a packet in progress is sent through its EOP (R195). -/
def dropPackets (hit : TxFlit → Bool) (q : List TxFlit) : List TxFlit × List Nat :=
  let going := q.takeWhile fun f => !f.sop
  let rest := q.dropWhile fun f => !f.sop
  (going ++ rest.filter (fun f => !hit f), ((rest.filter hit).map (·.release)).flatten)

/-- Flush a link's transmit queues. -/
def Link.flush (k : Link) (hit : TxFlit → Bool) : Link × List Nat :=
  ({ k with txq := k.txq.map fun q => (dropPackets hit q).1 }, (k.txq.toList.map fun q => (dropPackets hit q).2).flatten)

/-- Flush the transmit queues of the ports and of the Well links; the references of the discarded flits are released (R169). -/
def State.flushTx (s : State) (hit : TxFlit → Bool) : State :=
  let links : List LinkId := (List.finRange 16).map LinkId.port ++ (List.finRange 24).map LinkId.well
  links.foldl (fun (s : State) (l : LinkId) =>
    let r := (s.link l).flush hit
    (s.modLink l fun _ => r.1).releaseAll r.2) s

/-- Flush landed packets; their credits return as if they had been consumed (R195). -/
def State.flushLanded (s : State) (hit : Pkt → Bool) : State :=
  let gone := s.landed.filter fun l => hit l.pkt
  gone.foldl (fun (s : State) (l : Landed) => (s.freeHold l.hold).releaseAll l.release)
    { s with landed := s.landed.filter fun l => !hit l.pkt }

/-- Flush the expert queue entries of a context: both references of each host-path buffer are released (R195, R197). -/
def State.flushQueues (s : State) (c : Ctx) : State :=
  let hs := ((s.work.queues.filter fun q => q.ctx == c).map fun q => q.entries.map (·.handle)).flatten
  { s.releaseAll (hs ++ hs) with work := { (s.releaseAll (hs ++ hs)).work with
      queues := s.work.queues.filter fun q => !(q.ctx == c) } }

/-- Withdraw the tiles that no host agent has taken, and mark the taken ones: Return sends nothing for them (R215). -/
def State.flushTiles (s : State) (c : Ctx) : State :=
  let gone := s.work.tiles.filter fun t => t.ctx == c && !t.taken
  let hs := (gone.map fun t => t.entries.map (·.handle)).flatten
  let s1 : State := s.releaseAll (hs ++ hs)
  { s1 with work := { s1.work with
      tiles := (s1.work.tiles.filter fun t => !(t.ctx == c && !t.taken)).map fun t =>
        if t.ctx = c then { t with dead := true } else t
      takeDef := s1.work.takeDef.set c (min 0 s1.work.takeDef[c]) } }

/-- Free the Meadow's rows, park cells and parked buffers of a context (R215). -/
def State.flushMeadow (s : State) (c : Ctx) : State :=
  let hs := (s.work.parked.filter fun p => p.ctx == c).filterMap (·.handle)
  let s1 : State := s.releaseAll hs
  { s1 with work := { s1.work with
      meadow := s1.work.meadow.filter fun m => !(m.ctx == c)
      parked := s1.work.parked.filter fun p => !(p.ctx == c)
      norm := s1.work.norm.filter fun n => !(n.1 == c) } }

/-- The references that copies not yet sent hold on their token's buffer (R173). -/
def Attempt.unsent (a : Attempt) : List Nat :=
  a.sendq.filterMap fun x => (a.toks.find? fun t => t.t == x.1).bind (·.handle)

/-- STEP_CLOSE to every Well in service (R238): REASON 0 commit, 1 abort, 2 retired without commit. -/
def State.closeWells (s : State) (c : Ctx) (seq : Word) (att reason : Nat) : State :=
  s.serviceWells.foldl (fun (s : State) (w : WellNo) =>
    s.sendWell w { w0 := mkW0 0x31 c att false s.chip s.chip seq, w1 := BitVec.ofNat 64 reason, w2 := 0, w3 := 0,
                   body := [] }) s

/-- Take the ledger space that an attempt has marked, without its entry becoming valid (R212). -/
def State.dropTentative (s : State) (c : Ctx) (seq : Word) : State :=
  let l := s.act.core.ledger[c]
  if l.any fun e => e.tentative && e.seq == seq then
    s.setCore { s.act.core with ledger := s.act.core.ledger.set c (l.filter fun e => !(e.tentative && e.seq == seq)) }
  else s

/-- The drops and spills that the attempt of a context has decided. -/
def State.attCounts (s : State) (c : Ctx) : Nat × Nat :=
  match s.work.att[c] with | some a => (a.drops, a.spills) | none => (0, 0)

/-- Add the attempt's decisions to the drop and spill counters when it ends (R158). -/
def State.countDrops (s : State) (c : Ctx) : State :=
  let (d, p) := s.attCounts c
  let s1 : State := if d = 0 then s else (s.bumpBy (ADM_CTX_DROPS.COUNT c) d).bumpBy ADM_DROP_CNT.COUNT d
  if p = 0 then s1 else (s1.bumpBy (ADM_CTX_SPILLS.COUNT c) p).bumpBy ADM_SPILL_CNT.COUNT p

/-- A step with what an attempt of it has counted. -/
def Step.absorb (st : Step) (a : Attempt) : Step :=
  { st with
    nanTokens := st.nanTokens + a.nanTokens, unseeded := st.unseeded + a.unseeded
    renormSkip := st.renormSkip + a.renormSkip
    renormFirst := if st.renormSkip = 0 then a.renormFirst else st.renormFirst
    rmsNf := st.rmsNf + a.rmsNf.length
    rmsFirst := if st.rmsNf = 0 then st.tokBase + a.rmsNf.headD 0 else st.rmsFirst }

/-- The counts of the attempt of a context go to its step. -/
def State.absorbAtt (s : State) (c : Ctx) (seq : Word) : State :=
  match s.work.att[c] with
  | none => s
  | some a => s.modStep c (fun x => x.live && x.seq == seq) fun x => x.absorb a

/-- Events that are written once for a step, when its outcome is final: NaN in selection (R116), unseeded noise (R119), renormalisation
skipped (R160), rows not finite (R141). Their counts are those of all its attempts (log entry 101); that 0x1002 carries the step's
context is the model's choice (log entry 101). -/
def State.stepEvents (s : State) (c : Ctx) (st : Step) : State :=
  let s1 : State := if st.nanTokens = 0 then s else s.raise 0x0405 1 [st.nanTokens] c st.seq
  let s2 : State := if st.unseeded = 0 then s1 else s1.raise 0x1002 1 [st.unseeded] c st.seq
  let s3 : State := if st.renormSkip = 0 then s2 else s2.raise 0x0603 1 [st.renormSkip, st.renormFirst] c st.seq
  if st.rmsNf = 0 then s3 else s3.raise 0x0502 1 [st.rmsNf, st.rmsFirst] c st.seq

/-- The outcome of a step of a context is final (R48): the step changes, and its events are written. -/
def State.outcome (s : State) (c : Ctx) (hit : Step → Bool) (f : Step → Step) : State :=
  match (s.steps c).find? hit with
  | none => s
  | some st => (s.modStep c hit f).stepEvents c st

/-- The attempt of a context ends: its work is gone from every stage. -/
def State.endAttempt (s : State) (c : Ctx) (st : Step) (reason : Nat) : State :=
  let att := st.replays
  let unsent := match s.work.att[c] with | some a => a.unsent | none => []
  let s1 : State := (s.absorbAtt c st.seq).countDrops c
  let s2 : State := if reason = 0 then s1 else s1.orphan c st.seq att
  let s3 : State := ((s2.withdraw c).releaseAll unsent).flushTx (TxFlit.ofAttempt c st.seq att)
  let s4 : State := (((s3.flushLanded (ofAttempt c st.seq att)).flushQueues c).flushTiles c).flushMeadow c
  let s5 : State := { s4 with
      routeWait := s4.routeWait.filter fun t => !ofAttempt c st.seq att t.pkt
      work := { s4.work with
        att := s4.work.att.set c none
        homes := s4.work.homes.filter fun h => !(h.ctx == c)
        scoreOpen := s4.work.scoreOpen.filter fun x => !(x.1 == c)
        spilled := s4.work.spilled.filter fun x => !(x.1 == c)
        scoreDef := s4.work.scoreDef.set c (min 0 s4.work.scoreDef[c]) } }
  let hs := ((s4.routeWait.filter fun t => ofAttempt c st.seq att t.pkt).map (·.release)).flatten
  let s6 : State := s5.releaseAll hs
  (if reason = 0 then s6 else s6.dropTentative c st.seq).closeWells c st.seq att reason

/-! ### Outcomes -/

/-- R388: whether a cause permits replay, and the STATUS and DETAIL when none is permitted or left. Cause 0 is the tick
watchdog. -/
def causeOutcome (cause detail : Nat) : Bool × Nat × Nat :=
  match cause with
  | 0 => (true, 1, 0x40)
  | 1 => (true, 1, 0x43)
  | 2 => (false, 7, detail)
  | 3 => (false, 6, detail)
  | 4 => if detail = 0x30 then (true, 4, 0x30) else (false, 4, detail)
  | 5 => (true, 1, 0x43)
  | 6 => (true, 1, 0x44)
  | _ => (false, 3, 0x13)

/-- The step's outcome is final without a commit: it stays with its retention record until the record is written
(R86; state `retiring`, log entry 8). -/
def Step.retire (st : Step) (status detail now drops spills : Nat) : Step :=
  { st with state := .retiring, status := status, detail := detail, complete := false, endTick := now, dropped := drops,
            spilled := spills }

/-- A FORWARD step's drops and spills; 0 for the other opcodes (R85). -/
def Step.counts (st : Step) (d : Nat × Nat) : Nat × Nat := if st.opcode = 1 then d else (0, 0)

/-- Retire the live step of a context without commit. -/
def State.retireLive (s : State) (c : Ctx) (status detail : Nat) : State :=
  match s.liveStep c with
  | none => s
  | some st =>
    let d := st.counts (s.attCounts c)
    (s.endAttempt c st 2).outcome c (fun x => x.live && x.seq == st.seq) fun x =>
      x.retire status detail s.tickNow d.1 d.2

/-- ABORTED, and at once READY for a replay or retiring (R48, R388). -/
def State.abortLive (s : State) (c : Ctx) (cause detail : Nat) : State :=
  match s.liveStep c with
  | none => s
  | some st =>
    let d := st.counts (s.attCounts c)
    let (again, status, det) := causeOutcome cause detail
    if again ∧ st.replays < s.rd TCK_WD.REPLAY_MAX then
      let s1 : State := (s.endAttempt c st 1).modStep c (fun x => x.live && x.seq == st.seq) fun x =>
        { x with state := .ready, finished := false, replays := x.replays + 1, beaconSent := false,
                 errAborted := x.errAborted || cause == 1 || cause == 5 }
      s1.hold (.readyReport c st.seq true) fun s => s.readyReport c st.seq (st.replays + 1)
    else
      (s.endAttempt c st 1).outcome c (fun x => x.live && x.seq == st.seq) fun x =>
        x.retire status det s.tickNow d.1 d.2

/-! ### Abort notices that this member causes -/

/-- The live attempt of a context, if a packet or read of (SEQ, ATT) belongs to it. -/
def State.isLive (s : State) (c : Ctx) (seq : Word) (att : Nat) : Bool :=
  match s.liveStep c with | some st => st.seq == seq && st.replays % 8 == att % 8 | none => false

/-- Send an abort notice for the live step of a context (R48). -/
def State.noticeLive (s : State) (c : Ctx) (cause detail : Nat) : State :=
  match s.liveStep c with
  | some st => s.sendAbort c st.seq st.replays cause detail
  | none => s

/-- Contexts with a live step. -/
def State.liveCtxs (s : State) : List Ctx := (List.finRange 16).filter fun c => (s.liveStep c).isSome

/-- R389: a notice for a step after its COMMIT bit. -/
def State.lateNotice (s : State) : State := s.bump RAS_LATE_NOTICE_CNT.COUNT

/-- Freeze a context ring (R394, R395): its live step is aborted FROZEN on every member, and collectives of its
channels too (R271). -/
def State.freezeRing (s : State) (c : Ctx) (d2 : Nat) : State :=
  if s.ringFrozen c then s
  else
    let s1 : State := (s.setFrozen (.ring c) d2).noticeLive c 3 0x21
    (List.finRange 16).foldl (fun (s : State) (ch : Fin 16) =>
      if s.rd (COL_CH_CTRL.CTX ch) = c.val ∧ (s.rd (COL_CH_STATUS.STATE ch) = 4 ∨ s.rd (COL_CH_STATUS.STATE ch) = 5) then
        s.colAbortSend ch 5 0
      else s) s1

/-- Freeze a Well link (R394, R395). -/
def State.freezeWell (s : State) (w : WellNo) (d2 : Nat) : State :=
  if s.wellFrozen w then s
  else (s.setFrozen (.well w) d2).liveCtxs.foldl (fun (s : State) (c : Ctx) =>
    if s.wells[w].opens.any fun o => o.ctx == c then s.noticeLive c 3 0x22 else s) (s.setFrozen (.well w) d2)

/-- Freeze a remote peer (R394, R395). -/
def State.freezePeer (s : State) (d : Chip) (d2 : Nat) : State :=
  if s.peerFrozen d then s
  else (s.setFrozen (.peer d) d2).liveCtxs.foldl (fun (s : State) (c : Ctx) =>
    if (s.members c).testBit d then s.noticeLive c 3 0x23 else s) (s.setFrozen (.peer d) d2)

end Sys2Proof.Machine
end

