-- ==== Sys2Proof/Machine/Meadow.lean ====
section
/-!
DEFINITION. The Meadow: returns added in rank order or at once (R205-R210), finished rows, the normaliser (R140-R143), the gate
gradient (R144, R145) and Emit (R208). A return is taken as a whole packet (log entry 11).
-/

namespace Sys2Proof.Machine

open Sys2Proof

/-! ### Ledger contents -/

/-- The ledger entry of a forward step. -/
def State.ledgerOf (s : State) (c : Ctx) (seq : Word) : Option LedgerEntry :=
  s.act.core.ledger[c].find? fun e => e.seq == seq && e.valid && !e.tentative

/-- First byte of a context's ledger region in a stack. -/
def State.ledgerBase (s : State) (c : Ctx) : Nat := s.rd (CMB_CTX_LEDGER.BASE_MIB c) * 2 ^ 20

/-- The 64-byte header of an entry (R211), from its first share. -/
def State.ledgerHead (s : State) (c : Ctx) (e : LedgerEntry) : List Byte :=
  match e.shares with
  | [] => List.replicate 64 0
  | (w, start, _) :: _ => s.stackRead w (s.ledgerBase c + start) 64

/-! ### The gate gradient -/

/-- A routed rank of a backward token: expert, gate score, weight gradient. -/
abbrev GradIn := Nat × Word × Word

/-- DLOGIT of each rank, CSUM (R144), and the saturations of its functions (R137). -/
def gateGrad (gate : Nat) (normSel : Bool) (scale : Word) (rs : List GradIn) : List Word × Word × Nat :=
  let p (r : GradIn) : Word := r.2.1
  let dw (r : GradIn) : Word := r.2.2
  let rc := rcp (sumFrom0 (rs.map p))
  let rho := rc.1
  let a := mul32 (sumFrom0 (rs.map fun r => mul32 (dw r) (p r))) rho
  let sc := mul32 scale rho
  let plain (r : GradIn) : Word := mul32 scale (dw r)
  let normed (r : GradIn) : Word := mul32 sc (sub32 (dw r) a)
  let sig (dp pe : Word) : Word := mul32 dp (mul32 pe (sub32 one32 pe))
  match gate, normSel with
  | 0, false =>
    let csum := sumFrom0 (rs.map fun r => mul32 (p r) (plain r))
    (rs.map fun r => mul32 (p r) (sub32 (plain r) csum), csum, 0)
  | 0, true => (rs.map fun r => mul32 (p r) (normed r), 0, bitNat rc.2)
  | 1, _ =>
    -- q: the softmax of the gate scores over S (R112)
    let top := rs.foldl (fun (m : Word) (r : GradIn) => if keyBefore (p r) m then p r else m) (rs.headD (0, 0, 0)).2.1
    let es := rs.map fun r => expF (sub32 (p r) top)
    let ri := rcp (sumFrom0 (es.map (·.1)))
    let qs := es.map fun e => mul32 e.1 ri.1
    let cc := sumFrom0 ((qs.zip rs).map fun x => mul32 x.1 (plain x.2))
    ((qs.zip rs).map fun x => mul32 x.1 (sub32 (plain x.2) cc), 0, (es.filter (·.2)).length + bitNat ri.2)
  | _, false => (rs.map fun r => sig (plain r) (p r), 0, 0)
  | _, true => (rs.map fun r => sig (normed r) (p r), 0, bitNat rc.2)

/-! ### The normaliser -/

/-- n / d rounded to FP32. -/
def ratTo32 (n d : Nat) : Word :=
  let q := n * 2 ^ 64 / d
  to32 (.fin false (2 * q + bitNat (n * 2 ^ 64 % d != 0)) (-65))

/-- The exponent of the largest magnitude of a finite row; none when every element is ±0 (R140). -/
def topExp (row : List Word) : Option Int :=
  row.foldl (fun (a : Option Int) (w : Word) => match of32 w with
    | .fin _ m e => if m = 0 then a else
        let x := e + (Nat.log2 m : Int)
        match a with | none => some x | some y => some (max x y)
    | _ => a) none

/-- The outputs of R140 as BF16 elements, with saturations counted under R138. -/
def rmsNorm (row gain : List Word) (eps : Word) : List Nat × Nat :=
  let sh := (topExp row).getD 0
  let xp := row.map fun w => to32 ((of32 w).scale (-sh))
  let sum := chunkedSum (xp.map fun w => mul32 w w)
  let m := mul32 sum (ratTo32 1 (max 1 row.length))
  let ep := (clamp32 (to32 ((of32 eps).scale (-2 * sh)))).1
  let r := rsqrt (add32 m ep)
  let ys := (xp.zip gain).map fun x => toBf (mul32 (mul32 x.1 r.1) x.2)
  (ys.map (·.1), (ys.filter (·.2)).length + bitNat r.2)

/-- Every element of a row is finite. -/
def rowFinite (row : List Word) : Bool := row.all isFin32

/-! ### Emit -/

/-- The local index of a token of a step. -/
def Step.localTok (st : Step) (token : Nat) : Nat := token - st.tokBase

/-- Change the attempt of a context. -/
def State.modAtt (s : State) (c : Ctx) (f : Attempt → Attempt) : State :=
  { s with work := { s.work with att := s.work.att.set c ((s.work.att[c]).map f) } }

/-- Change a token of an attempt. -/
def State.modTok (s : State) (c : Ctx) (t : Nat) (f : Token → Token) : State :=
  s.modAtt c fun a => { a with toks := a.toks.map fun x => if x.t = t then f x else x }

/-- A token of the attempt of a context. -/
def State.tok (s : State) (c : Ctx) (t : Nat) : Option Token :=
  (s.work.att[c]).bind fun a => a.toks.find? fun x => x.t == t

/-- Emit a row of BF16 elements for a local token (R208). -/
def State.emitRow (s : State) (c : Ctx) (t : Nat) (els : List Nat) : State :=
  match s.liveStep c with
  | none => s
  | some st =>
    ((s.hostWrite (.output c st.seq st.replays) (st.outAddr + t * st.outPitch) (bfBytes els)).modTok c t
      fun x => { x with emitted := true }).progress c

/-- Count format saturations of the Hub's units. -/
def State.satHub (s : State) (n : Nat) : State := if n = 0 then s else s.bumpBy SFU_SAT_CNT.COUNT n

/-- Emit converts a finished FP32 row by RN_out (R208). -/
def State.emit32 (s : State) (c : Ctx) (t : Nat) (row : List Word) : State :=
  let r := rowToBf row
  (s.satHub r.2).emitRow c t r.1

/-! ### The auxiliary gradients of a BACKWARD token (R124, R214) -/

/-- Routed ranks of a token as R144 takes them: DW × RFACT, +0.0 where the copy was dropped. -/
def gradRanks (tk : Token) (dws : List (Nat × Word)) : List GradIn :=
  (tk.copies.filter fun x => !x.shared).map fun x =>
    let d := ((dws.find? fun y => y.1 == x.rank).map (·.2)).getD 0
    (x.expert, x.gscore, if x.fate = .dropped then 0 else mul32 d tk.rfact)

/-- The k + 1 slots of 8 bytes of R124. -/
def auxBytes (rs : List GradIn) (g : List Word × Word × Nat) : List Byte :=
  ((rs.zip g.1).map fun x => toBytes 4 (x.1.1 % 2 ^ 14) ++ toBytes 4 x.2.toNat).flatten ++
    toBytes 4 g.2.1.toNat ++ toBytes 4 0

/-- Write DLOGIT and CSUM of a token. -/
def State.writeAux (s : State) (c : Ctx) (t : Nat) (dws : List (Nat × Word)) : State :=
  match s.liveStep c, s.tok c t with
  | some st, some tk =>
    match s.work.att[c] with
    | none => s
    | some a =>
      let h := a.ledHead
      let w1 := ofBytes (slice h 4 4)
      let rs := gradRanks tk dws
      let g := gateGrad (bitsOf w1 19 2) (w1.testBit 21) (BitVec.ofNat 32 (ofBytes (slice h 8 4))) rs
      (s.satHub g.2.2).hostWrite (.aux c st.seq st.replays) (st.auxAddr + t * 8 * (rs.length + 1)) (auxBytes rs g)
  | _, _ => s

/-! ### Finishing a token -/

/-- Accumulation slots of the Meadow for a hidden width (16 MiB of rows of 4H bytes). -/
def slotCount (h : Nat) : Nat := if h = 0 then 0 else 2 ^ 24 / (4 * h)

/-- Remove a token from the token table. -/
def State.dropMead (s : State) (c : Ctx) (t : Nat) : State :=
  { s with work := { s.work with meadow := s.work.meadow.filter fun m => !(m.ctx == c && m.t == t) } }

/-- A token whose every expected rank has been added (R205): to the normaliser when RMSNORM is 1, else to Emit; for
BACKWARD its gate gradient is written too. -/
def State.finishTok (s : State) (c : Ctx) (m : MeadTok) : State :=
  match s.liveStep c with
  | none => s
  | some st =>
    if st.rmsnorm ∧ st.opcode = 1 then { s with work := { s.work with norm := s.work.norm ++ [(c, m.t)] } }
    else
      let s1 : State := s.emit32 c m.t m.acc
      let s2 : State := if st.opcode = 2 then s1.writeAux c m.t m.dws else s1
      s2.dropMead c m.t

/-- The gain vector of a context (R142): none where its range leaves the allotment. -/
def State.gain (s : State) (c : Ctx) : Option (List Word) :=
  let h := s.hid c
  if s.rd (SFU_RMS_CFG.GAIN_V c) = 0 then some (List.replicate h one32)
  else
    let off := s.rd (SFU_RMS_CFG.GAIN_OFF c) * 64
    if off + 2 * h ≤ (s.allot c).2 then some ((bfRow (s.routerBytes c off (2 * h))).map bfTo32) else none

/-- Combine of an RMSNORM step starts: a gain range outside the allotment gives the unit gain for the whole step, and event 0x0503 once
(R142). Combine starts with the first token that Admit hands it, or at the launch of a step without tokens (log entry 104). -/
def State.combineStarts (s : State) (c : Ctx) : State :=
  match s.liveStep c with
  | none => s
  | some st =>
    if st.opcode ≠ 1 ∨ !st.rmsnorm ∨ st.gainUnit.isSome then s
    else
      let out := (s.gain c).isNone
      let s1 : State := s.modStep c (fun x => x.live && x.seq == st.seq) fun x => { x with gainUnit := some out }
      if out then s1.raise 0x0503 2 [s.rd (SFU_RMS_CFG.GAIN_OFF c), s.rd (RTE_CTX_CFG.ALLOT_SIZE c)] c st.seq else s1

/-- Set the token-table entry of a token at Admit (R205); a token with no expected rank is finished with a row of +0.0, which passes the
normaliser when RMSNORM is 1 (R208). -/
def State.expectTok (s0 : State) (c : Ctx) (t expected : Nat) : State :=
  let s : State := s0.combineStarts c
  match s.liveStep c with
  | none => s
  | some st =>
    if expected = 0 then
      let s1 : State := s.bump CMB_EMPTY_CNT.COUNT
      if st.rmsnorm ∧ st.opcode = 1 then
        { s1 with work := { s1.work with
            meadow := s1.work.meadow ++ [⟨c, t, 0, 0, List.replicate (s.hid c) 0, false, []⟩], norm := s1.work.norm ++ [(c, t)] } }
      else
        let s2 : State := s1.emitRow c t (List.replicate (s.hid c) 0)
        if st.opcode = 2 then s2.writeAux c t [] else s2
    else
      { s with work := { s.work with
          meadow := s.work.meadow ++ [⟨c, t, expected, 0, List.replicate (s.hid c) 0, false, []⟩] } }

/-! ### Adding returns -/

/-- The token-table entry of a token. -/
def State.mead (s : State) (c : Ctx) (t : Nat) : Option MeadTok :=
  s.work.meadow.find? fun m => m.ctx == c && m.t == t

/-- Every expected rank below `r` has been added. -/
def MeadTok.turn (m : MeadTok) (r : Nat) : Bool :=
  (List.range r).all fun i => !m.expected.testBit i || m.added.testBit i

/-- Slots in use. -/
def State.slotsUsed (s : State) : Nat := (s.work.meadow.filter (·.slot)).length

/-- A token has a slot, or one is free for it. -/
def State.slotFor (s : State) (m : MeadTok) : Bool := m.slot || decide (s.slotsUsed < slotCount (s.hid m.ctx))

/-- Park cells in use. -/
def State.cellsUsed (s : State) : Nat := s.work.parked.foldl (fun a p => a + p.cells) 0

/-- One addition of R206: acc = RN(acc + RN(WEIGHT × y)). -/
def addRow (acc row : List Word) (weight : Word) : List Word :=
  (acc.zip row).map fun x => add32 x.1 (mul32 weight x.2)

/-- Add a returned row, with the ranks it carries, to its token. -/
def State.addRank (s : State) (p : Parked) : State :=
  match s.mead p.ctx p.tok with
  | none => s
  | some m =>
    let m' : MeadTok := { m with
      added := m.added ||| p.ranks, slot := true, acc := addRow m.acc p.row p.weight
      dws := m.dws ++ [(p.rank, p.dw)] }
    let s1 : State := { s with work := { s.work with meadow := s.work.meadow.map fun x =>
      if x.ctx = p.ctx ∧ x.t = p.tok then m' else x } }
    if m'.expected &&& m'.added = m'.expected then s1.finishTok p.ctx m' else s1

/-- A parked rank whose turn has come. -/
def State.ripe (s : State) : Option Parked :=
  s.work.parked.find? fun p => match s.mead p.ctx p.tok with
    | some m => (p.fast || m.turn p.rank) && s.slotFor m
    | none => false

/-- Add parked ranks as their turns come (R207). -/
def State.pumpParked : Nat → State → State
  | 0, s => s
  | n + 1, s =>
    match s.ripe with
    | none => s
    | some p =>
      let s1 : State := { s with work := { s.work with parked := s.work.parked.erase p } }
      ((s1.releaseOpt p.handle).addRank p).pumpParked n

/-- Elements a payload takes in a Cistern buffer: 2H bytes of BF16, or H elements with their scales (R172). -/
def payloadSize (bf : Bool) (h : Nat) : Nat := if bf then 2 * h else h + h / 32

/-- Park an early rank: in park cells while a slot and cells are there, else in a Cistern buffer (R207). -/
def State.park (s0 : State) (m : MeadTok) (p : Parked) (bf : Bool) (hold : Option (LinkId × Fin 8 × Nat)) : State :=
  let cells := s0.hid p.ctx / (if bf then 128 else 256)
  if s0.slotFor m ∧ s0.cellsUsed + cells ≤ 15872 then
    let s : State := s0.freeHold hold
    { s with work := { s.work with
        parked := s.work.parked ++ [{ p with cells := cells }]
        meadow := s.work.meadow.map fun x => if x.ctx = p.ctx ∧ x.t = p.tok then { x with slot := true } else x } }
  else
    ((s0.bump CMB_SPILLPARK_CNT.COUNT).cistAsk p.ctx.val (payloadSize bf (s0.hid p.ctx)) (.park p hold))

/-- A returned rank of a token that has not been added yet: parked, or waiting for its buffer. -/
def State.early (s : State) (c : Ctx) (t : Nat) : List Parked :=
  (s.work.parked ++ s.cist.waits.filterMap fun r => match r.why with | .park x _ => some x | _ => none).filter fun x => x.ctx == c && x.tok == t

/-- A return packet reaches the Meadow; `hold` is what it holds of a receive buffer until its bytes have a place. -/
def State.meadReturn (s : State) (st : Step) (p : Pkt) (hold : Option (LinkId × Fin 8 × Nat)) : State :=
  let c := ctxOf p
  let token := bitsOf p.w1.toNat 0 22
  let rank := bitsOf p.w1.toNat 22 6
  let ranks := bitsOf p.w2.toNat 0 36
  let t := st.localTok token
  let bad (s : State) : State :=
    ((s.freeHold hold).bump CMB_DUP_CNT.COUNT).raise 0x0803 2 [token, ranks % 2 ^ 32, ranks / 2 ^ 32] c st.seq
  match s.mead c t with
  | none => bad s
  | some m =>
    let waiting := (s.early c t).any fun x => x.ranks &&& ranks != 0
    if token < st.tokBase ∨ ranks = 0 ∨ ranks &&& m.expected ≠ ranks ∨ ranks &&& m.added ≠ 0 ∨ waiting then bad s
    else
      let row := payload32 (fmtOf p) (s.hid c) p.body
      let x : Parked := { ctx := c, tok := t, rank := rank, ranks := ranks, fast := st.fast || ranks != 2 ^ rank, weight := BitVec.ofNat 32 (bitsOf p.w3.toNat 0 32),
                          row := row, dw := BitVec.ofNat 32 (p.w1.toNat >>> 32), handle := none, cells := 0 }
      if (x.fast ∨ m.turn rank) ∧ s.slotFor m then ((s.freeHold hold).addRank x).pumpParked (s.work.parked.length + 1)
      else s.park m x (fmtOf p) hold

/-! ### Malformed packets (R445) -/

/-- Bits of a DISPATCH or RETURN header that are reserved, or a RANK above 35, or a payload that is cut short. -/
def State.malformed (s : State) (p : Pkt) : Bool :=
  let c := ctxOf p
  let h := s.hid c
  let len := payloadLen (fmtOf p) h
  let w1 := p.w1.toNat
  let w2 := p.w2.toNat
  let w3 := p.w3.toNat
  let common := bitsOf p.w0.toNat 30 2 != 0
  match ptypeOf p with
  | 1 | 2 =>
    common || bitsOf w1 59 5 != 0 || decide (35 < bitsOf w1 30 6) || w3 != 0 || decide (p.body.length < len)
  | 3 | 4 =>
    common || bitsOf w1 30 2 != 0 || decide (35 < bitsOf w1 22 6) || bitsOf w2 36 28 != 0 || bitsOf w3 32 32 != 0 ||
      decide (p.body.length < len)
  | 5 =>
    common || bitsOf w1 48 16 != 0 || bitsOf w2 52 12 != 0 || w3 != 0 || decide (p.body.length < 8 * bitsOf w1 36 12)
  | _ => false

/-- A malformed or miscounted packet: counted, reported, and an abort notice with cause COUNT (R199, R445). -/
def State.countError (s : State) (p : Pkt) (home expert filled landed kind : Nat) : State :=
  ((s.bump PMP_COUNT_ERR_CNT.COUNT).raise 0x0704 2
    [home, expert, (srcOf p).val, filled, landed, kind, if kind = 1 then ptypeOf p else 0] (ctxOf p) (seqOf p)).sendAbort
    (ctxOf p) (seqOf p) (attOf p) 5 0

/-! ### ROW_NORMALISE -/

/-- The waiting row of the lowest token (R143): the spec does not say how tokens of different contexts compare, so local token numbers
are compared, and the lower context comes first among equal ones (log entry 104). -/
def nextRow (l : List (Ctx × Nat)) : Option (Ctx × Nat) :=
  match l with
  | [] => none
  | x :: xs => some (xs.foldl (fun a b => if b.2 < a.2 ∨ (b.2 = a.2 ∧ b.1 < a.1) then b else a) x)

/-- A waiting finished row is normalised and emitted. -/
def rowNormalise (s : State) : State :=
  match nextRow s.work.norm with
  | none => s
  | some (c, t) =>
    let s0 : State := { s with work := { s.work with norm := s.work.norm.erase (c, t) } }
    match s0.mead c t, s0.liveStep c with
    | some m, some st =>
      let u := List.replicate (s0.hid c) one32
      let g := if st.gainUnit = some true then u else (s0.gain c).getD u
      let s2 : State :=
        if rowFinite m.acc then
          let r := rmsNorm m.acc g (BitVec.ofNat 32 (s0.rd (SFU_RMS_EPS.EPS c)))
          -- the row of a token with no expected rank is +0.0 (R208)
          (s0.satHub r.2).emitRow c t (if m.expected = 0 then List.replicate m.acc.length 0 else r.1)
        else
          -- a row with a NaN or an infinity (R141)
          ((s0.bump SFU_RMS_NF_CNT.COUNT).modAtt c fun a => { a with rmsNf := a.rmsNf ++ [t] }).emitRow c t
            (List.replicate m.acc.length 0x7FC0)
      (s2.dropMead c t).pumpParked (s2.work.parked.length + 1)
    | _, _ => s0

/-- ROW_NORMALISE. -/
def execRowNormalise (s : State) : Host.Outcome State Fault Refusal := .next (if s.busUp 0x8 then rowNormalise s else s)

end Sys2Proof.Machine
end

