-- ==== Sys2Proof/Machine/Store.lean ====
section
/-!
DEFINITION. Storing a written register word by the access codes of R7 and the locks of R8, R435 and R436.
-/

namespace Sys2Proof.Machine

open Sys2Proof

/-- The lock bit that governs the RWL fields of a register word (R435). -/
def lockOf (off : Nat) : Option Fld :=
  if off = TCK_CTRL.reg ∨ off = TCK_TREE.reg then some TCK_CTRL.LOCK
  else if off = SVC_ID.reg ∨ (0x060000 ≤ off ∧ off < 0x070000 ∧ off % 0x1000 = 0x108) then some SVC_ID.LOCK
  else if 0x080000 ≤ off ∧ off < 0x0B0000 then some (WEL_PCAP.LOCK ((off - 0x080000) / 0x2000))
  else if off = CTX_COEF_MAC.reg ∨ off = CTX_COEF_FLIT.reg ∨ off = CTX_COEF_HOSTB.reg then some CTX_COEF_LOCK.LOCK
  else if off = RAS_WDOG.reg then some RAS_WDOG.LOCK
  else if 0x130000 ≤ off ∧ off < 0x140000 then some HTH_LOCK.LOCK
  else none

/-- What a field holds after a write of a word (R7). `locked` is the state of the lock bit before the access. -/
def FieldRow.after (r : FieldRow) (locked : Bool) (cur v : Nat) : Nat :=
  match r.acc with
  | .ro => cur
  | .rc => cur
  | .rwd => cur
  | .rw => v
  | .rwl => if locked then cur else v
  | .w1c => cur &&& (2 ^ r.len - 1 - v % 2 ^ r.len)
  | .w1s => cur ||| v

/-- The field of a row at an offset. -/
def FieldRow.fld (r : FieldRow) (off : Nat) : Fld := ⟨off, r.lo, r.len⟩

/-- The word after a write, and whether a locked field would have changed. Reserved bits are in no row and keep 0 (R9). -/
def writeRow (fs : List FieldRow) (off : Nat) (locked : Bool) (cur v : Word) : Word × Bool :=
  fs.foldl (fun (a : Word × Bool) (r : FieldRow) =>
    let f := r.fld off
    (f.put a.1 (r.after locked (f.get cur) (f.get v)),
     a.2 || (r.acc == .rwl && locked && f.get cur != f.get v))) (cur, false)

/-- Store a written word (R7, R8, R436). A word that no register holds is not changed. -/
def State.store (s : State) (off : Nat) (v : Word) : State :=
  match findReg off with
  | none => s
  | some r =>
    let locked := match lockOf off with
      | some f => s.rd f == 1
      | none => false
    let cur := s.word off
    let w := writeRow r.fields off locked cur v
    let s1 : State := if w.2 then s.bump RAS_LOCKED_WR_CNT.COUNT else s
    if w.1 = cur then s1 else s1.setWord off w.1

/-- A written word whose field is replaced by the current value, so that the store leaves it as it is. -/
def State.keep (s : State) (f : Fld) (v : Word) : Word := f.put v (s.rd f)

/-- A register's write refused in the present state: an event with the register offset and the value written. -/
def State.refuse (s : State) (code : Nat) (off : Nat) (v : Word) (c : Option Ctx := none) : State := s.raise code 1 [off, v.toNat] c

end Sys2Proof.Machine
end

