-- ==== Sys2Proof/Machine/Routing.lean ====
section
/-!
DEFINITION. Table loads, arming and swapping a table set (R98-R105, R127-R129, R131), and the noise source (R117-R120, R130).
-/

namespace Sys2Proof.Machine

open Sys2Proof

/-! ### Ranges of the router SRAM that a set references (R98, R127, R142) -/

/-- Byte ranges (first, length) of a context's allotment that a bank references: router rows and biases of the layers of
its plan. -/
def State.rangesOf (s : State) (c : Ctx) (bank : Nat) : List (Nat × Nat) :=
  ((List.range (s.rd (CTX_PLAN1.LAYERS c))).map fun l =>
    let e := s.layer c bank l
    (if e.loc = 1 then [(e.rowBase, e.nexp * s.hid c)] else []) ++
      (if e.biasOff = 0xFFFFFFFF then [] else [(e.biasOff, 4 * e.nexp)])).flatten

/-- The ranges referenced by the active set, the gain vector among them, and by a held one. -/
def State.busyRanges (s : State) (c : Ctx) : List (Nat × Nat) :=
  let a := s.activeBank c
  s.rangesOf c a ++
    (if s.rd (RTE_SET_STATUS.SHADOW c) = 3 then s.rangesOf c (1 - a) else []) ++
    (if s.rd (SFU_RMS_CFG.GAIN_V c) = 1 then [(s.rd (SFU_RMS_CFG.GAIN_OFF c) * 64, 2 * s.hid c)] else [])

/-- Two byte ranges overlap; an empty one overlaps nothing. -/
def overlap (a n b m : Nat) : Bool := decide (0 < n ∧ 0 < m ∧ a < b + m ∧ b < a + n)

/-! ### Loads -/

/-- Why a load is refused before it reads; 0 when it starts (R127). The order of the tests, and that a load refused while another
runs leaves ERR 6 and sets no DONE, are the model's choice (log entry 102). -/
def State.loadRefusal (s : State) (c : Ctx) (kind layer len dest : Nat) : Nat :=
  if s.rd RTE_LOAD_STATUS.BUSY = 1 then 6
  else if s.rd (RTE_SET_STATUS.SHADOW c) ≠ 0 then 1
  else if kind = 1 ∧ (len = 0 ∨ 1024 < len ∨ 1024 < layer + len) then 5
  else if kind = 2 ∧ (s.allot c).2 < dest * 65536 + len * 64 then 2
  else if kind = 2 ∧ (s.busyRanges c).any fun r => overlap (dest * 65536) (len * 64) r.1 r.2 then 3
  else 0

/-- Report a load that ended with an error: event 0x0401. -/
def State.loadError (s : State) (c : Ctx) (kind err : Nat) : State :=
  (s.wr RTE_LOAD_STATUS.ERR err).raise 0x0401 2 [c.val, kind, err]

/-- Bytes a load reads from the host. -/
def loadBytes (kind len : Nat) : Nat :=
  match kind with
  | 0 => 32768
  | 1 => 64 * len
  | 2 => 64 * len
  | _ => 0

/-- A write of `RTE_LOAD_CTRL` (R102, R127). -/
def loadCtrlWrite (v : Word) (s : State) : State :=
  let busy := s.rd RTE_LOAD_STATUS.BUSY == 1
  let s1 : State := s.store RTE_LOAD_CTRL.reg (RTE_LOAD_CTRL.GO.put v 0)
  if RTE_LOAD_CTRL.GO.get v = 0 then s1
  else
    let c : Ctx := ⟨RTE_LOAD_CTRL.CTX.get v % 16, Nat.mod_lt _ (by decide)⟩
    let kind := RTE_LOAD_CTRL.KIND.get v
    let layer := RTE_LOAD_CTRL.LAYER.get v
    let len := s.rd RTE_LOAD_ARG.LEN
    let dest := s.rd RTE_LOAD_ARG.DEST
    let err := s.loadRefusal c kind layer len dest
    if err ≠ 0 then
      let s2 : State := s1.loadError c kind err
      if busy then s2 else s2.wr RTE_LOAD_STATUS.DONE 1
    else
      let at_ := if kind = 2 then dest * 65536 else if kind = 1 then 64 * layer else 0
      let n := loadBytes kind len
      let s2 : State := (((s1.wr RTE_LOAD_CTRL.GO 1).wr RTE_LOAD_STATUS.BUSY 1).wr RTE_LOAD_STATUS.ERR 0).wr
        (RTE_SET_STATUS.SHADOW c) 1
      let s3 : State := { s2 with work := { s2.work with load := some ⟨c, kind, at_, n, [], 0⟩ } }
      let base := s.rd2 RTE_LOAD_SRC_LO.ADDR RTE_LOAD_SRC_HI.ADDR * 64
      if n = 0 then s3 else s3.hostRead (.table base) base n

/-- A write of `RTE_LOAD_CTRL` whose GO bit starts a load of one kind. -/
def loadOf (kind : Nat) (v : Word) (s : State) : State :=
  if RTE_LOAD_CTRL.GO.get v = 1 ∧ RTE_LOAD_CTRL.KIND.get v = kind then loadCtrlWrite v s else s

/-- LOAD_HOME_TABLE. -/
def execLoadHomeTable (v : Word) (s : State) : Host.Outcome State Fault Refusal :=
  .next (if s.busUp 0 then loadOf 0 v s else s)

/-- LOAD_LAYER_ENTRIES. -/
def execLoadLayerEntries (v : Word) (s : State) : Host.Outcome State Fault Refusal :=
  .next (if s.busUp 0 then loadOf 1 v s else s)

/-- LOAD_ROUTER_ROWS. -/
def execLoadRouterRows (v : Word) (s : State) : Host.Outcome State Fault Refusal :=
  .next (if s.busUp 0 then loadOf 2 v s else s)

/-- COPY_ACTIVE_SET. -/
def execCopyActiveSet (v : Word) (s : State) : Host.Outcome State Fault Refusal :=
  .next (if s.busUp 0 then loadOf 3 v s else s)

/-- Loaded bytes reach their destination: a bank is written only while it is the shadow (R98). -/
def State.loadStore (s : State) (l : TableLoad) (off : Nat) (bs : List Byte) : State :=
  let base := tblBase l.ctx (1 - s.activeBank l.ctx)
  match l.kind with
  | 0 => s.writeTable (base + off) bs
  | 1 => s.writeTable (base + 32768 + l.dest + off) bs
  | _ => s.writeRouter ((s.allot l.ctx).1 + l.dest + off) bs

/-- A read beat of the table load, or its error (R127, R338). -/
def State.loadData (s : State) (off : Nat) (bs : List Byte) (err : Bool) : State :=
  match s.work.load with
  | none => s
  | some l =>
    if err then { s with work := { s.work with load := some { l with err := 4 } } }
    else
      let s1 : State := { s with work := { s.work with load := some { l with got := l.got ++ [(off, bs)] } } }
      s1.loadStore l off bs

/-- Bytes of a load that have arrived. -/
def gotBytes (l : List (Nat × List Byte)) : Nat := l.foldl (fun a x => a + x.2.length) 0

/-- Reads of a purpose that are still out become orphans; those not yet issued are dropped. -/
def State.dropReads (s : State) (hit : Purpose → Bool) : State :=
  { s with host := { s.host with
      queue := s.host.queue.filter fun r => !hit r.why
      txns := s.host.txns.map fun t => if hit t.req.why then { t with orphan := true } else t } }

/-- The load is a table load. -/
def Purpose.isTable : Purpose → Bool
  | .table _ => true
  | _ => false

/-- The table load ends once every byte has arrived, or after a read error (R102, R127). -/
def loadEnd (s : State) : State :=
  match s.work.load with
  | none => s
  | some l =>
    if l.err = 0 ∧ gotBytes l.got < l.len then s
    else
      let a := s.activeBank l.ctx
      let s0 : State :=
        if l.kind = 3 ∧ l.err = 0 then
          s.writeTable (tblBase l.ctx (1 - a)) (mread tblDefault s.act.table (tblBase l.ctx a) 98304)
        else s.dropReads Purpose.isTable
      let s1 : State := ((s0.wr RTE_LOAD_CTRL.GO 0).wr RTE_LOAD_STATUS.BUSY 0).wr (RTE_SET_STATUS.SHADOW l.ctx) 0
      let s2 : State := { s1 with work := { s1.work with load := none } }
      let s3 : State := if l.err = 0 then s2 else s2.loadError l.ctx l.kind l.err
      s3.hold .loadDone fun s => s.wr RTE_LOAD_STATUS.DONE 1

/-- LOAD_END. -/
def execLoadEnd (s : State) : Host.Outcome State Fault Refusal := .next (if s.hubUp then loadEnd s else s)

/-! ### Arming (R101, R104) -/

/-- The Wells in service on a chip of the fabric at a tick, as a mask: its own by their state, those of another chip by a free value
(log entry 23). -/
def State.wellsOf (s : State) (d tick : Nat) : Nat :=
  if d = s.chip then maskOf (s.serviceWells.map (·.val)) else (Config.peerWells d tick).toNat

/-- A used home entry that names no destination (R99). -/
def State.badHome (s : State) (c : Ctx) (h : Nat) : Bool :=
  decide (25 ≤ homeSlot h) || bitsOf h 0 5 != 0 || !((s.members c).testBit (homeChip h)) ||
    (decide (homeSlot h < 24) && !(s.wellsOf (homeChip h) s.tickNow).testBit (homeSlot h))

/-- Check 3 of R101. -/
def LayerE.badLayer (l : LayerE) (maxK : Nat) : Bool :=
  l.loc == 3 || !l.clean || l.nexp == 0 || decide (16384 < l.nexp) || l.nexp % l.groups != 0 ||
    decide (l.groups < l.topg ∨ l.nexp < maxK ∨ l.topg * l.nexp / l.groups < maxK)

/-- Checks 3 to 7 of R101 for one layer: ERR and DATA2. -/
def State.layerFault (s : State) (c : Ctx) (bank l : Nat) : Option (Nat × Nat) :=
  let e := s.layer c bank l
  let maxS := s.rd (CTX_PLAN0.MAX_SHARED c)
  let unhomed := (List.range e.nexp).find? fun x => s.home c bank x == 0xFFFF
  let unhomedSh := (List.range (min 4 maxS)).find? fun j => s.home c bank (e.shId.getD j 0) == 0xFFFF
  let badSh := (List.range (min 4 maxS)).find? fun j => decide (e.shId.getD j 0 < e.nexp)
  let room := (s.allot c).2
  if e.badLayer (s.rd (CTX_PLAN0.MAX_K c)) then some (2, 0)
  else match unhomed, unhomedSh, badSh with
    | some x, _, _ => some (3, x)
    | none, some j, _ => some (3, 0x4000 + j)
    | none, none, some j => some (4, 0x4000 + j)
    | none, none, none =>
      if e.loc = 1 ∧ (1024 < e.nexp ∨ 8192 < s.hid c) then some (5, 0)
      else if (e.loc = 1 ∧ room < e.rowBase + e.nexp * s.hid c) ∨
          (e.biasOff ≠ 0xFFFFFFFF ∧ room < e.biasOff + 4 * e.nexp) ∨
          (e.loc = 2 ∧ (e.wells = 0 ∨ (bitsSet 24 e.wells).any fun w => !(s.serviceWells.any fun x => x.val == w))) then
        some (6, 0)
      else none

/-- The first failing check of R101: ERR, DATA1, DATA2. -/
def State.shadowFault (s : State) (c : Ctx) (bank : Nat) : Option (Nat × Nat × Nat) :=
  let used (x : Nat) : Bool := s.home c bank x != 0xFFFF
  match (List.range 16384).find? fun x => used x && s.badHome c (s.home c bank x) with
  | some x => some (1, x, 0)
  | none =>
    match (List.range 64).find? fun d =>
        decide (2048 < ((List.range 16384).filter fun x => used x && homeChip (s.home c bank x) == d).length) with
    | some d => some (7, d, 0)
    | none =>
      match (List.range (s.rd (CTX_PLAN1.LAYERS c))).find? fun l => (s.layerFault c bank l).isSome with
      | some l => (s.layerFault c bank l).map fun f => (f.1, l, f.2)
      | none => none

/-- The armed target tick of a context. -/
def State.swapTick (s : State) (c : Ctx) : Nat := s.rd2 (RTE_SWAP_TICK_LO.TICK c) (RTE_SWAP_TICK_HI.TICK c)

/-- Why an ARM is refused (R101, R104). The spec gives no order between 8 TICK_PAST and 9 SHADOW_BUSY: the model tests the tick first
(log entry 102). -/
def State.armFault (s : State) (c : Ctx) : Option (Nat × Nat × Nat) :=
  if s.swapTick c ≤ s.tickNow then some (8, 0, 0)
  else if s.rd (RTE_SET_STATUS.SHADOW c) ≠ 0 then some (9, 0, 0)
  else s.shadowFault c (1 - s.activeBank c)

/-- An ARM write. The armed state is reported once the mirror holds it (R399). -/
def arm (c : Ctx) (s : State) : State :=
  match s.armFault c with
  | some (err, d1, d2) => (s.wr (RTE_SET_STATUS.ERR c) err).raise 0x0402 2 [err, d1, d2] c
  | none => ((s.wr (RTE_SET_STATUS.ERR c) 0).wr (RTE_SET_STATUS.SHADOW c) 2).hold (.armed c) id

/-- ARM. -/
def execArm (c : Ctx) (s : State) : Host.Outcome State Fault Refusal := .next (if s.busUp 0 then arm c s else s)

/-- A DISARM write: no effect unless the shadow is ARMED (R104). -/
def disarm (c : Ctx) (s : State) : State :=
  if s.rd (RTE_SET_STATUS.SHADOW c) = 2 then s.wr (RTE_SET_STATUS.SHADOW c) 0 else s

/-- DISARM. -/
def execDisarm (c : Ctx) (s : State) : Host.Outcome State Fault Refusal := .next (if s.busUp 0 then disarm c s else s)

/-- A write of `RTE_SWAP_CTRL`: ARM, then DISARM, for the bits that are 1; the order when both are is the model's choice (log entry
102). -/
def swapCtrlWrite (c : Ctx) (v : Word) (s : State) : State :=
  let s1 : State := if (RTE_SWAP_CTRL.ARM c).get v = 1 then arm c s else s
  if (RTE_SWAP_CTRL.DISARM c).get v = 1 then disarm c s1 else s1

/-- A step holds the bank it bound (R103): launched, not yet retired, and not a SAMPLE step (R122). -/
def Step.binds (st : Step) (bank : Nat) : Bool :=
  st.launched && st.bank == bank && st.opcode != 3 && st.state != .fetched

/-- A HELD shadow that no step binds any more becomes OPEN (R102). -/
def State.heldRelease (s : State) (c : Ctx) : State :=
  if s.rd (RTE_SET_STATUS.SHADOW c) = 3 ∧ !((s.steps c).any fun st => st.binds (1 - s.activeBank c)) then
    s.wr (RTE_SET_STATUS.SHADOW c) 0
  else s

/-- Cycle 1 of the boundary of a tick: an ARMED shadow whose tick it is becomes active (R102, R103, R248). -/
def State.swapAt (s : State) (c : Ctx) (tick : Nat) : State :=
  if s.rd (RTE_SET_STATUS.SHADOW c) = 2 ∧ s.swapTick c = tick then
    let old := s.activeBank c
    let held := (s.steps c).any fun st => st.binds old
    let s1 : State := ((s.wr (RTE_SET_STATUS.ACTIVE c) (1 - old)).wr (RTE_SET_STATUS.SHADOW c) (if held then 3 else 0)).wr
      (RTE_SET_STATUS.SWAPPED c) 1
    -- a step not yet launched sees at its launch that the bank changed (R444); counts of a step whose record is still held are not
    -- written to the echo rows after the swap (R29)
    let s2 : State := s1.modStep c (fun _ => true) fun st => { st with swapped := true, echo := [] }
    (s2.zeroEcho c).raise 0x0404 0 [tick % 2 ^ 32, 1 - old] c
  else s

/-- A write of `RTE_CTX_CFG` (R129). -/
def rteCfgWrite (c : Ctx) (v : Word) (s : State) : State :=
  let base := (RTE_CTX_CFG.ALLOT_BASE c).get v
  let size := (RTE_CTX_CFG.ALLOT_SIZE c).get v
  let clash := (List.finRange 16).any fun d => d != c &&
    overlap base size (s.rd (RTE_CTX_CFG.ALLOT_BASE d)) (s.rd (RTE_CTX_CFG.ALLOT_SIZE d))
  if s.rd (RNG_CTX_CTRL.ENABLE c) = 1 ∨ clash ∨ 256 < base + size then s.raise 0x0407 1 [v.toNat] c
  else s.store (RTE_CTX_CFG.reg c) v

/-! ### Noise source (R118, R119) -/

/-- One of the four 64-bit words of a xoshiro256** state. -/
def laneWord (l : BitVec 256) (i : Nat) : DWord := BitVec.ofNat 64 (l.toNat >>> (64 * i))

/-- A lane from its four words. -/
def mkLane (a b c d : DWord) : BitVec 256 :=
  BitVec.ofNat 256 (a.toNat + b.toNat * 2 ^ 64 + c.toNat * 2 ^ 128 + d.toNat * 2 ^ 192)

/-- The output of a lane: rotl(s1 × 5, 7) × 9. -/
def laneOut (l : BitVec 256) : DWord := ((laneWord l 1 * 5#64).rotateLeft 7) * 9#64

/-- A lane advanced by one output. -/
def laneNext (l : BitVec 256) : BitVec 256 :=
  let a := laneWord l 0
  let b := laneWord l 1
  let c := laneWord l 2 ^^^ a
  let d := laneWord l 3 ^^^ b
  mkLane (a ^^^ d) (b ^^^ c) (c ^^^ (b <<< 17)) (d.rotateLeft 45)

/-- The jump polynomial of the generator's family for 2^128 outputs (PRESUMED, log entry 24). -/
def jumpPoly : Nat :=
  0x180EC6D33CFD0ABA + 0xD5A61266F0C9392C * 2 ^ 64 + 0xA9582618E03FC9AA * 2 ^ 128 + 0x39ABDC4529B1661C * 2 ^ 192

/-- A lane advanced by 2^128 outputs. -/
def laneJump (l : BitVec 256) : BitVec 256 :=
  ((List.range 256).foldl (fun (a : BitVec 256 × BitVec 256) (i : Nat) =>
    (if jumpPoly.testBit i then a.1 ^^^ a.2 else a.1, laneNext a.2)) (0#256, l)).1

/-- The 128 lanes of a seed. -/
def seedLanes : Nat → BitVec 256 → List (BitVec 256)
  | 0, _ => []
  | n + 1, l => l :: seedLanes n (laneJump l)

/-- The software seed (R130). -/
def State.softSeed (s : State) : BitVec 256 :=
  BitVec.ofNat 256 ((List.range 8).foldl (fun a i => a + s.rd (NSE_SEED.SEED i) * 2 ^ (32 * i)) 0)

/-- A write of `NSE_CTRL` (R119, R130). RESEED reads 1 until the seeding is done. -/
def nseCtrlWrite (v : Word) (s : State) : State :=
  let s1 : State := s.store NSE_CTRL.reg v
  if NSE_CTRL.RESEED.get v = 1 then
    { s1 with act := { s1.act with seeding := some (NSE_CTRL.SRC.get v == 0) } }
  else s1

/-- RESEED. -/
def execReseed (v : Word) (s : State) : Host.Outcome State Fault Refusal :=
  .next (if s.busUp 0 ∧ NSE_CTRL.RESEED.get v = 1 then nseCtrlWrite v s else s)

/-- A seeding ends (R119). A software seed is read from `NSE_SEED`, and refused when zero, here and not at the write of RESEED: the spec
does not say when (log entry 103). `entropy` is the seed the entropy source gives, `ok` the result of its health tests. -/
def seedingDone (entropy : List (BitVec 256)) (ok : Bool) (s : State) : State :=
  match s.act.seeding with
  | none => s
  | some fromEntropy =>
    let s0 : State := { s.wr NSE_CTRL.RESEED 0 with act := { (s.wr NSE_CTRL.RESEED 0).act with seeding := none } }
    if fromEntropy then
      if ok then
        let s1 : State := { s0 with act := { s0.act with lanes := seedLanes 128 (entropy.headD 0) } }
        (s1.wr NSE_STATUS.SEEDED 1).wr NSE_STATUS.HEALTH_FAIL 0
      else (s0.wr NSE_STATUS.HEALTH_FAIL 1).raise 0x1001 2 [0]
    else if s.softSeed = 0 then s0.raise 0x1001 2 [1]
    else
      let s1 : State := { s0 with act := { s0.act with lanes := seedLanes 128 s.softSeed } }
      s1.wr NSE_STATUS.SEEDED 1

/-- One round of 256 noise values: each lane's output gives two uniforms, and each is used once. Which lane and half serves a candidate is
open (R120), so it is a free choice among those not used in the round. -/
def State.drawRound (s : State) : State × List Word :=
  let xs := s.act.lanes.map laneOut
  let us := (xs.map fun x => [BitVec.ofNat 24 (x.toNat >>> 40), BitVec.ofNat 24 (x.toNat >>> 16)]).flatten
  let r := (List.range us.length).foldl (fun (a : List (BitVec 24) × List (BitVec 24)) (i : Nat) =>
    let k := Config.freeNat (s.free + i) % max 1 a.1.length
    (a.1.eraseIdx k, a.2 ++ (a.1[k]?).toList)) (us, [])
  ({ s with free := s.free + us.length, act := { s.act with lanes := s.act.lanes.map laneNext } }, r.2.map gumbel)

/-- Draw noise for `n` candidates of a token (R118), 256 a cycle: every lane advances once in each round. NSE_DRAW counts the outputs that
candidates took, two candidates to one, although a last round may advance more lanes: the model's choice (log entry 31). -/
def State.drawNoise (s : State) (n : Nat) : State × List Word :=
  let r := (List.range ((n + 255) / 256)).foldl (fun (a : State × List Word) (_ : Nat) =>
    let x := a.1.drawRound
    (x.1, a.2 ++ x.2)) (s, [])
  (r.1.wr2 NSE_DRAW_LO.COUNT NSE_DRAW_HI.COUNT ((r.1.rd2 NSE_DRAW_LO.COUNT NSE_DRAW_HI.COUNT + (n + 1) / 2) % 2 ^ 64),
   r.2.take n)

end Sys2Proof.Machine
end

