-- ==== Sys2Proof/Machine/Rings.lean ====
section
/-!
DEFINITION. Descriptor rings, the checks of a descriptor, completion records and event records (R68-R96).
-/

namespace Sys2Proof.Machine

open Sys2Proof

/-! ### Geometry -/

/-- Entries of a context's submission ring (R68). -/
def State.sqSize (s : State) (c : Ctx) : Nat := 2 ^ s.rd (RNG_CTX_CTRL.SQ_LOG2 c)
/-- Entries of a context's completion ring. -/
def State.cqSize (s : State) (c : Ctx) : Nat := 2 ^ s.rd (RNG_CTX_CTRL.CQ_LOG2 c)
/-- Entries of the event ring. -/
def State.eqSize (s : State) : Nat := 2 ^ s.rd RNG_EQ_CTRL.LOG2

/-- (a − b) mod 2^32. -/
def dist32 (a b : Nat) : Nat := (a + 2 ^ 32 - b) % 2 ^ 32

/-- Host address of entry `i` of a ring. -/
def entryAddr (base size i bytes : Nat) : Nat := base + i % size * bytes

/-- LOG2 fields store 6 to 16 (R95). -/
def clampLog2 (n : Nat) : Nat := if n < 6 then 6 else if 16 < n then 16 else n

/-! ### Doorbells and consumer indices -/

/-- A doorbell write (R71, R72). -/
def doorbell (c : Ctx) (v : Word) (s : State) : State :=
  let t := v.toNat
  let p := s.rd (RNG_DOORBELL.TAIL c)
  let h := s.rd (RNG_SQ_HEAD.INDEX c)
  if s.rd (RNG_CTX_CTRL.ENABLE c) = 0 then s.raise 0x0302 1 [t] c
  else if dist32 t p < 2 ^ 31 ∧ dist32 t h ≤ s.sqSize c then s.wr (RNG_DOORBELL.TAIL c) t
  else (s.raise 0x0301 2 [t, p, h] c).freezeRing c (RNG_DOORBELL.reg c)

/-- DOORBELL. -/
def execDoorbell (c : Ctx) (v : Word) (s : State) : Host.Outcome State Fault Refusal :=
  .next (if s.busUp 0 then doorbell c v s else s)

/-- A consumer index is accepted when it lies no further ahead of the old value than the producer does, and does not move
backward by 2^31 or more (R93). A value less than 2^31 behind the old one lies ahead of nothing and is accepted (DEDUCED,
log entry 12). -/
def headOk (new old tail : Nat) : Bool :=
  if dist32 new old < 2 ^ 31 then decide (dist32 new old ≤ dist32 tail old) else decide (dist32 new old ≠ 2 ^ 31)

/-- A write of `RNG_CQ_HEAD`. -/
def cqHeadWrite (c : Ctx) (v : Word) (s : State) : State :=
  let tail := s.rd (RNG_CQ_TAIL.INDEX c)
  if headOk v.toNat (s.rd (RNG_CQ_HEAD.INDEX c)) tail then
    let s1 : State := s.wr (RNG_CQ_HEAD.INDEX c) v.toNat
    if dist32 tail v.toNat < s.cqSize c then s1.wrIf (RNG_CTX_STATUS.CQ_FULL c) 0 else s1
  else s.raise 0x0303 2 [v.toNat, tail, 0] c

/-- CQ_HEAD_WRITE. -/
def execCqHeadWrite (c : Ctx) (v : Word) (s : State) : Host.Outcome State Fault Refusal :=
  .next (if s.busUp 0 then cqHeadWrite c v s else s)

/-- A write of `RNG_EQ_HEAD`. -/
def eqHeadWrite (v : Word) (s : State) : State :=
  let tail := s.rd RNG_EQ_TAIL.INDEX
  if headOk v.toNat (s.rd RNG_EQ_HEAD.INDEX) tail then s.wr RNG_EQ_HEAD.INDEX v.toNat
  else s.raise 0x0303 2 [v.toNat, tail, 1]

/-- EQ_HEAD_WRITE. -/
def execEqHeadWrite (v : Word) (s : State) : Host.Outcome State Fault Refusal :=
  .next (if s.busUp 0 then eqHeadWrite v s else s)

/-! ### Enabling and disabling -/

/-- The per-context accounting counters at 0 (R293). -/
def State.zeroAcc (s : State) (c : Ctx) : State :=
  let s1 : State := (List.range 13).foldl (fun (s : State) (i : Nat) => s.setWord (0x0D1028 + 0x80 * c.val + 4 * i) 0) s
  { s1 with work := { s1.work with accFJ := s1.work.accFJ.set c 0 } }

/-- ENABLE of a context goes from 0 to 1: indices 0, echo rows zero, counters zero (R69, R248, R293). -/
def State.ringStart (s : State) (c : Ctx) : State :=
  let s1 : State := ((((s.wr (RNG_DOORBELL.TAIL c) 0).wr (RNG_SQ_HEAD.INDEX c) 0).wr (RNG_CQ_TAIL.INDEX c) 0).wr
    (RNG_CQ_HEAD.INDEX c) 0).wrIf (RNG_CTX_STATUS.CQ_FULL c) 0
  ({ s1 with commits := s1.commits.set c [] } : State).zeroEcho c |>.zeroAcc c

/-- A write of `RNG_CTX_CTRL` (R69, R94, R96). -/
def ctxCtrlWrite (c : Ctx) (v : Word) (s : State) : State :=
  let on := s.rd (RNG_CTX_CTRL.ENABLE c) == 1
  let v1 := (RNG_CTX_CTRL.SQ_LOG2 c).put v (clampLog2 ((RNG_CTX_CTRL.SQ_LOG2 c).get v))
  let v2 := (RNG_CTX_CTRL.CQ_LOG2 c).put v1 (clampLog2 ((RNG_CTX_CTRL.CQ_LOG2 c).get v))
  let badLog := on && ((RNG_CTX_CTRL.SQ_LOG2 c).get v2 != s.rd (RNG_CTX_CTRL.SQ_LOG2 c) ||
    (RNG_CTX_CTRL.CQ_LOG2 c).get v2 != s.rd (RNG_CTX_CTRL.CQ_LOG2 c))
  let badOff := on && (RNG_CTX_CTRL.ENABLE c).get v == 0 && !s.idle c
  let v3 := if on then s.keep (RNG_CTX_CTRL.SQ_LOG2 c) (s.keep (RNG_CTX_CTRL.CQ_LOG2 c) v2) else v2
  let v4 := if badOff then s.keep (RNG_CTX_CTRL.ENABLE c) v3 else v3
  let s1 : State := s.store (RNG_CTX_CTRL.reg c) v4
  let s2 : State := if badLog || badOff then s1.raise 0x0304 1 [RNG_CTX_CTRL.reg c, v.toNat] c else s1
  if !on && (RNG_CTX_CTRL.ENABLE c).get v == 1 then s2.ringStart c else s2

/-- CTX_RING_ENABLE. -/
def execCtxRingEnable (c : Ctx) (v : Word) (s : State) : Host.Outcome State Fault Refusal :=
  .next (if s.busUp 0 ∧ s.rd (RNG_CTX_CTRL.ENABLE c) = 0 ∧ (RNG_CTX_CTRL.ENABLE c).get v = 1 then ctxCtrlWrite c v s else s)

/-- CTX_RING_DISABLE. -/
def execCtxRingDisable (c : Ctx) (v : Word) (s : State) : Host.Outcome State Fault Refusal :=
  .next (if s.busUp 0 ∧ s.rd (RNG_CTX_CTRL.ENABLE c) = 1 ∧ (RNG_CTX_CTRL.ENABLE c).get v = 0 then ctxCtrlWrite c v s else s)

/-- A write of `RNG_EQ_CTRL` (R69, R94, R95). -/
def eqCtrlWrite (v : Word) (s : State) : State :=
  let on := s.rd RNG_EQ_CTRL.ENABLE == 1
  let v1 := RNG_EQ_CTRL.LOG2.put v (clampLog2 (RNG_EQ_CTRL.LOG2.get v))
  let bad := on && RNG_EQ_CTRL.LOG2.get v1 != s.rd RNG_EQ_CTRL.LOG2
  let s1 : State := s.store RNG_EQ_CTRL.reg (if on then s.keep RNG_EQ_CTRL.LOG2 v1 else v1)
  let s2 : State := if bad then s1.raise 0x0304 1 [RNG_EQ_CTRL.reg, v.toNat] else s1
  if !on && RNG_EQ_CTRL.ENABLE.get v == 1 then (s2.wr RNG_EQ_TAIL.INDEX 0).wr RNG_EQ_HEAD.INDEX 0 else s2

/-- EQ_ENABLE. -/
def execEqEnable (v : Word) (s : State) : Host.Outcome State Fault Refusal :=
  .next (if s.busUp 0 ∧ s.rd RNG_EQ_CTRL.ENABLE = 0 ∧ RNG_EQ_CTRL.ENABLE.get v = 1 then eqCtrlWrite v s else s)

/-! ### Fetch -/

/-- The descriptor read of a context is out. -/
def Purpose.isDescriptor (c : Ctx) : Purpose → Bool
  | .descriptor c' => c' == c
  | _ => false

/-- A master request of a purpose waits or is out. -/
def State.busyFor (s : State) (hit : Purpose → Bool) : Bool :=
  (s.host.queue.any fun r => hit r.why) || (s.host.txns.any fun t => !t.orphan && hit t.req.why)

/-- The conditions of R76. -/
def State.mayFetch (s : State) (c : Ctx) : Bool :=
  s.rd (RNG_CTX_CTRL.ENABLE c) == 1 && !s.ringFrozen c &&
    s.rd (RNG_SQ_HEAD.INDEX c) != s.rd (RNG_DOORBELL.TAIL c) &&
    (s.steps c).all (fun st => st.live) && !s.busyFor (Purpose.isDescriptor c)

/-- DESCRIPTOR_FETCH: read the next descriptor as two beats. -/
def descriptorFetch (c : Ctx) (s : State) : State :=
  if s.mayFetch c then
    s.hostRead (.descriptor c)
      (entryAddr (s.rd2 (RNG_SQ_BASE_LO.ADDR c) (RNG_SQ_BASE_HI.ADDR c) * 4096) (s.sqSize c) (s.rd (RNG_SQ_HEAD.INDEX c)) 128) 128
  else s

/-- DESCRIPTOR_FETCH. -/
def execDescriptorFetch (c : Ctx) (s : State) : Host.Outcome State Fault Refusal :=
  .next (if s.busUp 0xc then descriptorFetch c s else s)

/-- The step that a fetched descriptor becomes; bank and expert count are those active at the fetch (R75, R444). -/
def State.newStep (s : State) (c : Ctx) (desc : BitVec 1024) : Step :=
  { desc := desc, fetchE := (s.layer c (s.activeBank c) (bitsOf desc.toNat 64 10)).nexp, swapped := false,
    nanTokens := 0, unseeded := 0, renormSkip := 0, renormFirst := 0, rmsNf := 0, rmsFirst := 0, noRouter := false, gainUnit := none,
    recTick := none, index := BitVec.ofNat 32 (s.rd (RNG_SQ_HEAD.INDEX c)), state := .fetched, checked := false,
    finished := false, replays := 0, launched := false, firstLaunch := 0, launch := 0, bank := s.activeBank c, slot := 0,
    hostPlaced := [], shares := [], mapSkip := 0, beaconSent := false, errAborted := false, status := 0, detail := 0, complete := false, endTick := 0,
    dropped := 0, spilled := 0, echo := [], recOut := false, recErrs := 0 }

/-- The 128 bytes have arrived: the step is FETCHED and `RNG_SQ_HEAD` advances (R76). -/
def State.fetched (s : State) (c : Ctx) (bs : List Byte) : State :=
  let st := s.newStep c (BitVec.ofNat 1024 (ofBytes (slice bs 0 128)))
  (s.setSteps c (s.steps c ++ [st])).wr (RNG_SQ_HEAD.INDEX c) (s.rd (RNG_SQ_HEAD.INDEX c) + 1)

/-! ### The checks of R77 -/

/-- Every reserved bit of the descriptor is 0 (R74). -/
def Step.reservedClear (st : Step) : Bool :=
  st.bits 0 5 3 == 0 && st.bits 0 19 13 == 0 && st.bits 8 27 5 == 0 && st.bits 0x0C 22 10 == 0 && st.bits 0x10 22 10 == 0 &&
    st.bits 0x18 24 8 == 0 && st.bits 0x1C 24 8 == 0 && st.bits 0x40 19 13 == 0 && st.bits 0x44 16 16 == 0 &&
    st.bits 0x50 0 384 == 0

/-- No field holds a reserved encoding. -/
def Step.encodingsOk (st : Step) : Bool := st.inmode != 3 && st.gate != 3 && st.noise != 3 && st.renorm != 3

/-- What R75 requires to be 0 for every opcode is 0, and INMODE is allowed. -/
def Step.fieldsOk (st : Step) : Bool :=
  let noiseOk := st.noise == 2 || st.noiseAddr == 0
  match st.opcode with
  | 1 => st.fwdSeq == 0 && st.nvoc == 0 && st.temp == 0 && noiseOk && st.topk != 0
  | 2 =>
    st.inmode == 0 && st.gate == 0 && st.noise == 0 && st.topk == 0 && st.nshared == 0 && st.capf == 0 && st.renorm == 0 &&
      !st.rmsnorm && st.nvoc == 0 && st.temp == 0 && st.noiseAddr == 0
  | 3 =>
    st.inmode == 2 && st.gate == 0 && st.topk == 0 && st.nshared == 0 && st.capf == 0 && st.renorm == 0 && !st.payload &&
      !st.fast && !st.rmsnorm && st.layer == 0 && st.fwdSeq == 0 && st.outPitch == 0 && st.auxAddr == 0 && noiseOk
  | _ => false

/-- TEMP is positive and finite. -/
def Step.tempOk (st : Step) : Bool :=
  match ofBf st.temp with
  | .fin neg m _ => !neg && m != 0
  | _ => false

/-- Check 1. -/
def Step.wellFormed (st : Step) : Bool :=
  st.reservedClear && st.encodingsOk && st.fieldsOk && decide (st.nshared ≤ 4) && st.inPitch % 64 == 0 &&
    st.outPitch % 64 == 0 && (st.opcode != 3 || st.tempOk)

/-- Experts of the layer of a step, in a bank. -/
def State.stepE (s : State) (c : Ctx) (st : Step) (bank : Nat) : Nat := (s.layer c bank st.layer).nexp

/-- Row size of the input for an expert count (R75). -/
def State.inRowE (s : State) (c : Ctx) (st : Step) (e : Nat) : Nat :=
  match st.opcode, st.inmode with
  | 1, 0 => 2 * s.hid c
  | 1, 1 => s.hid c
  | 1, _ => 4 * e
  | 2, _ => 2 * s.hid c
  | _, _ => 4 * st.nvoc

/-- Row size of the input in a bank. -/
def State.inRow (s : State) (c : Ctx) (st : Step) (bank : Nat) : Nat := s.inRowE c st (s.stepE c st bank)

/-- Noise candidates of a token (R121). -/
def State.noiseC (s : State) (c : Ctx) (st : Step) (bank : Nat) : Nat :=
  if st.opcode = 3 then st.nvoc else s.stepE c st bank

/-- Check 11 (R77), with E of the fetch (R75, R444). -/
def State.pitchBad (s : State) (c : Ctx) (st : Step) : Bool :=
  decide (0 < st.ntok) && (decide (st.inPitch < s.inRowE c st st.fetchE) || (st.opcode != 3 && decide (st.outPitch < 2 * s.hid c)))

/-- An address is unusable: 0, not aligned to 64 bytes, or its region ends beyond 2^64 − 1. -/
def badAddr (a bytes : Nat) : Bool := a == 0 || a % 64 != 0 || decide (2 ^ 64 < a + bytes)

/-- Bytes of a pitched region. -/
def pitched (n pitch row : Nat) : Nat := (n - 1) * pitch + row

/-- k of the forward step that a BACKWARD step reverses, from its ledger header (R211). -/
def State.ledgerK (s : State) (c : Ctx) (st : Step) : Nat :=
  match s.act.core.ledger[c].find? fun e => e.seq == st.fwdSeq && e.valid && !e.tentative with
  | none => 0
  | some e => match e.shares with
    | [] => 0
    | (w, start, _) :: _ =>
      bitsOf (ofBytes (s.stackRead w (s.rd (CMB_CTX_LEDGER.BASE_MIB c) * 2 ^ 20 + start + 4) 4)) 10 6

/-- Check 13, with E of the fetch. -/
def State.addrBad (s : State) (c : Ctx) (st : Step) : Bool :=
  let n := st.ntok
  let noise := if st.opcode = 3 then st.nvoc else st.fetchE
  decide (0 < n) &&
    (badAddr st.inAddr (pitched n st.inPitch (s.inRowE c st st.fetchE)) ||
     badAddr st.outAddr (if st.opcode = 3 then 4 * n else pitched n st.outPitch (2 * s.hid c)) ||
     (st.opcode == 2 && badAddr st.auxAddr (n * 8 * (s.ledgerK c st + 1))) ||
     (st.opcode == 1 && st.auxAddr != 0 && badAddr st.auxAddr (n * 8 * (st.topk + st.nshared))) ||
     (st.noise == 2 && badAddr st.noiseAddr (n * 4 * noise)))

/-- MiB that the echo region of a context needs (R248). -/
def State.echoNeed (s : State) (c : Ctx) : Nat := (8192 + 32768 * s.rd (CTX_PLAN1.LAYERS c) + 2 ^ 20 - 1) / 2 ^ 20

/-- The valid ledger entry of a forward step. -/
def State.validLedger (s : State) (c : Ctx) (seq : Word) : Option LedgerEntry :=
  s.act.core.ledger[c].find? fun e => e.seq == seq && e.valid && !e.tentative

/-- The first failing check of R77, as (DETAIL, STATUS). -/
def State.checkStep (s : State) (c : Ctx) (st : Step) : Option (Nat × Nat) :=
  let led := s.validLedger c st.fwdSeq
  if !st.wellFormed then some (0x01, 2)
  else if s.rd (CTX_STATUS.TPL_V c) = 0 then some (0x11, 3)
  else if st.seq.toNat ≠ s.rd (RNG_NEXT_SEQ.SEQ c) then some (0x12, 3)
  else if st.opcode = 2 ∧ led.isNone then some (0x13, 3)
  else if st.opcode = 2 ∧ (led.any fun e => e.layer != st.layer || e.ntok != st.ntok || e.tokBase != st.tokBase) then
    some (0x14, 3)
  else if (s.rd SVC_DRAIN.CTX).testBit c then some (0x15, 3)
  else if s.members c &&& s.absent ≠ 0 then some (0x20, 7)
  else if s.rd (CTX_PLAN0.MAX_TOK c) < st.ntok ∨ 524288 < st.ntok ∨ 2097152 < st.tokBase + st.ntok then some (0x02, 2)
  else if s.rd (CTX_PLAN0.MAX_K c) < st.topk ∨ s.rd (CTX_PLAN0.MAX_SHARED c) < st.nshared then some (0x03, 2)
  else if s.rd (CTX_PLAN1.LAYERS c) ≤ st.layer then some (0x04, 2)
  else if s.pitchBad c st then some (0x05, 2)
  else if st.opcode = 3 ∧ (st.nvoc = 0 ∨ s.rd (CTX_PLAN1.MAX_VOCAB c) < st.nvoc) then some (0x06, 2)
  else if s.addrBad c st then some (0x07, 2)
  else if st.opcode = 1 ∧ (s.serviceWells.any fun w => decide (s.rd (WEL_CTX_ECHO.SIZE_MIB w.val c.val) < s.echoNeed c)) then
    some (0x16, 3)
  else none

/-- The step of a context that is FETCHED and not yet checked. -/
def State.unchecked (s : State) (c : Ctx) : Option Step :=
  (s.steps c).find? fun st => st.state == .fetched && !st.checked

/-- The fetched descriptor is checked: it becomes READY, or waits to be rejected (R77, R78). While another step of the context is
READY it stays FETCHED (R48), and a later check decides. -/
def descriptorCheck (c : Ctx) (s : State) : State :=
  match s.unchecked c with
  | none => s
  | some st =>
    match s.checkStep c st with
    | some (detail, status) =>
      s.modStep c (fun x => x.state == .fetched && !x.checked) fun x =>
        { x with checked := true, status := status, detail := detail }
    | none =>
      if (s.steps c).any fun x => x.state == .ready then s
      else
        let bank := st.bank
        let host := if st.opcode = 1 then s.placeHost c bank st.layer false else []
        let s0 : State := if st.opcode = 1 then s.echoReads c bank st.layer else s
        let p : State × Nat := if st.opcode = 1 then s0.writePlacement c st.seq (s.layer c bank st.layer) host else (s0, 0)
        let s1 : State := p.1.wr (RNG_NEXT_SEQ.SEQ c) (s.rd (RNG_NEXT_SEQ.SEQ c) + 1)
        let s2 : State := s1.modStep c (fun x => x.state == .fetched && !x.checked) fun x =>
          { x with checked := true, state := .ready, slot := p.2, hostPlaced := host, shares := (List.range 24).map (s1.share c) }
        s2.hold (.readyReport c st.seq false) fun s => s.readyReport c st.seq 0

/-- DESCRIPTOR_CHECK. -/
def execDescriptorCheck (c : Ctx) (s : State) : Host.Outcome State Fault Refusal :=
  .next (if s.busUp 0xc then descriptorCheck c s else s)

/-! ### Completion records -/

/-- The 32 bytes of R82. A step retires when its record is written (R48, R81), at the tick at which the record was formed. -/
def completionBytes (c : Ctx) (log2 : Nat) (st : Step) : List Byte :=
  let phase := 1 - (st.index.toNat >>> log2) % 2
  let w0 := st.status + bitNat st.complete * 2 ^ 8 + phase * 2 ^ 9 + c.val * 2 ^ 10 + (st.replays % 8) * 2 ^ 14 +
    (st.detail % 256) * 2 ^ 24
  let retired := st.recTick.getD st.endTick
  let tick := if st.complete then st.endTick else retired
  let ivals := if st.launched then min 0xFFFF (retired - st.firstLaunch) else 0
  toBytes 4 w0 ++ toBytes 4 st.seq.toNat ++ toBytes 4 st.dropped ++ toBytes 4 st.spilled ++ toBytes 6 tick ++
    toBytes 2 ivals ++ toBytes 8 st.user

/-- Events that name a step wait, or one is being written (R91). -/
def State.eventsPending (s : State) (c : Ctx) (seq : Word) : Bool :=
  let hit (e : Event) : Bool := e.ctx == some c && e.seq == seq
  s.evq.waiting.any hit || (match s.evq.inflight with | some (e, _) => hit e | none => false)

/-- Room in the completion ring for an index (R86). -/
def State.cqRoom (s : State) (c : Ctx) (i : Word) : Bool :=
  decide (dist32 i.toNat (s.rd (RNG_CQ_HEAD.INDEX c)) < s.cqSize c)

/-- The echo row of a committed forward step (R156, R248): written to every in-service Well. -/
def State.writeEcho (s : State) (c : Ctx) (layer : Nat) (counts : List (Nat × Nat)) : State :=
  s.serviceWells.foldl (fun (s : State) (w : WellNo) =>
    let a := s.echoBase w c + 8192 + 32768 * layer
    let s0 : State := (s.stackZero w a 32768).accDram w c a 0 32768
    counts.foldl (fun (s : State) (x : Nat × Nat) => s.stackWrite w (a + 2 * x.1) (toBytes 2 (min 0xFFFF x.2))) s0) s

/-- Write the record of a step at its completion index, when the ring has room and R91 allows it; without room the step is
held (R86). -/
def State.recordStep (s : State) (c : Ctx) (st : Step) : State :=
  if st.recOut ∨ s.ringFrozen c ∨ !(s.writesDone c st.seq) ∨ s.eventsPending c st.seq then s
  else if !(s.cqRoom c st.index) then s.wrIf (RNG_CTX_STATUS.CQ_FULL c) 1
  else
    let st1 : Step := { st with recOut := true, recTick := some (st.recTick.getD s.tickNow) }
    let s0 : State := if st.state = .committed ∧ st.opcode = 1 then s.writeEcho c st.layer st.echo else s
    let s1 : State := (s0.wrIf (RNG_CTX_STATUS.CQ_FULL c) 0).setSteps c
      ((s0.steps c).map fun x => if x.index = st.index then st1 else x)
    s1.hostWrite (.completion c st.index)
      (entryAddr (s.rd2 (RNG_CQ_BASE_LO.ADDR c) (RNG_CQ_BASE_HI.ADDR c) * 4096) (s.cqSize c) st.index.toNat 32)
      (completionBytes c (s.rd (RNG_CTX_CTRL.CQ_LOG2 c)) st1)

/-- The record of a rejected descriptor, once every earlier step has retired (R81). -/
def rejectRetire (c : Ctx) (s : State) : State :=
  match s.steps c with
  | st :: _ => if st.state = .fetched ∧ st.checked then s.recordStep c st else s
  | [] => s

/-- REJECT_RETIRE. -/
def execRejectRetire (c : Ctx) (s : State) : Host.Outcome State Fault Refusal :=
  .next (if s.busUp 0xc then rejectRetire c s else s)

/-- The record of a COMMITTED or retiring step (R86). -/
def completionRecordWrite (c : Ctx) (s : State) : State :=
  match (s.steps c).find? fun st => st.state == .committed || st.state == .retiring with
  | some st => s.recordStep c st
  | none => s

/-- COMPLETION_RECORD_WRITE. -/
def execCompletionRecordWrite (c : Ctx) (s : State) : Host.Outcome State Fault Refusal :=
  .next (if s.busUp 0xc then completionRecordWrite c s else s)

/-- The master transaction that a purpose has out. -/
def State.txnOf (s : State) (hit : Purpose → Bool) : Option HostTxn :=
  s.host.txns.find? fun t => !t.orphan && hit t.req.why

/-- A transaction is over: its tag is free, and waiting requests may issue. -/
def State.endTxn (s : State) (t : HostTxn) : State :=
  ({ s with host := { s.host with txns := s.host.txns.erase t } } : State).issueAll

/-- Event 0x0101 of R338: a master transfer answered with an error. -/
def State.hostError (s : State) (t : HostTxn) (err : Nat) (c : Option Ctx) (seq : Word := 0) : State :=
  s.raise 0x0101 2 [s.sliceOf t.req.addr, bitNat t.req.write, err] c seq t.req.addr

/-- A fenced engine leaves its fence: its bit clears, event 0x0D06 is written and IRQ_RAS signalled (R386). `part` is 0 to 23 for a
Well, else the Hub. -/
def State.unfence (s : State) (part engine : Nat) : State :=
  let s1 : State :=
    if h : part < 24 then
      (s.modWell ⟨part, h⟩ fun k => { k with fenceWhy := k.fenceWhy.filter fun x => x.1 != engine }).wr (WEL_FENCE.FENCED part)
        (s.rd (WEL_FENCE.FENCED part) &&& (0xFFFF ^^^ 2 ^ engine))
    else
      ({ s with work := { s.work with fenceWhy := s.work.fenceWhy.filter fun x => x.1 != engine } } : State).wr RAS_FENCE_HUB.FENCED
        (s.rd RAS_FENCE_HUB.FENCED &&& (0xF ^^^ 2 ^ engine))
  (s1.raiseFrom part engine 0x0D06 0 [part, engine]).rasIrq RAS_IRQ_STATUS.FENCE

/-- One engine fenced for MEMORY, tested at the retirement of a step: the result of the test is open, a free choice. -/
def State.fenceTest (part : Nat) (c : Ctx) (seq : Word) (s : State) (f : Nat × Bool × Option (Ctx × Word)) : State :=
  if f.2.1 = false ∧ f.2.2 = some (c, seq) then
    let s1 : State := { s with free := s.free + 1 }
    if Config.freeNat s.free % 2 = 1 then s1.unfence part f.1 else s1
  else s

/-- Engines fenced for MEMORY are tested when the step that met the word retires; the fence is left when the test passes
and `RAS_CFG.AUTO_REL` is 1 (R386). -/
def State.fenceRetire (s : State) (c : Ctx) (seq : Word) : State :=
  if s.rd RAS_CFG.AUTO_REL = 0 then s
  else
    let s1 : State := s.work.fenceWhy.foldl (State.fenceTest s.hubPart c seq) s
    (List.finRange 24).foldl (fun (s : State) (w : WellNo) => s.wells[w].fenceWhy.foldl (State.fenceTest w.val c seq) s) s1

/-- A record has been written: the step is RETIRED, and the context's interrupt may be signalled (R48, R87, R91). -/
def State.retired (s : State) (c : Ctx) (st : Step) : State :=
  let s1 : State := s.setSteps c ((s.steps c).filter fun x => x.index != st.index)
  let s2 : State := (s1.wr (RNG_CQ_TAIL.INDEX c) (s1.rd (RNG_CQ_TAIL.INDEX c) + 1)).bump (CTX_ACC_STEPS.COUNT c)
  let s3 : State := (s2.fenceRetire c st.seq).heldRelease c
  if s3.rd (RNG_CTX_CTRL.IRQ_EN c) = 1 ∧ (st.bits 0 4 1 = 1 ∨ (st.status ≠ 0 ∧ st.status ≠ 5)) then s3.emit (.irqCq c) else s3

/-- The completion record write of a context. -/
def Purpose.isCompletion (c : Ctx) : Purpose → Bool
  | .completion c' _ => c' == c
  | _ => false

/-- The response to a completion record write (R91). After an error the write is issued once more; a second error freezes
the context's ring (R338). -/
def completionWriteResponse (c : Ctx) (err : Nat) (s : State) : State :=
  match s.txnOf (Purpose.isCompletion c) with
  | none => s
  | some t =>
    let s0 : State := s.endTxn t
    match (s0.steps c).find? fun st => st.recOut with
    | none => s0
    | some st =>
      if err = 0 then s0.retired c st
      else
        let s1 : State := s0.hostError t err c st.seq
        if st.recErrs = 0 then
          (s1.setSteps c ((s1.steps c).map fun x => if x.index = st.index then { x with recErrs := 1 } else x)).issueOne t.req
        else
          (s1.setSteps c ((s1.steps c).map fun x =>
            if x.index = st.index then { x with recOut := false, recErrs := 0 } else x)).freezeRing c (RNG_CQ_TAIL.reg c)

/-- COMPLETION_WRITE_RESPONSE. -/
def execCompletionWriteResponse (c : Ctx) (err : Nat) (s : State) : Host.Outcome State Fault Refusal :=
  .next (if s.hubUp then completionWriteResponse c err s else s)

/-! ### Event records -/

/-- The 64 bytes of R88 at an event index. -/
def eventBytes (e : Event) (i log2 lost : Nat) : List Byte :=
  let phase := 1 - (i >>> log2) % 2
  let w0 := e.code % 2 ^ 16 + phase * 2 ^ 16 + (e.sev % 4) * 2 ^ 17 +
    (match e.ctx with | some c => c.val * 2 ^ 19 + 2 ^ 23 | none => 0)
  toBytes 4 w0 ++ toBytes 4 e.seq.toNat ++ toBytes 6 e.tick ++ toBytes 2 e.source ++ toBytes 8 e.addr ++
    toBytes 4 (min 0xFFFFFFFF lost) ++ ((List.range 9).map fun i => toBytes 4 (e.data.getD i 0)).flatten

/-- The record at the head of the order is written, or lost when the ring is off or full (R90). -/
def eventRecordWrite (s : State) : State :=
  match s.evq.inflight, s.evq.waiting with
  | none, e :: rest =>
    let i := s.rd RNG_EQ_TAIL.INDEX
    if s.rd RNG_EQ_CTRL.ENABLE = 1 ∧ dist32 i (s.rd RNG_EQ_HEAD.INDEX) < s.eqSize then
      ({ s with evq := { waiting := rest, inflight := some (e, 0), lost := 0 } } : State).hostWrite .event
        (entryAddr (s.rd2 RNG_EQ_BASE_LO.ADDR RNG_EQ_BASE_HI.ADDR * 4096) s.eqSize i 64)
        (eventBytes e i (s.rd RNG_EQ_CTRL.LOG2) s.evq.lost)
    else
      let s1 : State := { s with evq := { s.evq with waiting := rest, lost := s.evq.lost + 1 } }
      s1.bump RNG_EQ_LOST.COUNT
  | _, _ => s

/-- EVENT_RECORD_WRITE. -/
def execEventRecordWrite (s : State) : Host.Outcome State Fault Refusal :=
  .next (if s.busUp 0xc then eventRecordWrite s else s)

/-- An event record write. -/
def Purpose.isEvent : Purpose → Bool
  | .event => true
  | _ => false

/-- LOST of a record as it was written, from its bytes. -/
def lostOf (data : List Byte) : Nat := ofBytes (slice data 0x18 4)

/-- The response to an event record write (R90, R91). After an error the write is issued once more; after a second one the
record is lost (R338). -/
def eventWriteResponse (err : Nat) (s : State) : State :=
  match s.txnOf Purpose.isEvent, s.evq.inflight with
  | some t, some (e, n) =>
    let s0 : State := s.endTxn t
    if err = 0 then
      let s1 : State := ({ s0 with evq := { s0.evq with inflight := none } } : State).wr RNG_EQ_TAIL.INDEX
        (s0.rd RNG_EQ_TAIL.INDEX + 1)
      if s1.rd RNG_EQ_CTRL.IRQ_EN = 1 ∧ s1.rd RNG_EQ_CTRL.IRQ_LEVEL ≤ e.sev then s1.emit .irqEvt else s1
    else
      let s1 : State := s0.hostError t err none
      if n = 0 then ({ s1 with evq := { s1.evq with inflight := some (e, 1) } } : State).issueOne t.req
      else
        ({ s1 with evq := { s1.evq with inflight := none, lost := s1.evq.lost + lostOf t.req.data + 1 } } : State).bump
          RNG_EQ_LOST.COUNT
  | _, _ => s

/-- EVENT_WRITE_RESPONSE. -/
def execEventWriteResponse (err : Nat) (s : State) : Host.Outcome State Fault Refusal :=
  .next (if s.hubUp then eventWriteResponse err s else s)

end Sys2Proof.Machine
end

