-- ==== Sys2Proof/Machine/Rotate.lean ====
section
/-!
DEFINITION. The weighted rotation among contexts (R282), the order key of tiles (R290), and the switch time (R286).
-/

namespace Sys2Proof.Machine

open Sys2Proof

/-- A deficit saturates at ±(2^31 − 1) (R282). -/
def clampDef (d : Int) : Int := max (-(2 ^ 31 - 1)) (min (2 ^ 31 - 1) d)

/-- Visits until a deficit is positive, when each visit adds `q`. -/
def visitsNeeded (d : Int) (q : Nat) : Nat := if 0 < d then 1 else (-d).toNat / max 1 q + 1

/-- The contexts in the order of visits: ascending from the one after the active context, modulo 16. -/
def visitOrder (from_ : Option Ctx) : List Ctx :=
  let a := match from_ with | some c => c.val + 1 | none => 0
  (List.range 16).map fun i => ⟨(a + i) % 16, Nat.mod_lt _ (by decide)⟩

/-- The visits of point 3 of R282: the context that becomes active and the deficits after the visits. -/
def rotate (d : Vector Int 16) (waits : Ctx → Bool) (from_ : Option Ctx) (q : Ctx → Nat) : Option (Ctx × Vector Int 16) :=
  let l := (visitOrder from_).filter waits
  match l with
  | [] => none
  | x :: xs =>
    let need (c : Ctx) : Nat := visitsNeeded d[c] (q c)
    let w := xs.foldl (fun (b : Ctx) (c : Ctx) => if need c < need b then c else b) x
    let n := need w
    let upto := l.takeWhile fun c => c != w
    some (w, l.foldl (fun (v : Vector Int 16) (c : Ctx) =>
      let k := if upto.contains c || c == w then n else n - 1
      v.set c (clampDef (v[c] + (k * q c : Nat)))) d)

/-- Points 2 and 3 of R282 at a tile boundary: the active context stays while it waits and has a positive deficit, or
while no other context waits. -/
def chooseCtx (d : Vector Int 16) (waits : Ctx → Bool) (active : Option Ctx) (q : Ctx → Nat) : Option (Ctx × Vector Int 16) :=
  match active with
  | some a =>
    if waits a && (decide (0 < d[a]) || (visitOrder (some a)).all fun c => c == a || !waits c) then some (a, d)
    else rotate d waits active q
  | none => rotate d waits none q

/-- Point 4 of R282: a context that does not wait keeps no positive deficit. -/
def dropIdle (d : Vector Int 16) (waits : Ctx → Bool) : Vector Int 16 :=
  Vector.ofFn fun c => if waits c then d[c] else min 0 d[c]

/-- Cycles charged to a context's deficit. -/
def chargeDef (d : Vector Int 16) (c : Ctx) (n : Nat) : Vector Int 16 := d.set c (clampDef (d[c] - (n : Int)))

/-- The switch time of R286. -/
def switchTime (n b : Nat) : Nat := 48 + 12 * n + (b + 1023) / 1024

/-! ### Order keys -/

/-- Distance of (x, y) along the Hilbert curve of an order that starts at (0, 0), moves first along x and ends at
(2^order − 1, 0). -/
def hilbert : Nat → Nat → Nat → Nat
  | 0, _, _ => 0
  | n + 1, x, y =>
    let h := 2 ^ n
    let q := 4 ^ n
    let hx := x / h % 2
    let hy := y / h % 2
    let lx := x % h
    let ly := y % h
    -- the first quadrant is traversed transposed, the last one transposed and mirrored
    if hx = 0 ∧ hy = 0 then hilbert n ly lx
    else if hx = 0 then q + hilbert n lx ly
    else if hy = 1 then 2 * q + hilbert n lx ly
    else 3 * q + hilbert n (h - 1 - ly) (h - 1 - lx)

/-- The index of (a, b) with widths (wa, wb) in a mode of R290. -/
def orderIndex (mode a b wa wb : Nat) : Nat :=
  match mode with
  | 0 => a * 2 ^ wb + b
  | 1 => b * 2 ^ wa + a
  | 2 => hilbert (max wa wb) a b
  | _ => 0

/-- The order key of a tile: its token block and its expert. -/
def orderKey (outMode inMode ot oe tok expert : Nat) : Nat :=
  let t := tok / 128 % 2 ^ 15
  let x := expert % 2 ^ 14
  orderIndex outMode (t / 2 ^ ot) (x / 2 ^ oe) (15 - ot) (14 - oe) * 2 ^ 30 +
    orderIndex inMode (t % 2 ^ ot) (x % 2 ^ oe) ot oe

end Sys2Proof.Machine
end

