-- ==== Sys2Proof/Machine/Select.lean ====
section
/-!
DEFINITION. Gate and Select as functions of a token's logits, biases and noise (R111-R116, R122), and renormalisation (R159).
-/

namespace Sys2Proof.Machine

open Sys2Proof

/-- Insert a candidate behind every candidate that it does not come strictly before (R114). -/
def insertKey (x : Nat × Word) : List (Nat × Word) → List (Nat × Word)
  | [] => [x]
  | y :: ys => if keyBefore x.2 y.2 then x :: y :: ys else y :: insertKey x ys

/-- The first `k` candidates in the order of R114, of a list in ascending index. -/
def topKeys (k : Nat) (l : List (Nat × Word)) : List (Nat × Word) :=
  l.foldl (fun best x => (insertKey x best).take k) []

/-- The largest of a list of values under R114; +0.0 of an empty list. -/
def largest (l : List Word) : Word :=
  match l with
  | [] => 0
  | x :: xs => xs.foldl (fun (m : Word) (w : Word) => if keyBefore w m then w else m) x

/-- The exponentials of a softmax, the largest value subtracted, their sum in list order, the reciprocal of the sum, and how
many of these saturated (R112, R137). -/
def softmax (zs : List Word) : List Word × Word × Word × Word × Nat :=
  let m := largest zs
  let es := zs.map fun z => expF (sub32 z m)
  let sum := sumFrom0 (es.map (·.1))
  let r := rcp sum
  (es.map fun e => mul32 e.1 r.1, m, sum, r.1, (es.filter (·.2)).length + bitNat r.2)

/-- What Gate forms before selection: gate scores, GMAX, GSUM, saturations. -/
def gateScores (gate : Nat) (zs : List Word) : List Word × Word × Word × Nat :=
  match gate with
  | 0 =>
    let s := softmax zs
    (s.1, s.2.1, s.2.2.1, s.2.2.2.2)
  | 1 => (zs, 0, 0, 0)
  | _ =>
    let ps := zs.map sigmoid
    (ps.map (·.1), 0, 0, (ps.filter (·.2)).length)

/-- Keys: (p + b) + n, from left to right (R112). -/
def selKeys (ps bias noise : List Word) : List Word :=
  ((ps.zip bias).zip noise).map fun x => add32 (add32 x.1.1 x.1.2) x.2

/-- The score of a group (R115). -/
def groupScore (two : Bool) (ks : List Word) : Word :=
  match topKeys 2 ((List.range ks.length).zip ks) with
  | [] => 0
  | [a] => a.2
  | a :: b :: _ => if two then add32 a.2 b.2 else a.2

/-- The indices of the experts that may be selected (R115). -/
def eligible (l : LayerE) (ks : List Word) : List (Nat × Word) :=
  let all := (List.range ks.length).zip ks
  if l.groups = 1 then all
  else
    let n := ks.length / l.groups
    let gs := (List.range l.groups).map fun g => (g, groupScore l.gscore ((ks.drop (g * n)).take n))
    let kept := (topKeys l.topg gs).map (·.1)
    all.filter fun x => kept.contains (x.1 / max 1 n)

/-- Routed weights in rank order from the selected gate scores (R111, R112), with saturations. -/
def routedWeights (gate : Nat) (l : LayerE) (ps : List Word) : List Word × Nat :=
  match gate, l.normSel with
  | 1, _ =>
    let s := softmax ps
    (s.1.map fun q => mul32 q l.scale, s.2.2.2.2)
  | _, true =>
    let r := rcp (sumFrom0 ps)
    (ps.map fun p => mul32 (mul32 p r.1) l.scale, bitNat r.2)
  | _, false => (ps.map fun p => mul32 p l.scale, 0)

/-- What Select makes of a token. -/
structure Selection where
  copies : List Copy
  gmax : Word
  gsum : Word
  nan : Bool
  sat : Nat
  deriving DecidableEq, Repr

/-- Select for a FORWARD token (R111-R116). `noise` is n of R111, already multiplied by TAU. -/
def selectToken (l : LayerE) (gate k nshared : Nat) (zs bias noise : List Word) : Selection :=
  let g := gateScores gate zs
  let ks := selKeys g.1 bias noise
  let sel := topKeys k (eligible l ks)
  let ps := sel.map fun x => g.1.getD x.1 0
  let w := routedWeights gate l ps
  let routed : List Copy := (((List.range k).zip sel).zip (ps.zip w.1)).map fun x =>
    { expert := x.1.2.1, shared := false, rank := x.1.1, weight := x.2.2, gscore := x.2.1, fate := .undecided, dest := 0,
      bucket := 0 }
  let shared : List Copy := (List.range nshared).map fun j =>
    { expert := l.shId.getD j 0, shared := true, rank := k + j, weight := l.shW.getD j 0, gscore := 0, fate := .undecided,
      dest := 0, bucket := 0 }
  { copies := routed ++ shared, gmax := if gate = 0 then g.2.1 else 0, gsum := if gate = 0 then g.2.2.1 else 0
    nan := zs.any isNan32 || g.1.any isNan32 || ks.any isNan32, sat := g.2.2.2 + w.2 }

/-- The index a SAMPLE token selects (R122), whether a logit or key is NaN, and saturations. -/
def sampleToken (noisy : Bool) (temp : Nat) (zs gs : List Word) : Nat × Bool × Nat :=
  let r := rcp (bfTo32 temp)
  let ks := if noisy then (zs.zip gs).map fun x => add32 (mul32 x.1 r.1) x.2 else zs
  let best := topKeys 1 ((List.range ks.length).zip ks)
  ((best.headD (0, 0)).1, zs.any isNan32 || ks.any isNan32, if noisy then bitNat r.2 else 0)

/-- R159, R160: the copies of a token after renormalisation, the factor f for the ledger, whether the token is counted as
skipped, and saturations. -/
def renormalise (mode : Nat) (scale : Word) (cs : List Copy) : List Copy × Word × Bool × Nat :=
  let routed := cs.filter fun x => !x.shared
  let kept := routed.filter fun x => x.fate != .dropped
  if mode = 0 ∨ kept.length = routed.length ∨ kept = [] then (cs, one32, false, 0)
  else
    let sk := sumFrom0 (kept.map (·.weight))
    if isZero32 sk || !isFin32 sk then (cs, one32, true, 0)
    else
      let r := rcp sk
      let f := if mode = 1 then mul32 (sumFrom0 (routed.map (·.weight))) r.1 else mul32 scale r.1
      (cs.map fun x => if x.shared || x.fate == .dropped then x else { x with weight := mul32 x.weight f }, f, false, bitNat r.2)

end Sys2Proof.Machine
end

