-- ==== Sys2Proof/Machine/Uncor.lean ====
section
/-!
DEFINITION. Reporting uncorrectable words (R382, R387, R408), the reads of a stack that meet one (R390), and entries of the
ledger index and the activation log that become invalid.
-/

namespace Sys2Proof.Machine

open Sys2Proof

/-- Count an uncorrectable word and record its address; IRQ_RAS is signalled (R382, R387, R408). -/
def State.uncor (s : State) (part mem addr : Nat) (mis : Bool) : State :=
  let s1 : State := s.bump RAS_UNC_CNT.COUNT
  let s2 : State := if mis then s1.bump RAS_ADDRMIS_CNT.COUNT else s1
  let s3 : State := (((s2.wr RAS_UE_ADDR_LO.ADDR (addr % 2 ^ 32)).wr RAS_UE_ADDR_HI.ADDR (addr / 2 ^ 32)).wr
    RAS_UE_ADDR_HI.PART part).wr RAS_UE_ADDR_HI.MEM mem
  s3.rasIrq RAS_IRQ_STATUS.UE

/-- Event 0x0D02. -/
def State.uncorEvent (s : State) (mem addr : Nat) (mis fixed : Bool) (c : Option Ctx) (seq : Word) : State :=
  s.raise 0x0D02 2 [mem, bitNat mis, bitNat fixed] c seq addr

/-- The live step of a context read an uncorrectable word: it is aborted with cause UNCORRECTABLE (R387). -/
def State.uncorLive (s : State) (part mem addr : Nat) (mis : Bool) (c : Ctx) : State :=
  match s.liveStep c with
  | some st => ((s.uncor part mem addr mis).uncorEvent mem addr mis false (some c) st.seq).noticeLive c 1 0
  | none => (s.uncor part mem addr mis).uncorEvent mem addr mis false (some c) 0

/-- The first uncorrectable word of a stack within a range of bytes. -/
def State.badIn (s : State) (w : WellNo) (a n : Nat) : Option Nat :=
  (s.badWords w a n).head?

/-- The word at an address is one written for another address (R381). -/
def State.misread (s : State) (w : WellNo) (a : Nat) : Bool := readWord (s.stackWord w a) (a / 8) == .mismatch

/-! ### Entries that become invalid -/

/-- Mark the ledger entries of a context that meet a condition as invalid. -/
def State.voidLedger (s : State) (c : Ctx) (p : LedgerEntry → Bool) : State :=
  let l := s.act.core.ledger[c]
  if l.any fun e => e.valid && p e then
    s.setCore { s.act.core with ledger := s.act.core.ledger.set c (l.map fun e => if p e then { e with valid := false } else e) }
  else s

/-- Change a Well's activation log of a context. -/
def State.modLog (s : State) (w : WellNo) (c : Ctx) (f : List LogEntry → List LogEntry) : State :=
  { s with wells := s.wells.set w { s.wells[w] with actlog := s.wells[w].actlog.set c (f s.wells[w].actlog[c]) } }

/-- First byte of a context's activation log in a Well's stack. -/
def State.logBase (s : State) (w : WellNo) (c : Ctx) : Nat := s.rd (WEL_CTX_ACTLOG.BASE_MIB w.val c.val) * 2 ^ 20

/-- An uncorrectable word at a stack address makes the ledger or activation-log entry that holds it invalid; the ledger
entry of a step is invalid too when one of its activation-log entries is (R233, R390). -/
def State.voidAt (s : State) (w : WellNo) (a : Nat) : State :=
  (List.finRange 16).foldl (fun (s : State) (c : Ctx) =>
    let lb := s.rd (CMB_CTX_LEDGER.BASE_MIB c) * 2 ^ 20
    let ab := s.logBase w c
    let inShare (e : LedgerEntry) : Bool := e.shares.any fun x => x.1 == w && decide (lb + x.2.1 ≤ a ∧ a < lb + x.2.1 + x.2.2)
    let inLog (e : LogEntry) : Bool := e.valid && decide (ab + e.start ≤ a ∧ a < ab + e.start + e.bytes)
    let gone := (s.wells[w].actlog[c].filter inLog).map (·.seq)
    let s1 : State := s.voidLedger c fun e => inShare e || gone.contains e.seq
    if gone = [] then s1 else s1.modLog w c fun l => l.map fun e => if inLog e then { e with valid := false } else e) s

/-- A read of a range of a stack for a context; corrected words are counted (R382). When it meets an uncorrectable word the step is aborted, and an entry that
holds the word becomes invalid. The Bool says that the range is good. -/
def State.touch (s : State) (w : WellNo) (a n : Nat) (c : Ctx) : State × Bool :=
  let s1 : State := s.countFixed w a n
  match s.badIn w a n with
  | none => (s1, true)
  | some x => ((s1.uncorLive w.val 0 x (s.misread w x) c).voidAt w x, false)

/-! ### Words of router and table SRAM (R391) -/

/-- The uncorrectable words of a range of a Hub's router SRAM (space 1) or table SRAM, by byte address. -/
def HubCore.sramBad (h : HubCore) (space a n : Nat) : List Nat :=
  if space = 1 then wordsThat Verdict.bad h.router zeroByte h.routerFlips a n
  else wordsThat Verdict.bad h.table tblDefault h.tableFlips a n

/-- Words of a range that a read corrects. -/
def HubCore.sramFixed (h : HubCore) (space a n : Nat) : List Nat :=
  if space = 1 then wordsThat Verdict.fixed h.router zeroByte h.routerFlips a n
  else wordsThat Verdict.fixed h.table tblDefault h.tableFlips a n

/-- The stored word at a byte address of router or table SRAM. -/
def HubCore.sramWord (h : HubCore) (space a : Nat) : BitVec 80 :=
  if space = 1 then storedWord h.router zeroByte h.routerFlips a else storedWord h.table tblDefault h.tableFlips a

/-- A word of router or table SRAM stands as given. -/
def HubCore.putWord (h : HubCore) (space a : Nat) (w : BitVec 80) : HubCore :=
  if space = 1 then { h with routerFlips := Flips.put h.routerFlips h.router zeroByte a w }
  else { h with tableFlips := Flips.put h.tableFlips h.table tblDefault a w }

/-- The Hub macro of a side. -/
def State.hub (s : State) (side : Side) : HubCore := if side = s.act.side then s.act else s.mir

/-- Change the Hub of a side. -/
def State.modHub (s : State) (side : Side) (f : HubCore → HubCore) : State :=
  if s.act.side = side then { s with act := f s.act } else { s with mir := f s.mir }

/-- The other Hub. -/
def otherSide : Side → Side
  | .a => .b
  | .b => .a

/-- Ask the other Hub for a 64-byte line (R391, R400), unless it has been asked for. -/
def State.askLine (s : State) (side : Side) (space line : Nat) : State :=
  if s.mch.fetch.contains (side, space, line) then s
  else ({ s with mch := { s.mch with fetch := s.mch.fetch ++ [(side, space, line)] } } : State).emit
    (.mirPacket 0x24 64 (line + space * 2 ^ 56) [])

/-- The line of a bad word can be repaired: the mirror is IN_SYNC and the other Hub's copy is good (R391). -/
def State.lineCopy (s : State) (side : Side) (space addr : Nat) : Bool :=
  s.mch.mstate == .inSync && (s.hub (otherSide side)).sramBad space (addr / 64 * 64) 64 == []

/-- A bad word of a Hub's table or router SRAM: while the mirror is IN_SYNC its line is fetched from the other Hub (R391). -/
def State.lineBad (s : State) (side : Side) (space addr : Nat) : State :=
  if s.mch.mstate = .inSync then s.askLine side space (addr / 64 * 64) else s

/-- MEM of router (space 1) or table SRAM (R408). -/
def spaceMem (space : Nat) : Nat := if space = 1 then 4 else 3

/-- A read of router or table SRAM for a context: corrected words are counted (R382); an uncorrectable one aborts the step, and its line is
repaired from the mirror where that can be (R391). -/
def State.touchSram (s : State) (space a n : Nat) (c : Ctx) : State × Bool :=
  let s1 : State := (s.act.sramFixed space a n).foldl (fun (s : State) (_ : Nat) => s.correctedWord s.hubPart) s
  match s.act.sramBad space a n with
  | [] => (s1, true)
  | x :: _ =>
    let mis := readWord (s.act.sramWord space x) (x / 8) == .mismatch
    let fixed := s.lineCopy s.act.side space x
    let s2 : State := (s1.uncor s.hubPart (spaceMem space) x mis).uncorEvent (spaceMem space) x mis fixed (some c)
      ((s.liveStep c).map Step.seq |>.getD 0)
    let s3 : State := if (s.liveStep c).isSome then s2.noticeLive c 1 0 else s2
    (s3.lineBad s.act.side space x, false)

/-! ### Words as their readers get them (R381, R387) -/

/-- The Hub whose part code it is. -/
def partSide (part : Nat) : Side := if part = 25 then .b else .a

/-- MEM of `RAS_UE_ADDR_HI` (R408). -/
def memCode : MemOf → Nat
  | .stack => 0
  | .engine _ => 1
  | .queues | .receive _ | .park | .buffer => 2
  | .table => 3
  | .router => 4
  | .cistern | .meadow => 5
  | .core => 6

/-- The address whose parity a word carries (R380): of a stack, of table and of router SRAM the byte address shifted right by 3, else the
word's index. -/
def wordIndex (u : WordRead) : Nat :=
  match u.mem with
  | .stack | .table | .router => u.addr / 8
  | _ => u.addr

/-- What its reader finds of a word (R381). -/
def wordVerdict (u : WordRead) : Verdict := readWord u.word (wordIndex u)

/-- The own counter of a buffer (R194, R382). -/
def State.countBuffer (s : State) : MemOf → State
  | .queues => s.bump PMP_Q_COR_CNT.COUNT
  | .receive p => s.bump (PMP_RBUF_COR_CNT.COUNT p)
  | .park => s.bump CMB_PARK_COR_CNT.COUNT
  | _ => s

/-- A word of a part is delivered corrected (R194, R382). -/
def State.wordFixed (s : State) (u : WordRead) : State := (s.correctedWord u.part).countBuffer u.mem

/-- A word of a Well's stack stands as given. -/
def State.stackSet (s : State) (w : WellNo) (addr : Nat) (v : BitVec 80) : State :=
  let a := addr / 8 * 8
  s.modWell w fun k => { k with flips := Flips.put k.flips k.stack zeroByte a v }

/-- A memory whose words the model holds keeps the word as it was read. -/
def State.plantWord (s : State) (u : WordRead) : State :=
  match u.mem with
  | .stack => if h : u.part < 24 then s.stackSet ⟨u.part, h⟩ u.addr u.word else s
  | .table => if u.part < 24 then s else s.modHub (partSide u.part) fun h => h.putWord 2 (u.addr / 8 * 8) u.word
  | .router => if u.part < 24 then s else s.modHub (partSide u.part) fun h => h.putWord 1 (u.addr / 8 * 8) u.word
  | _ => s

end Sys2Proof.Machine
end

