-- ==== Sys2Proof/Machine/Front.lean ====
section
/-!
DEFINITION. Intake, Score and Select at work (R106-R122, R213, R282-R286): an attempt starts, its rows arrive, are scored and
selected.
-/

namespace Sys2Proof.Machine

open Sys2Proof

/-! ### An attempt starts -/

/-- A token whose row has not arrived. -/
def Token.fresh (t : Nat) : Token :=
  { t := t, row := [], noise := [], logits := [], mcast := false, selected := false, copies := [], gmax := 0, gsum := 0,
    rfact := one32, handle := none, emitted := false }

/-- An attempt at its launch: counters of R155 at zero (R162). -/
def Attempt.start (st : Step) : Attempt :=
  { seq := st.seq, att := st.replays, toks := (List.range st.ntok).map Token.fresh, nextWin := 0, used := [], shUsed := [],
    wused := [], hused := [], drops := 0, spills := 0, sendq := [], filled := [], eodSent := [], nanTokens := 0, unseeded := 0,
    renormSkip := 0, renormFirst := 0, ledgerPend := 0, ledWait := [], wellDone := [],
    absentSent := false, rmsNf := [], ledHead := [] }

/-- STEP_OPEN (R238). -/
def State.stepOpenPkt (s : State) (c : Ctx) (st : Step) : Pkt :=
  { w0 := mkW0 0x30 c st.replays st.payload s.chip s.chip st.seq
    w1 := BitVec.ofNat 64 (st.opcode + st.bank % 2 * 16 + st.layer * 32), w2 := BitVec.ofNat 64 st.fwdSeq.toNat, w3 := 0,
    body := [] }

/-- Bytes rounded up to whole beats. -/
def beats64 (n : Nat) : Nat := (n + 63) / 64 * 64

/-- The read of a token's input row, and of its host noise (R106, R121). -/
def State.intakeToken (s : State) (c : Ctx) (st : Step) (t : Nat) : State :=
  let n := s.inRow c st st.bank
  let s1 : State := s.hostRead (.input c st.seq st.replays t) (st.inAddr + t * st.inPitch) (beats64 n)
  if st.noise = 2 then
    let m := 4 * s.noiseC c st st.bank
    s1.hostRead (.noise c st.seq st.replays t) (st.noiseAddr + t * m) m
  else s1

/-- Where the ledger record of local token `t` lies: Well, stack address, bytes (R211). -/
def State.ledgerSpot (s : State) (c : Ctx) (e : LedgerEntry) (t : Nat) : Option (WellNo × Nat × Nat) :=
  let n := e.shares.length
  let h := s.ledgerHead c e
  let w1 := ofBytes (slice h 4 4)
  let rec_ := 16 * (1 + bitsOf w1 10 6 + bitsOf w1 16 3)
  (e.shares[t % max 1 n]?).map fun x => (x.1, s.ledgerBase c + x.2.1 + 64 + t / max 1 n * rec_, rec_)

/-- The LEDGER_READ of a BACKWARD token (R213, R238). -/
def State.ledgerAsk (s : State) (c : Ctx) (st : Step) (e : LedgerEntry) (t : Nat) : State :=
  match s.ledgerSpot c e t with
  | none => s
  | some (w, a, n) =>
    (s.modAtt c fun x => { x with ledWait := x.ledWait ++ [(w.val, a, n, t)] }).sendWell w
      { w0 := mkW0 0x35 c st.replays false s.chip s.chip st.seq, w1 := BitVec.ofNat 64 a, w2 := BitVec.ofNat 64 n, w3 := 0,
        body := [] }

/-- The attempt of a launched step begins: STEP_OPEN to every Well in service, Intake's reads, the ledger reads of a BACKWARD
step. A step without router scored from vectors is counted and reported once (R107). -/
def State.startAttempt (s : State) (c : Ctx) (st : Step) : State :=
  let s1 : State := { s with work := { s.work with
    att := s.work.att.set c (some (Attempt.start st)), tickets := s.work.tickets.set c 0 } }
  let s2 : State := s1.serviceWells.foldl (fun (s : State) (w : WellNo) =>
    if s.wellFrozen w then s else s.sendWell w (s.stepOpenPkt c st)) s1
  let s3 : State := (List.range st.ntok).foldl (fun (s : State) (t : Nat) => s.intakeToken c st t) s2
  let s4 : State := if st.opcode = 2 then
      match s3.ledgerOf c st.fwdSeq with
      | some e => (List.range st.ntok).foldl (fun (s : State) (t : Nat) => s.ledgerAsk c st e t)
          (s3.modAtt c fun a => { a with ledHead := s3.ledgerHead c e })
      | none => s3
    else s3
  if st.opcode = 1 ∧ st.inmode ≠ 2 ∧ 0 < st.ntok ∧ (s.layer c st.bank st.layer).loc = 0 ∧ !st.noRouter then
    ((s4.modStep c (fun x => x.live && x.seq == st.seq) fun x => { x with noRouter := true }).bump RTE_NOROUTER_CNT.COUNT).raise 0x0406 1
      [st.layer] c st.seq
  else s4

/-! ### Rows -/

/-- Insert a piece of a transfer by its offset. -/
def insPiece (x : Nat × List Byte) : List (Nat × List Byte) → List (Nat × List Byte)
  | [] => [x]
  | y :: ys => if x.1 < y.1 then x :: y :: ys else y :: insPiece x ys

/-- The bytes of a transfer whose pieces have all arrived. -/
def assemble (n : Nat) (l : List (Nat × List Byte)) : List Byte :=
  padTo n ((l.foldl (fun a x => insPiece x a) []).map (·.2)).flatten

/-- The row of a token has arrived, and its host noise where it has one. -/
def State.rowHere (s : State) (c : Ctx) (st : Step) (tk : Token) : Bool :=
  decide (beats64 (s.inRow c st st.bank) ≤ gotBytes tk.row) &&
    (st.noise != 2 || decide (4 * s.noiseC c st st.bank ≤ gotBytes tk.noise))

/-- The BF16 elements of an input row (R106). -/
def rowElems (inmode h : Nat) (bs : List Byte) : List Nat :=
  if inmode = 0 then bfRow (padTo (2 * h) bs)
  else (padTo h bs).map fun b => toBfInf (ofE4m3 b.toNat)

/-- The BF16 vector of a token: its row, or free values for a step given by its logits (INMODE 2), for which the spec states
no vector. -/
def State.tokenVec (s : State) (c : Ctx) (st : Step) (tk : Token) : State × List Nat :=
  let h := s.hid c
  if st.inmode = 2 then
    ({ s with free := s.free + h }, (List.range h).map fun i => (Config.freeWord (s.free + i)).toNat % 65536)
  else (s, rowElems st.inmode h (assemble (s.inRow c st st.bank) tk.row))

/-! ### Selection -/

/-- Selection biases of a layer (R100): +0.0 without any. -/
def State.biases (s : State) (c : Ctx) (l : LayerE) : List Word :=
  if l.biasOff = 0xFFFFFFFF then List.replicate l.nexp 0
  else wordRow l.nexp (s.routerBytes c l.biasOff (4 * l.nexp))

/-- The noise values g of a token (R117-R121): +0.0 while the source is unseeded. -/
def State.noiseOf (s : State) (c : Ctx) (st : Step) (tk : Token) (n : Nat) : State × List Word :=
  match st.noise with
  | 1 =>
    if s.rd NSE_STATUS.SEEDED = 0 then
      (s.modAtt c fun a => { a with unseeded := a.unseeded + 1 }, List.replicate n 0)
    else s.drawNoise n
  | 2 => (s, wordRow n (assemble (4 * n) tk.noise))
  | _ => (s, List.replicate n 0)

/-- Count a token with a NaN in its logits, gate scores or keys (R116). -/
def State.nanTok (s : State) (c : Ctx) (nan : Bool) : State :=
  if nan then (s.bump RTE_NAN_CNT.COUNT).modAtt c fun a => { a with nanTokens := a.nanTokens + 1 } else s

/-- Select for a FORWARD token whose logits are known. -/
def State.selectForward (s : State) (c : Ctx) (st : Step) (tk : Token) (zs : List Word) : State :=
  let l := s.layer c st.bank st.layer
  let r := s.noiseOf c st tk l.nexp
  let n := if st.noise = 0 then List.replicate l.nexp 0 else r.2.map fun g => mul32 l.tau g
  let x := selectToken l st.gate st.topk st.nshared zs (s.biases c l) n
  ((r.1.satHub x.sat).nanTok c x.nan).modTok c tk.t fun y =>
    { y with selected := true, copies := x.copies, gmax := x.gmax, gsum := x.gsum }

/-- Select for a SAMPLE token: the index is written and the token is done (R122). -/
def State.selectSample (s : State) (c : Ctx) (st : Step) (tk : Token) (zs : List Word) : State :=
  let r := s.noiseOf c st tk st.nvoc
  let x := sampleToken (st.noise != 0) st.temp zs r.2
  ((((r.1.satHub x.2.2).nanTok c x.2.1).hostWrite (.output c st.seq st.replays) (st.outAddr + 4 * tk.t) (toBytes 4 x.1)).modTok
    c tk.t fun y => { y with selected := true, emitted := true }).progress c

/-- The logits of a token, when they are known: given (INMODE 2), +0.0 without a router (R107), or computed. -/
def State.logitsOf (s : State) (c : Ctx) (st : Step) (tk : Token) : Option (List Word) :=
  let n := s.noiseC c st st.bank
  if st.inmode = 2 then some (wordRow n (assemble (4 * n) tk.row))
  else if (s.layer c st.bank st.layer).loc = 0 then some (List.replicate n 0)
  else if tk.logits.length < n then none
  else some ((List.range n).map fun e => ((tk.logits.find? fun x => x.1 == e).map (·.2)).getD 0)

/-- Draws wait while the lanes are being replaced (R119). -/
def State.drawsWait (s : State) (st : Step) : Bool :=
  st.noise == 1 && s.rd NSE_STATUS.SEEDED == 1 && s.act.seeding.isSome

/-- Select every token of a context that is ready, in ascending order. -/
def State.selectReady (s : State) (c : Ctx) : State :=
  match s.liveStep c, s.work.att[c] with
  | some st, some a =>
    if st.opcode = 2 ∨ s.drawsWait st then s
    else a.toks.foldl (fun (s : State) (tk : Token) =>
      if tk.selected || !s.rowHere c st tk then s
      else match s.logitsOf c st tk with
        | none => s
        | some zs => if st.opcode = 3 then s.selectSample c st tk zs else s.selectForward c st tk zs) s
  | _, _ => s

/-! ### The scoring array (R108, R110, R282-R286) -/

/-- Tokens of a context that wait for the scoring array, ascending. -/
def State.scoreWaits (s : State) (c : Ctx) : List Token :=
  match s.liveStep c, s.work.att[c] with
  | some st, some a =>
    if st.opcode = 1 ∧ st.inmode ≠ 2 ∧ (s.layer c st.bank st.layer).loc = 1 then
      a.toks.filter fun tk => !tk.selected && tk.logits == [] && s.rowHere c st tk
    else []
  | _, _ => []

/-- The share of a context times the quantum (R282). -/
def State.visitGain (s : State) (c : Ctx) : Nat := s.rd (CTX_SHARE.SHARE c) * s.rd CTX_QUANTUM.CYCLES

/-- Scoring engines that are not fenced. -/
def State.scoreEngines (s : State) : Nat := 4 - (bitsSet 4 (s.rd RAS_FENCE_HUB.FENCED)).length

/-- A context's open scoring tiles: first token, tokens scored. -/
def State.openTiles (s : State) (c : Ctx) : List (Nat × Nat) :=
  (s.work.scoreOpen.filter fun x => x.1 == c).map (·.2)

/-- A token that can be scored now: its tile is open, or a fourth tile is still free. -/
def State.scoreNext (s : State) (c : Ctx) : Option Token :=
  let o := s.openTiles c
  (s.scoreWaits c).find? fun tk => (o.any fun x => x.1 == tk.t / 128 * 128) || decide (o.length < 4)

/-- Hub scoring tiles of a context are locked sequences (R284, R248): NTOK at most 128, no spill region, or no Well. -/
def State.scoreLocked (s : State) (c : Ctx) : Bool :=
  (match s.liveStep c with | some st => decide (st.ntok ≤ 128) | none => true) || s.rd (CTX_SPILL.V c) == 0 ||
    s.serviceWells.isEmpty

/-- The next token of a tile that a context has open. -/
def State.scoreMid (s : State) (c : Ctx) : Bool :=
  (s.scoreWaits c).any fun tk => (s.openTiles c).any fun x => x.1 == tk.t / 128 * 128

/-- The context that the scoring array serves now, with the deficits (R282-R284); none while it waits. -/
def State.scorePick (s : State) : Option (Ctx × Vector Int 16) :=
  let waits (c : Ctx) : Bool := (s.scoreNext c).isSome
  match s.work.scoreCtx with
  | some a =>
    if s.scoreMid a then some (a, s.work.scoreDef)
    else if (s.openTiles a) ≠ [] ∧ s.scoreLocked a ∧ (s.liveStep a).isSome then
      -- inside a locked sequence no switch happens
      if waits a then some (a, s.work.scoreDef) else none
    else chooseCtx s.work.scoreDef waits (some a) s.visitGain
  | none => chooseCtx s.work.scoreDef waits none s.visitGain

/-- Experts of the layer that the live step of a context uses. -/
def State.liveExperts (s : State) (c : Ctx) : Nat :=
  match s.liveStep c with | some st => s.stepE c st st.bank | none => 0

/-- Bytes of a spill region's lines on the Well of a position among n, lines of 64 bytes striped in ascending Well slot (R285). -/
def stripe (bytes n i : Nat) : Nat := 64 * (((bytes + 63) / 64 + n - 1 - i) / max 1 n)

/-- The accumulators of a context's open tiles drain to its spill region (R285). How they lie in the lines is not stated: free bytes. -/
def State.spillOut (s : State) (a : Ctx) (bytes : Nat) : State :=
  if bytes = 0 then s
  else
    let ws := s.serviceWells
    let s1 : State := (ws.zip (List.range ws.length)).foldl (fun (s : State) (x : WellNo × Nat) =>
      let n := stripe bytes ws.length x.2
      ({ s with free := s.free + n } : State).writeDram x.1 a (s.rd (CTX_SPILL.BASE_MIB a) * 2 ^ 20)
        ((List.range n).map fun i => Config.freeByte (s.free + i))) s
    { s1 with work := { s1.work with spilled := (s1.work.spilled.filter fun x => x.1 != a) ++ [(a, bytes)] } }

/-- A context that is active again reads its accumulators back (R285); an uncorrectable word aborts its step. -/
def State.spillIn (s : State) (c : Ctx) : State :=
  match s.work.spilled.find? fun x => x.1 == c with
  | none => s
  | some (_, bytes) =>
    let ws := s.serviceWells
    let s1 : State := { s with work := { s.work with spilled := s.work.spilled.filter fun x => x.1 != c } }
    (ws.zip (List.range ws.length)).foldl (fun (s : State) (x : WellNo × Nat) =>
      let n := stripe bytes ws.length x.2
      let b := s.rd (CTX_SPILL.BASE_MIB c) * 2 ^ 20
      ((s.touch x.1 b n c).1).accDram x.1 c b n 0) s1

/-- A switch of the scoring array into a context (R285, R286): each unfenced engine switches, the cycles are charged to the
context that becomes active. -/
def State.scoreSwitch (s : State) (c : Ctx) : State :=
  match s.work.scoreCtx with
  | none => { s with work := { s.work with scoreCtx := some c } }
  | some a =>
    if a = c then s
    else
      let e := s.scoreEngines
      let per := (s.liveExperts a + max 1 e - 1) / max 1 e
      let o := s.openTiles a
      let b := o.foldl (fun n x => n + x.2 * per * 4) 0
      let t := switchTime o.length b
      let s1 : State := (s.bumpBy CTX_SWITCH_CNT.COUNT e).wr CTX_SWITCH_MAX.CYCLES (max (s.rd CTX_SWITCH_MAX.CYCLES) (min 0xFFFF t))
      let s2 : State := (s1.accCyc c (t * e)).spillOut a (o.foldl (fun n x => n + x.2 * s.liveExperts a * 4) 0)
      ({ s2 with work := { s2.work with scoreCtx := some c, scoreDef := chargeDef s2.work.scoreDef c t, residueOnce := false } } : State).spillIn c

/-- The router rows of a layer in the Hub, expanded. -/
def State.hubRow (s : State) (c : Ctx) (l : LayerE) (e : Nat) : List FV :=
  (s.routerBytes c (l.rowBase + e * s.hid c) (s.hid c)).map fun b => ofE4m3 b.toNat

/-- One open tile advanced by a token; a tile whose last token has been scored is closed. -/
def advanceTile (l : List (Ctx × Nat × Nat)) (c : Ctx) (first size : Nat) : List (Ctx × Nat × Nat) :=
  let n := ((l.find? fun x => x.1 == c && x.2.1 == first).map (·.2.2)).getD 0 + 1
  let rest := l.filter fun x => !(x.1 == c && x.2.1 == first)
  if size ≤ n then rest else rest ++ [(c, first, n)]

/-- The scoring array computes a token's logits (R110). -/
def State.scoreTok (s : State) (c : Ctx) (st : Step) (tk : Token) : State :=
  let l := s.layer c st.bank st.layer
  let h := s.hid c
  match s.touchSram 1 ((s.allot c).1 + l.rowBase) (l.nexp * h) c with
  | (s1, false) => s1.modTok c tk.t fun y => { y with logits := (List.range l.nexp).map fun e => (e, 0) }
  | (s1, true) =>
    let v := s1.tokenVec c st tk
    let xs := v.2.map ofBf
    let e := s.scoreEngines
    let cyc := ((l.nexp + max 1 e - 1) / max 1 e * (h / 256) + 7) / 8
    let s2 : State := (v.1.modTok c tk.t fun y => { y with logits := (List.range l.nexp).map fun x => (x, dot (s1.hubRow c l x) xs) })
    let s3 : State := (s2.accCyc c (cyc * e)).accMacs c (l.nexp * h)
    let o := advanceTile s3.work.scoreOpen c (tk.t / 128 * 128) (min 128 (st.ntok - tk.t / 128 * 128))
    { s3 with work := { s3.work with
        scoreDef := chargeDef s3.work.scoreDef c cyc
        residueOnce := s3.work.residueOnce && o.any fun x => x.1 == c && x.2.1 == tk.t / 128 * 128
        scoreOpen := o } }

/-- With every scoring engine fenced the core cannot complete the steps that wait for it: they are raised to the block, which replays
them (R20, R384; log entry 111). -/
def State.scoreLost (s : State) : State :=
  ((List.finRange 16).filter fun c => (s.scoreNext c).isSome).foldl (fun (s : State) (c : Ctx) => s.noticeLive c 1 0) s

/-- The scoring array works through the tokens that wait. -/
def State.scorePump : Nat → State → State
  | 0, s => s
  | n + 1, s =>
    if s.scoreEngines = 0 then s.scoreLost
    else match s.scorePick with
    | none => s
    | some (c, d) =>
      let s1 : State := ({ s with work := { s.work with scoreDef := d } } : State).scoreSwitch c
      match s1.scoreNext c, s1.liveStep c with
      | some tk, some st =>
        let s2 : State := s1.scoreTok c st tk
        let s3 : State := { s2 with work := { s2.work with
          scoreDef := dropIdle s2.work.scoreDef fun c => (s2.scoreNext c).isSome } }
        s3.scorePump n
      | _, _ => s1

/-- Tokens that wait for the scoring array, over all contexts. -/
def State.scoreBacklog (s : State) : Nat := (List.finRange 16).foldl (fun n c => n + (s.scoreWaits c).length) 0

/-! ### Router rows in the Wells (R109) -/

/-- The numbered Wells of a layer whose router rows lie in the Wells. -/
def LayerE.rowWells (l : LayerE) : List WellNo := (List.finRange 24).filter fun w => l.wells.testBit w.val

/-- Multicast the rows of a layer with LOC = 2 that have arrived, each once (R109). LAST stands in the row after which no
token is left to send. -/
def State.multicast (s : State) (c : Ctx) : State :=
  match s.liveStep c, s.work.att[c] with
  | some st, some a =>
    let l := s.layer c st.bank st.layer
    if st.opcode ≠ 1 ∨ st.inmode = 2 ∨ l.loc ≠ 2 then s
    else a.toks.foldl (fun (s : State) (tk : Token) =>
      if tk.mcast || !s.rowHere c st tk then s
      else
        let s1 : State := s.modTok c tk.t fun y => { y with mcast := true }
        let last := match s1.work.att[c] with | some a => a.toks.all (·.mcast) | none => true
        let v := s1.tokenVec c st tk
        let p : Pkt := { w0 := mkW0 0x32 c st.replays true s.chip s.chip st.seq
                         w1 := BitVec.ofNat 64 ((st.tokBase + tk.t) % 2 ^ 22 + st.layer * 2 ^ 22 + bitNat last * 2 ^ 32)
                         w2 := 0, w3 := 0, body := encodePayload true v.2 }
        l.rowWells.foldl (fun (s : State) (w : WellNo) => if s.wellFrozen w then s else s.sendWell w p) v.1) s
  | _, _ => s

/-- The front of the Hub works through what it has: rows are scored or multicast, and scored tokens selected. -/
def State.front (s : State) : State :=
  let s1 : State := s.liveCtxs.foldl State.multicast s
  let s2 : State := s1.scorePump (s1.scoreBacklog + 1)
  s2.liveCtxs.foldl State.selectReady s2

/-- Bytes of an input row or of host noise have arrived for a token. -/
def State.inputData (s : State) (c : Ctx) (t off : Nat) (noise : Bool) (bs : List Byte) : State :=
  (s.modTok c t fun y => if noise then { y with noise := y.noise ++ [(off, bs)] } else { y with row := y.row ++ [(off, bs)] }).front

/-- SEEDING_DONE: draws that waited go on from the new lanes (R119). -/
def execSeedingDone (entropy : List (BitVec 256)) (ok : Bool) (s : State) : Host.Outcome State Fault Refusal :=
  .next (if s.hubUp then (seedingDone entropy ok s).front else if s.act.inReset then s else seedingDone entropy ok s)

end Sys2Proof.Machine
end

