-- ==== Sys2Proof/Machine/Admit.lean ====
section
/-!
DEFINITION. Admission windows (R150-R163), the ledger entry of a forward step (R211, R212), Stage and Pump (R168, R169, R188,
R191, R213), and grants of Cistern buffers (R166).
-/

namespace Sys2Proof.Machine

open Sys2Proof

/-! ### Capacity and counters -/

/-- The capacity of R151. -/
def capacity (f ntok k e capMin : Nat) (nodrop : Bool) : Nat :=
  let c := (f * ntok * k + 16 * e - 1) / max 1 (16 * e)
  if nodrop then ntok else min ntok (max c capMin)

/-- The capacity of a FORWARD step on this member. -/
def State.stepCap (s : State) (c : Ctx) (st : Step) : Nat :=
  capacity (if st.capf = 0 then s.rd (ADM_CTX_CFG.CAPF_DEF c) else st.capf) st.ntok st.topk (s.stepE c st st.bank)
    (s.rd (ADM_CTX_CFG.CAP_MIN c)) (s.rd (ADM_CTX_CFG.NODROP c) == 1)

/-- A counter of a list of counters. -/
def cnt (l : List (Nat × Nat)) (k : Nat) : Nat := ((l.find? fun x => x.1 == k).map (·.2)).getD 0

/-- Count one more. -/
def bumpCnt (l : List (Nat × Nat)) (k : Nat) : List (Nat × Nat) :=
  if l.any fun x => x.1 == k then l.map fun x => if x.1 = k then (k, x.2 + 1) else x else l ++ [(k, 1)]

/-- What R155 reads besides the counters. -/
structure AdmEnv where
  cap : Nat
  home : Nat → Nat
  placed : Nat → Bool
  share : Nat → Nat
  hostp : Bool
  homecap : Nat

/-- The environment of R155 for a step. An expert homed on a Well of this chip that is not in service counts as placed on
the host path (R392). -/
def State.admEnv (s : State) (c : Ctx) (st : Step) : AdmEnv :=
  { cap := s.stepCap c st, home := fun e => s.home c st.bank e
    placed := fun e =>
      let h := s.home c st.bank e
      s.placedWell c st e && !(homeChip h == s.chip && !(s.serviceWells.any fun w => w.val == homeSlot h))
    share := fun w => st.shares.getD w 0, hostp := s.rd (ADM_CTX_CFG.HOSTP c) == 1, homecap := s.rd (ADM_CTX_HOMECAP.LIMIT c) }

/-- The decision of R155 for one copy, on the attempt's counters. -/
def decide155 (v : AdmEnv) (a : Attempt) (x : Copy) : Attempt × Copy :=
  let e := x.expert
  let drop : Attempt × Copy := ({ a with drops := a.drops + 1 }, { x with fate := .dropped })
  if !x.shared && decide (v.cap ≤ cnt a.used e) then drop
  else
    let h := v.home e
    let well := decide (homeSlot h < 24) && v.placed e
    let hp := hostPath (homeChip h)
    let dest := if well && decide (cnt a.wused e < v.share (homeSlot h)) then h else hp
    if dest = hp ∧ !v.hostp then drop
    else if v.homecap ≠ 0 ∧ v.homecap ≤ cnt a.hused dest then drop
    else
      let spilled := well && dest != h
      ({ a with
          used := if x.shared then a.used else bumpCnt a.used e
          shUsed := if x.shared then bumpCnt a.shUsed e else a.shUsed
          wused := if dest = h ∧ homeSlot h < 24 then bumpCnt a.wused e else a.wused
          hused := bumpCnt a.hused dest
          spills := if spilled then a.spills + 1 else a.spills },
       { x with fate := if spilled then .spilled else .admitted, dest := dest
                bucket := if x.shared then cnt a.shUsed e else cnt a.used e })

/-- The copies of a window in admission order (R154). -/
def admissionOrder (rankMajor : Bool) (toks : List Token) : List (Nat × Copy) :=
  let rows := (toks.map fun tk => tk.copies.map fun x => (tk.t, x))
  if rankMajor then
    let k := rows.foldl (fun m r => max m r.length) 0
    ((List.range k).map fun r => rows.filterMap fun row => row[r]?).flatten
  else rows.flatten

/-- Decide copies in order; the decided copies come in the same order. -/
def decideAll (v : AdmEnv) : Attempt → List (Nat × Copy) → Attempt × List (Nat × Copy)
  | a, [] => (a, [])
  | a, (t, x) :: rest =>
    let d := decide155 v a x
    let r := decideAll v d.1 rest
    (r.1, (t, d.2) :: r.2)

/-- A copy that is sent. -/
def Copy.sent (x : Copy) : Bool := x.fate == .admitted || x.fate == .spilled

/-- Insert into a list sorted by destination, behind equal keys: the stable sort of R163. -/
def insDest (x : Nat × Copy) : List (Nat × Copy) → List (Nat × Copy)
  | [] => [x]
  | y :: ys => if x.2.dest / 32 < y.2.dest / 32 then x :: y :: ys else y :: insDest x ys

/-- Sort (R163). -/
def sortCopies (l : List (Nat × Copy)) : List (Nat × Copy) := l.foldl (fun a x => insDest x a) []

/-! ### Selection records and ranks -/

/-- The 8 bytes of a copy in the selection record (R123). -/
def selSlot (x : Copy) : List Byte :=
  toBytes 4 (x.expert % 2 ^ 14 + bitNat x.shared * 2 ^ 14 + bitNat (x.fate == .dropped) * 2 ^ 15 +
    bitNat (x.fate == .spilled) * 2 ^ 16) ++ toBytes 4 x.weight.toNat

/-- The ranks that are sent, as a mask. -/
def sentRanks (l : List Copy) : Nat := maskOf ((l.filter Copy.sent).map (·.rank))

/-! ### The ledger of a forward step (R211, R212) -/

/-- A token record. -/
def ledgerRecord (tokBase : Nat) (tk : Token) : List Byte :=
  toBytes 4 tk.gmax.toNat ++ toBytes 4 tk.gsum.toNat ++ toBytes 4 tk.rfact.toNat ++
    toBytes 4 ((tokBase + tk.t) % 2 ^ 22 + tk.copies.length % 64 * 2 ^ 22) ++
    (tk.copies.map fun x => selSlot { x with weight := 0 } |>.take 4 |> fun b =>
      b ++ toBytes 2 (if x.fate = .dropped then 0xFFFF else x.dest) ++ toBytes 2 0 ++ toBytes 4 x.weight.toNat ++
        toBytes 4 x.gscore.toNat).flatten

/-- The 64-byte header, its TICK written at the commit. -/
def ledgerHeader (st : Step) (l : LayerE) (bytes : Nat) : List Byte :=
  padTo 64 (toBytes 4 st.seq.toNat ++
    toBytes 4 (st.layer + st.topk * 2 ^ 10 + st.nshared * 2 ^ 16 + st.gate * 2 ^ 19 + bitNat l.normSel * 2 ^ 21 +
      bitNat st.payload * 2 ^ 22) ++
    toBytes 4 l.scale.toNat ++ toBytes 4 st.ntok ++ toBytes 8 st.tokBase ++ toBytes 8 0 ++ toBytes 8 bytes)

/-- Where the next share of a Well's region starts: the 64-byte boundary after that Well's previous share, or the base when it would
pass the end (R212). The space of an attempt that did not commit is used again. -/
def nextShare (ends : List (WellNo × Nat)) (w : WellNo) (size bytes : Nat) : Nat :=
  match ends.find? fun x => x.1 == w with
  | none => 0
  | some (_, n) =>
    let b := (n + 63) / 64 * 64
    if size < b + bytes then 0 else b

/-- An entry with a share of the same Well in a range of bytes. -/
def LedgerEntry.hits (e : LedgerEntry) (w : WellNo) (a n : Nat) : Bool :=
  e.shares.any fun x => x.1 == w && overlap x.2.1 x.2.2 a n

/-- Entries that a new one makes invalid: those it overwrites, and the oldest one when the index is full (R212). -/
def pruneLedger (l : List LedgerEntry) (shares : List (WellNo × Nat × Nat)) : List LedgerEntry :=
  let l1 := l.map fun e => if shares.any fun x => e.hits x.1 x.2.1 x.2.2 then { e with valid := false } else e
  let live := l1.filter (·.valid)
  if 1024 ≤ live.length then live.drop (live.length - 1023) else live

/-- Pieces of at most 1 MiB. -/
def pieces (n : Nat) : Nat → List Byte → List (Nat × List Byte)
  | 0, _ => []
  | k + 1, bs => if bs = [] then [] else (n, bs.take 1048576) :: pieces (n + 1048576) k (bs.drop 1048576)

/-- LEDGER_WRITE of bytes to a stack address. -/
def State.ledgerSend (s : State) (c : Ctx) (st : Step) (w : WellNo) (a : Nat) (bs : List Byte) : State :=
  (pieces a (bs.length / 1048576 + 1) bs).foldl (fun (s : State) (x : Nat × List Byte) =>
    (s.modAtt c fun y => { y with ledgerPend := y.ledgerPend + 1 }).sendWell w
      { w0 := mkW0 0x34 c st.replays false s.chip s.chip st.seq, w1 := BitVec.ofNat 64 x.1, w2 := BitVec.ofNat 64 x.2.length,
        w3 := 0, body := x.2 }) s

/-- Write the ledger entry of a FORWARD attempt, or report that it does not fit (R211, R212, R248). -/
def State.writeLedger (s : State) (c : Ctx) (st : Step) : State :=
  let ws := s.serviceWells
  let n := ws.length
  let mib := s.rd (CMB_CTX_LEDGER_SZ.SIZE_MIB c)
  let size := mib * 2 ^ 20
  let rec_ := 16 * (1 + st.topk + st.nshared)
  let bytes (i : Nat) : Nat := 64 + (st.ntok + n - 1 - i) / max 1 n * rec_
  if n = 0 ∨ mib = 0 ∨ size < bytes 0 then s.raise 0x0802 1 [bytes 0, mib] c st.seq
  else
    let l := s.act.core.ledger[c].filter fun e => !e.tentative
    let shares := (ws.zip (List.range n)).map fun x => (x.1, nextShare s.act.core.shareEnd[c] x.1 size (bytes x.2), bytes x.2)
    let e : LedgerEntry := { seq := st.seq, layer := st.layer, ntok := st.ntok, tokBase := st.tokBase, shares := shares,
                             valid := true, tentative := true }
    let s1 : State := s.setCore { s.act.core with ledger := s.act.core.ledger.set c (pruneLedger l shares ++ [e]) }
    let lay := s.layer c st.bank st.layer
    let toks := match s.work.att[c] with | some a => a.toks | none => []
    (shares.zip (List.range n)).foldl (fun (s : State) (x : (WellNo × Nat × Nat) × Nat) =>
      let mine := toks.filter fun tk => tk.t % n == x.2
      s.ledgerSend c st x.1.1 (s.ledgerBase c + x.1.2.1)
        (ledgerHeader st lay x.1.2.2 ++ (mine.map (ledgerRecord st.tokBase)).flatten)) s1

/-! ### Pump (R169, R188, R191) -/

/-- The payload as it is packed in chunks: a BF16 chunk carries 8 reserved bytes (R188). -/
def chunkBody (bf : Bool) (bs : List Byte) : List Byte :=
  if bf then ((List.range (bs.length / 256)).map fun j => slice bs (256 * j) 256 ++ List.replicate 8 0#8).flatten else bs

/-- The DISPATCH packet of a copy. -/
def State.dispatchPkt (s : State) (c : Ctx) (st : Step) (t : Nat) (x : Copy) (h : Nat) : Pkt :=
  { w0 := mkW0 (if st.opcode = 2 then 2 else 1) c st.replays st.payload s.chip (homeChip x.dest) st.seq
    w1 := BitVec.ofNat 64 (x.dest % 2 ^ 16 + x.expert % 2 ^ 14 * 2 ^ 16 + x.rank % 64 * 2 ^ 30 +
      (st.tokBase + t) % 2 ^ 22 * 2 ^ 36 + bitNat x.shared * 2 ^ 58)
    w2 := BitVec.ofNat 64 (x.bucket % 2 ^ 20 + bitNat (x.fate == .spilled) * 2 ^ 20 + bitNat st.fast * 2 ^ 21 +
      st.layer * 2 ^ 22 + x.weight.toNat * 2 ^ 32)
    w3 := 0
    body := chunkBody st.payload (s.bufRead h (payloadSize st.payload (s.hid c))) }

/-- Send a copy whose payload is staged. Its reference is released when its last flit is acknowledged, when Queue has an own-chip copy
(R169), and at once when it has no route. -/
def State.sendCopy (s : State) (c : Ctx) (st : Step) (t : Nat) (x : Copy) (h : Nat) : State := s.send (s.dispatchPkt c st t x h) [h]

/-- The head of the sorted copies, when its token's payload is staged. -/
def Attempt.head (a : Attempt) : Option (Nat × Copy × Nat) :=
  match a.sendq with
  | [] => none
  | (t, r) :: _ =>
    match a.toks.find? fun tk => tk.t == t with
    | none => none
    | some tk =>
      match tk.handle, tk.copies.find? fun x => x.rank == r with
      | some h, some x => some (t, x, h)
      | _, _ => none

/-- The Pump sends copies in the order of Sort while their payloads are staged. -/
def State.pump (c : Ctx) : Nat → State → State
  | 0, s => s
  | n + 1, s =>
    match s.liveStep c, (s.work.att[c]).bind Attempt.head with
    | some st, some (t, x, h) =>
      let s1 : State := s.modAtt c fun a => { a with sendq := a.sendq.drop 1 }
      (s1.sendCopy c st t x h).pump c n
    | _, _ => s

/-! ### End-of-dispatch packets (R191) -/

/-- The homes a step's members may address: every Well in service of every member, for another chip at the tick of the attempt's launch
(log entry 25), and every member's host path. -/
def State.homesOf (s : State) (c : Ctx) : List Nat :=
  let tick := match s.liveStep c with | some st => st.launch | none => s.tickNow
  ((s.memberList c).map fun d => ((bitsSet 24 (s.wellsOf d tick)).map fun w => mkHome d w) ++ [hostPath d]).flatten

/-- Experts that a home's EOD lists. -/
def State.homed (s : State) (c : Ctx) (bank h : Nat) : List Nat :=
  (List.range 16384).filter fun e =>
    let x := s.home c bank e
    x != 0xFFFF && (if homeSlot h = 24 then homeChip x == homeChip h else x == h)

/-- Copies of an expert sent to a home. -/
def Attempt.filledOf (a : Attempt) (h e : Nat) : Nat :=
  ((a.filled.find? fun x => x.1 == h && x.2.1 == e).map (·.2.2)).getD 0

/-- Count a copy for its home's EOD. -/
def addFilled (l : List (Nat × Nat × Nat)) (h e : Nat) : List (Nat × Nat × Nat) :=
  if l.any fun x => x.1 == h && x.2.1 == e then
    l.map fun x => if x.1 = h ∧ x.2.1 = e then (h, e, x.2.2 + 1) else x
  else l ++ [(h, e, 1)]

/-- The EOD of a home. A SAMPLE step uses no table set, so its EODs list no expert (log entry 26). -/
def State.eodPkt (s : State) (c : Ctx) (st : Step) (a : Attempt) (h : Nat) : Pkt :=
  let es := if st.opcode = 3 then [] else s.homed c st.bank h
  let total := es.foldl (fun n e => n + a.filledOf h e) 0
  let cap := if st.opcode = 1 then s.stepCap c st else if st.opcode = 2 then st.ntok else 0
  { w0 := mkW0 5 c st.replays false s.chip (homeChip h) st.seq
    w1 := BitVec.ofNat 64 (cap % 2 ^ 20 + h % 2 ^ 16 * 2 ^ 20 + es.length % 2 ^ 12 * 2 ^ 36)
    w2 := BitVec.ofNat 64 (total % 2 ^ 32 + st.ntok % 2 ^ 20 * 2 ^ 32), w3 := 0
    body := (es.map fun e => toBytes 8 (e % 2 ^ 14 + a.filledOf h e % 2 ^ 20 * 2 ^ 20)).flatten }

/-- A flit that opens a DISPATCH of the attempt to a home and has not been sent. -/
def TxFlit.opens (f : TxFlit) (c : Ctx) (seq : Word) (att h : Nat) : Bool :=
  f.sop && (f.ptype == 1 || f.ptype == 2) && f.ctx == c && f.seq == seq && f.att == att % 8 &&
    ofBytes (slice f.body 8 2) == h

/-- No copy to a home waits to be sent. -/
def State.homeSent (s : State) (c : Ctx) (a : Attempt) (h : Nat) : Bool :=
  !(a.sendq.any fun x => match (a.toks.find? fun tk => tk.t == x.1).bind fun tk => tk.copies.find? fun y => y.rank == x.2 with
    | some y => y.dest == h
    | none => false) &&
  !((List.finRange 16).any fun p => s.ports[p].link.txq.toList.any fun q => q.any fun f => f.opens c a.seq a.att h) &&
  !(s.routeWait.any fun t => ofAttempt c a.seq a.att t.pkt && (ptypeOf t.pkt == 1 || ptypeOf t.pkt == 2) &&
      bitsOf t.pkt.w1.toNat 0 16 == h)

/-- Admit has decided every window of the attempt. A SAMPLE step has none. -/
def State.decided (s : State) (c : Ctx) : Bool :=
  match s.liveStep c, s.work.att[c] with
  | some st, some a => st.opcode == 3 || decide (st.ntok ≤ a.nextWin)
  | _, _ => false

/-- Send every EOD of a context that is due. -/
def State.sendEods (s : State) (c : Ctx) : State :=
  if !s.decided c then s
  else (s.homesOf c).foldl (fun (s : State) (h : Nat) =>
    match s.liveStep c, s.work.att[c] with
    | some st, some a =>
      if a.eodSent.contains h || !s.homeSent c a h then s
      else (s.modAtt c fun x => { x with eodSent := x.eodSent ++ [h] }).send (s.eodPkt c st a h)
    | _, _ => s) s

/-- Pump and EODs of a context. -/
def State.pumpCtx (s : State) (c : Ctx) : State :=
  let n := match s.work.att[c] with | some a => a.sendq.length | none => 0
  (s.pump c n).sendEods c

/-! ### A window -/

/-- The tokens of the next window, when Select has delivered them all (R154). -/
def State.window (s : State) (c : Ctx) (st : Step) (a : Attempt) : Option (List Token) :=
  let n := 2 ^ min 11 (s.rd (ADM_CTX_CFG.AWIN c))
  let l := a.toks.filter fun tk => decide (a.nextWin ≤ tk.t ∧ tk.t < a.nextWin + n)
  if st.opcode = 3 ∨ st.ntok ≤ a.nextWin ∨ l = [] then none
  else if l.all fun tk => tk.selected && s.rowHere c st tk then some l else none

/-- The decided copies of a token put back in rank order. -/
def takeCopies (l : List (Nat × Copy)) (t : Nat) (old : List Copy) : List Copy :=
  old.map fun x => ((l.find? fun y => y.1 == t && y.2.rank == x.rank).map (·.2)).getD x

/-- Renormalise a token and write its selection record (R123, R159). -/
def State.settle (s : State) (c : Ctx) (st : Step) (l : LayerE) (t : Nat) : State :=
  match s.tok c t with
  | none => s
  | some tk =>
    if st.opcode = 2 then s
    else
      let r := renormalise st.renorm l.scale tk.copies
      let s1 : State := (s.satHub r.2.2.2).modTok c t fun y => { y with copies := r.1, rfact := r.2.1 }
      let s2 : State := if r.2.2.1 then
          (s1.bump ADM_RENORM_SKIP_CNT.COUNT).modAtt c fun a =>
            { a with renormFirst := if a.renormSkip = 0 then st.tokBase + t else a.renormFirst, renormSkip := a.renormSkip + 1 }
        else s1
      if st.auxAddr = 0 then s2
      else s2.hostWrite (.aux c st.seq st.replays) (st.auxAddr + t * 8 * r.1.length) (r.1.map selSlot).flatten

/-- Set a token's expectation and request its payload buffer (R168, R205). -/
def State.stage (s : State) (c : Ctx) (st : Step) (t : Nat) : State :=
  match s.tok c t with
  | none => s
  | some tk =>
    let s1 : State := s.expectTok c t (sentRanks tk.copies)
    if tk.copies.any Copy.sent then s1.cistAsk c.val (payloadSize st.payload (s.hid c)) (.stage c t) else s1

/-- The placement map of a step is read when its window is decided. A copy with an uncorrectable word aborts the step, and the replay uses
the first intact copy; without one the step retires (R248). -/
def State.mapCheck (s : State) (c : Ctx) (st : Step) : Option State :=
  if st.slot = 4 ∨ st.opcode ≠ 1 then none
  else match s.mapWell st.mapSkip with
    | none => some (s.retireLive c 1 0x43)
    | some w =>
      let a := s.echoBase w c + 2048 * st.slot
      match s.badWords w a 2048 with
      | [] => none
      | x :: _ =>
        let bad := s.serviceWells.filter fun v => s.mapBad v c st.slot
        let skip := st.mapSkip ||| maskOf (bad.map (·.val))
        let s1 : State := s.modStep c (fun x => x.live) fun x => { x with mapSkip := skip }
        if s1.serviceWells.all fun v => skip.testBit v.val then
          some (((s1.uncor w.val 0 x (s.misread w x)).uncorEvent 0 x (s.misread w x) false (some c) st.seq).retireLive c 1 0x43)
        else some (s1.uncorLive w.val 0 x (s.misread w x) c)

/-- The read of the placement map that a window is decided with (log entry 22). -/
def State.mapRead (s : State) (c : Ctx) (st : Step) : State :=
  if st.slot = 4 ∨ st.opcode ≠ 1 then s
  else match s.mapWell st.mapSkip with
    | some w => s.readDram w c (s.echoBase w c + 2048 * st.slot) 2048
    | none => s

/-- A window of the context is ready to be decided. -/
def State.windowReady (s : State) (c : Ctx) : Bool :=
  match s.liveStep c, s.work.att[c] with
  | some st, some a => (s.window c st a).isSome
  | _, _ => false

/-- The stage that admits serves a context (R282): the choice of its arbiter, and the cycles of the window, 32 copies in each. -/
def State.admServe (s : State) (c : Ctx) (d : Vector Int 16) (copies : Nat) : State :=
  { s with work := { s.work with admCtx := some c, admDef := chargeDef d c ((copies + 31) / 32) } }

/-- A context that waits for the stage no more keeps no positive deficit (R282). -/
def State.admIdle (s : State) : State := { s with work := { s.work with admDef := dropIdle s.work.admDef s.windowReady } }

/-- The next window of a context is decided, its copies sorted, its records written and its buffers
requested. After the last window the ledger entry is written. -/
def State.admitWindow (s : State) (c : Ctx) (d0 : Vector Int 16) : State :=
  match s.liveStep c, s.work.att[c] with
  | some st, some a =>
    match s.window c st a with
    | none => s
    | some toks =>
      match s.mapCheck c st with
      | some s1 => s1
      | none =>
        match (s.mapRead c st).touchSram 2 (tblBase c st.bank) 32768 c with
        | (s1, false) => s1
        | (s0, true) =>
          let order := admissionOrder (s.rd (ADM_CTX_CFG.ORDER c) == 1) toks
          let d := if st.opcode = 2 then (a, order) else decideAll (s.admEnv c st) a order
          let sent := d.2.filter fun x => x.2.sent
          let n := 2 ^ min 11 (s.rd (ADM_CTX_CFG.AWIN c))
          let s1 : State := (s0.admServe c d0 order.length).modAtt c fun _ => { d.1 with
            toks := d.1.toks.map fun tk =>
              if toks.any fun y => y.t == tk.t then { tk with copies := takeCopies d.2 tk.t tk.copies } else tk
            sendq := d.1.sendq ++ (sortCopies sent).map fun x => (x.1, x.2.rank)
            filled := sent.foldl (fun l x => addFilled l x.2.dest x.2.expert) d.1.filled
            nextWin := a.nextWin + n }
          let l := s.layer c st.bank st.layer
          let s2 : State := toks.foldl (fun (s : State) (tk : Token) => (s.settle c st l tk.t).stage c st tk.t) s1
          let s3 : State := if st.ntok ≤ a.nextWin + n ∧ st.opcode = 1 then s2.writeLedger c st else s2
          s3.pumpCtx c
  | _, _ => s

/-- ADMISSION_WINDOW: the stage decides a window of the context that its arbiter chooses among those that wait (R282). -/
def admissionWindow (c : Ctx) (s : State) : State :=
  match chooseCtx s.work.admDef s.windowReady s.work.admCtx s.visitGain with
  | none => s
  | some (x, d) => if x = c then (s.admitWindow c d).admIdle else s

/-- ADMISSION_WINDOW. -/
def execAdmissionWindow (c : Ctx) (s : State) : Host.Outcome State Fault Refusal :=
  .next (if s.busUp 0x9 then admissionWindow c s else s)

end Sys2Proof.Machine
end

