-- ==== Sys2Proof/Machine/Land.lean ====
section
/-!
DEFINITION. Land and Queue (R197-R199, R445, R394): DISPATCH and EOD at the host path and at the Wells of this chip, and the
counts of a home.
-/

namespace Sys2Proof.Machine

open Sys2Proof

/-! ### The counts of a home (R199) -/

/-- The record of a home for an attempt. -/
def homeRec (l : List HomeRec) (h : Nat) (c : Ctx) (seq : Word) (att : Nat) : HomeRec :=
  (l.find? fun x => x.home == h && x.ctx == c && x.seq == seq && x.att == att).getD
    { home := h, ctx := c, seq := seq, att := att, eods := [], landed := [], tops := [], complete := false }

/-- Store the record of a home. -/
def putHome (l : List HomeRec) (r : HomeRec) : List HomeRec :=
  (l.filter fun x => !(x.home == r.home && x.ctx == r.ctx && x.seq == r.seq && x.att == r.att)) ++ [r]

/-- Headers of an expert landed from a source. -/
def HomeRec.count (r : HomeRec) (src : Chip) (e : Nat) : Nat :=
  ((r.landed.find? fun x => x.1 == src && x.2.1 == e).map (·.2.2)).getD 0

/-- The EOD of a source. -/
def HomeRec.eod (r : HomeRec) (src : Chip) : Option EodRec := r.eods.find? fun x => x.src == src

/-- FILLED of an expert in an EOD; an expert that is not listed has none. -/
def EodRec.filled (x : EodRec) (e : Nat) : Nat := ((x.entries.find? fun y => y.1 == e).map (·.2)).getD 0

/-- A header of R199 that breaks the counts of its source's EOD. -/
def HomeRec.headerBad (r : HomeRec) (src : Chip) (e bucket : Nat) (shared : Bool) : Bool :=
  match r.eod src with
  | none => false
  | some x => decide (x.filled e ≤ r.count src e) || decide ((if shared then x.scap else x.cap) ≤ bucket)

/-- Count a landed header. -/
def HomeRec.land (r : HomeRec) (src : Chip) (e bucket : Nat) (shared : Bool) : HomeRec :=
  let l := if r.landed.any fun x => x.1 == src && x.2.1 == e then
      r.landed.map fun x => if x.1 = src ∧ x.2.1 = e then (src, e, x.2.2 + 1) else x
    else r.landed ++ [(src, e, 1)]
  let old := ((r.tops.find? fun x => x.1 == src && x.2.1 == e).map (·.2.2)).getD (0, 0)
  let top := if shared then (old.1, max old.2 (bucket + 1)) else (max old.1 (bucket + 1), old.2)
  { r with landed := l, tops := (r.tops.filter fun x => !(x.1 == src && x.2.1 == e)) ++ [(src, e, top.1, top.2)] }

/-- The first expert whose landed headers break an EOD: more than FILLED, or a bucket at or above a capacity (R199). -/
def HomeRec.culprit (r : HomeRec) (x : EodRec) : Option Nat :=
  match r.landed.find? fun y => y.1 == x.src && decide (x.filled y.2.1 < y.2.2) with
  | some y => some y.2.1
  | none => (r.tops.find? fun y => y.1 == x.src && decide (x.cap < y.2.2.1 ∨ x.scap < y.2.2.2)).map (·.2.1)

/-- An EOD of R199 that breaks the counts: its TOTAL, or headers that landed before it. -/
def HomeRec.eodBad (r : HomeRec) (x : EodRec) (total : Nat) : Bool :=
  total != x.entries.foldl (fun n e => n + e.2) 0 || (r.culprit x).isSome

/-- Every member's EOD has arrived. -/
def HomeRec.eodsIn (r : HomeRec) (members : List Nat) : Bool :=
  members.all fun d => r.eods.any fun x => x.src.val == d

/-- An expert's dispatch is complete: every EOD is in and its counted headers have landed (R199, R200). -/
def HomeRec.expertDone (r : HomeRec) (members : List Nat) (e : Nat) : Bool :=
  r.eodsIn members && r.eods.all fun x => r.count x.src e == x.filled e

/-- Dispatch to the home is complete (R199). -/
def HomeRec.done (r : HomeRec) (members : List Nat) : Bool :=
  r.eodsIn members && r.eods.all fun x => x.entries.all fun e => r.count x.src e.1 == e.2

/-- Mark the record when its dispatch is complete. -/
def HomeRec.mark (r : HomeRec) (members : List Nat) : HomeRec := { r with complete := r.done members }

/-! ### Fields of a DISPATCH and an EOD -/

/-- DEST of a DISPATCH. -/
def dDest (p : Pkt) : Nat := bitsOf p.w1.toNat 0 16
/-- EXPERT. -/
def dExpert (p : Pkt) : Nat := bitsOf p.w1.toNat 16 14
/-- RANK. -/
def dRank (p : Pkt) : Nat := bitsOf p.w1.toNat 30 6
/-- TOKEN. -/
def dToken (p : Pkt) : Nat := bitsOf p.w1.toNat 36 22
/-- SHARED. -/
def dShared (p : Pkt) : Bool := p.w1.toNat.testBit 58
/-- BUCKET. -/
def dBucket (p : Pkt) : Nat := bitsOf p.w2.toNat 0 20
/-- FAST. -/
def dFast (p : Pkt) : Bool := p.w2.toNat.testBit 21
/-- LAYER. -/
def dLayer (p : Pkt) : Nat := bitsOf p.w2.toNat 22 10
/-- WEIGHT. -/
def dWeight (p : Pkt) : Word := BitVec.ofNat 32 (p.w2.toNat >>> 32)
/-- DEST of an EOD. -/
def eDest (p : Pkt) : Nat := bitsOf p.w1.toNat 20 16
/-- NENT. -/
def eNent (p : Pkt) : Nat := bitsOf p.w1.toNat 36 12
/-- TOTAL. -/
def eTotal (p : Pkt) : Nat := bitsOf p.w2.toNat 0 32

/-- An EOD as a home holds it. -/
def eodOf (p : Pkt) : EodRec :=
  { src := srcOf p, cap := bitsOf p.w1.toNat 0 20, scap := bitsOf p.w2.toNat 32 20
    entries := (List.range (eNent p)).map fun i =>
      let e := ofBytes (slice p.body (8 * i) 8)
      (bitsOf e 0 14, bitsOf e 20 20) }

/-- The queue entry of a copy. -/
def entryOf (p : Pkt) (handle : Nat) (row : List Byte) : QEntry :=
  { handle := handle, src := srcOf p, rank := dRank p, token := dToken p, weight := dWeight p, layer := dLayer p,
    fast := dFast p, row := row }

/-! ### What a landed packet must meet (R394, R395) -/

/-- The first checks of a landed packet: a frozen peer's packet is discarded, and a violation of R394 freezes the peer. None:
the packet passes. Step control packets at the tick master are checked by R441 instead. -/
def State.landCheck (s : State) (p : Pkt) : Option State :=
  let d := srcOf p
  let t := ptypeOf p
  if d.val = s.chip then none
  else if s.peerFrozen d then some (s.takeLanded p)
  else if s.isMaster ∧ 8 ≤ t ∧ t ≤ 0x0B then none
  else if t < 1 ∨ 0x0B < t then none
  else if s.rd (RNG_CTX_CTRL.ENABLE (ctxOf p)) = 0 ∨ !((s.members (ctxOf p)).testBit d.val) then
    some ((s.takeLanded p).freezePeer d t)
  else if (t = 1 ∨ t = 2) ∧ homeChip (dDest p) ≠ s.chip then some ((s.takeLanded p).freezePeer d t)
  else if t = 5 ∧ (homeChip (eDest p) ≠ s.chip ∨ 2048 < eNent p) then some ((s.takeLanded p).freezePeer d t)
  else none

/-- A landed packet that passes the first checks goes on. -/
def State.checked (s : State) (p : Pkt) (f : State → State) : State :=
  match s.landCheck p with
  | some s1 => s1
  | none => f s

/-- The link and virtual channel by which a packet came; copies and returns of the own chip come by none. -/
def Landed.lane (l : Landed) : Option LinkId × Nat := (l.hold.map (·.1), sendVc (ptypeOf l.pkt))

/-- An earlier packet of the same link and VC waits, and holds a packet back (R197, R198, R207). -/
def State.heldBack (s : State) (p : Pkt) : Bool :=
  match s.landedOf p with
  | none => false
  | some l =>
    ((s.landed.takeWhile fun x => x != l).any fun x => x.waits && x.lane == l.lane) ||
      s.cist.waits.any fun r => match r.why with
        | .park _ h => (h.map (·.1), 1) == l.lane
        | _ => false

/-- A packet that cannot proceed stays landed; a header that waits for a queue is counted once (R198). -/
def State.keepLanded (s : State) (p : Pkt) (queue : Bool) : State :=
  let s1 : State := if (s.landedOf p).isSome then s else s.landHere p
  let s2 : State := if queue && s1.landed.any (fun l => l.pkt == p && !l.counted) then s1.bump PMP_Q_WAIT_CNT.COUNT else s1
  { s2 with landed := s2.landed.map fun l => if l.pkt = p then { l with waits := true, counted := l.counted || queue } else l }

/-- The counts of R220: FILLED of the source's EOD and the headers landed from it. -/
def HomeRec.counts (r : HomeRec) (src : Chip) (e : Nat) : Nat × Nat :=
  ((match r.eod src with | some x => x.filled e | none => 0), r.count src e)

/-- A count mismatch of an expert (R199). -/
def State.mismatch (s : State) (p : Pkt) (h e : Nat) (r : HomeRec) : State :=
  s.countError p h e (r.counts (srcOf p) e).1 (r.counts (srcOf p) e).2 0

/-- An error that concerns no expert, or no home: the words that R220 would fill from one are free values (log entry 108). -/
def State.errorOpen (s : State) (p : Pkt) (h : Option Nat) (kind : Nat) : State :=
  let x (i : Nat) : Nat := (Config.freeWord (s.free + i)).toNat
  ({ s with free := s.free + 4 } : State).countError p (h.getD (x 3)) (x 0) (x 1) (x 2) kind

/-- An EOD that breaks the counts: the expert whose headers break it, where there is one. -/
def State.eodMismatch (s : State) (p : Pkt) (h : Nat) (r : HomeRec) (x : EodRec) : State :=
  match if (r.eod x.src).isSome then none else r.culprit x with
  | some e => s.countError p h e (x.filled e) (r.count x.src e) 0
  | none => s.errorOpen p (some h) 0

/-! ### RETURN at its source -/

/-- RETURN_PACKET: the Meadow takes a return (R193, R205, R207, R445). -/
def returnPacket (p : Pkt) (s : State) : State :=
  if s.heldBack p then s.keepLanded p false
  else
    let hold := s.holdOf p
    let r := s.takeRaw p
    let s0 : State := r.1.releaseAll r.2
    match s0.current p with
    | none => (s0.freeHold hold).stalePkt p
    | some st =>
      if s0.malformed p then (s0.freeHold hold).errorOpen p none 1
      else (s0.meadReturn st p hold).progress (ctxOf p)

/-- RETURN_PACKET. -/
def execReturnPacket (p : Pkt) (s : State) : Host.Outcome State Fault Refusal :=
  .next (if s.busUp 0xb ∧ (ptypeOf p = 3 ∨ ptypeOf p = 4) then s.checked p (returnPacket p) else s)

/-! ### Host path -/

/-- The queue of an attempt's expert. -/
def Queue.isFor (q : Queue) (c : Ctx) (seq : Word) (att e : Nat) : Bool :=
  q.ctx == c && q.seq == seq && q.att == att && q.expert == e

/-- Copies of an attempt's expert that wait for their Cistern buffer. -/
def State.landing (s : State) (c : Ctx) (e : Nat) : Nat :=
  (s.cist.waits.filter fun r => match r.why with
    | .land p => ctxOf p == c && dExpert p == e
    | _ => false).length

/-- Room in the host-path queues for a copy (R198): its queue has a free entry, or a queue is free. -/
def queueRoom (l : List Queue) (max_ : Nat) (c : Ctx) (seq : Word) (att e more : Nat) : Bool :=
  match l.find? fun q => q.isFor c seq att e with
  | some q => decide (q.kept + q.entries.length + more < 128)
  | none => decide (l.length < max_ ∧ more < 128)

/-- Put an entry into its queue, binding one where none is bound. -/
def pushQueue (l : List Queue) (c : Ctx) (seq : Word) (att e : Nat) (x : QEntry) : List Queue :=
  if l.any fun q => q.isFor c seq att e then
    l.map fun q => if q.isFor c seq att e then { q with entries := q.entries ++ [x] } else q
  else l ++ [{ ctx := c, seq := seq, att := att, expert := e, entries := [x] }]

/-- The host-path home of this chip. -/
def State.hostHome (s : State) (c : Ctx) (seq : Word) (att : Nat) : HomeRec :=
  homeRec s.work.homes (hostPath s.chip) c seq att

/-- Experts without a queue that copies which wait for their buffer will bind one for. -/
def State.binding (s : State) : List (Ctx × Nat) :=
  (s.cist.waits.filterMap fun r => match r.why with
    | .land p => if s.work.queues.any fun q => q.isFor (ctxOf p) (seqOf p) (attOf p) (dExpert p) then none else some (ctxOf p, dExpert p)
    | _ => none).dedup

/-- Room for a copy in the host-path queues, those counted that are still to be bound. -/
def State.hostRoom (s : State) (p : Pkt) : Bool :=
  let c := ctxOf p
  let b := s.binding.filter fun x => x != (c, dExpert p)
  queueRoom s.work.queues (2048 - b.length) c (seqOf p) (attOf p) (dExpert p) (s.landing c (dExpert p))

/-- A DISPATCH for the host path: checked, then waiting for a queue or for its buffer (R197, R198). -/
def State.dispatchHost (s : State) (p : Pkt) : State :=
  let c := ctxOf p
  let r := s.hostHome c (seqOf p) (attOf p)
  if s.cist.waits.any fun x => x.why == .land p then s
  else if r.headerBad (srcOf p) (dExpert p) (dBucket p) (dShared p) then (s.takeLanded p).mismatch p r.home (dExpert p) r
  else if !s.hostRoom p then s.keepLanded p true
  else ((s.keepLanded p false).cistAsk c.val (2 * s.hid c) (.land p)).progress c

/-- The buffer of a host-path copy is granted: the row is expanded into it with two references, and the header is queued
(R197, R198). -/
def State.landGranted (s : State) (p : Pkt) (h : Nat) : State :=
  let c := ctxOf p
  let s0 : State := s.takeLanded p
  let row := payloadBf (fmtOf p) (s.hid c) p.body
  let r := s0.hostHome c (seqOf p) (attOf p)
  if r.headerBad (srcOf p) (dExpert p) (dBucket p) (dShared p) then
    ((s0.release h).release h).mismatch p r.home (dExpert p) r
  else
    let r1 := (r.land (srcOf p) (dExpert p) (dBucket p) (dShared p)).mark (s0.memberList c)
    let s1 : State := s0.bufWrite h row
    { s1 with work := { s1.work with
        homes := putHome s1.work.homes r1
        queues := pushQueue s1.work.queues c (seqOf p) (attOf p) (dExpert p) (entryOf p h row) } }

/-! ### Wells of this chip -/

/-- The attempt as a Well holds it. -/
def State.wellOpen (s : State) (w : WellNo) (c : Ctx) (seq : Word) (att : Nat) : Option WellOpen :=
  s.wells[w].opens.find? fun o => o.ctx == c && o.seq == seq && o.att == att

/-- Copies held in landing slots by a piece of work, and its context. -/
def WellWork.slots : WellWork → Ctx × Nat
  | .expert t => (t.ctx, t.entries.length)
  | .score t => (t.ctx, t.toks.length)

/-- Landing slots in use on a Well, by context. -/
def Well.slotsUsed (k : Well) : List (Ctx × Nat) :=
  (k.queues.map fun q => (q.ctx, q.entries.length)) ++ k.waiting.map WellWork.slots ++
    (match k.running with | some x => [x.slots] | none => []) ++
    k.scoring.map fun t => (t.ctx, t.toks.length)

/-- Bytes of the landing buffer in use: slots of 2H bytes of each context, and the indexes that BACKWARD attempts have read into it
(R231, R234). -/
def State.landUsed (s : State) (w : WellNo) : Nat :=
  (s.wells[w].slotsUsed.foldl (fun n x => n + x.2 * (2 * s.hid x.1)) 0) + s.wells[w].opens.foldl (fun n o => n + 8 * o.index.getD 0) 0

/-- A landing slot of 2H bytes is free in the 16 MiB landing buffer (R231). -/
def State.landRoom (s : State) (w : WellNo) (c : Ctx) : Bool := decide (s.landUsed w + 2 * s.hid c ≤ 2 ^ 24)

/-- The valid activation-log entry of a forward step on a Well. -/
def State.logEntry (s : State) (w : WellNo) (c : Ctx) (seq : Word) : Option LogEntry :=
  s.wells[w].actlog[c].find? fun e => e.seq == seq && e.valid

/-- The stack address of the logged record of (TOKEN, RANK) in an activation-log entry (R233). -/
def State.logRecord (s : State) (w : WellNo) (c : Ctx) (seq : Word) (token rank : Nat) : Option Nat :=
  match s.logEntry w c seq with
  | none => none
  | some e =>
    let a := s.logBase w c + e.start
    let n := ofBytes (s.stackRead w (a + 8) 4)
    let size := 16 + 2 * s.hid c
    ((List.range n).find? fun i =>
      let tag := ofBytes (s.stackRead w (a + 64 + i * size) 8)
      bitsOf tag 0 22 == token && bitsOf tag 22 6 == rank).map fun i => a + 64 + i * size

/-- A DISPATCH for a Well of this chip is passed to the Well, whose acknowledgement of its last flit releases an own-chip copy's
reference (R169, R197). -/
def State.passWell (s : State) (w : WellNo) (p : Pkt) : State :=
  let r := s.takeWith p
  (r.1.sendWell w p r.2).modWell w fun k => { k with rx := k.rx ++ [⟨p, false⟩] }

/-- The record of a home of this chip. -/
def State.homeCounts (s : State) (h : Nat) (c : Ctx) (seq : Word) (att : Nat) : HomeRec :=
  if homeSlot h = 24 then s.hostHome c seq att
  else if w : homeSlot h < 24 then homeRec s.wells[homeSlot h].homes h c seq att
  else homeRec [] h c seq att

/-- A malformed DISPATCH or EOD of a home and an expert (R445, R220). -/
def State.malformedAt (s : State) (p : Pkt) (h e : Nat) : State :=
  let r := s.homeCounts h (ctxOf p) (seqOf p) (attOf p)
  s.countError p h e (r.counts (srcOf p) e).1 (r.counts (srcOf p) e).2 1

/-- Work for a Well of this chip that is absent: the copy is discarded, and the attempt is aborted once (R197). -/
def State.dispatchAbsent (s : State) (p : Pkt) : State :=
  let c := ctxOf p
  let s0 : State := s.takeLanded p
  match s0.work.att[c] with
  | none => s0
  | some a =>
    if a.absentSent then s0
    else (s0.modAtt c fun x => { x with absentSent := true }).sendAbort c (seqOf p) (attOf p) 1 0

/-- The Well of this chip that a home names, when it is in service. -/
def State.homeWell (s : State) (h : Nat) : Option WellNo := s.serviceWells.find? fun w => w.val == homeSlot h

/-- DISPATCH: a copy reaches its home chip. One behind a header that waits is held back (R197, R198). -/
def dispatch (p : Pkt) (s : State) : State :=
  match s.landCheck p with
  | some s1 => s1
  | none =>
    if s.heldBack p then s.keepLanded p false
    else match s.current p with
    | none => (s.takeLanded p).stalePkt p
    | some _ =>
      if s.malformed p then (s.takeLanded p).malformedAt p (dDest p) (dExpert p)
      else if homeSlot (dDest p) = 24 then s.dispatchHost p
      else match s.homeWell (dDest p) with
        | some w => if s.wellFrozen w then s.takeLanded p else s.passWell w p
        | none => s.dispatchAbsent p

/-- A DISPATCH whose first flit arrives would wait at the host path: the flits behind it stay in the receive buffer (R184, R197). -/
def State.headerWaits (s : State) (p : Pkt) : Bool :=
  decide (ptypeOf p = 1 ∨ ptypeOf p = 2) && homeSlot (dDest p) == 24 && (s.current p).isSome &&
    (!s.hostRoom p || !s.grantable (ctxOf p).val (2 * s.hid (ctxOf p)) || s.cist.waits.any fun r => r.why.line == 16)

/-! ### EOD -/

/-- A WELL_REPORT from a Well to its Hub (R238). -/
def State.wellSays (s : State) (c : Ctx) (seq : Word) (att kind code : Nat) : State :=
  s.landHere { w0 := mkW0 0x37 c att false s.chip s.chip seq, w1 := BitVec.ofNat 64 kind, w2 := BitVec.ofNat 64 (code % 2 ^ 16), w3 := 0
               body := [] }

/-- A home takes an EOD: mismatches are reported, the first EOD of a source stands. -/
def HomeRec.take (r : HomeRec) (x : EodRec) (members : List Nat) : HomeRec := ({ r with eods := r.eods ++ [x] } : HomeRec).mark members

/-- An EOD for the host path. -/
def State.eodHost (s : State) (p : Pkt) : State :=
  let c := ctxOf p
  let r := s.hostHome c (seqOf p) (attOf p)
  let x := eodOf p
  if (r.eod x.src).isSome ∨ r.eodBad x (eTotal p) then s.eodMismatch p r.home r x
  else { s with work := { s.work with homes := putHome s.work.homes (r.take x (s.memberList c)) } }

/-- An EOD for a Well of this chip; the Well reports a complete home (R237, R238). -/
def State.eodWell (s : State) (w : WellNo) (p : Pkt) : State :=
  let c := ctxOf p
  let r := homeRec s.wells[w].homes (mkHome s.chip w.val) c (seqOf p) (attOf p)
  let x := eodOf p
  let s1 : State := s.sendWell w p
  if (r.eod x.src).isSome ∨ r.eodBad x (eTotal p) then s1.eodMismatch p r.home r x
  else s1.modWell w fun k => { k with homes := putHome k.homes (r.take x (s.memberList c)) }

/-- EOD: a member's end of dispatch reaches a home of this chip. -/
def eod (p : Pkt) (s : State) : State :=
  match s.landCheck p with
  | some s1 => s1
  | none =>
    let s0 : State := s.takeLanded p
    match s0.current p with
    | none => s0.stalePkt p
    | some _ =>
      if s0.malformed p then s0.errorOpen p (some (eDest p)) 1
      else if homeSlot (eDest p) = 24 then (s0.eodHost p).progress (ctxOf p)
      else match s0.homeWell (eDest p) with
        | some w => if s0.wellFrozen w then s0 else (s0.eodWell w p).progress (ctxOf p)
        | none => s0

/-! ### Waiting packets are taken up again -/

/-- The landed DISPATCH and RETURN packets that wait are tried again, in arrival order. -/
def State.retryHub (s : State) : State :=
  (s.landed.filter fun l => decide (1 ≤ ptypeOf l.pkt ∧ ptypeOf l.pkt ≤ 4) && l.waits).foldl
    (fun (s : State) (l : Landed) => if ptypeOf l.pkt ≤ 2 then dispatch l.pkt s else returnPacket l.pkt s) s

end Sys2Proof.Machine
end

