-- ==== Sys2Proof/Machine/ColGeo.lean ====
section
/-!
DEFINITION. Descriptor, member positions and ring geometry of a collective (R251, R253, R261-R266), and the layout of a chunk
(R267).
-/

namespace Sys2Proof.Machine

open Sys2Proof

/-! ### Descriptor (R253) -/

/-- Bits of the descriptor: byte offset of the word, lowest bit, width. -/
def Channel.bits (k : Channel) (byte lo len : Nat) : Nat := bitsOf k.desc.toNat (8 * byte + lo) len

/-- OP: 1 RS, 2 AG. -/
def Channel.op (k : Channel) : Nat := k.bits 0 0 4
/-- DTYPE: 0 BF16, 1 FP32. -/
def Channel.dtype (k : Channel) : Nat := k.bits 0 4 2
/-- ALG. -/
def Channel.alg (k : Channel) : Nat := k.bits 0 6 2
/-- NARROW. -/
def Channel.narrow (k : Channel) : Nat := k.bits 0 8 1
/-- RDYGATE. -/
def Channel.gated (k : Channel) : Bool := k.bits 0 9 1 == 1
/-- IRQ. -/
def Channel.irq (k : Channel) : Bool := k.bits 0 10 1 == 1
/-- CHUNK_LOG2. -/
def Channel.clog (k : Channel) : Nat := k.bits 0 16 4
/-- CAP. -/
def Channel.cap (k : Channel) : Nat := k.bits 0x10 0 25
/-- IN_ADDR. -/
def Channel.inAddr (k : Channel) : Nat := k.bits 0x18 0 64
/-- OUT_ADDR. -/
def Channel.outAddr (k : Channel) : Nat := k.bits 0x20 0 64
/-- CNT_ADDR. -/
def Channel.cntAddr (k : Channel) : Nat := k.bits 0x28 0 64
/-- PROG_ADDR. -/
def Channel.progAddr (k : Channel) : Nat := k.bits 0x30 0 64
/-- USER. -/
def Channel.user (k : Channel) : Nat := k.bits 0x38 0 64

/-- Reduce-scatter. -/
def Channel.isRs (k : Channel) : Bool := k.op == 1

/-- Bytes of an element in host memory. -/
def Channel.esz (k : Channel) : Nat := if k.dtype = 1 then 4 else 2

/-- Elements of a chunk. -/
def Channel.chunkEl (k : Channel) : Nat := 2 ^ k.clog

/-- Chunks of a shard. -/
def Channel.cps (k : Channel) : Nat := (k.cap + k.chunkEl - 1) / k.chunkEl

/-- Check 1 of R254 fails. -/
def Channel.malformed (k : Channel) : Bool :=
  !(k.op == 1 || k.op == 2) || decide (1 < k.dtype) || k.bits 0 11 5 != 0 || k.bits 0 20 12 != 0 ||
    k.bits 0x10 25 7 != 0 || k.bits 0x14 0 32 != 0 || decide (k.clog < 8 ∨ 14 < k.clog) ||
    decide (k.cap = 0 ∨ 2 ^ 24 < k.cap) || (k.narrow == 1 && (k.op == 2 || k.dtype == 1))

/-! ### Positions (R251, R262) -/

/-- The torus coordinate of a chip on an axis. -/
def torus (axis d : Nat) : Nat := d / 4 ^ axis % 4

/-- The member chips in the order of their positions: ascending (x, y, z), x the most significant. -/
def posList (members : Nat) : List Nat :=
  ((List.range 4).map fun x => ((List.range 4).map fun y => (List.range 4).map fun z => x + 4 * y + 16 * z).flatten).flatten.filter
    fun d => members.testBit d

/-- Number of coordinates that the members have on an axis. -/
def axisLen (members axis : Nat) : Nat :=
  ((List.range 4).filter fun v => (posList members).any fun d => torus axis d == v).length

/-- MEMBERS is a box: it fills the product of its coordinate sets. -/
def isBox (members : Nat) : Bool :=
  (posList members).length == axisLen members 0 * axisLen members 1 * axisLen members 2

/-- Members. -/
def Channel.m (k : Channel) : Nat := (posList k.members).length

/-- Position of a chip. -/
def Channel.pos (k : Channel) (d : Nat) : Nat := (posList k.members).idxOf d

/-- The chip at a position. -/
def Channel.chipAt (k : Channel) (p : Nat) : Chip := ⟨(posList k.members).getD p 0 % 64, Nat.mod_lt _ (by decide)⟩

/-- The algorithm of a descriptor (R261): 1 DIRECT, 2 RING, 3 AXIS. -/
def Channel.algRun (k : Channel) (threshKib : Nat) : Nat :=
  if k.alg ≠ 0 then k.alg
  else if k.m ≤ 8 then (if k.m * k.cap * k.esz < threshKib * 1024 then 1 else 2)
  else if isBox k.members then 3 else 2

/-- Ring length of a phase: all positions under RING, a line of the box under AXIS. -/
def Channel.ringLen (k : Channel) (alg ph : Nat) : Nat := if alg = 3 then axisLen k.members ph else k.m

/-- Coordinate of a position on the ring of a phase. -/
def Channel.coord (k : Channel) (alg ph p : Nat) : Nat :=
  let ny := axisLen k.members 1
  let nz := axisLen k.members 2
  if alg ≠ 3 then p
  else match ph with
    | 0 => p / (ny * nz)
    | 1 => p / nz % ny
    | _ => p % nz

/-- The position with another coordinate on the ring of a phase. -/
def Channel.moveTo (k : Channel) (alg ph p c : Nat) : Nat :=
  let ny := axisLen k.members 1
  let nz := axisLen k.members 2
  if alg ≠ 3 then c
  else match ph with
    | 0 => c * ny * nz + p % (ny * nz)
    | 1 => p / (ny * nz) * ny * nz + c * nz + p % nz
    | _ => p / nz * nz + c

/-- The phases of a collective: the axes with more than one coordinate, in order, under AXIS; one ring otherwise. A single
member has none. -/
def Channel.phases (k : Channel) (alg : Nat) : List Nat :=
  if alg = 3 then (List.range 3).filter fun ph => decide (1 < axisLen k.members ph)
  else if k.m ≤ 1 then [] else [0]

/-- The direction of a chunk (R264): even chunks forward, odd chunks backward. -/
def chunkDir (q : Nat) : Nat := q % 2

/-- Next coordinate on a ring of `n` in a direction. -/
def ringNext (dir n t : Nat) : Nat := if dir = 0 then (t + 1) % n else (t + n - 1) % n

/-- The peers that may hold a reserved buffer of this member, and how many each (R268): the credits of its COL_START. -/
def Channel.creditsFor (k : Channel) (alg own peer : Nat) : Nat :=
  if peer = own then 0
  else if alg = 1 then 1
  else
    let p := k.pos own
    if (k.phases alg).any fun ph =>
        let n := k.ringLen alg ph
        let t := k.coord alg ph p
        [0, 1].any fun dir => (k.chipAt (k.moveTo alg ph p (ringNext dir n t))).val == peer
    then 2 else 0

/-- Buffers reserved (R268). -/
def Channel.reserve (k : Channel) (alg : Nat) : Nat :=
  if alg = 1 then k.m - 1 else if alg = 2 then 4 else 4 * (k.phases 3).length

/-! ### Travelling format (R267, R268) -/

/-- COL_DATA carries BF16: gathered BF16, contributions under DIRECT, partial sums with NARROW. -/
def Channel.travelBf (k : Channel) (alg : Nat) : Bool := k.dtype == 0 && (!k.isRs || alg == 1 || k.narrow == 1)

/-- Bytes of a buffer. -/
def Channel.bufBytes (k : Channel) (alg : Nat) : Nat := k.chunkEl * (if k.travelBf alg then 2 else 4)

/-- BF16 bits as the FP32 word with the same value. -/
def bfWord (n : Nat) : Word := BitVec.ofNat 32 (n % 65536 * 65536)

/-- Elements in host memory as FP32 words. -/
def Channel.words (k : Channel) (bs : List Byte) : List Word :=
  if k.dtype = 1 then wordRow (bs.length / 4) bs else (bfRow bs).map bfWord

/-- FP32 words as elements in host memory: a sum is rounded once (R251), gathered data is moved as it is. -/
def Channel.hostBytes (k : Channel) (ws : List Word) : List Byte :=
  if k.dtype = 1 then wordBytes ws
  else bfBytes (ws.map fun w => if k.isRs then (toBf w).1 else w.toNat / 65536)

/-- Payload of a COL_DATA packet: 256 bytes of elements in each flit, then 8 reserved bytes. -/
def colBody : Nat → List Byte → List Byte
  | 0, _ => []
  | n + 1, bs => if bs = [] then [] else padTo 264 (padTo 256 (bs.take 256)) ++ colBody n (bs.drop 256)

/-- The element bytes of a payload. -/
def colUnbody : Nat → List Byte → List Byte
  | 0, _ => []
  | n + 1, bs => if bs = [] then [] else padTo 256 (bs.take 256) ++ colUnbody n (bs.drop 264)

/-- The words that a COL_DATA packet carries, by its ETYPE and COUNT. -/
def colWords (p : Pkt) : List Word :=
  let n := bitsOf p.w2.toNat 0 25
  let bs := colUnbody (p.body.length / 264 + 1) p.body
  if bitsOf p.w1.toNat 2 2 = 1 then (bfRow (slice bs 0 (2 * n))).map bfWord else wordRow n (slice bs 0 (4 * n))

/-- Element-wise sum of an arriving partial sum and a further term: where only one has an element, that element (R260). -/
def sumTerms : List Word → List Word → List Word
  | a :: as, b :: bs => add32 a b :: sumTerms as bs
  | [], bs => bs
  | as, [] => as

end Sys2Proof.Machine
end

