-- ==== Sys2Proof/Machine/ColMove.lean ====
section
/-!
DEFINITION. The engine of a collective on one member: input chunks, sums, forwarding against credits, outputs and progress
counters (R255-R270).
-/

namespace Sys2Proof.Machine

open Sys2Proof

/-! ### Channel state -/

/-- Change one channel. -/
def State.modChan (s : State) (ch : Fin 16) (f : Channel → Channel) : State := { s with chan := s.chan.set ch (f s.chan[ch]) }

/-- STATE of a channel (R258). -/
def State.colState (s : State) (ch : Fin 16) : Nat := s.rd (COL_CH_STATUS.STATE ch)

/-- ALG_USED of a channel. -/
def State.colAlg (s : State) (ch : Fin 16) : Nat := s.rd (COL_CH_STATUS.ALG_USED ch)

/-- The context of a channel: charged, interrupted, and whose frozen ring stops it (R275). -/
def State.colCtx (s : State) (ch : Fin 16) : Ctx := ⟨s.rd (COL_CH_CTRL.CTX ch) % 16, Nat.mod_lt _ (by decide)⟩

/-- The channel is RUNNING or FINISHING and its end is not decided. -/
def State.colLive (s : State) (ch : Fin 16) : Bool :=
  (s.colState ch == 4 || s.colState ch == 5) && s.chan[ch].final.isNone

/-- Own position. -/
def State.colPos (s : State) (ch : Fin 16) : Nat := s.chan[ch].pos s.chip

/-- The master transfers of a channel. -/
def Purpose.ofChan (ch : Nat) : Purpose → Bool
  | .colDesc c => c == ch
  | .colRead c _ _ => c == ch
  | .colWrite c _ _ => c == ch
  | .colCount c => c == ch
  | .colRec c => c == ch
  | _ => false

/-- The input reads of a channel. -/
def Purpose.colInput (ch : Nat) : Purpose → Bool
  | .colRead c _ _ => c == ch
  | _ => false

/-- The writes of one output chunk. -/
def Purpose.colChunk (ch sh q : Nat) : Purpose → Bool
  | .colWrite c a b => c == ch && a == sh && b == q
  | _ => false

/-! ### Credits and sending (R269) -/

/-- Credits held toward a peer and direction. -/
def Channel.credit (k : Channel) (peer : Chip) (dir : Nat) : Nat :=
  match k.credits.find? fun x => x.1 == peer && x.2.1 == dir with
  | some x => x.2.2
  | none => 0

/-- Change the credits toward a peer and direction. -/
def Channel.setCredit (k : Channel) (peer : Chip) (dir n : Nat) : Channel :=
  { k with credits := (k.credits.filter fun x => !(x.1 == peer && x.2.1 == dir)) ++ [(peer, dir, n)] }

/-- A buffer is freed: one credit goes back to its source. -/
def State.colFree (s : State) (ch : Fin 16) (buf : Option (Chip × Nat)) : State :=
  match buf with
  | none => s
  | some (peer, dir) =>
    (s.modChan ch fun k => { k with moved := true }).send (s.colPkt ch 0x12 peer.val (dir % 2 + 2) 0)

/-- Send one COL_DATA when a credit of its peer and direction is held; keep it otherwise. -/
def State.colSendOne (ch : Fin 16) (s : State) (o : ColOut) : State :=
  let n := s.chan[ch].credit o.peer o.dir
  if n = 0 then s.modChan ch fun k => { k with outq := k.outq ++ [o] }
  else ((s.modChan ch fun k => { k.setCredit o.peer o.dir (n - 1) with moved := true }).send o.pkt).colFree ch o.free

/-- Send what credits allow. -/
def State.colFlush (s : State) (ch : Fin 16) : State :=
  let l := s.chan[ch].outq
  l.foldl (State.colSendOne ch) (s.modChan ch fun k => { k with outq := [] })

/-- Hand a chunk to the sender: word 1, word 2 and payload of R267. `raw` moves the words as they are. -/
def State.colQueue (s : State) (ch : Fin 16) (ph peer sh q : Nat) (ws : List Word) (raw : Bool) (free : Option (Chip × Nat)) :
    State :=
  let k := s.chan[ch]
  let bf := k.travelBf (s.colAlg ch)
  let dir := if s.colAlg ch = 1 then 0 else chunkDir q
  let bs := if bf then bfBytes (ws.map fun w => if raw then w.toNat / 65536 else (toBf w).1) else wordBytes ws
  let d := k.chipAt peer
  let pkt := { s.colPkt ch 0x10 d.val
      (k.op + bitNat bf * 4 + ph * 16 + dir * 64 + (sh % 64) * 2 ^ 8 + (q % 2 ^ 24) * 2 ^ 20) ws.length with
    body := colBody (bs.length / 256 + 1) bs }
  (s.modChan ch fun k => { k with outq := k.outq ++ [{ peer := d, dir := dir, pkt := pkt, free := free }] }).colFlush ch

/-! ### Outputs and progress (R255, R256, R259) -/

/-- The 32-byte header of the collective record (R255). -/
def State.colHeader (s : State) (ch : Fin 16) (done : Bool) (status detail : Nat) (complete : Bool) : List Byte :=
  let k := s.chan[ch]
  toBytes 4 (status % 2 ^ 8 + bitNat complete * 2 ^ 8 + bitNat done * 2 ^ 9 + (s.colAlg ch) * 2 ^ 10 +
      (k.restarts % 8) * 2 ^ 12 + (s.colPos ch % 64) * 2 ^ 16 + (detail % 256) * 2 ^ 24) ++
    toBytes 4 k.seq.toNat ++ toBytes 4 (min 0xFFFFFFFF k.dropped) ++ toBytes 4 k.m ++
    toBytes 6 (if done then s.tickNow else 0) ++ toBytes 2 0 ++ toBytes 8 k.user

/-- A write of the channel waits or is out. -/
def State.colWriting (s : State) (ch : Fin 16) : Bool :=
  (s.host.queue.any fun r => r.write && r.why.ofChan ch) || (s.host.txns.any fun t => t.req.write && t.req.why.ofChan ch)

/-- The final header is written once it has been decided and every earlier write of the channel has been answered (R256). -/
def State.colTryHeader (s : State) (ch : Fin 16) : State :=
  match s.chan[ch].final with
  | none => s
  | some (status, detail, complete) =>
    if s.chan[ch].finalOut || s.colWriting ch then s
    else (s.modChan ch fun k => { k with finalOut := true }).hostWrite (.colRec ch) s.chan[ch].progAddr
      (s.colHeader ch true status detail complete)

/-- With the FIN of every member the collective ends complete (R258, R271). -/
def State.colTryFinish (s : State) (ch : Fin 16) : State :=
  let k := s.chan[ch]
  if s.colState ch = 5 ∧ k.final.isNone ∧ ((posList k.members).all fun d => k.fins.any fun f => f.val == d) then
    (s.modChan ch fun k => { k with final := some (if k.uncor then 5 else 0, 0, true) }).colTryHeader ch
  else s.colTryHeader ch

/-- Chunks of a shard, from the first, whose writes have been answered. -/
def Channel.doneTo (k : Channel) (sh : Nat) : Nat := ((List.range k.cps).takeWhile fun q => k.acked.contains (sh, q)).length

/-- Advance CHUNKS*j* of a shard, which never decreases (R256). -/
def State.colCounter (s : State) (ch : Fin 16) (sh : Nat) : State :=
  let k := s.chan[ch]
  let j := if k.isRs then 0 else sh
  let n := k.doneTo sh
  let old := match k.written.find? fun x => x.1 == j with | some x => x.2 | none => 0
  if n ≤ old then s
  else (s.modChan ch fun k => { k with written := (k.written.filter fun x => x.1 != j) ++ [(j, n)] }).hostWrite (.colRec ch)
    (k.progAddr + 0x20 + 4 * j) (toBytes 4 n)

/-- Elements of a shard as its chunks show: one above the last element. -/
def Channel.countOf (k : Channel) (sh : Nat) : Nat :=
  k.outs.foldl (fun (a : Nat) (o : Nat × Nat × Nat) =>
    if o.1 = sh ∧ o.2.2 ≠ 0 then max a (o.2.1 * k.chunkEl + o.2.2) else a) 0

/-- Every output chunk is written and answered. -/
def Channel.outsDone (k : Channel) : Bool := k.acked.length == (if k.isRs then k.cps else k.m * k.cps)

/-- The output counts (R259) are written after the last output chunk. -/
def State.colCountsOut (s : State) (ch : Fin 16) : State :=
  let k := s.chan[ch]
  if k.outsDone && !k.countsOut then
    let vs := if k.isRs then [k.countOf (s.colPos ch)] else (List.range k.m).map k.countOf
    (s.modChan ch fun k => { k with countsOut := true }).hostWrite (.colRec ch)
      (k.cntAddr + (if k.isRs then 4 * k.m else 4)) (vs.map fun n => toBytes 4 n).flatten
  else s

/-- An output chunk is final once no write of it is waited for and none has failed (R256). -/
def State.colAck (s : State) (ch : Fin 16) (sh q : Nat) : State :=
  let k := s.chan[ch]
  if (k.outs.any fun o => o.1 == sh && o.2.1 == q) && !k.acked.contains (sh, q) && !k.bad.contains (sh, q) &&
      !s.busyFor (Purpose.colChunk ch sh q) then
    ((s.modChan ch fun k => { k with acked := k.acked ++ [(sh, q)] }).colCounter ch sh).colCountsOut ch
  else s

/-- Write an output chunk. -/
def State.colOutput (s : State) (ch : Fin 16) (sh q : Nat) (ws : List Word) : State :=
  let k := s.chan[ch]
  if k.outs.any fun o => o.1 == sh && o.2.1 == q then s
  else
    let s1 : State := s.modChan ch fun k => { k with outs := k.outs ++ [(sh, q, ws.length)], moved := true }
    let a := k.outAddr + ((if k.isRs then 0 else sh * k.cap) + q * k.chunkEl) * k.esz
    (s1.hostWrite (.colWrite ch sh q) a (k.hostBytes ws)).colAck ch sh q

/-! ### Reduce-scatter (R263-R266) -/

/-- Take the chunk that has arrived for a shard, chunk and phase. -/
def Channel.arrivedAt (k : Channel) (sh q ph : Nat) : Option ColChunk :=
  k.arrived.find? fun x => x.shard == sh && x.chunk == q && x.phase == ph

/-- The own term of a chunk in the phases that are left: it starts the ring, waits for the arriving sum, or is added to it and
passed on; at its own coordinate the sum leaves the phase. After the last phase the chunk is output. -/
def State.colTerm (ch : Fin 16) (sh q : Nat) : List Nat → List Word → State → State
  | [], ws, s => s.colOutput ch sh q ws
  | ph :: rest, ws, s =>
    let k := s.chan[ch]
    let alg := s.colAlg ch
    let p := s.colPos ch
    let n := k.ringLen alg ph
    let t := k.coord alg ph p
    let d := k.coord alg ph sh
    let dir := chunkDir q
    let succ := k.moveTo alg ph p (ringNext dir n t)
    if t = ringNext dir n d then s.colQueue ch ph succ sh q ws false none
    else match k.arrivedAt sh q ph with
      | none => s.modChan ch fun k => { k with own := k.own ++ [⟨sh, q, ph, ws, none⟩] }
      | some a =>
        let s1 : State := s.modChan ch fun k => { k with arrived := k.arrived.erase a }
        let sum := sumTerms a.words ws
        if t = d then State.colTerm ch sh q rest sum (s1.colFree ch a.buf) else s1.colQueue ch ph succ sh q sum false a.buf

/-- Under DIRECT the owner adds the contributions of a chunk in position order, each as soon as its turn has come. -/
def State.colDirect (ch : Fin 16) (q : Nat) : Nat → State → State
  | 0, s => s
  | n + 1, s =>
    let k := s.chan[ch]
    let (i, acc) : Nat × List Word := match k.sums.find? fun x => x.1 == q with | some x => x.2 | none => (0, [])
    let own := s.colPos ch
    let term := if i = own then k.own.find? fun x => x.chunk == q && x.shard == own else k.arrivedAt own q i
    match term with
    | none => s
    | some a =>
      let sum := sumTerms acc a.words
      let s1 : State := (s.modChan ch fun k => { k with
          own := k.own.erase a, arrived := k.arrived.erase a
          sums := (k.sums.filter fun x => x.1 != q) ++ (if i + 1 = k.m then [] else [(q, i + 1, sum)]) }).colFree ch a.buf
      if i + 1 = k.m then s1.colOutput ch own q sum else State.colDirect ch q n s1

/-! ### All-gather -/

/-- A gathered chunk is here, from a phase or from this member's own shard: it is output, passed on in its phase, and starts
the later phases. -/
def State.colHave (s : State) (ch : Fin 16) (sh q : Nat) (from_ : Option Nat) (ws : List Word) (buf : Option (Chip × Nat)) :
    State :=
  let k := s.chan[ch]
  let alg := s.colAlg ch
  let p := s.colPos ch
  let s1 : State := s.colOutput ch sh q ws
  if alg = 1 then
    if sh = p then (List.range k.m).foldl (fun (s : State) (r : Nat) =>
      if r = p then s else s.colQueue ch 0 r sh q ws true none) s1
    else s1.colFree ch buf
  else
    let dir := chunkDir q
    let next (ph : Nat) : Nat := ringNext dir (k.ringLen alg ph) (k.coord alg ph p)
    let sends := (k.phases alg).filter fun ph => match from_ with
      | none => true
      | some f => decide (f < ph) || (ph == f && next ph != k.coord alg ph sh)
    match sends with
    | [] => s1.colFree ch buf
    | ph :: rest =>
      rest.foldl (fun (s : State) (ph : Nat) => s.colQueue ch ph (k.moveTo alg ph p (next ph)) sh q ws true none)
        (s1.colQueue ch ph (k.moveTo alg ph p (next ph)) sh q ws true buf)

/-! ### Input (R257, R259, R270) -/

/-- COL_HOLD, once in an interval (R270). -/
def State.colHoldSend (s : State) (ch : Fin 16) : State :=
  if s.chan[ch].hold then s else (s.modChan ch fun k => { k with hold := true }).colAll ch 0x13 0 0

/-- The own term of an input chunk is complete. -/
def State.colOwn (s : State) (ch : Fin 16) (sh q : Nat) (ws : List Word) : State :=
  let k := s.chan[ch]
  let alg := s.colAlg ch
  if !k.isRs then s.colHave ch sh q none ws none
  else if alg = 1 then
    if sh = s.colPos ch then
      State.colDirect ch q k.m (s.modChan ch fun k => { k with own := k.own ++ [⟨sh, q, 0, ws, none⟩] })
    else s.colQueue ch 0 sh sh q ws true none
  else State.colTerm ch sh q (k.phases alg) ws s

/-- Input chunks of the collective. -/
def Channel.inputs (k : Channel) : Nat := if k.isRs then k.m * k.cps else k.cps

/-- Elements that this member brings to a chunk (R259). -/
def Channel.inEls (k : Channel) (sh q : Nat) : Nat :=
  let c := match k.counts with
    | some l => min k.cap (l.getD (if k.isRs then sh else 0) 0)
    | none => 0
  min k.chunkEl (c - q * k.chunkEl)

/-- The next input chunk is not covered by READY. -/
def State.colUnready (s : State) (ch : Fin 16) : Bool :=
  let k := s.chan[ch]
  s.colLive ch && k.counts.isSome && k.gated && decide (k.asked.length < k.inputs) &&
    decide (s.rd (COL_CH_READY.READY ch) ≤ k.asked.length)

/-- Read the next input chunk, one at a time in the order of R253; a chunk without elements is complete at once. -/
def State.colAsk (ch : Fin 16) : Nat → State → State
  | 0, s => s
  | n + 1, s =>
    let k := s.chan[ch]
    let i := k.asked.length
    if !s.colLive ch || k.counts.isNone || decide (k.inputs ≤ i) || s.busyFor (Purpose.colInput ch) then s
    else if s.colUnready ch then s.colHoldSend ch
    else
      let sh := if k.isRs then i / k.cps else s.colPos ch
      let q := if k.isRs then i % k.cps else i
      let els := k.inEls sh q
      let s1 : State := s.modChan ch fun k => { k with asked := k.asked ++ [(sh, q)] }
      if els = 0 then State.colAsk ch n (s1.colOwn ch sh q [])
      else s1.hostRead (.colRead ch sh q) (k.inAddr + ((if k.isRs then sh * k.cap else 0) + q * k.chunkEl) * k.esz) (els * k.esz)

/-- Go on with the input. -/
def State.colGo (s : State) (ch : Fin 16) : State := State.colAsk ch (s.chan[ch].inputs + 1) s

/-- Bytes of an input chunk have arrived (offset within the chunk). -/
def State.colInput (s : State) (ch : Fin 16) (sh q off : Nat) (bs : List Byte) : State :=
  let s1 : State := s.modChan ch fun k => { k with inBytes := k.inBytes ++ [(sh, q, off, bs)] }
  let k := s1.chan[ch]
  let mine := k.inBytes.filter fun x => x.1 == sh && x.2.1 == q
  let n := k.inEls sh q * k.esz
  if mine.foldl (fun (a : Nat) (x : Nat × Nat × Nat × List Byte) => a + x.2.2.2.length) 0 < n then s1
  else
    let img := mine.foldl (fun (l : List Byte) (x : Nat × Nat × Nat × List Byte) =>
      l.take x.2.2.1 ++ x.2.2.2 ++ l.drop (x.2.2.1 + x.2.2.2.length)) (List.replicate n 0)
    let s2 : State := s1.modChan ch fun k => { k with inBytes := k.inBytes.filter fun x => !(x.1 == sh && x.2.1 == q) }
    (s2.colOwn ch sh q (k.words (img.take n))).colGo ch

/-- Bytes of the input counts have arrived; with all of them the elements above CAP are dropped (R259) and the input
begins. -/
def State.colCounts (s : State) (ch : Fin 16) (off : Nat) (bs : List Byte) : State :=
  let s1 : State := s.modChan ch fun k => { k with countBytes := k.countBytes ++ [(off, bs)] }
  let k := s1.chan[ch]
  let n := if k.isRs then k.m else 1
  if gotBytes k.countBytes < 4 * n then s1
  else
    let img := k.countBytes.foldl (fun (l : List Byte) (x : Nat × List Byte) => l.take x.1 ++ x.2 ++ l.drop (x.1 + x.2.length))
      (List.replicate (4 * n) 0)
    let cs := (List.range n).map fun i => ofBytes (slice img (4 * i) 4)
    let extra := cs.foldl (fun (a c : Nat) => a + (c - k.cap)) 0
    let s2 : State := s1.modChan ch fun k => { k with counts := some (cs.map fun c => min c k.cap), dropped := extra }
    let s3 : State := if extra = 0 ∨ k.dropped ≠ 0 then s2
      else (s2.bumpBy COL_DROP_CNT.COUNT extra).raise 0x0A07 1 [ch.val, extra] (s.colCtx ch) k.seq
    s3.colGo ch

end Sys2Proof.Machine
end

