-- ==== Sys2Proof/Machine/ColEnd.lean ====
section
/-!
DEFINITION. The end of a collective that does not complete, and the dropping of an attempt (R195, R271).
-/

namespace Sys2Proof.Machine

open Sys2Proof

/-- A packet of an attempt of a channel that R195 discards: every one but COL_ABORT. -/
def ofColAttempt (ch : Fin 16) (seq : Word) (att : Nat) (p : Pkt) : Bool :=
  decide (0x10 ≤ ptypeOf p ∧ ptypeOf p ≤ 0x15 ∧ ptypeOf p ≠ 0x14) && ctxOf p == ch && seqOf p == seq && attOf p == att % 8

/-- A flit of such a packet. -/
def TxFlit.ofCol (ch : Fin 16) (seq : Word) (att : Nat) (f : TxFlit) : Bool :=
  decide (0x10 ≤ f.ptype ∧ f.ptype ≤ 0x15 ∧ f.ptype ≠ 0x14) && f.ctx == ch && f.seq == seq && f.att == att % 8

/-- The transfers of an attempt of a channel: descriptor, input, counts and output, the record apart. -/
def Purpose.colAttempt (ch : Nat) : Purpose → Bool
  | .colDesc c => c == ch
  | .colRead c _ _ => c == ch
  | .colWrite c _ _ => c == ch
  | .colCount c => c == ch
  | _ => false

/-- The attempt's packets are discarded and its transfers dropped: reads become orphans, writes out are only waited for. -/
def State.colDrop (s : State) (ch : Fin 16) : State :=
  let seq := s.chan[ch].seq
  let att := s.rd (COL_CH_STATUS.ATT ch)
  let s1 : State := (s.flushTx (TxFlit.ofCol ch seq att)).flushLanded (ofColAttempt ch seq att)
  ({ s1 with routeWait := s1.routeWait.filter fun t => !ofColAttempt ch seq att t.pkt } : State).dropReads (Purpose.colAttempt ch)

/-- STATUS and DETAIL of a cause that ends the collective. -/
def colOutcome (cause : Nat) : Nat × Nat :=
  match cause with
  | 4 => (7, 0x20)
  | 5 => (6, 0x21)
  | 6 => (3, 0x13)
  | _ => (1, 0x40)

/-- The collective ends with COMPLETE = 0: event 0x0A04 and the final header. -/
def State.colFail (s : State) (ch : Fin 16) (cause : Nat) : State :=
  let (status, detail) := colOutcome cause
  (((s.colDrop ch).raise 0x0A04 2 [ch.val, status, detail] (s.colCtx ch) s.chan[ch].seq).modChan ch fun k =>
    { k with final := some (status, detail, false) }).colTryHeader ch

end Sys2Proof.Machine
end

