-- ==== Sys2Proof/Machine/Absent.lean ====
section
/-!
DEFINITION. Ordered sets (R303), the latency of a hop (R305), and declaring a chip absent (R323).
-/

namespace Sys2Proof.Machine

open Sys2Proof

/-- Units of the Heath time base (0.625 ns) in a microsecond and in 10 ns. -/
def usUnits : Nat := 1600

/-- A pin delay in ps as units of 0.625 ns, to the nearest (R353). -/
def delayUnits (ps : Nat) : Nat := (ps + 312) / 625

/-- The chip's own number as a chip. -/
def State.ownChip (s : State) : Chip := ⟨s.chip % 64, Nat.mod_lt _ (by decide)⟩

/-- *L* of a port in units of 0.625 ns, to the nearest, from `PMP_LNK_LAT` in ps (R305). -/
def State.hop (s : State) (p : Port) : Nat := (s.rd (PMP_LNK_LAT.PS p) + 312) / 625

/-- The slot of an ordered set (R303): type, copy, payload, CRC-32C of bytes 0 to 271, and the marker. -/
def setOut (p : Port) (ostype : Nat) (copy : Bool) (payload : BitVec 192) : Emission :=
  .orderedSet p ostype copy payload
    (crc32c (padTo 272 (toBytes 1 ostype ++ toBytes 1 (bitNat copy) ++ toBytes 6 0 ++ toBytes 24 payload.toNat))) 0x5A0FC3A5

/-- Ports that carry ordered sets of the service interface onward: in UP and not removed. -/
def State.setPorts (s : State) : List Port := (List.finRange 16).filter fun p => s.portState p == 3 && !s.ports[p].removed

/-- Send an ordered set on a list of ports. -/
def State.sendSet (s : State) (ps : List Port) (ostype : Nat) (payload : Nat) : State :=
  ps.foldl (fun (s : State) (p : Port) => s.emit (setOut p ostype false (BitVec.ofNat 192 payload))) s

/-- The ABSENT set that carries the whole mask (R303, R323). -/
def State.absentSetOut (s : State) : State :=
  s.sendSet s.setPorts 6 (s.absent % 2 ^ 64 + s.tickNow % 2 ^ 48 * 2 ^ 64)

/-- COL_ABORT for the collectives of this chip that a condition names (R271). -/
def State.colAbortIf (s : State) (cause : Nat) (hit : State → Fin 16 → Bool) : State :=
  (List.finRange 16).foldl (fun (s : State) (ch : Fin 16) =>
    if (s.rd (COL_CH_STATUS.STATE ch) = 4 ∨ s.rd (COL_CH_STATUS.STATE ch) = 5) ∧ hit s ch then s.colAbortSend ch cause 0
    else s) s

/-- A member of a collective is absent: COL_ABORT with cause 4, or, after the own COL_FIN, the end on this member alone (R258, R272). -/
def State.colAbsent (s : State) (hit : State → Fin 16 → Bool) : State :=
  (List.finRange 16).foldl (fun (s : State) (ch : Fin 16) =>
    if s.colLive ch && s.chan[ch].finSent && hit s ch then s.colFail ch 4 else s) (s.colAbortIf 4 hit)

/-- A chip declares the chips of a mask absent (R323): those not yet set are set, event 0x0C05 is written for each, the mask
is sent on, steps and collectives that include one are aborted. `reason`: 0 beacons, 1 bridged, 2 self, 3 received. -/
def State.declareAbsent (s : State) (mask reason : Nat) : State :=
  let new := (bitsSet 64 mask).filter fun d => !s.absent.testBit d
  match new with
  | [] => s
  | _ =>
    let s1 : State := s.wr2 SVC_ABSENT_LO.CHIPS SVC_ABSENT_HI.CHIPS (s.absent ||| maskOf new)
    let s2 : State := new.foldl (fun (s : State) (d : Nat) => s.raise 0x0C05 2 [d, reason]) s1
    let s3 : State := s2.absentSetOut
    let s4 : State := s3.liveCtxs.foldl (fun (s : State) (c : Ctx) =>
      if new.any fun d => (s.members c).testBit d then s.noticeLive c 2 0x20 else s) s3
    s4.colAbsent fun s ch => new.any fun d => s.chan[ch].members.testBit d

end Sys2Proof.Machine
end

