-- ==== Sys2Proof/Machine/PortOps.lean ====
section
/-!
DEFINITION. What a link loses when it goes down (R309), the link-layer start (R184, R307), the states of a port (R306, R307), and
internal bypass (R313).
-/

namespace Sys2Proof.Machine

open Sys2Proof

/-! ### Discarding a link's data (R195, R309) -/

/-- A packet as the aborts of R309 need it. -/
structure PktKey where
  ptype : Nat
  ctx : Ctx
  seq : Word
  att : Nat
  src : Chip
  dst : Chip
  deriving DecidableEq, Repr

/-- Of a flit that waits to be sent or to be acknowledged. -/
def TxFlit.key (f : TxFlit) : PktKey := ⟨f.ptype, f.ctx, f.seq, f.att % 8, f.src, f.dst⟩

/-- Of a packet. -/
def pktKey (p : Pkt) : PktKey := ⟨ptypeOf p, ctxOf p, seqOf p, attOf p, srcOf p, dstOf p⟩

/-- Every flit that a link's transmitter still holds. -/
def Link.txAll (k : Link) : List TxFlit := k.replay.map (·.2) ++ k.txq.toList.flatten

/-- The flits of packets that a link's receiver has not yet put together. -/
def Link.partAll (k : Link) : List (List (List Byte)) := k.part.toList.filter fun l => !l.isEmpty

/-- Held by a landed packet: flits of this link. -/
def Landed.on (l : LinkId) (x : Landed) : Bool := match x.hold with | some (y, _, _) => y == l | none => false

/-- Returns that wait for a Cistern buffer while their flits stand in a link's receive buffer (R207): context and flits. -/
def State.parkedOn (s : State) (l : LinkId) : List (Ctx × Nat) :=
  s.cist.waits.filterMap fun r => match r.why with
    | .park p (some (y, _, n)) => if y = l then some (p.ctx, n) else none
    | _ => none

/-- Step attempts and collectives whose data a link holds. -/
def State.linkKeys (s : State) (l : LinkId) : List PktKey :=
  let k := s.link l
  (k.txAll.map TxFlit.key ++ k.partAll.map (fun b => pktKey (pktOfBodies b)) ++
    ((s.landed.filter (Landed.on l)).map fun x => pktKey x.pkt) ++
    ((s.parkedOn l).filterMap fun (x : Ctx × Nat) => (s.liveStep x.1).map fun st =>
      (⟨3, x.1, st.seq, st.replays % 8, s.ownChip, s.ownChip⟩ : PktKey))).dedup

/-- Flits that a link holds. -/
def State.linkFlits (s : State) (l : LinkId) : Nat :=
  let k := s.link l
  k.txAll.length + k.partAll.flatten.length +
    (s.landed.filter (Landed.on l)).foldl (fun n x => n + match x.hold with | some (_, _, m) => m | none => 0) 0 +
    (s.parkedOn l).foldl (fun n x => n + x.2) 0

/-- The discarded packet is of the current attempt of a collective on this member. -/
def State.keyCurrent (s : State) (ch : Fin 16) (k : PktKey) : Bool :=
  k.ctx == ch && k.seq == s.chan[ch].seq && k.att == s.rd (COL_CH_STATUS.ATT ch) % 8

/-- A forwarding Hub that is no member of a collective whose packet it discards aborts it in the name of the packet's sender, at the
packet's two ends (log entry 106). -/
def State.colAbortFor (s : State) (k : PktKey) : State :=
  let mk (d : Nat) : Pkt :=
    { w0 := mkW0 0x14 k.ctx k.att false k.src.val d k.seq, w1 := BitVec.ofNat 64 (2 + (k.att + 1) % 8 * 16), w2 := 0, w3 := 0, body := [] }
  (s.send (mk k.src.val)).send (mk k.dst.val)

/-- The aborts of R309 for discarded data: UNCORRECTABLE for a step, COL_ABORT with cause 2 for a collective, each once. -/
def State.abortKeys (s : State) (l : List PktKey) : State :=
  let steps := ((l.filter fun k => decide (1 ≤ k.ptype ∧ k.ptype ≤ 0x0A)).map fun k =>
    (s.noticeName k.src k.dst k.ctx, k.ctx, k.seq, k.att)).dedup
  let cols := l.filter fun k => decide (0x10 ≤ k.ptype ∧ k.ptype ≤ 0x15)
  let far := ((cols.filter fun k => k.src.val != s.chip && k.dst.val != s.chip && !s.keyCurrent k.ctx k).map fun k =>
    { k with ptype := 0x14 }).dedup
  let s1 : State := steps.foldl (fun (s : State) (k : Option (Chip × Chip) × Ctx × Word × Nat) =>
    s.noticeAs k.1 k.2.1 k.2.2.1 k.2.2.2 1 0) s
  let s2 : State := far.foldl State.colAbortFor s1
  s2.colAbortIf 2 fun s ch => cols.any (s.keyCurrent ch)

/-- A request of the Cistern for a return or a copy of a link's receive buffer, which goes with the link's data. -/
def CstWhy.onLink (l : LinkId) (gone : List Landed) : CstWhy → Bool
  | .park _ (some (y, _, _)) => y == l
  | .land p => gone.any fun x => x.pkt == p
  | _ => false

/-- A link's data are discarded and its link layer is idle; references of discarded copies are released, and what waits for a Cistern
buffer goes with them. -/
def State.clearLink (s : State) (l : LinkId) : State :=
  let gone := s.landed.filter (Landed.on l)
  let hs := ((s.link l).txAll.map (·.release)).flatten ++ (gone.map (·.release)).flatten
  let s1 : State := s.modLink l fun _ => Link.fresh
  ({ s1 with
      landed := s1.landed.filter fun x => !x.on l
      cist := { s1.cist with waits := s1.cist.waits.filter fun r => !r.why.onLink l gone } } : State).releaseAll hs

/-- The credits of a pair at link training, from the shares of `PMP_RBUF` (R184). -/
def shareCredits (share pair : Nat) : Nat := bitsOf share (8 * (pair / 2)) 8 * 4

/-- Link-layer start: FSEQ 0, empty replay and receive buffers, credits at the shares; what waits to be sent stays (R307). -/
def State.trainLink (s : State) (l : LinkId) (share : Nat) : State :=
  s.modLink l fun k => { Link.fresh with txq := k.txq, credits := Vector.ofFn fun i : Fin 8 => shareCredits share i.val }

/-- The reset value of `PMP_RBUF`, which Well links and the mirror channel use (R344, R398). -/
def resetShare : Nat := 0x08183030

/-! ### Port states -/

/-- The state codes of R306 in which a port has left UP and RETRAIN for good. -/
def leaves (new : Nat) : Bool := [0, 2, 6, 7, 8, 9].contains new

/-- The removal sequence of a port ends (R320). -/
def State.endRemoval (s : State) (p : Port) : State :=
  (s.wrIf (SVC_PORT_STATUS.RPHASE p) 0).modPort p fun x =>
    { x with agreeRcvd := false, doneSent := false, doneRcvd := false, removed := false }

/-- A port that leaves UP or RETRAIN discards its flits, with event 0x070A and the aborts (R309). -/
def State.leaveUp (s : State) (p : Port) : State :=
  let keys := s.linkKeys (.port p)
  let n := s.linkFlits (.port p)
  ((s.clearLink (.port p)).raise 0x070A 2 [p.val, n]).abortKeys keys

/-- A port changes state (R307): event 0x0707; leaving UP counts and discards; entering CHECK starts the link layer. LANES shows the lanes
of a lock: it is 0 while the PHY has none. -/
def State.setPort (s : State) (p : Port) (new : Nat) : State :=
  let old := s.portState p
  if old = new then s
  else
    let up := decide (old = 3 ∨ old = 4)
    let s1 : State := (s.wr (PMP_LNK_STATUS.STATE p) new).raise 0x0707 0 [p.val, old, new]
    let s2 : State := if up && (new == 0 || new == 6) then s1.bump (PMP_LNK_DOWN_CNT.COUNT p) else s1
    let s3 : State := if up && leaves new then s2.leaveUp p else s2
    let s4 : State := if leaves new || new == 5 then s3.endRemoval p else s3
    let s5 : State := if new = 2 then
        (s4.trainLink (.port p) (s4.rd (PMP_RBUF.SHARE p))).modPort p fun x => { x with good := 0, locked := false }
      else s4
    let s6 : State := if new = 0 ∨ new = 1 then (s5.wrIf (PMP_LNK_STATUS.LANES p) 0).wrIf (PMP_LNK_STATUS.WIDTH4 p) 0
      else if new = 4 then s5.wrIf (PMP_LNK_STATUS.LANES p) 0 else s5
    (s6.modPort p fun x => { x with trainFails := 0 }).pumpWaiting

/-- Where a port goes that has no reason to be held: TRAIN, or DOWN without a cable or with EN = 0 (R306, R307). -/
def State.startState (s : State) (p : Port) : Nat :=
  if s.rd (SVC_PORT_STATUS.PRESENT p) = 1 ∧ s.rd (PMP_LNK_CTRL.EN p) = 1 then 1 else 0

/-- A port is needed (R319). -/
def State.needed (s : State) (p : Port) : Bool :=
  (s.rd TCK_TREE.PARENT_V == 1 && s.rd TCK_TREE.PARENT == p.val) || (s.rd TCK_TREE.CHILDREN).testBit p.val ||
    (List.finRange 64).any fun d => d.val != s.chip && !s.absent.testBit d.val && s.effMask d == 2 ^ p.val

/-! ### Internal bypass (R313) -/

/-- A condition of R313 holds. While a failover passes the role from one Hub to the other the ports are kept (R403). -/
def State.bypassDue (s : State) : Bool := (!s.active && s.failover.isNone) || s.rd SVC_ID.LOCK == 0 || s.rd SVC_BYP_CTRL.FORCE_INT == 1

/-- Engage or release internal bypass as R313 asks; every port changes with it (R307). -/
def State.checkBypass (s : State) : State :=
  let due := s.bypassDue
  if due = s.intBypass then s
  else
    let s1 : State := ({ s with intBypass := due } : State).raiseHeath 0x0C06 1 [0, bitNat due]
    (List.finRange 16).foldl (fun (s : State) (p : Port) =>
      if due then s.setPort p 9
      else
        let st := s.startState p
        s.setPort p (if st = 1 ∧ s.rd (PMP_LNK_STATUS.LANES p) ≠ 0 then 2 else st)) s1

/-- The bridge partner of a port (R311). -/
def bridgePartner (p : Port) : Port :=
  let n := p.val
  ⟨(if n < 4 then n + 4 else if n < 8 then n - 4 else if n % 4 < 2 then n + 2 else n - 2) % 16, Nat.mod_lt _ (by decide)⟩

/-- An ordered set that arrives on a port of a bridging chip leaves unchanged on the partner (R313). -/
def State.bridge (s : State) (p : Port) (ostype : Nat) (copy : Bool) (payload : BitVec 192) : State :=
  s.emit (setOut (bridgePartner p) ostype copy payload)

end Sys2Proof.Machine
end

