-- ==== Sys2Proof/Machine/MirOps.lean ====
section
/-!
DEFINITION. The mirror out of service (R407), the effects that an acknowledgement releases (R399), and the start of a failover
(R402).
-/

namespace Sys2Proof.Machine

open Sys2Proof

/-- A held effect happens (R399). -/
def State.effect (s : State) (e : HeldEffect) : State :=
  match e with
  | .readyReport c seq _ =>
    match (s.steps c).find? fun st => st.state == .ready && st.seq == seq with
    | some st => s.readyReport c seq st.replays
    | none => s
  | .cfgReady side => s.emit (.cfgReady side 0 false)
  | .loadDone => s.wr RTE_LOAD_STATUS.DONE 1
  | .tplDone => s.wr CTX_TPL_STATUS.DONE 1
  | .armed _ => s

/-- The effects whose update has been acknowledged, in order. -/
def State.releaseEffects (s : State) (hit : Word → Bool) : State :=
  let l := s.mch.effects.filter fun x => hit x.1
  l.foldl (fun (s : State) (x : Word × HeldEffect) => s.effect x.2)
    { s with mch := { s.mch with effects := s.mch.effects.filter fun x => !hit x.1 } }

/-- The mirror goes out of service (R407): event 0x0F03, IRQ_RAS; no effect waits for it any more. -/
def State.mirrorOut (s : State) (cause : Nat) : State :=
  match s.mch.mstate with
  | .out | .held => s
  | .syncing | .inSync =>
    let s1 : State := { s with mch := { s.mch with
      mstate := .out, cause := cause, sent := [], acked := s.mch.useq, onLink := s.mch.useq, fetch := [] } }
    ((s1.raiseHeath 0x0F03 2 [cause]).rasIrq RAS_IRQ_STATUS.MIRROR).releaseEffects fun _ => true

/-- A failover whose mirror is lost too ends without an active Hub, as a trigger without a mirror does (R402; log entry 116). -/
def State.failoverLost (s : State) : State :=
  if s.failover.isSome then ({ s with failover := none } : State).checkBypass else s

/-- The mirror is lost: nothing changes for one that was not in service; a failover to it cannot end. -/
def State.mirrorGone (s : State) (cause : Nat) : State :=
  if s.mch.mstate = .syncing ∨ s.mch.mstate = .inSync then (s.mirrorOut cause).failoverLost else s

/-- The event 0x0F01 of a failover. -/
def State.failoverEvent (s : State) (cause : Nat) : Event :=
  { code := 0x0F01, sev := 3, ctx := none, seq := 0, tick := s.tickNow, source := s.source 26 0, addr := 0,
    data := [cause, s.mch.acked.toNat] }

/-- A failover starts (R402, R403 phase 1): the failed Hub is held in reset; for a swap it stays active up to an idle point (R17). The
recorder has event 0x0F01, which the new active Hub writes to the event ring. -/
def State.failoverStart (s : State) (cause t : Nat) : State :=
  let s1 : State := (s.record (s.failoverEvent cause)).rasIrq RAS_IRQ_STATUS.FAILOVER
  let s2 : State := s1.bump MIR_FAILOVER_CNT.COUNT
  { s2 with
    failover := some { cause := cause, at_ := t, swap := cause == 7 }
    active := s2.active && cause == 7
    act := { s2.act with inReset := s2.act.inReset || cause != 7 }
    mch := { s2.mch with cause := cause, lastTick := s2.tickNow } }

/-- A trigger of R402. While the mirror is not IN_SYNC the chip is left without an active Hub and bridges; during a failover
the trigger is recorded only. A swap that still waits for an idle point waits no longer: its Hub has failed and is held in reset (R17). -/
def State.trigger (s : State) (cause : Nat) : State :=
  match s.failover with
  | some fo =>
    { s with
      mch := { s.mch with cause := cause }
      failover := some { fo with swap := false }
      active := false
      act := { s.act with inReset := true } }
  | none =>
    if !s.active then s
    else if s.mch.mstate = .inSync then s.failoverStart cause s.now
    else
      ({ s with active := false, act := { s.act with inReset := true }, mch := { s.mch with cause := cause } } : State).checkBypass

/-- The link-layer restarts of the mirror channel: MAXRETRY rewinds take the mirror out of service (R398). -/
def State.mirrorLinkFailed (s : State) : State := (s.modLink .mirror fun _ => Link.fresh).mirrorGone 9

end Sys2Proof.Machine
end

