-- ==== Sys2Proof/Machine/WellState.lean ====
section
/-!
DEFINITION. A Well that becomes absent (R19, R345, R392), and one that comes into service (R4).
-/

namespace Sys2Proof.Machine

open Sys2Proof

/-- A piece of a Well's work belongs to an attempt. -/
def WellWork.isOf (c : Ctx) (seq : Word) (att : Nat) : WellWork → Bool
  | .expert t => t.ctx == c && t.seq == seq && t.att == att
  | .score t => t.ctx == c && t.seq == seq && t.att == att

/-- An attempt has work on a Well: copies or rows there or on the way, tiles, log records, ledger traffic. -/
def State.worksOn (s : State) (w : WellNo) (c : Ctx) (st : Step) : Bool :=
  let k := s.wells[w]
  let att := st.replays % 8
  let mine (p : Pkt) : Bool := ctxOf p == c && seqOf p == st.seq && attOf p == att
  (k.queues.any fun q => q.ctx == c && q.seq == st.seq && q.att == att && !q.entries.isEmpty) ||
    (k.waiting.any (WellWork.isOf c st.seq att)) || (k.running.any (WellWork.isOf c st.seq att)) ||
    (k.scoring.any fun t => t.ctx == c && t.seq == st.seq && t.att == att) || (k.rx.any fun x => mine x.pkt) ||
    (k.opens.any fun o => o.ctx == c && o.seq == st.seq && o.att == att && (!o.recs.isEmpty || o.grads != 0)) ||
    (k.link.txAll.any fun f => f.ctx == c && f.seq == st.seq && f.att % 8 == att && f.ptype != 0x30 && f.ptype != 0x31) ||
    (match s.work.att[c] with
      | some a => a.ledWait.any fun x => x.1 == w.val
      | none => false)

/-- Ledger entries with a share on a Well. -/
def State.sharesOn (s : State) (w : WellNo) : Nat :=
  (List.finRange 16).foldl (fun n c =>
    n + (s.act.core.ledger[c].filter fun e => e.valid && e.shares.any fun x => x.1 == w).length) 0

/-- A Well becomes absent: it leaves service with its volatile state; entries with a share on it become invalid, event 0x0D09 is
written, and the attempts that have work on it are aborted UNCORRECTABLE (R392). -/
def State.wellAbsent (s : State) (w : WellNo) : State :=
  if !s.wells[w].inService then s.modWell w fun k => { k with linkUp := false, retraining := false }
  else
    let hit := s.liveCtxs.filter fun c => match s.liveStep c with | some st => s.worksOn w c st | none => false
    let n := s.sharesOn w
    let s1 : State := (s.clearLink (.well w)).modWell w fun k => { k with
      linkUp := false, retraining := false, inService := false, opens := [], homes := [], queues := [], waiting := [], running := none
      scoring := [], rx := [], dram := [], activeCtx := none, deficit := Vector.replicate 16 0
      actlog := k.actlog.map fun l => l.map fun e => { e with valid := false } }
    let s2 : State := (List.finRange 16).foldl (fun (s : State) (c : Ctx) =>
      s.voidLedger c fun e => e.shares.any fun x => x.1 == w) s1
    let s3 : State := s2.raise 0x0D09 2 [w.val, n]
    (hit.foldl (fun (s : State) (c : Ctx) => s.noticeLive c 1 0) s3).pumpWaiting

/-- MAJOR and MINOR of a version word. -/
def majorMinor (v : Word) : Nat := v.toNat / 2 ^ 16

end Sys2Proof.Machine
end

