-- ==== Sys2Proof/Machine/Links.lean ====
section
/-!
DEFINITION. The link layer of R181-R186: sending a flit, receiving one, rewinding; and the merge of fast returns in a
forwarding Hub (R209).
-/

namespace Sys2Proof.Machine

open Sys2Proof

/-! ### Settings of a link (R183, R184; Well links and the mirror channel use the reset values, R344, R398) -/

/-- `PMP_VC_PRIO` of a link. -/
def State.vcPrios (s : State) : LinkId → Nat
  | .port p => s.rd (PMP_VC_PRIO.PRIO p)
  | .well _ => 0x40
  | .mirror => 0x40

/-- `PMP_VC_WT` of a link. -/
def State.vcWeights (s : State) : LinkId → Nat
  | .port p => s.rd (PMP_VC_WT.WT p)
  | .well _ => 0x01040808
  | .mirror => 0x01040808

/-- MAXRETRY of a link. -/
def State.maxRetry (s : State) : LinkId → Nat
  | .port p => s.rd (PMP_RETRY_CFG.MAXRETRY p)
  | .well _ => 8
  | .mirror => 8

/-- Flits move on the link: a port in UP, a trained Well link, a mirror channel in service. -/
def State.linkOpen (s : State) : LinkId → Bool
  | .port p => s.portState p == 3
  | .well w => s.wells[w].linkUp && !s.wells[w].retraining
  | .mirror => s.mch.mstate == .syncing || s.mch.mstate == .inSync

/-! ### The transmit arbiter (R183) -/

/-- A pair that holds a flit and a credit. -/
def Link.offers (k : Link) (q : Fin 8) : Bool := !(k.txq[q]).isEmpty && decide (0 < k.credits[q])

/-- Priority of a pair. -/
def pairPrio (prios : Nat) (q : Fin 8) : Fin 4 := ⟨bitsOf prios (2 * (q.val / 2)) 2 % 4, Nat.mod_lt _ (by decide)⟩

/-- Flits a pair may send in one turn. -/
def pairWeight (wts : Nat) (q : Fin 8) : Nat := bitsOf wts (8 * (q.val / 2)) 8

/-- The pairs in rotation after a pair. -/
def pairsAfter (q : Fin 8) : List (Fin 8) := (List.range 8).map fun i => ⟨(q.val + 1 + i) % 8, Nat.mod_lt _ (by decide)⟩

/-- The pair granted next, with its priority and its flits in the turn; none when no pair offers. -/
def Link.grant (k : Link) (prios wts : Nat) : Option (Fin 8 × Fin 4 × Nat) :=
  match (List.finRange 8).filter k.offers with
  | [] => none
  | x :: xs =>
    let top := xs.foldl (fun (m : Fin 4) (q : Fin 8) => max m (pairPrio prios q)) (pairPrio prios x)
    let fits (q : Fin 8) : Bool := k.offers q && pairPrio prios q == top
    let next := ((pairsAfter k.lastPair[top]).find? fits).map fun q => (q, top, 1)
    match k.turn[top] with
    | some (q, n) => if fits q ∧ n < pairWeight wts q then some (q, top, n + 1) else next
    | none => next

/-! ### Flits -/

/-- Bytes 0 to 7 of a flit (R181). -/
def flitHead (pair : Fin 8) (sop eop idle : Bool) (fseq : BitVec 12) (k : Link) : DWord :=
  BitVec.ofNat 64 (pair.val / 2 + pair.val % 2 * 4 + bitNat sop * 8 + bitNat eop * 16 + bitNat idle * 32 + fseq.toNat * 2 ^ 8 +
    (k.rxNext - 1).toNat * 2 ^ 20 + bitNat k.accepted * 2 ^ 32 + bitNat k.nakDue * 2 ^ 33 + k.crTurn.val / 2 * 2 ^ 34 +
    k.crTurn.val % 2 * 2 ^ 36 + (k.freed[k.crTurn]).toNat * 2 ^ 37)

/-- CRC-32C over bytes 0 to 271. -/
def flitCrc (head : DWord) (body : List Byte) : Word := crc32c (toBytes 8 head.toNat ++ padTo 264 body)

/-- Drive a flit. Its acknowledgement and credit fields are those of the receiver; a NAK is sent once, and the credit field
rotates (R182). -/
def State.driveFlit (s : State) (l : LinkId) (pair : Fin 8) (sop eop idle : Bool) (fseq : BitVec 12) (body : List Byte) : State :=
  let k := s.link l
  let head := flitHead pair sop eop idle fseq k
  (s.emit (.flit l head (padTo 264 body) (flitCrc head body))).modLink l fun k =>
    { k with nakDue := false, crTurn := k.crTurn + 1 }

/-- IDLE flits, one after the other. -/
def State.idleFlits (s : State) (l : LinkId) (n : Nat) : State :=
  (List.range n).foldl (fun (s : State) (_ : Nat) => s.driveFlit l 0 false false true 0 []) s

/-- The context charged for a flit (R293): of a step's packets their own, of a collective's the channel's. -/
def State.flitCtx (s : State) (f : TxFlit) : Option Ctx :=
  if f.ptype < 0x10 ∨ 0x30 ≤ f.ptype then some f.ctx
  else if f.ptype < 0x20 then some ⟨s.rd (COL_CH_CTRL.CTX f.ctx) % 16, Nat.mod_lt _ (by decide)⟩
  else none

/-- A packet that carries data of a step: DISPATCH, RETURN, EOD, or Hub-Well work (R54, R187; log entry 110). -/
def stepData (ptype : Nat) : Bool := decide ((1 ≤ ptype ∧ ptype ≤ 5) ∨ (0x30 ≤ ptype ∧ ptype ≤ 0x37))

/-- What a non-IDLE flit that was sent counts as (R54, R293); the last flit of a home's copies lets its EOD go (R191). -/
def State.flitSent (s : State) (f : TxFlit) : State :=
  let s1 : State := match s.flitCtx f with
    | some c => s.accFlit c
    | none => s
  let s2 : State := if stepData f.ptype ∧ s1.isLive f.ctx f.seq f.att then s1.progress f.ctx else s1
  if f.ptype = 1 ∨ f.ptype = 2 then s2.sendEods f.ctx else s2

/-- SPACE and OFFSET of an update, and its bytes; how the control-core data memory lies in its space is not stated (R400). -/
def MirUpd.wire : MirUpd → Nat × Nat × List Byte
  | .reg off v => (0, off, toBytes 4 v.toNat)
  | .router a bs => (1, a, bs)
  | .table a bs => (2, a, bs)
  | .core _ => (3, 0, [])

/-- The next update goes to the mirror channel as a packet (R399, R400). -/
def State.mirPump (s : State) : State :=
  if s.mch.link.txq.toList.any fun q => !q.isEmpty then s
  else match s.mch.sent.find? fun u => seqLater u.1 s.mch.onLink with
    | none => s
    | some (n, u) =>
      let x := u.wire
      let p : Pkt := { w0 := mkW0 0x20 0 0 false s.chip s.chip 0, w1 := BitVec.ofNat 64 (n.toNat + x.2.2.length % 2 ^ 20 * 2 ^ 32)
                       w2 := BitVec.ofNat 64 (x.2.1 % 2 ^ 56 + x.1 * 2 ^ 56), w3 := 0, body := x.2.2 }
      ({ s with mch := { s.mch with onLink := n } } : State).enqueueOn .mirror p 0 [] 0

/-- The oldest flit of the replay buffer that a rewind has still to send again. -/
def Link.again (k : Link) : Option (BitVec 12 × TxFlit) :=
  match k.resend with
  | some n => k.replay[n]?
  | none => none

/-- The code of R438 of a link's transmit arbiter. -/
def linkArb : LinkId → Nat
  | .port p => 0x10 + p.val
  | .well w => 0x20 + w.val
  | .mirror => 0x03

/-- FLIT_TRANSMIT: after a rewind the replay buffer in order, else the granted pair's flit, else an IDLE flit. -/
def flitTransmit (l : LinkId) (s0 : State) : State :=
  let s : State := if l = .mirror then s0.mirPump else s0
  let k := s.link l
  match k.again with
  | some (fs, f) =>
    let n := k.resend.getD 0 + 1
    ((s.driveFlit l f.pair f.sop f.eop false fs f.body).modLink l fun k =>
      { k with resend := if n < k.replay.length then some n else none }).flitSent f
  | none =>
    let go := if k.replay.length < 512 then k.grant (s.vcPrios l) (s.vcWeights l) else none
    match go with
    | none => s.driveFlit l 0 false false true 0 []
    | some (q, pr, n) =>
      match k.txq[q] with
      | [] => s
      | f :: rest =>
        ((s.driveFlit l q f.sop f.eop false k.fseq f.body).modLink l fun k =>
          -- the turn ends when the pair has no flit or no credit left (R183)
          let done := rest.isEmpty || decide (k.credits[q] ≤ 1)
          { k with txq := k.txq.set q rest, replay := k.replay ++ [(k.fseq, f)], fseq := k.fseq + 1
                   credits := k.credits.set q (k.credits[q] - 1), turn := k.turn.set pr (if done then none else some (q, n))
                   lastPair := k.lastPair.set pr q }).flitSent f

/-- FLIT_TRANSMIT. -/
def execFlitTransmit (link : LinkId) (s : State) : Host.Outcome State Fault Refusal :=
  .next (if s.hubUp ∧ s.linkOpen link ∧ !s.arbHeld (linkArb link) then flitTransmit link s else s)

/-! ### Rewinds -/

/-- A link that has rewound MAXRETRY times without an advance fails: a port with event 0x0703 goes to FAILED (R307), a Well link
goes down (R345), the mirror goes out of service (R398). -/
def State.linkFailed (s : State) (l : LinkId) (oldest : Nat) : State :=
  match l with
  | .port p => (s.raise 0x0703 2 [p.val, oldest]).setPort p 6
  | .well w => (s.raise 0x090A 2 [w.val, 0]).wellAbsent w
  | .mirror => s.mirrorLinkFailed

/-- Count a rewind. -/
def State.countRewind (s : State) : LinkId → State
  | .port p => s.bump (PMP_REWIND_CNT.COUNT p)
  | _ => s

/-- The transmitter rewinds to the oldest unacknowledged flit. -/
def State.rewind (s : State) (l : LinkId) : State :=
  match (s.link l).replay with
  | [] => s
  | (fs, _) :: _ =>
    let n := (s.link l).rewinds + 1
    let s1 : State := (s.countRewind l).modLink l fun k => { k with resend := some 0, rewinds := n, turn := Vector.replicate 4 none }
    if s.maxRetry l ≤ n then s1.linkFailed l fs.toNat else s1

/-- RETRY_TIMEOUT. -/
def execRetryTimeout (link : LinkId) (s : State) : Host.Outcome State Fault Refusal :=
  .next (if s.hubUp ∧ s.linkOpen link then s.rewind link else s)

/-! ### Acknowledgements and credits -/

/-- The flits that ACKSEQ covers leave the replay buffer: how many. -/
def Link.covered (k : Link) (ack : BitVec 12) : Nat :=
  match (k.replay.zip (List.range k.replay.length)).find? fun x => x.1.1 == ack with
  | some x => x.2 + 1
  | none => 0

/-- Apply ACKSEQ: acknowledged copies release their references (R169), and a change of route may have drained (R310). -/
def State.ackFlits (s : State) (l : LinkId) (ack : BitVec 12) : State :=
  let k := s.link l
  let n := k.covered ack
  if n = 0 then s
  else
    let hs := ((k.replay.take n).map fun x => x.2.release).flatten
    ((s.modLink l fun k =>
      { k with replay := k.replay.drop n, rewinds := 0
               resend := match k.resend with
                 | some m => if m - n < k.replay.length - n then some (m - n) else none
                 | none => none }).releaseAll hs).pumpWaiting

/-- Apply a credit field: the flits freed since the last one of its pair (R181, R184). -/
def Link.credit (k : Link) (q : Fin 8) (cnt : BitVec 10) : Link :=
  { k with credits := k.credits.set q (k.credits[q] + (cnt - k.crSeen[q]).toNat), crSeen := k.crSeen.set q cnt }

/-! ### Receiving -/

/-- A flit is discarded: counted for its CRC, and at the first discard after an accepted flit a NAK is due. -/
def State.dropFlit (s : State) (l : LinkId) (crc : Bool) : State :=
  let s1 : State := match l with
    | .port p => if crc then s.bump (PMP_CRC_ERR_CNT.COUNT p) else s
    | _ => s
  s1.modLink l fun k => if k.nakSent then k else { k with nakDue := true, nakSent := true }

/-- Flits of a transmit queue, cut at each SOP. -/
def cutPackets : List TxFlit → List (List TxFlit)
  | [] => []
  | f :: fs =>
    match cutPackets fs with
    | [] => [[f]]
    | g :: gs => if (g.head?.map (·.sop)) == some true then [f] :: g :: gs else (f :: g) :: gs

/-- RANKS, FAST and TOKEN of a RETURN. -/
def retRanks (p : Pkt) : Nat := bitsOf p.w2.toNat 0 36
/-- RANK of a RETURN. -/
def retRank (p : Pkt) : Nat := bitsOf p.w1.toNat 22 6

/-- Two FORWARD RETURN packets that R209 lets a forwarding Hub merge. -/
def mergeable (a b : Pkt) : Bool :=
  ptypeOf a == 3 && ptypeOf b == 3 && a.w1.getLsbD 29 && b.w1.getLsbD 29 && dstOf a == dstOf b && ctxOf a == ctxOf b &&
    seqOf a == seqOf b && attOf a == attOf b && bitsOf a.w1.toNat 0 22 == bitsOf b.w1.toNat 0 22 &&
    retRanks a &&& retRanks b == 0 && a.body.length == b.body.length && fmtOf a == fmtOf b

/-- The merged packet (R209), with the saturations of its conversion (R189). -/
def mergePkt (a b : Pkt) : Pkt × Nat :=
  let h := if fmtOf a then a.body.length / 264 * 128 else a.body.length / 264 * 256
  let row := ((payload32 (fmtOf a) h a.body).zip (payload32 (fmtOf b) h b.body)).map fun x => add32 x.1 x.2
  let r := rowToBf row
  ({ a with
    w1 := BitVec.ofNat 64 (bitsOf a.w1.toNat 0 22 + min (retRank a) (retRank b) * 2 ^ 22 + 2 ^ 28 + 2 ^ 29)
    w2 := BitVec.ofNat 64 (retRanks a ||| retRanks b), w3 := 0x3F800000, body := encodePayload (fmtOf a) r.1 }, r.2)

/-- A packet of a transmit queue that waits whole and can merge with another. -/
def waitsFor (p : Pkt) (g : List TxFlit) : Bool :=
  (g.head?.map (·.sop)) == some true && (g.getLast?.map (·.eop)) == some true && mergeable (pktOfBodies (g.map (·.body))) p

/-- Merge a packet into one that waits for the same output port; none when none waits, or when the Hub does not merge, which it
is free to do (R209). -/
def State.merge (s : State) (p : Pkt) : Option State :=
  match routePort (s.effMask (dstOf p)) (srcOf p).val (dstOf p).val with
  | none => none
  | some port =>
    let k := s.ports[port].link
    match (List.finRange 8).find? fun q => (cutPackets k.txq[q]).any (waitsFor p) with
    | none => none
    | some q =>
      let s1 : State := { s with free := s.free + 1 }
      if Config.freeNat s.free % 2 = 0 then none
      else
        let gs := cutPackets k.txq[q]
        let i := gs.findIdx (waitsFor p)
        let old := gs.getD i []
        let m := mergePkt (pktOfBodies (old.map (·.body))) p
        -- the references of the waiting packet are released with its last flit (R204)
        let new := flitsOf m.1 q (old.map (·.release)).flatten (match old with | f :: _ => f.mask.toNat | [] => 0)
        some (((s1.modPort port fun x => { x with link := { x.link with txq := x.link.txq.set q (gs.set i new).flatten } }).bump
          (PMP_MERGE_CNT.COUNT port)).satHub m.2)

/-- A packet for another chip goes on by its route (R185, R186, R209). -/
def State.forward (s : State) (p : Pkt) (sub : Nat) : State :=
  match s.merge p with
  | some s1 => s1
  | none => s.send p [] sub

/-- The packet may travel on the virtual channel (R187, R267); Hub-Well work has none. -/
def vcFits (t : Nat) (pair : Fin 8) : Bool := match vcOf t with | some vs => vs.contains (pair.val / 2) | none => false

/-- A whole packet has arrived on a pair, of which `n` flits are still in the receive buffer: landed, forwarded or discarded (R186, R187,
R394). The mirror channel's packets are commands of their own. -/
def State.packetIn (s : State) (l : LinkId) (pair : Fin 8) (p : Pkt) (n : Nat) : State :=
  let free (s : State) : State := s.freeHold (some (l, pair, n))
  let t := ptypeOf p
  match l with
  | .port _ =>
    if !vcFits t pair then free (s.staleAny p)
    else if (dstOf p).val = s.chip then s.landHere p (some (l, pair, n))
    else free (s.forward p (pair.val % 2))
  | .well w =>
    if t = 3 ∨ t = 4 ∨ t = 0x0B then
      if !vcFits t pair then free (s.staleAny p)
      else if (dstOf p).val = s.chip then s.landHere p (some (l, pair, n))
      else free (s.send p)
    else if t = 0x33 ∨ t = 0x36 ∨ t = 0x37 then s.landHere p (some (l, pair, n))
    else (free s).freezeWell w t
  | .mirror => if 0x20 ≤ t ∧ t ≤ 0x25 ∧ vcFits t pair then free s else free (s.staleAny p)

/-- Flits that arrive on a pair stay in the receive buffer: an earlier packet of the link and VC waits, or the packet's own header
would (R184, R197, R198). -/
def State.flitsWait (s : State) (l : LinkId) (pair : Fin 8) (p : Pkt) : Bool :=
  let lane : Option LinkId × Nat := (some l, pair.val / 2)
  (s.landed.any fun x => x.waits && x.lane == lane) ||
    (s.cist.waits.any fun r => match r.why with
      | .park _ h => (h.map (·.1), 1) == lane
      | _ => false) ||
    (decide ((dstOf p).val = s.chip) && s.headerWaits p)

/-- A flit of a packet in progress has been taken: it leaves the receive buffer with those before it unless they wait there. The last
flit leaves with its packet. -/
def State.keepFlit (s : State) (l : LinkId) (pair : Fin 8) (p : Pkt) : State :=
  let n := (s.link l).held[pair] + 1
  if s.flitsWait l pair p then s.modLink l fun k => { k with held := k.held.set pair n }
  else (s.modLink l fun k => { k with held := k.held.set pair 0 }).freeHold (some (l, pair, n))

/-- An accepted flit joins its pair's packet; a packet starts at SOP and ends at EOP (R195). A flit of a live step that lands is a
progress event (R54). -/
def State.takeFlit (s : State) (l : LinkId) (pair : Fin 8) (sop eop : Bool) (body : List Byte) : State :=
  let old := (s.link l).part[pair]
  let s0 : State := if sop ∧ old ≠ [] then
      (s.freeHold (some (l, pair, (s.link l).held[pair]))).modLink l fun k => { k with held := k.held.set pair 0 }
    else s
  let cur := if sop then [body] else if old = [] then [] else old ++ [body]
  if cur = [] then s0.freeHold (some (l, pair, 1))
  else
    let p := pktOfBodies cur
    let s1 : State := if stepData (ptypeOf p) ∧ (dstOf p).val = s.chip ∧ s0.isLive (ctxOf p) (seqOf p) (attOf p) then s0.progress (ctxOf p) else s0
    if eop then
      let n := (s1.link l).held[pair] + 1
      (s1.modLink l fun k => { k with part := k.part.set pair [], held := k.held.set pair 0 }).packetIn l pair p n
    else (s1.modLink l fun k => { k with part := k.part.set pair cur }).keepFlit l pair p

/-- FLIT_RECEIVE: a flit with a bad CRC, or not the next expected, is discarded; an accepted one, or an IDLE flit, also brings
its acknowledgement and credit fields. -/
def flitReceive (l : LinkId) (f : Flit) (s : State) : State :=
  let h := f.head.toNat
  let idle := h.testBit 5
  let pair : Fin 8 := ⟨(bitsOf h 0 2 * 2 + bitsOf h 2 1) % 8, Nat.mod_lt _ (by decide)⟩
  if f.bad ∨ f.crc ≠ flitCrc f.head f.body then s.dropFlit l true
  else if !idle && BitVec.ofNat 12 (bitsOf h 8 12) != (s.link l).rxNext then s.dropFlit l false
  else
    let cr : Fin 8 := ⟨(bitsOf h 34 2 * 2 + bitsOf h 36 1) % 8, Nat.mod_lt _ (by decide)⟩
    let s1 : State := s.modLink l fun k => k.credit cr (BitVec.ofNat 10 (bitsOf h 37 10))
    let s2 : State := if h.testBit 32 then s1.ackFlits l (BitVec.ofNat 12 (bitsOf h 20 12)) else s1
    let s3 : State := if h.testBit 33 then s2.rewind l else s2
    if idle ∨ !s3.linkOpen l then s3
    else
      (s3.modLink l fun k => { k with rxNext := k.rxNext + 1, accepted := true, nakSent := false }).takeFlit l pair
        (h.testBit 3) (h.testBit 4) (padTo 264 f.body)

/-- A flit that arrives on a port of a bridging chip leaves unchanged on the partner (R313). -/
def State.bridgeFlit (s : State) (l : LinkId) (f : Flit) : State :=
  match l with
  | .port p => s.emit (.flit (.port (bridgePartner p)) f.head f.body f.crc)
  | _ => s

/-- The flit arrived on an inter-chip port. -/
def isPortLink : LinkId → Bool
  | .port _ => true
  | _ => false

/-- A slot on a port in CHECK, MISWIRED or LOOPBACK, whose framer works too: one that is discarded is counted (R302). -/
def State.badSlot (s : State) (l : LinkId) (f : Flit) : State :=
  match l with
  | .port p =>
    if [2, 7, 8].contains (s.portState p) && (f.bad || f.crc != flitCrc f.head f.body) then s.bump (PMP_CRC_ERR_CNT.COUNT p) else s
  | _ => s

/-- The corrected codewords of a port whose PHY is locked are counted (R326). -/
def State.fecFixed (s : State) (l : LinkId) (f : Flit) : State :=
  match l with
  | .port p => if [2, 3, 7, 8].contains (s.portState p) then s.bumpBy (PMP_FEC_COR_CNT.COUNT p) f.fixed else s
  | _ => s

/-- FLIT_RECEIVE. -/
def execFlitReceive (link : LinkId) (flit : Flit) (s : State) : Host.Outcome State Fault Refusal :=
  .next (if s.intBypass ∧ isPortLink link then s.bridgeFlit link flit
    else if s.hubUp ∧ s.linkOpen link then flitReceive link flit (s.fecFixed link flit)
    else if s.hubUp then (s.fecFixed link flit).badSlot link flit
    else s)

end Sys2Proof.Machine
end

