-- ==== Sys2Proof/Machine/Ports.lean ====
section
/-!
DEFINITION. Port events (R307-R309, R316), orderly removal (R319-R322), beacons and absence (R323, R324), bypass writes (R313,
R314), and the service outputs (R317, R318).
-/

namespace Sys2Proof.Machine

open Sys2Proof

/-- The lead Heath and the active Hub's registers are there to act on the service interface. -/
def State.svcUp (s : State) : Bool := s.leadUp

/-! ### Cable present (R316) -/

/-- PRSNT_INSERT. -/
def prsntInsert (p : Port) (s : State) : State :=
  let s1 : State := s.wrIf (SVC_PORT_STATUS.PRESENT p) 1
  if s1.portState p = 0 ∧ !s1.intBypass then s1.setPort p (s1.startState p) else s1

/-- PRSNT_INSERT. -/
def execPrsntInsert (port : Port) (s : State) : Host.Outcome State Fault Refusal :=
  .next (if s.svcUp then prsntInsert port s else s)

/-- PRSNT_REMOVE: DOWN from any state but BRIDGED. -/
def prsntRemove (p : Port) (s : State) : State :=
  let s1 : State := (s.wrIf (SVC_PORT_STATUS.PRESENT p) 0).endRemoval p
  if s1.intBypass then s1 else s1.setPort p 0

/-- PRSNT_REMOVE. -/
def execPrsntRemove (port : Port) (s : State) : Host.Outcome State Fault Refusal :=
  .next (if s.svcUp then prsntRemove port s else s)

/-! ### Orderly removal (R320, R321) -/

/-- RPHASE of a port. -/
def State.rphase (s : State) (p : Port) : Nat := s.rd (SVC_PORT_STATUS.RPHASE p)

/-- Send REMOVE with a KIND (R303). -/
def State.sendRemove (s : State) (p : Port) (kind : Nat) : State :=
  s.emit (setOut p 5 false (BitVec.ofNat 192 (kind + p.val * 2 ^ 8)))

/-- The removal window opens: event 0x0C01. -/
def State.openWindow (s : State) (p : Port) (far : Bool) : State :=
  ((s.endRemoval p).wr (SVC_PORT_STATUS.RPHASE p) 1).raise 0x0C01 0
    [p.val, bitNat far]

/-- The removal is cancelled: event 0x0C02. -/
def State.cancelRemoval (s : State) (p : Port) : State := (s.endRemoval p).raise 0x0C02 0 [p.val]

/-- The removal is refused: the port stays UP, event 0x0C03. -/
def State.refuseRemoval (s : State) (p : Port) (far : Bool) : State :=
  (((s.endRemoval p).wr (SVC_PORT_STATUS.RPHASE p) 4).modPort p fun x => { x with refusedAt := some s.now }).raise 0x0C03 1
    [p.val, bitNat far]

/-- The port goes to SAFE: event 0x0C04. -/
def State.makeSafe (s : State) (p : Port) : State := (s.setPort p 5).raise 0x0C04 0 [p.val]

/-- Step 3: the port leaves the effective masks and drains. -/
def State.startDrain (s : State) (p : Port) : State :=
  ((s.wr (SVC_PORT_STATUS.RPHASE p) 3).modPort p fun x => { x with removed := true }).pumpWaiting

/-- ATTN_PRESS. -/
def attnPress (p : Port) (s : State) : State :=
  let st := s.portState p
  if s.rphase p = 1 then
    (if st = 3 then s.sendRemove p 3 else s).cancelRemoval p
  else if st = 3 ∧ (s.rphase p = 0 ∨ s.rphase p = 4) then (s.sendRemove p 0).openWindow p false
  else if [1, 4, 6, 7, 8].contains st ∧ (s.rphase p = 0 ∨ s.rphase p = 4) then s.openWindow p false
  else s

/-- ATTN_PRESS. -/
def execAttnPress (port : Port) (s : State) : Host.Outcome State Fault Refusal :=
  .next (if s.svcUp ∧ !s.intBypass ∧ s.rd (SVC_PORT.BTN_EN port) = 1 then attnPress port s else s)

/-- REMOVAL_WINDOW_CLOSE: NEEDED is set; a port in UP agrees or refuses, one without a far end goes to SAFE. -/
def removalWindowClose (p : Port) (s : State) : State :=
  let st := s.portState p
  let s1 : State := s.wrIf (SVC_PORT_STATUS.NEEDED p) (bitNat (s.needed p))
  if st = 3 then
    if s.needed p then (s1.sendRemove p 2).refuseRemoval p false
    else
      let s2 : State := (s1.sendRemove p 1).wr (SVC_PORT_STATUS.RPHASE p) 2
      if s.ports[p].agreeRcvd then s2.startDrain p else s2
  else if st = 4 then (s1.leaveUp p).makeSafe p
  else if [1, 6, 7, 8].contains st then s1.makeSafe p
  else s1.endRemoval p

/-- REMOVAL_WINDOW_CLOSE. -/
def execRemovalWindowClose (port : Port) (s : State) : Host.Outcome State Fault Refusal :=
  .next (if s.svcUp ∧ s.rphase port = 1 then removalWindowClose port s else s)

/-- A REMOVE set with the PORT field `far` arrives: bridged on as it is, or taken by a port in UP. -/
def State.removeIn (s : State) (p far : Port) (kind : Nat) (f : State → State) : State :=
  if s.intBypass then s.bridge p 5 false (BitVec.ofNat 192 (kind + far.val * 2 ^ 8))
  else if s.portState p = 3 then f s
  else s

/-- REMOVE_REQUEST: KIND 0. -/
def removeRequest (p far : Port) (s : State) : State :=
  s.removeIn p far 0 fun s => if s.rphase p = 0 ∨ s.rphase p = 4 then s.openWindow p true else s

/-- REMOVE_REQUEST. -/
def execRemoveRequest (x : RemoveSet) (s : State) : Host.Outcome State Fault Refusal :=
  .next (if s.svcUp then removeRequest x.port x.far s else s)

/-- REMOVE_AGREE: KIND 1. Unasked, it is answered with KIND 1 and the drain starts (R321). -/
def removeAgree (p far : Port) (s : State) : State :=
  s.removeIn p far 1 fun s =>
    let s1 : State := s.modPort p fun x => { x with agreeRcvd := true }
    match s.rphase p with
    | 1 => s1
    | 2 => s1.startDrain p
    | 3 => s1
    | _ => (s1.sendRemove p 1).startDrain p

/-- REMOVE_AGREE. -/
def execRemoveAgree (x : RemoveSet) (s : State) : Host.Outcome State Fault Refusal :=
  .next (if s.svcUp then removeAgree x.port x.far s else s)

/-- REMOVE_REFUSE: KIND 2. -/
def removeRefuse (p far : Port) (s : State) : State :=
  s.removeIn p far 2 fun s => if s.rphase p = 1 ∨ s.rphase p = 2 then s.refuseRemoval p true else s

/-- REMOVE_REFUSE. -/
def execRemoveRefuse (x : RemoveSet) (s : State) : Host.Outcome State Fault Refusal :=
  .next (if s.svcUp then removeRefuse x.port x.far s else s)

/-- REMOVE_CANCEL: KIND 3. -/
def removeCancel (p far : Port) (s : State) : State :=
  s.removeIn p far 3 fun s => if s.rphase p = 1 ∨ s.rphase p = 2 then s.cancelRemoval p else s

/-- REMOVE_CANCEL. -/
def execRemoveCancel (x : RemoveSet) (s : State) : Host.Outcome State Fault Refusal :=
  .next (if s.svcUp then removeCancel x.port x.far s else s)

/-- REMOVE_DONE: KIND 4; with KIND 4 sent too, the port goes to SAFE. -/
def removeDone (p far : Port) (s : State) : State :=
  s.removeIn p far 4 fun s =>
    let s1 : State := s.modPort p fun x => { x with doneRcvd := true }
    if s.rphase p = 3 ∧ s.ports[p].doneSent then s1.makeSafe p else s1

/-- REMOVE_DONE. -/
def execRemoveDone (x : RemoveSet) (s : State) : Host.Outcome State Fault Refusal :=
  .next (if s.svcUp then removeDone x.port x.far s else s)

/-- REMOVE_SILENCE: no KIND 1 or 2 within 1 ms counts as KIND 2. -/
def execRemoveSilence (port : Port) (s : State) : Host.Outcome State Fault Refusal :=
  .next (if s.svcUp ∧ s.rphase port = 2 then s.refuseRemoval port true else s)

/-- A port holds no flit to send, to be acknowledged or received. -/
def State.drained (s : State) (p : Port) : Bool := s.linkFlits (.port p) == 0

/-- REMOVE_DRAINED: KIND 4 is sent. -/
def removeDrained (p : Port) (s : State) : State :=
  let s1 : State := (s.sendRemove p 4).modPort p fun x => { x with doneSent := true }
  if s.ports[p].doneRcvd then s1.makeSafe p else s1

/-- REMOVE_DRAINED. -/
def execRemoveDrained (port : Port) (s : State) : Host.Outcome State Fault Refusal :=
  .next (if s.svcUp ∧ s.rphase port = 3 ∧ !s.ports[port].doneSent ∧ s.drained port then removeDrained port s else s)

/-- Steps 3 to 5 of R320 at once, with no window (R321). -/
def State.forceSafe (s : State) (p : Port) : State :=
  if s.portState p = 3 ∧ s.rphase p ≠ 3 then
    ((s.endRemoval p).sendRemove p 1).startDrain p
  else s

/-- A write of `SVC_PORT` (R321, R327): FORCE_SAFE acts and reads 0. -/
def svcPortWrite (p : Port) (v : Word) (s : State) : State :=
  let s1 : State := s.store (SVC_PORT.reg p) ((SVC_PORT.FORCE_SAFE p).put v 0)
  if (SVC_PORT.FORCE_SAFE p).get v = 1 ∧ !s1.intBypass then s1.forceSafe p else s1

/-- FORCE_SAFE. -/
def execForceSafe (port : Port) (v : Word) (s : State) : Host.Outcome State Fault Refusal :=
  .next (if s.busUp 0 ∧ (SVC_PORT.FORCE_SAFE port).get v = 1 then svcPortWrite port v s else s)

/-! ### Link control and training (R307) -/

/-- A write of `PMP_LNK_CTRL` (R307, R326): limits of 0 store 1, EN = 0 holds the port DOWN, RESTART sends a FAILED, MISWIRED,
LOOPBACK or SAFE port to TRAIN. -/
def lnkCtrlWrite (p : Port) (v : Word) (s : State) : State :=
  let v1 := (PMP_LNK_CTRL.RESTART p).put v 0
  let v2 := if (PMP_LNK_CTRL.TRAIN_MS p).get v1 = 0 then (PMP_LNK_CTRL.TRAIN_MS p).put v1 1 else v1
  let v3 := if (PMP_LNK_CTRL.RETRAIN_MS p).get v2 = 0 then (PMP_LNK_CTRL.RETRAIN_MS p).put v2 1 else v2
  let s1 : State := s.store (PMP_LNK_CTRL.reg p) v3
  if s1.intBypass then s1
  else if s1.rd (PMP_LNK_CTRL.EN p) = 0 then s1.setPort p 0
  else if s1.portState p = 0 then s1.setPort p (s1.startState p)
  else if (PMP_LNK_CTRL.RESTART p).get v = 1 ∧ [5, 6, 7, 8].contains (s1.portState p) then s1.setPort p 1
  else s1

/-- LINK_RESTART. -/
def execLinkRestart (port : Port) (v : Word) (s : State) : Host.Outcome State Fault Refusal :=
  .next (if s.busUp 0 ∧ (PMP_LNK_CTRL.RESTART port).get v = 1 then lnkCtrlWrite port v s else s)

/-- The width that a set of trained lanes allows: full, degraded (lanes 0-3 or 4-7, R301), or none. -/
def lockWidth (lanes : Byte) (minw : Nat) : Option Bool :=
  if lanes = 0xFF then some false
  else if minw = 0 ∧ (lanes &&& 0x0F = 0x0F ∨ lanes &&& 0xF0 = 0xF0) then some true
  else none

/-- The port comes UP: event 0x0708 at degraded width. -/
def State.portUp (s : State) (p : Port) : State :=
  let s1 : State := s.setPort p 3
  if s1.rd (PMP_LNK_STATUS.WIDTH4 p) = 1 then s1.raise 0x0708 1 [p.val, s1.rd (PMP_LNK_STATUS.LANES p)] else s1

/-- PHY_LOCK. -/
def phyLock (p : Port) (lanes : Byte) (sameFar : Bool) (s : State) : State :=
  let st := s.portState p
  match lockWidth lanes (s.rd (PMP_LNK_CTRL.MINW p)) with
  | none => s
  | some narrow =>
    if st = 1 ∨ st = 4 ∨ s.intBypass then
      let s1 : State := (s.wrIf (PMP_LNK_STATUS.LANES p) lanes.toNat).wrIf (PMP_LNK_STATUS.WIDTH4 p) (bitNat narrow)
      if s.intBypass then s1
      else if st = 1 then s1.setPort p 2
      else if sameFar then s1.portUp p
      else s1.setPort p 2
    else s

/-- PHY_LOCK. -/
def execPhyLock (port : Port) (lanes : Byte) (sameFar : Bool) (s : State) : Host.Outcome State Fault Refusal :=
  .next (if s.svcUp then phyLock port lanes sameFar s else s)

/-- TRAIN_TIMEOUT: three times in a row in TRAIN, or once in RETRAIN. -/
def trainTimeout (p : Port) (s : State) : State :=
  match s.portState p with
  | 1 =>
    let n := s.ports[p].trainFails + 1
    if n = 3 then s.setPort p 6 else s.modPort p fun x => { x with trainFails := n }
  | 4 => s.setPort p 6
  | _ => s

/-- TRAIN_TIMEOUT. -/
def execTrainTimeout (port : Port) (s : State) : Host.Outcome State Fault Refusal :=
  .next (if s.svcUp then trainTimeout port s else s)

/-- LOSS_OF_LOCK: an UP port retrains, its link layer kept. -/
def lossOfLock (p : Port) (s : State) : State :=
  if s.intBypass then s.wrIf (PMP_LNK_STATUS.LANES p) 0
  else if s.portState p = 3 then s.setPort p 4
  else s

/-- LOSS_OF_LOCK. -/
def execLossOfLock (port : Port) (s : State) : Host.Outcome State Fault Refusal :=
  .next (if s.svcUp then lossOfLock port s else s)

/-- UNC_CODEWORD_LIMIT: uncorrectable codewords within 1 ms. -/
def uncCodewordLimit (p : Port) (n : Nat) (s : State) : State :=
  let s1 : State := s.bumpBy (PMP_FEC_UNC_CNT.COUNT p) n
  if s1.portState p = 3 ∧ s1.rd (PMP_LNK_UNC.LIMIT p) < n then s1.setPort p 4 else s1

/-- UNC_CODEWORD_LIMIT. -/
def execUncCodewordLimit (port : Port) (n : Nat) (s : State) : Host.Outcome State Fault Refusal :=
  .next (if s.svcUp then uncCodewordLimit port n s else s)

/-! ### Beacons (R303, R305, R308) -/

/-- CHIP of a BEACON. -/
def bcnChip (x : BitVec 192) : Nat := bitsOf x.toNat 0 6
/-- PORT. -/
def bcnPort (x : BitVec 192) : Nat := bitsOf x.toNat 8 4
/-- DOMAIN. -/
def bcnDomain (x : BitVec 192) : Nat := bitsOf x.toNat 16 16
/-- MSTATE. -/
def bcnState (x : BitVec 192) : Nat := bitsOf x.toNat 32 2
/-- VIA. -/
def bcnVia (x : BitVec 192) : Nat := bitsOf x.toNat 40 6
/-- VIA_V. -/
def bcnViaV (x : BitVec 192) : Bool := x.getLsbD 46

/-- A BEACON passes the check of R308. -/
def State.beaconGood (s : State) (p : Port) (x : BitVec 192) : Bool :=
  bcnDomain x == s.rd SVC_ID.DOMAIN && bcnChip x != s.chip &&
    (s.rd (PMP_LNK_NEIGH.V p) == 0 ||
      (bcnChip x == s.rd (PMP_LNK_NEIGH.CHIP p) && bcnPort x == s.rd (PMP_LNK_NEIGH.PORT p)) ||
      (bcnViaV x && bcnVia x == s.rd (PMP_LNK_NEIGH.CHIP p)))

/-- A good BEACON is noted: the far end, and whether a bypass lies between. -/
def State.beaconNote (s : State) (p : Port) (x : BitVec 192) : State :=
  let s1 : State := ((s.wrIf (PMP_LNK_STATUS.FCHIP p) (bcnChip x)).wrIf (PMP_LNK_STATUS.FPORT p) (bcnPort x)).wrIf
    (PMP_LNK_STATUS.VIA_BYPASS p) (bitNat (bcnViaV x))
  let d : Chip := ⟨bcnChip x % 64, Nat.mod_lt _ (by decide)⟩
  if bcnViaV x then s1 else s1.modPort p fun y => { y with heard := y.heard.filter (· != d) ++ [d] }

/-- A BEACON in CHECK: two good ones in a row bring the port UP; one that fails leads to LOOPBACK or MISWIRED. One with VIA_V = 1 sets
VIA_BYPASS whether it passes or not (R308). -/
def State.beaconCheck (s : State) (p : Port) (x : BitVec 192) : State :=
  if s.beaconGood p x then
    let n := s.ports[p].good + 1
    let s1 : State := (s.beaconNote p x).modPort p fun y => { y with good := n, locked := false }
    if n = 2 then s1.portUp p else s1
  else
    let s1 : State := if bcnViaV x then s.wrIf (PMP_LNK_STATUS.VIA_BYPASS p) 1 else s
    (s1.setPort p (if bcnChip x = s.chip then 8 else 7)).raise 0x0709 2 [p.val, x.toNat % 2 ^ 32, x.toNat / 2 ^ 32 % 2 ^ 32]

/-- A BEACON in UP: another far end, or one that asks for a link-layer start (R403), takes the port to CHECK. -/
def State.beaconUp (s : State) (p : Port) (x : BitVec 192) : State :=
  let other := bcnChip x != s.rd (PMP_LNK_STATUS.FCHIP p) || bcnPort x != s.rd (PMP_LNK_STATUS.FPORT p)
  if other || (bcnState x == 0 && s.ports[p].locked) then s.setPort p 2
  else if bcnState x = 0 then s.beaconNote p x
  else (s.beaconNote p x).modPort p fun y => { y with locked := true }

/-- BEACON. -/
def beacon (p : Port) (x : BitVec 192) (t : Nat) (s0 : State) : State :=
  let s : State := s0.at t
  if s.intBypass then
    s.bridge p 4 false (if bcnViaV x then x else
      (x &&& ~~~(BitVec.ofNat 192 (0x3F * 2 ^ 40))) ||| BitVec.ofNat 192 (s.chip % 64 * 2 ^ 40 + 2 ^ 46))
  else
    let s1 : State := if bcnViaV x then s.declareAbsent (2 ^ bcnVia x) 1 else s
    match s1.portState p with
    | 2 => s1.beaconCheck p x
    | 3 => s1.beaconUp p x
    | _ => s1

/-- BEACON. -/
def execBeacon (port : Port) (payload : BitVec 192) (t : Nat) (s : State) : Host.Outcome State Fault Refusal :=
  .next (if s.svcUp then beacon port payload t s else s)

/-- The BEACON of a port: MSTATE 2 while leaving, 1 in UP, else 0. -/
def State.ownBeacon (s : State) (p : Port) : BitVec 192 :=
  let m := if s.rd SVC_CTRL.LEAVE = 1 then 2 else if s.portState p = 3 then 1 else 0
  BitVec.ofNat 192 (s.chip + p.val * 2 ^ 8 + s.rd SVC_ID.DOMAIN * 2 ^ 16 + m * 2 ^ 32)

/-- BEACON_SEND: a port whose PHY is locked sends its BEACON. -/
def beaconSend (p : Port) (s : State) : State :=
  if [2, 3, 7, 8].contains (s.portState p) then s.emit (setOut p 4 false (s.ownBeacon p)) else s

/-- BEACON_SEND. -/
def execBeaconSend (port : Port) (s : State) : Host.Outcome State Fault Refusal :=
  .next (if s.svcUp ∧ s.hubUp then beaconSend port s else s)

/-! ### Absence (R323, R324) -/

/-- A port has had the chip as its direct far end since its `SVC_ABSENT` bit was last cleared. -/
def State.heardOf (s : State) (d : Chip) : Bool := (List.finRange 16).any fun p => s.ports[p].heard.contains d

/-- BEACON_ABSENCE: no direct BEACON from the chip for ABS_US. -/
def execBeaconAbsence (d : Chip) (s : State) : Host.Outcome State Fault Refusal :=
  .next (if s.svcUp ∧ s.hubUp ∧ s.heardOf d then s.declareAbsent (2 ^ d.val) 0 else s)

/-- ABSENT_SET: the chips of a received mask. -/
def absentSet (p : Port) (x : BitVec 192) (s : State) : State :=
  if s.intBypass then s.bridge p 6 false x
  else if s.hubUp ∧ s.portState p = 3 ∧ !s.ports[p].removed then s.declareAbsent (bitsOf x.toNat 0 64) 3
  else s

/-- ABSENT_SET. -/
def execAbsentSet (port : Port) (payload : BitVec 192) (s : State) : Host.Outcome State Fault Refusal :=
  .next (if s.svcUp then absentSet port payload s else s)

/-- A write of one half of `SVC_ABSENT`: bits written 1 are cleared, and what was heard of those chips is forgotten. -/
def svcAbsentWrite (hi : Bool) (v : Word) (s : State) : State :=
  let old := s.absent
  let s1 : State := s.store (if hi then SVC_ABSENT_HI.reg else SVC_ABSENT_LO.reg) v
  let gone (d : Chip) : Bool := old.testBit d.val && !s1.absent.testBit d.val
  { s1 with ports := s1.ports.map fun x => { x with heard := x.heard.filter fun d => !gone d } }

/-! ### SVC_CTRL, SVC_ID and bypass -/

/-- A write of `SVC_CTRL`: LEAVE drains every port in UP (R322). -/
def svcCtrlWrite (v : Word) (s : State) : State :=
  let old := s.rd SVC_CTRL.LEAVE
  let s1 : State := s.store SVC_CTRL.reg v
  if old = 0 ∧ s1.rd SVC_CTRL.LEAVE = 1 then (List.finRange 16).foldl (fun (s : State) (p : Port) => s.forceSafe p) s1 else s1

/-- SVC_LEAVE. -/
def execSvcLeave (v : Word) (s : State) : Host.Outcome State Fault Refusal :=
  .next (if s.busUp 0 ∧ SVC_CTRL.LEAVE.get v = 1 then svcCtrlWrite v s else s)

/-- A write of `SVC_ID`: with LOCK set, one condition of internal bypass ends (R313). -/
def svcIdWrite (v : Word) (s : State) : State := (s.store SVC_ID.reg v).checkBypass

/-- SVC_ID_LOCK. -/
def execSvcIdLock (v : Word) (s : State) : Host.Outcome State Fault Refusal :=
  .next (if s.busUp 0 ∧ SVC_ID.LOCK.get v = 1 then svcIdWrite v s else s)

/-- A write of `SVC_BYP_CTRL`: internal bypass follows FORCE_INT, the external switches follow HOLD (R313, R314). -/
def svcBypWrite (v : Word) (s : State) : State :=
  let old := s.rd SVC_BYP_CTRL.HOLD
  let s1 : State := s.store SVC_BYP_CTRL.reg v
  let new := s1.rd SVC_BYP_CTRL.HOLD
  (if old = new then s1 else s1.raiseHeath 0x0C06 1 [1, 1 - new]).checkBypass

/-- SVC_BYP_CTRL_WRITE. -/
def execSvcBypCtrlWrite (v : Word) (s : State) : Host.Outcome State Fault Refusal :=
  .next (if s.busUp 0 then svcBypWrite v s else s)

/-- BYPASS_HOLD_RELEASE: the Heath clears HOLD, and the switches close. -/
def bypassHoldRelease (s : State) : State := (s.wr SVC_BYP_CTRL.HOLD 0).raiseHeath 0x0C06 1 [1, 1]

/-- BYPASS_HOLD_RELEASE. -/
def execBypassHoldRelease (s : State) : Host.Outcome State Fault Refusal :=
  .next (if s.svcUp ∧ s.rd SVC_BYP_CTRL.HOLD = 1 then bypassHoldRelease s else s)

/-! ### Service outputs (R317, R318) -/

/-- What a light shows. -/
inductive Light where
  | off | on | blink1 | blink4
  deriving DecidableEq, Repr

/-- A removal was refused in the last 5 s. -/
def State.justRefused (s : State) (p : Port) : Bool :=
  match s.ports[p].refusedAt with | some t => decide (s.now < t + 5000000 * usUnits) | none => false

/-- LED_LOCATE of a port. -/
def State.ledLocate (s : State) (p : Port) : Light :=
  if s.rphase p = 1 ∨ s.rphase p = 2 then .blink1
  else if s.rd (SVC_PORT.LOCATE p) = 1 then .blink4 else .off

/-- LED_FAULT of a port. -/
def State.ledFault (s : State) (p : Port) : Light :=
  let st := s.portState p
  if s.justRefused p then .blink4
  else if st = 6 ∨ st = 7 then .on
  else if st = 3 ∧ s.rd (PMP_LNK_STATUS.WIDTH4 p) = 1 then .blink1
  else .off

/-- LED_SAFE of a port. -/
def State.ledSafe (s : State) (p : Port) : Light :=
  if s.rphase p = 1 ∨ s.rphase p = 2 ∨ s.justRefused p then .off
  else if s.portState p = 5 ∨ (s.portState p = 0 ∧ s.rd (SVC_PORT_STATUS.PRESENT p) = 0) then .on
  else .off

/-- SERVICE_REQ_N is driven low. -/
def State.serviceReq (s : State) : Bool :=
  s.rd SVC_CTRL.REQ == 1 || (s.rd SVC_CTRL.AUTO_REQ == 1 && (List.finRange 16).any fun p =>
    let st := s.portState p
    st == 5 || st == 6 || st == 7 || (st == 3 && s.rd (PMP_LNK_STATUS.WIDTH4 p) == 1))

end Sys2Proof.Machine
end

