-- ==== Sys2Proof/Machine/WellMath.lean ====
section
/-!
DEFINITION. What a Well computes: the weight formats (R222), the expert directory and record (R223-R226), the forward
computation of a copy (R227) and the backward one (R234, R235).
-/

namespace Sys2Proof.Machine

open Sys2Proof

/-! ### Directory entries (R224) -/

/-- A directory entry. -/
structure DirE where
  waddr : Nat
  wfmt : Nat
  afmt : Nat
  act : Nat
  gated : Bool
  bias : Bool
  iw : Nat
  oscale : Word
  deriving DecidableEq, Repr

/-- Intermediate width. -/
def DirE.inter (d : DirE) : Nat := d.iw * 256

/-- The entry that 16 bytes spell: none when VALID is 0, an encoding is reserved or a reserved field is not 0 (R226). A WADDR that
is no multiple of 64 counts as a reserved encoding (DEDUCED, log entry 42). -/
def decodeDir (b : List Byte) : Option DirE :=
  let lo := ofBytes (slice b 0 8)
  let hi := ofBytes (slice b 8 8)
  let d : DirE := { waddr := bitsOf lo 0 37, wfmt := bitsOf hi 1 3, afmt := bitsOf hi 4 2, act := bitsOf hi 6 3, gated := hi.testBit 9
                    bias := hi.testBit 10, iw := bitsOf hi 16 7, oscale := BitVec.ofNat 32 (hi / 2 ^ 32) }
  if !hi.testBit 0 ∨ bitsOf lo 37 27 ≠ 0 ∨ bitsOf hi 11 5 ≠ 0 ∨ bitsOf hi 23 9 ≠ 0 ∨ 5 < d.wfmt ∨ 2 < d.afmt ∨ 5 < d.act ∨
      d.iw = 0 ∨ 64 < d.iw ∨ d.waddr % 64 ≠ 0 then none
  else some d

/-! ### Weight formats (R222, R225) -/

/-- Bytes of a 256-element chunk of a format. -/
def chunkBytes (wfmt : Nat) : Nat :=
  match wfmt with
  | 0 => 136
  | 1 => 200
  | 2 => 200
  | 3 => 264
  | 4 => 264
  | _ => 256

/-- Bytes of a row of `n` elements; an INT8 row carries its scale. -/
def rowBytes (wfmt n : Nat) : Nat := n / 256 * chunkBytes wfmt + (if wfmt = 5 then 4 else 0)

/-- The next 64-byte boundary. -/
def up64 (n : Nat) : Nat := (n + 63) / 64 * 64

/-- Bits of an element. -/
def elemBits (wfmt : Nat) : Nat := match wfmt with | 0 => 4 | 1 => 6 | 2 => 6 | _ => 8

/-- The value of an element before its scale. -/
def elemValue (wfmt n : Nat) : FV :=
  match wfmt with
  | 0 => e2m1.value n
  | 1 => e3m2.value n
  | 2 => e2m3.value n
  | 3 => ofE4m3 n
  | 4 => ofE5m2 n
  | _ => if n < 128 then .fin false n 0 else .fin true (256 - n) 0

/-- Element `i` of a chunk, with its E8M0 scale; an INT8 element has none. -/
def chunkElem (wfmt : Nat) (chunk : List Byte) (i : Nat) : FV :=
  let k := elemBits wfmt
  let v := elemValue wfmt (bitsOf (ofBytes (slice chunk (i * k / 8) 2)) (i * k % 8) k)
  if wfmt = 5 then v
  else
    let sc := (chunk.getD (32 * k + i / 32) 0).toNat
    if sc = 0xFF then .nan else v.scale ((sc : Int) - 127)

/-- The elements of a row, and its scale as FP32. -/
def weightRow (wfmt n : Nat) (bs : List Byte) : List FV × Word :=
  let c := chunkBytes wfmt
  (((List.range (n / 256)).map fun j =>
      let ch := slice bs (c * j) c
      (List.range 256).map (chunkElem wfmt ch)).flatten,
   if wfmt = 5 then BitVec.ofNat 32 (ofBytes (slice bs (n / 256 * c) 4)) else one32)

/-! ### The expert record (R225) -/

/-- Offsets of the parts in a record: W_gate, W_up, W_down, b_gate, b_up, b_down, and the record's length. -/
structure RecMap where
  gate : Nat
  up : Nat
  down : Nat
  bGate : Nat
  bUp : Nat
  bDown : Nat
  len : Nat
  deriving DecidableEq, Repr

/-- Where the parts of an entry's record lie. -/
def DirE.parts (d : DirE) (h : Nat) : RecMap :=
  let i := d.inter
  let mat := i * rowBytes d.wfmt h
  let up := if d.gated then up64 mat else 0
  let down := up64 (up + mat)
  let downEnd := down + h * rowBytes d.wfmt i
  let bGate := up64 downEnd
  let bUp := if d.gated then up64 (bGate + 4 * i) else bGate
  let bDown := up64 (bUp + 4 * i)
  { gate := 0, up := up, down := down, bGate := bGate, bUp := bUp, bDown := bDown
    len := if d.bias then bDown + 4 * h else downEnd }

/-- Rows of a matrix of the record. -/
def State.weights (s : State) (w : WellNo) (d : DirE) (off rows n : Nat) : List (List FV × Word) :=
  let k := rowBytes d.wfmt n
  (List.range rows).map fun r => weightRow d.wfmt n (s.stackRead w (d.waddr + off + r * k) k)

/-- A bias vector; +0.0 where the record has none. -/
def State.biasRow (s : State) (w : WellNo) (d : DirE) (off n : Nat) : List Word :=
  if d.bias then wordRow n (s.stackRead w (d.waddr + off) (4 * n)) else List.replicate n 0

/-- An expert as the Well reads it. -/
structure Expert where
  d : DirE
  gate : List (List FV × Word)
  up : List (List FV × Word)
  down : List (List FV × Word)
  bGate : List Word
  bUp : List Word
  bDown : List Word

/-- Read an expert's record. -/
def State.expert (s : State) (w : WellNo) (d : DirE) (h : Nat) : Expert :=
  let m := d.parts h
  { d := d, gate := if d.gated then s.weights w d m.gate d.inter h else [], up := s.weights w d m.up d.inter h
    down := s.weights w d m.down h d.inter, bGate := s.biasRow w d m.bGate d.inter, bUp := s.biasRow w d m.bUp d.inter
    bDown := s.biasRow w d m.bDown h }

/-! ### The forward computation (R227) -/

/-- An activation in the entry's format: its exact value, and whether it saturated. -/
def toAct (afmt : Nat) (x : Word) : FV × Bool :=
  match afmt with
  | 0 => let r := toBf x; (ofBf r.1, r.2)
  | 1 => let r := toFp8 1 (of32 x); (ofE4m3 r.1, r.2)
  | _ => let r := toFp8 2 (of32 x); (ofE5m2 r.1, r.2)

/-- What R227 forms for a copy: accumulators, u, h, hp, y, and the saturations counted. -/
structure Forward where
  gacc : List Word
  uacc : List Word
  gf : List Word
  u : List Word
  hp : List FV
  y : List Word
  sats : Nat

/-- R227 for a landed BF16 row. -/
def Expert.forward (x : Expert) (row : List Nat) : Forward :=
  let d := x.d
  let as := if d.afmt = 0 then row.map fun n => (ofBf n, false) else row.map fun n => toAct d.afmt (bfTo32 n)
  let a := as.map (·.1)
  let uacc := x.up.map fun r => dot r.1 a
  let gacc := x.gate.map fun r => dot r.1 a
  let us := ((uacc.zip x.bUp).zip x.up).map fun p => fused p.1.1 p.1.2 p.2.2 (if d.gated then 0 else d.act)
  let gs := ((gacc.zip x.bGate).zip x.gate).map fun p => fused p.1.1 p.1.2 p.2.2 d.act
  let u := us.map (·.1)
  let gf := gs.map (·.1)
  let h := if d.gated then (gf.zip u).map fun p => mul32 p.1 p.2 else u
  let hs := h.map (toAct d.afmt)
  let hp := hs.map (·.1)
  let ys := (x.down.zip x.bDown).map fun r => fused (dot r.1.1 hp) r.2 (mul32 r.1.2 d.oscale) 0
  { gacc := gacc, uacc := uacc, gf := gf, u := u, hp := hp, y := ys.map (·.1)
    sats := (as.filter (·.2)).length + (hs.filter (·.2)).length +
      (us ++ gs ++ ys).foldl (fun n r => n + r.2) 0 }

/-! ### The backward computation (R234) -/

/-- What R234 forms for a copy. -/
structure Backward where
  dx : List Word
  dw : Word
  dyw : List Word
  hp : List FV
  dga : List Word
  dua : List Word
  sats : Nat

/-- Column `j` of a matrix. -/
def column (m : List (List FV × Word)) (j : Nat) : List FV := m.map fun r => r.1.getD j .nan

/-- R234 for a logged input row, the input gradient row and the copy's weight. -/
def Expert.backward (x : Expert) (row dyRow : List Nat) (weight : Word) : Backward :=
  let d := x.d
  let f := x.forward row
  let dy := dyRow.map bfTo32
  let dw := chunkedSum ((dy.zip f.y).map fun p => mul32 p.1 p.2)
  let dyw := (dy.zip x.down).map fun p => mul32 (mul32 weight p.1) (mul32 p.2.2 d.oscale)
  let dywV := dyw.map of32
  let dhp := (List.range d.inter).map fun j => dot (column x.down j) dywV
  -- the derivatives of the gate inputs, or of the up inputs without a gate
  let gd := if d.gated then (f.gacc.zip x.bGate).map fun p => actDeriv d.act (add32 p.1 p.2) else []
  let ud := if d.gated then [] else (f.uacc.zip x.bUp).map fun p => actDeriv d.act (add32 p.1 p.2)
  let dga := if !d.gated then [] else
    ((dhp.zip f.u).zip (x.gate.zip gd)).map fun p => mul32 (mul32 (mul32 p.1.1 p.1.2) p.2.1.2) p.2.2.1
  let dua := if d.gated then ((dhp.zip f.gf).zip x.up).map fun p => mul32 (mul32 p.1.1 p.1.2) p.2.2
    else ((dhp.zip x.up).zip ud).map fun p => mul32 (mul32 p.1.1 p.1.2.2) p.2.1
  let gv := dga.map of32
  let uv := dua.map of32
  let dx := (List.range row.length).map fun i =>
    if d.gated then add32 (dot (column x.gate i) gv) (dot (column x.up i) uv) else dot (column x.up i) uv
  { dx := dx, dw := dw, dyw := dyw, hp := f.hp, dga := dga, dua := dua, sats := f.sats + ((gd ++ ud).filter (·.2)).length }

/-- MACs of a forward copy. -/
def DirE.macs (d : DirE) (h : Nat) : Nat := d.inter * h * (if d.gated then 3 else 2)

end Sys2Proof.Machine
end

