-- ==== Sys2Proof/Machine/Wells.lean ====
section
/-!
DEFINITION. A Well at work: attempts opened and closed, the engine arbiter (R229-R231), tiles, activation and gradient logs
(R233, R236), scoring tiles (R232), and its reports (R237, R238).
-/

namespace Sys2Proof.Machine

open Sys2Proof

/-! ### Packets between the Hub and a Well -/

/-- A Well packet finds its attempt open; a packet of another attempt is stale (R193, R238). -/
def State.openFor (s : State) (w : WellNo) (p : Pkt) : Option WellOpen :=
  s.wells[w].opens.find? fun o => o.ctx == ctxOf p && o.seq == seqOf p && o.att == attOf p

/-- Change an attempt that a Well holds open. -/
def State.modOpen (s : State) (w : WellNo) (c : Ctx) (seq : Word) (att : Nat) (f : WellOpen → WellOpen) : State :=
  s.modWell w fun k => { k with
    opens := k.opens.map fun o => if o.ctx = c ∧ o.seq = seq ∧ o.att = att then f o else o }

/-- A piece of work of an attempt. -/
def WellWork.ofAtt (c : Ctx) (seq : Word) (att : Nat) : WellWork → Bool
  | .expert t => t.ctx == c && t.seq == seq && t.att == att
  | .score t => t.ctx == c && t.seq == seq && t.att == att

/-- The context of a piece of work. -/
def WellWork.ctx : WellWork → Ctx
  | .expert t => t.ctx
  | .score t => t.ctx

/-- An event of a Well, and its report of KIND 3 (R238, R250). -/
def State.wellEvent (s : State) (w : WellNo) (code sev : Nat) (data : List Nat) (c : Ctx) (seq : Word) (att : Nat) : State :=
  (s.raiseFrom w.val 0 code sev data (some c) seq).wellSays c seq att 3 code

/-! ### The activation log (R233) -/

/-- The index of an entry: record numbers sorted by (TOKEN, RANK). -/
def insRec (x : (Nat × Nat) × Nat) : List ((Nat × Nat) × Nat) → List ((Nat × Nat) × Nat)
  | [] => [x]
  | y :: ys =>
    if x.1.1 < y.1.1 ∨ (x.1.1 = y.1.1 ∧ x.1.2 < y.1.2) then x :: y :: ys else y :: insRec x ys

/-- The bytes of an entry. -/
def actLogBytes (o : WellOpen) : List Byte :=
  let n := o.recs.length
  let idx := (o.recs.zip (List.range n)).foldl (fun l x => insRec ((x.1.1, x.1.2.1), x.2) l) []
  padTo 64 (toBytes 4 o.seq.toNat ++ toBytes 4 (o.layer % 1024) ++ toBytes 4 n) ++
    (o.recs.map fun r => toBytes 8 (r.1 % 2 ^ 22 + r.2.1 % 64 * 2 ^ 22 + r.2.2.1 % 2 ^ 14 * 2 ^ 32) ++ toBytes 8 0 ++ r.2.2.2).flatten ++
    (idx.map fun x => toBytes 8 (x.1.1 % 2 ^ 22 + x.1.2 % 64 * 2 ^ 22 + x.2 * 2 ^ 32)).flatten

/-- Where the next entry starts: the 64-byte boundary after the previous one, or the base when it would pass the end. -/
def nextLog (l : List LogEntry) (size n : Nat) : Nat :=
  match l.getLast? with
  | none => 0
  | some e => let b := up64 (e.start + e.bytes); if size < b + n then 0 else b

/-- Write the activation-log entry of a FORWARD attempt. Entries it overwrites become invalid, and the ledger entries of their
steps with them. -/
def State.writeActLog (s : State) (w : WellNo) (o : WellOpen) : State :=
  let c := o.ctx
  let mib := s.rd (WEL_CTX_ACTLOG_SZ.SIZE_MIB w.val c.val)
  if o.opcode ≠ 1 ∨ mib = 0 ∨ o.recs = [] then s
  else
    let bs := actLogBytes o
    let n := bs.length
    if mib * 2 ^ 20 < n then s.wellEvent w 0x0904 1 [n, mib] c o.seq o.att
    else
      let l := s.wells[w].actlog[c]
      let a := nextLog l (mib * 2 ^ 20) n
      let hit (e : LogEntry) : Bool := e.valid && overlap e.start e.bytes a n
      let gone := (l.filter hit).map (·.seq)
      let s1 : State := s.voidLedger c fun e => gone.contains e.seq
      let s2 : State := s1.modLog w c fun l => (l.map fun e => if hit e then { e with valid := false } else e) ++ [⟨o.seq, a, n, false⟩]
      s2.writeDram w c (s.logBase w c + a) bs

/-! ### The channel requesters of a Well (R239, R241, R244, R374) -/

/-- The requester of R239: 0 engine reads, 1 Well writes, 2 patrol scrub, 3 row-disturb mitigation. -/
def DramWhy.kind : DramWhy → Nat
  | .opening _ | .ledgerRead _ | .tile _ => 0
  | .ledgerWrite _ => 1
  | .scrub _ _ => 2
  | .refresh _ _ _ => 3

/-- A request of an attempt's packet. -/
def DramWhy.ofAtt (c : Ctx) (seq : Word) (att : Nat) : DramWhy → Bool
  | .opening p | .ledgerRead p | .ledgerWrite p => ctxOf p == c && seqOf p == seq && attOf p == att
  | _ => false

/-- A bank that the host holds open (R241). -/
def State.hostHolds (s : State) (w : WellNo) (x : Nat × Nat) : Bool := s.wells[w].hostRows.any fun r => r.1 == x.1 && r.2.1 == x.2

/-- A bank that has had its targeted refreshes of the window: the Well holds its own activates to it (R374). -/
def State.bankSpent (s : State) (w : WellNo) (x : Nat × Nat) : Bool :=
  s.wells[w].rows.any fun b => b.ch == x.1 && b.bank == x.2 && decide (0 < b.targeted ∧ s.rdmBudget w ≤ b.targeted)

/-- The banks of a range of a stack: channel and bank of each page. -/
def State.banksOf (s : State) (a n : Nat) : List (Nat × Nat) := (pagesOf a n).map fun p => ((s.build.pagePlace p).1, (s.build.pagePlace p).2.1)

/-- The banks of a range are free for the Well. -/
def State.banksFree (s : State) (w : WellNo) (a n : Nat) : Bool :=
  (s.wells[w].hostRows == [] && s.wells[w].rows.all fun b => b.targeted == 0) ||
    (s.banksOf a n).all fun x => !s.hostHolds w x && !s.bankSpent w x

/-- The Well's own reads, writes and scrubs are masked in the current window (R244). -/
def State.throttled (s : State) (w : WellNo) : Bool := s.rd (WEL_PCAP_STATUS.THROTTLING w) == 1

/-- The logs of an attempt may be written: its Well's writes are not masked, and the banks are free (R241, R244). -/
def State.logsFree (s : State) (w : WellNo) (o : WellOpen) : Bool :=
  let c := o.ctx
  let act := if o.opcode ≠ 1 ∨ o.recs = [] ∨ s.rd (WEL_CTX_ACTLOG_SZ.SIZE_MIB w.val c.val) = 0 then 0 else (actLogBytes o).length
  let glog := if o.opcode ≠ 2 ∨ s.rd (WEL_CTX_GLOG_SZ.SIZE_MIB w.val c.val) = 0 then 0 else 64
  (act == 0 && glog == 0) || (!s.throttled w &&
    s.banksFree w (s.logBase w c + nextLog s.wells[w].actlog[c] (s.rd (WEL_CTX_ACTLOG_SZ.SIZE_MIB w.val c.val) * 2 ^ 20) act) act &&
    s.banksFree w (s.rd (WEL_CTX_GLOG.BASE_MIB w.val c.val) * 2 ^ 20) glog)

/-! ### Reports -/

/-- Work of an attempt is left on a Well. -/
def Well.busyFor (k : Well) (o : WellOpen) : Bool :=
  (k.queues.any fun q => q.isFor o.ctx o.seq o.att q.expert && q.entries != []) ||
    (k.waiting.any fun x => x.ofAtt o.ctx o.seq o.att) || (k.running.any fun x => x.ofAtt o.ctx o.seq o.att) ||
    (k.scoring.any fun t => t.ctx == o.ctx && t.seq == o.seq && t.att == o.att) ||
    (k.rx.any fun x => ctxOf x.pkt == o.ctx && seqOf x.pkt == o.seq && attOf x.pkt == o.att)

/-- First byte of a context's gradient log. -/
def State.glogBase (s : State) (w : WellNo) (c : Ctx) : Nat := s.rd (WEL_CTX_GLOG.BASE_MIB w.val c.val) * 2 ^ 20

/-- The header of the gradient log, written before local finish, and event 0x0905 when records were left out (R236). -/
def State.closeGlog (s : State) (w : WellNo) (o : WellOpen) : State :=
  let c := o.ctx
  let mib := s.rd (WEL_CTX_GLOG_SZ.SIZE_MIB w.val c.val)
  if o.opcode ≠ 2 ∨ mib = 0 then s
  else
    let h := padTo 64 (toBytes 4 o.seq.toNat ++ toBytes 4 o.fwdSeq.toNat ++ toBytes 4 o.grads ++ toBytes 4 o.gover)
    let s1 : State := s.writeDram w c (s.glogBase w c) h
    if o.gover = 0 then s1 else s1.wellEvent w 0x0905 2 [o.gover, mib] c o.seq o.att

/-- A Well reports what has become true of the attempts it holds: its home's dispatch is complete (KIND 1), and its local
finish (KIND 2), before which its logs are written (R233, R236, R237). -/
def State.wellReports (s : State) (w : WellNo) : State :=
  s.wells[w].opens.foldl (fun (s : State) (o : WellOpen) =>
    let k := s.wells[w]
    let h := homeRec k.homes (mkHome s.chip w.val) o.ctx o.seq o.att
    if !h.complete then s
    else
      let s1 : State := if o.homeSent then s
        else (s.wellSays o.ctx o.seq o.att 1 0).modOpen w o.ctx o.seq o.att fun x => { x with homeSent := true }
      if o.finSent || k.busyFor o || !s.logsFree w o then s1
      else
        let s2 : State := ((s1.writeActLog w o).closeGlog w o).wellSays o.ctx o.seq o.att 2 0
        s2.modOpen w o.ctx o.seq o.att fun x => { x with finSent := true }) s

/-! ### The engine arbiter (R229, R230, R282, R286, R290) -/

/-- Engines of a Well that are not fenced. -/
def State.wellEngines (s : State) (w : WellNo) : Nat := 16 - (bitsSet 16 (s.rd (WEL_FENCE.FENCED w))).length

/-- Priority of a piece of work. -/
def State.workPrio (s : State) (w : WellNo) : WellWork → Nat
  | .score _ => s.rd (WEL_ENG_PRIO.SCORE w)
  | .expert _ => s.rd (WEL_ENG_PRIO.EXPERT w)

/-- The order key of R290 with a context's order. A scoring tile has none and comes first (DESIGN CHOICE, log entry 43). -/
def State.workKey (s : State) : WellWork → Nat
  | .score _ => 0
  | .expert t => 1 + orderKey (s.rd (CTX_ORDER.OUT_MODE t.ctx)) (s.rd (CTX_ORDER.IN_MODE t.ctx)) (s.rd (CTX_ORDER.OT t.ctx))
      (s.rd (CTX_ORDER.OE t.ctx)) ((t.entries.head?.map (·.token)).getD 0) t.expert

/-- A switch of a Well's engines into a context: 48 cycles (R286), charged to it. -/
def State.wellSwitch (s : State) (w : WellNo) (c : Ctx) : State :=
  match s.wells[w].activeCtx with
  | none => s.modWell w fun k => { k with activeCtx := some c }
  | some a =>
    if a = c then s
    else
      let n := s.wellEngines w
      let t := switchTime 0 0
      ((((s.bumpBy CTX_SWITCH_CNT.COUNT n).wr CTX_SWITCH_MAX.CYCLES (max (s.rd CTX_SWITCH_MAX.CYCLES) t)).accCyc c (t * n)).modWell w
        fun k => { k with activeCtx := some c, deficit := chargeDef k.deficit c t })

/-- The engine arbiter grants the next waiting tile when no tile runs and an engine is left. -/
def State.wellGrant (s : State) (w : WellNo) : State :=
  let k := s.wells[w]
  if k.running.isSome ∨ s.wellEngines w = 0 ∨ k.waiting = [] then s
  else
    let top := k.waiting.foldl (fun m x => max m (s.workPrio w x)) 0
    let l := k.waiting.filter fun x => s.workPrio w x == top
    match chooseCtx k.deficit (fun c => l.any fun x => x.ctx == c) k.activeCtx s.visitGain with
    | none => s
    | some (c, d) =>
      match l.filter fun x => x.ctx == c with
      | [] => s
      | x :: xs =>
        let t := xs.foldl (fun b y => if s.workKey y < s.workKey b then y else b) x
        let s1 : State := s.modWell w fun k => { k with deficit := d, waiting := k.waiting.erase t, running := some t, residueOnce := false }
        s1.wellSwitch w c

/-- A context that no longer waits keeps no positive deficit (R282). -/
def State.wellIdle (s : State) (w : WellNo) : State :=
  s.modWell w fun k => { k with deficit := dropIdle k.deficit fun c =>
    (k.waiting.any fun x => x.ctx == c) || (k.running.any fun x => x.ctx == c) }

/-! ### The receive buffer for VC0 (R197, R198, R227, R231, R232) -/

/-- A SCORE_ROW takes a landing slot and joins its attempt's scoring tile, which closes at its 128th token or at LAST (R232). -/
def State.scoreRowTake (s : State) (w : WellNo) (p : Pkt) : State :=
  let c := ctxOf p
  let w1 := p.w1.toNat
  let row := payloadBf true (s.hid c) p.body
  let mine (t : ScoreTile) : Bool := t.ctx == c && t.seq == seqOf p && t.att == attOf p
  let t0 : ScoreTile := (s.wells[w].scoring.find? mine).getD ⟨c, seqOf p, attOf p, bitsOf w1 22 10, []⟩
  let t1 : ScoreTile := { t0 with toks := t0.toks ++ [(bitsOf w1 0 22, row)] }
  let close := w1.testBit 32 || decide (128 ≤ t1.toks.length)
  let others := s.wells[w].scoring.filter fun t => !mine t
  (s.modWell w fun k => { k with
    waiting := k.waiting ++ (if close then [.score t1] else [])
    scoring := if close then others else others ++ [t1] }).wellGrant w

/-- What becomes of a packet at the head of the buffer: it waits for its attempt to be opened or for a landing slot, it waits for a queue,
or it is taken. -/
inductive Rx where
  | waits | queue
  | taken (s : State)

/-- A DISPATCH lands in a slot and is queued with its expert (R198, R199, R227, R234, R445). -/
def State.wellLand (s : State) (w : WellNo) (p : Pkt) : Rx :=
  let c := ctxOf p
  let h := mkHome s.chip w.val
  match s.current p with
  | none => .taken (s.stalePkt p)
  | some st =>
    match s.wellOpen w c (seqOf p) (attOf p) with
    | none => .waits
    | some o =>
      let k := s.wells[w]
      let r := homeRec k.homes h c (seqOf p) (attOf p)
      if r.headerBad (srcOf p) (dExpert p) (dBucket p) (dShared p) then .taken (s.mismatch p h (dExpert p) r)
      else if o.opcode = 2 ∧ o.index.isNone then .waits
      else if o.opcode = 2 ∧ (s.logRecord w c st.fwdSeq (dToken p) (dRank p)).isNone then
        -- a backward copy without a logged record (R234)
        .taken (s.mismatch p h (dExpert p) r)
      else if !(s.landRoom w c) then .waits
      else if !queueRoom k.queues 256 c (seqOf p) (attOf p) (dExpert p) 0 then .queue
      else
        let row := payloadBf (fmtOf p) (s.hid c) p.body
        let r1 := (r.land (srcOf p) (dExpert p) (dBucket p) (dShared p)).mark (s.memberList c)
        let logged := o.opcode == 1 && s.rd (WEL_CTX_ACTLOG_SZ.SIZE_MIB w.val c.val) != 0
        .taken ((s.modWell w fun k => { k with
          homes := putHome k.homes r1
          queues := pushQueue k.queues c (seqOf p) (attOf p) (dExpert p) (entryOf p 0 row)
          opens := if logged then k.opens.map fun x =>
              if x = o then { x with recs := x.recs ++ [(dToken p, dRank p, dExpert p, row)] } else x
            else k.opens }).progress c)

/-- The head of the buffer. -/
def State.rxHead (s : State) (w : WellNo) (p : Pkt) : Rx :=
  if ptypeOf p = 0x32 then
    match s.openFor w p with
    | none => .taken (s.stalePkt p)
    | some _ => if s.landRoom w (ctxOf p) then .taken (s.scoreRowTake w p) else .waits
  else s.wellLand w p

/-- The packets of the buffer are taken in arrival order until one waits; a header that waits for a queue is counted once (R198). -/
def State.rxPump : Nat → WellNo → State → State
  | 0, _, s => s
  | n + 1, w, s =>
    match s.wells[w].rx with
    | [] => s
    | x :: rest =>
      match (s.modWell w fun k => { k with rx := rest }).rxHead w x.pkt with
      | .taken s1 => s1.rxPump n w
      | .waits => s
      | .queue =>
        if x.counted then s
        else (s.bump PMP_Q_WAIT_CNT.COUNT).modWell w fun k => { k with rx := { x with counted := true } :: rest }

/-- A Well takes what it can from its receive buffer. -/
def State.wellPump (s : State) (w : WellNo) : State := s.rxPump s.wells[w].rx.length w

/-- Packets that wait at the Hub and at its Wells are tried again. -/
def State.retryLanded (s : State) : State := s.retryHub.serviceWells.foldl State.wellPump s.retryHub

/-! ### STEP_OPEN, STEP_CLOSE -/

/-- The index of the forward step's activation-log entry is read into the landing buffer (R234). -/
def State.readIndex (s : State) (w : WellNo) (p : Pkt) : State :=
  let c := ctxOf p
  match s.wellOpen w c (seqOf p) (attOf p) with
  | none => s
  | some o =>
    match s.logEntry w c o.fwdSeq with
    | none => s.modOpen w c o.seq o.att fun y => { y with index := some 0 }
    | some x =>
      let a := s.logBase w c + x.start
      match (s.touch w a 64 c) with
      | (s1, false) => s1
      | (s1, true) =>
        let n := ofBytes (s1.stackRead w (a + 8) 4)
        let b := a + (x.bytes - 8 * n)
        let s2 : State := (((s1.touch w b (8 * n) c).1).accDram w c a 64 0).accDram w c b (8 * n) 0
        s2.modOpen w c o.seq o.att fun y => { y with index := some n }

/-- STEP_OPEN (R238): the attempt is open on the Well; a BACKWARD attempt still waits for its index. -/
def State.openStep (s : State) (w : WellNo) (p : Pkt) : State :=
  let back := bitsOf p.w1.toNat 0 4 == 2
  let o : WellOpen := { ctx := ctxOf p, seq := seqOf p, att := attOf p, opcode := bitsOf p.w1.toNat 0 4, bank := bitsOf p.w1.toNat 4 1
                        layer := bitsOf p.w1.toNat 5 10, fwdSeq := BitVec.ofNat 32 (bitsOf p.w2.toNat 0 32), recs := [], grads := 0
                        gover := 0, gnext := 64, index := if back then none else some 0, homeSent := false, finSent := false }
  s.modWell w fun k => { k with opens := k.opens ++ [o] }

/-- A Well takes work only while it is in service, and only from the active Hub (R19). -/
def State.wellUp (s : State) (w : WellNo) : Bool := s.hubUp && s.wells[w].inService

/-- STEP_CLOSE (R215, R233, R238): the attempt's work leaves the Well; on a commit its activation-log entry becomes valid. A tile
that runs goes on to its boundary and returns nothing. -/
def stepClose (w : WellNo) (p : Pkt) (s : State) : State :=
  let c := ctxOf p
  let commit := bitsOf p.w1.toNat 0 2 == 0
  match s.openFor w p with
  | none => s.stalePkt p
  | some o =>
    let s1 : State := s.modWell w fun k => { k with
      opens := k.opens.erase o
      homes := k.homes.filter fun h => !(h.ctx == c && h.seq == o.seq && h.att == o.att)
      queues := k.queues.filter fun q => !(q.isFor c o.seq o.att q.expert)
      waiting := k.waiting.filter fun x => !x.ofAtt c o.seq o.att
      scoring := k.scoring.filter fun t => !(t.ctx == c && t.seq == o.seq && t.att == o.att)
      rx := k.rx.filter fun x => !(ctxOf x.pkt == c && seqOf x.pkt == o.seq && attOf x.pkt == o.att)
      dram := k.dram.filter fun x => !x.why.ofAtt c o.seq o.att }
    let s2 : State := s1.modLog w c fun l =>
      if commit then l.map fun e => if e.seq = o.seq then { e with valid := true } else e
      else l.filter fun e => e.valid || e.seq != o.seq
    (s2.wellIdle w).retryLanded

/-- STEP_CLOSE. -/
def execStepClose (w : WellNo) (p : Pkt) (s : State) : Host.Outcome State Fault Refusal :=
  .next (if s.wellUp w ∧ ptypeOf p = 0x31 then stepClose w p s else s)

/-! ### Scoring on a Well (R109, R232) -/

/-- SCORE_ROW: it stands in the receive buffer until it can land (R231, R232). -/
def scoreRow (w : WellNo) (p : Pkt) (s : State) : State :=
  match s.openFor w p with
  | none => s.stalePkt p
  | some _ => (s.modWell w fun k => { k with rx := k.rx ++ [⟨p, false⟩] }).wellPump w

/-- SCORE_ROW. -/
def execScoreRow (w : WellNo) (p : Pkt) (s : State) : Host.Outcome State Fault Refusal :=
  .next (if s.wellUp w ∧ ptypeOf p = 0x32 ∧ !(s.wellFrozen w) then scoreRow w p s else s)

/-- The rows of a layer that a Well holds: its number among the layer's Wells, and their count (R109). -/
def LayerE.rowsOf (l : LayerE) (w : WellNo) : Option (Nat × Nat × Nat) :=
  let ws := l.rowWells
  let i := ws.idxOf w
  let n := ws.length
  if ws.contains w then some (i, n, (l.nexp + n - 1 - i) / max 1 n) else none

/-- The SCORE_LOGITS packet of a token: 66 logits in each flit body. -/
def State.logitsPkt (s : State) (t : ScoreTile) (tok : Nat) (zs : List Word) : Pkt :=
  { w0 := mkW0 0x33 t.ctx t.att false s.chip s.chip t.seq, w1 := BitVec.ofNat 64 (tok % 2 ^ 22 + zs.length % 4096 * 2 ^ 22), w2 := 0, w3 := 0
    body := wordBytes zs }

/-- A scoring tile runs (R232): each router row is read once, and each token's logits are returned in landing order. -/
def State.scoreTileRun (s : State) (w : WellNo) (t : ScoreTile) : State :=
  match s.wellOpen w t.ctx t.seq t.att with
  | none => s
  | some o =>
    let l := s.layer t.ctx o.bank t.layer
    let h := s.hid t.ctx
    match l.rowsOf w with
    | none => s
    | some (_, _, m) =>
      match s.touch w l.rowBase (m * h) t.ctx with
      | (s1, false) => s1
      | (s1, true) =>
        let rows := (List.range m).map fun r => (s1.stackRead w (l.rowBase + r * h) h).map fun b => ofE4m3 b.toNat
        let s2 : State := t.toks.foldl (fun (s : State) (x : Nat × List Byte) =>
          let xs := (bfRow x.2).map ofBf
          if s.wellFrozen w then s else s.landHere (s.logitsPkt t x.1 (rows.map fun r => dot r xs))) s1
        (s2.accDram w t.ctx l.rowBase (m * h) 0).accMacs t.ctx (t.toks.length * m * h)

/-! ### Expert tiles -/

/-- The directory entry of a tile's expert: its stack address when it lies within the directory (R223, R226). -/
def State.dirAddr (s : State) (w : WellNo) (c : Ctx) (bank layer e : Nat) : Option Nat :=
  let base := if bank = 0 then s.rd (WEL_CTX_DIR0.BASE_MIB w.val c.val) else s.rd (WEL_CTX_DIR1.BASE_MIB w.val c.val)
  let off := (layer * s.rd (WEL_CTX_DIRSZ.DSTRIDE w.val c.val) + e) * 16
  if s.rd (WEL_CTX_DIRSZ.SIZE_MIB w.val c.val) * 2 ^ 20 < off + 16 then none else some (base * 2 ^ 20 + off)

/-- A record lies within the context's weight range (R226). -/
def State.inRange (s : State) (w : WellNo) (c : Ctx) (d : DirE) : Bool :=
  let b := s.rd (WEL_CTX_WBASE.BASE_MIB w.val c.val) * 2 ^ 20
  let n := s.rd (WEL_CTX_WSIZE.SIZE_MIB w.val c.val) * 2 ^ 20
  decide (b ≤ d.waddr ∧ d.waddr + (d.parts (s.hid c)).len ≤ b + n)

/-- A directory violation (R226): no weights are read; the ring is frozen and the step aborted FROZEN. The last words of the
event are those of the entry, and free values when none was read. -/
def State.dirViolation (s : State) (w : WellNo) (c : Ctx) (seq : Word) (att layer e : Nat) (entry : Option (List Byte)) : State :=
  let d := match entry with
    | some b => [ofBytes (slice b 8 4), ofBytes (slice b 0 4)]
    | none => [(Config.freeWord s.free).toNat, (Config.freeWord (s.free + 1)).toNat]
  let s1 : State := ({ s with free := s.free + 3 } : State).bump (WEL_DIR_ERR_CNT.COUNT w)
  (s1.wellEvent w 0x0903 3 ([layer, e] ++ d) c seq att).freezeRing c (Config.freeWord (s.free + 2)).toNat

/-- The entry of a tile's expert as a tile reads it: the state after the read, and the entry when it may be used. -/
def State.dirRead (s : State) (w : WellNo) (t : WTile) (bank : Nat) : State × Option DirE :=
  match s.dirAddr w t.ctx bank t.layer t.expert with
  | none => (s.dirViolation w t.ctx t.seq t.att t.layer t.expert none, none)
  | some a =>
    match s.touch w a 16 t.ctx with
    | (s1, false) => (s1, none)
    | (s0, true) =>
      let s1 : State := s0.accDram w t.ctx a 16 0
      let b := s1.stackRead w a 16
      match decodeDir b with
      | some d =>
        if s1.inRange w t.ctx d then (s1, some d)
        else (s1.dirViolation w t.ctx t.seq t.att t.layer t.expert (some b), none)
      | none => (s1.dirViolation w t.ctx t.seq t.att t.layer t.expert (some b), none)

/-- A RETURN from a Well, sent on by its Hub (R204). -/
def State.wellReturn (s : State) (w : WellNo) (t : WTile) (x : QEntry) (bf : Bool) (els : List Nat) (dw weight : Word) : State :=
  if s.wellFrozen w then s
  else s.send
    { w0 := mkW0 (if t.bwd then 4 else 3) t.ctx t.att bf s.chip x.src.val t.seq
      w1 := BitVec.ofNat 64 (x.token % 2 ^ 22 + x.rank % 64 * 2 ^ 22 + bitNat x.fast * 2 ^ 29 + dw.toNat * 2 ^ 32)
      w2 := BitVec.ofNat 64 (2 ^ x.rank), w3 := BitVec.ofNat 64 weight.toNat, body := encodePayload bf els }

/-- Count format saturations of a Well. -/
def State.satWell (s : State) (w : WellNo) (n : Nat) : State := if n = 0 then s else s.bumpBy (WEL_SAT_CNT.COUNT w) n

/-- The forward row of a copy is computed and returned (R204, R227). -/
def State.fwdCopy (s : State) (w : WellNo) (t : WTile) (e : Expert) (bf : Bool) (x : QEntry) : State :=
  let f := e.forward (bfRow x.row)
  let r := rowToBf (if x.fast then f.y.map fun y => mul32 x.weight y else f.y)
  (s.satWell w (f.sats + r.2)).wellReturn w t x bf r.1 0 (if x.fast then one32 else x.weight)

/-- BF16 bytes of a vector by RN_out, with its saturations (R138). -/
def outBytes (l : List Word) : List Byte × Nat :=
  let r := rowToBf l
  (bfBytes r.1, r.2)

/-- A gradient-log record (R236), with its saturations. `dga` stands for the gate vector of an expert without a gate, whose 2I bytes the
spec does not give (log entry 105). -/
def glogRecord (t : WTile) (x : QEntry) (row dga : List Byte) (b : Backward) : List Byte × Nat :=
  let vs := [outBytes b.dyw, outBytes (b.hp.map to32), if b.dga = [] then (dga, 0) else outBytes b.dga, outBytes b.dua]
  (padTo 64 (toBytes 8 (x.token % 2 ^ 22 + x.rank % 64 * 2 ^ 22 + t.expert % 2 ^ 14 * 2 ^ 32 + t.layer % 1024 * 2 ^ 48)) ++ row ++
    (vs.map (·.1)).flatten, (vs.map (·.2)).sum)

/-- Write a copy's factors to the gradient log, when it has room (R236). -/
def State.writeGrad (s : State) (w : WellNo) (o : WellOpen) (r : List Byte × Nat) : State :=
  let bs := r.1
  let size := s.rd (WEL_CTX_GLOG_SZ.SIZE_MIB w.val o.ctx.val) * 2 ^ 20
  if size = 0 then s
  else match s.wellOpen w o.ctx o.seq o.att with
    | none => s
    | some x =>
      if size < x.gnext + bs.length then s.modOpen w o.ctx o.seq o.att fun y => { y with gover := y.gover + 1 }
      else ((s.satWell w r.2).writeDram w o.ctx (s.glogBase w o.ctx + x.gnext) bs).modOpen w o.ctx o.seq o.att fun y =>
        { y with grads := y.grads + 1, gnext := y.gnext + bs.length }

/-- The backward row of a copy is computed from its logged input, returned, and its factors logged (R234, R236). -/
def State.bwdCopy (s : State) (w : WellNo) (t : WTile) (o : WellOpen) (e : Expert) (bf : Bool) (x : QEntry) : State :=
  match s.logRecord w t.ctx o.fwdSeq x.token x.rank with
  | none => s
  | some a =>
    let n := 2 * s.hid t.ctx
    match s.touch w a (16 + n) t.ctx with
    | (s1, false) => s1
    | (s1, true) =>
      let row := s1.stackRead w (a + 16) n
      let b := e.backward (bfRow row) (bfRow x.row) x.weight
      let r := rowToBf b.dx
      let free := if b.dga = [] then (List.range (2 * e.d.inter)).map fun i => Config.freeByte (s1.free + i) else []
      let s2 : State := ((({ s1 with free := s1.free + free.length } : State).satWell w (b.sats + r.2)).accDram w t.ctx a (16 + n) 0).writeGrad
        w o (glogRecord t x row free b)
      s2.wellReturn w t x bf r.1 b.dw one32

/-- An expert tile runs: its weights are read once, and each copy's row is computed and returned (R227-R229). A tile of an
attempt that is no longer open returns nothing (R215). -/
def State.tileRun (s : State) (w : WellNo) (t : WTile) : State :=
  match s.wellOpen w t.ctx t.seq t.att, s.liveStep t.ctx with
  | some o, some st =>
    match s.dirRead w t o.bank with
    | (s1, none) => s1
    | (s1, some d) =>
      let h := s1.hid t.ctx
      let len := (d.parts h).len
      match s1.touch w d.waddr len t.ctx with
      | (s2, false) => s2
      | (s2, true) =>
        let e := s2.expert w d h
        let macs := if t.bwd then 2 * d.macs h + h else d.macs h
        t.entries.foldl (fun (s : State) (x : QEntry) =>
            if t.bwd then s.bwdCopy w t o e st.payload x else s.fwdCopy w t e st.payload x)
          ((s2.accDram w t.ctx d.waddr len 0).accMacs t.ctx (t.entries.length * macs))
  | _, _ => s

/-- The running tile ends at its tile boundary after a number of cycles (R229, R238, R282, R293). -/
def State.endTile (s : State) (w : WellNo) (cycles : Nat) : State :=
  match s.wells[w].running with
  | none => s
  | some x =>
    let n := s.wellEngines w
    let s0 : State := (s.modWell w fun k => { k with running := none, deficit := chargeDef k.deficit x.ctx cycles }).accCyc x.ctx (cycles * n)
    let s1 : State := match x with
      | .expert t => s0.tileRun w t
      | .score t => s0.scoreTileRun w t
    let s2 : State := match x with
      | .expert t => if (s1.wellOpen w t.ctx t.seq t.att).isSome then s1.wellSays t.ctx t.seq t.att 0 0 else s1
      | .score t => if (s1.wellOpen w t.ctx t.seq t.att).isSome then s1.wellSays t.ctx t.seq t.att 0 0 else s1
    (((s2.wellIdle w).retryLanded).wellReports w).wellGrant w

/-- The ranges of the stack that the running tile reads: its router rows, or its expert's directory entry and record, and
for a BACKWARD tile the logged rows. -/
def State.tileRanges (s : State) (w : WellNo) : List (Nat × Nat) :=
  match s.wells[w].running with
  | none => []
  | some (.score t) =>
    match s.wellOpen w t.ctx t.seq t.att with
    | none => []
    | some o =>
      let l := s.layer t.ctx o.bank t.layer
      match l.rowsOf w with
      | none => []
      | some (_, _, m) => [(l.rowBase, m * s.hid t.ctx)]
  | some (.expert t) =>
    match s.wellOpen w t.ctx t.seq t.att with
    | none => []
    | some o =>
      match s.dirAddr w t.ctx o.bank t.layer t.expert with
      | none => []
      | some a => match decodeDir (s.stackRead w a 16) with
        | some d => [(a, 16), (d.waddr, (d.parts (s.hid t.ctx)).len)] ++
            (if t.bwd then t.entries.filterMap fun x =>
                (s.logRecord w t.ctx o.fwdSeq x.token x.rank).map fun b => (b, 16 + 2 * s.hid t.ctx)
              else [])
        | none => [(a, 16)]

end Sys2Proof.Machine
end

