-- ==== Sys2Proof/Machine/Grant.lean ====
section
/-!
DEFINITION. Grants of Cistern buffers (R166-R169, R197, R207), the starvation test (R172), and EOD with what a complete home
brings.
-/

namespace Sys2Proof.Machine

open Sys2Proof

/-! ### CISTERN_GRANT -/

/-- A request that may be granted now: the first of its line, with a buffer and quota room. A collective's reservation is
granted whole, by COL_RESERVATION_GRANT. -/
def State.mayGrant (s : State) (r : CstReq) : Bool :=
  r.why.line != 33 && (s.cist.waits.find? fun x => x.why.line == r.why.line) == some r && s.grantable r.who r.bytes

/-- The request granted next: requesters take turns from the one after the last granted. -/
def State.nextGrant (s : State) : Option CstReq :=
  let turn (r : CstReq) : Nat := (r.who + 17 - s.cist.last) % 18
  match s.cist.waits.filter s.mayGrant with
  | [] => none
  | x :: xs => some (xs.foldl (fun (b : CstReq) (r : CstReq) => if turn r < turn b then r else b) x)

/-- Stage writes a token's payload into its buffer, in the step's format (R168, R188, R189). -/
def State.staged (s : State) (c : Ctx) (t h : Nat) : State :=
  match s.liveStep c, s.tok c t with
  | some st, some tk =>
    let v := s.tokenVec c st tk
    let bs := if st.payload then bfBytes v.2 else mxEncode (v.2.length / 256 + 1) v.2
    (((v.1.bufWrite h bs).modTok c t fun y => { y with handle := some h }).pumpCtx c)
  | _, _ => s.release h

/-- The rest of an early return lands in its buffer (R207). How it lies there is not stated: free bytes. -/
def State.parkGranted (s : State) (p : Parked) (n h : Nat) : State :=
  let s1 : State := s.bufWrite h ((List.range n).map fun i => Config.freeByte (s.free + i))
  let s2 : State := { s1 with
    free := s1.free + n, work := { s1.work with parked := s1.work.parked ++ [{ p with handle := some h }] } }
  s2.pumpParked (s2.work.parked.length + 1)

/-- References of a granted buffer: a token's admitted copies, two for a host-path copy, one for a parked return. -/
def State.grantCount (s : State) : CstWhy → Nat
  | .stage c t => match s.tok c t with
    | some tk => (tk.copies.filter Copy.sent).length
    | none => 1
  | .land _ => 2
  | .park _ _ => 1
  | .col _ => 1

/-- CISTERN_GRANT: the waiting request whose turn it is gets a buffer. `pick` chooses among the free buffers of the pool. -/
def cisternGrant (pick : Nat) (s : State) : State :=
  match s.nextGrant with
  | none => s
  | some r =>
    match s.takeBuf r.who r.bytes (s.grantCount r.why) pick with
    | none => s
    | some (s1, h) =>
      let s2 : State := { s1 with cist := { s1.cist with waits := s1.cist.waits.erase r, last := r.who } }
      let s3 : State := match r.why with
        | .stage c t => s2.staged c t h
        | .land p => (s2.landGranted p h).retryLanded
        | .park p hold => ((s2.freeHold hold).parkGranted p r.bytes h).retryLanded
        | .col _ => s2
      s3.markWaits

/-- CISTERN_GRANT. -/
def execCisternGrant (pick : Nat) (s : State) : Host.Outcome State Fault Refusal :=
  .next (if s.busUp 0x9 then cisternGrant pick s else s)

/-! ### STARVED_TEST (R172) -/

/-- A request of a context's step. -/
def State.waitsOf (s : State) (c : Ctx) : List CstReq := s.cist.waits.filter fun r => r.why.ofCtx c

/-- At a tick: contexts with a request that has waited for the whole interval and no buffer freed in it are noted, and the
next interval begins. -/
def State.starveMark (s : State) : State :=
  { s with cist := { s.cist with
      starved := (List.finRange 16).filter fun c =>
        ((s.waitsOf c).any fun r => r.waited) && !s.cist.freed.contains c.val
      waits := s.cist.waits.map fun r => { r with waited := true }
      freed := [] } }

/-- QUOTA: event 0x0602 and an abort notice with cause QUOTA. -/
def State.quotaAbort (s : State) (c : Ctx) (st : Step) (detail : Nat) : State :=
  (s.raise 0x0602 2 [detail, c.val, payloadSize st.payload (s.hid c), s.cstUsed c.val] c st.seq).noticeLive c 4 detail

/-- STARVED_TEST: the steps that the last tick found starved are aborted. -/
def starvedTest (s : State) : State :=
  let l := s.cist.starved
  l.foldl (fun (s : State) (c : Ctx) =>
    match s.liveStep c with
    | some st => if (s.waitsOf c).any fun r => r.waited then s.quotaAbort c st 0x30 else s
    | none => s) { s with cist := { s.cist with starved := [] } }

/-- STARVED_TEST. -/
def execStarvedTest (s : State) : Host.Outcome State Fault Refusal := .next (if s.hubUp then starvedTest s else s)

/-! ### QUEUE_FLUSH (R195, R196, R217) -/

/-- The control core holds MODE at 1 during its Hub's built-in self-test (R196). -/
def State.modeHeld (s : State) : Bool := !s.act.bistDone

/-- MODE goes back to 0: the release pointers of queues and receive buffers meet their read pointers, and the space between is freed
(log entry 109). -/
def State.modeOff (s : State) : State :=
  let s1 : State := { s with work := { s.work with queues := s.work.queues.map fun q => { q with kept := 0 } } }
  (List.finRange 16).foldl (fun (s : State) (p : Port) => s.modLink (.port p) fun k => { k with
    kept := Vector.replicate 8 0, freed := Vector.ofFn fun i : Fin 8 => k.freed[i] + BitVec.ofNat 10 k.kept[i] }) s1

/-- A write of `PMP_Q_CTRL`: MODE is refused while a context is enabled or, from the Config Port, while the control core holds it;
FLUSH discards the entries of the named context and reads 0 when that is done. -/
def qCtrlWrite (port : AccessPort) (v : Word) (s : State) : State :=
  let busy := (List.finRange 16).any fun c => s.rd (RNG_CTX_CTRL.ENABLE c) == 1
  let was := s.rd PMP_Q_CTRL.MODE
  let bad := (busy || (port == .config && s.modeHeld)) && PMP_Q_CTRL.MODE.get v != was
  let s1 : State := if bad then s.raise 0x0701 1 [PMP_Q_CTRL.reg, v.toNat] else s
  let v1 := PMP_Q_CTRL.FLUSH.put (if bad then s.keep PMP_Q_CTRL.MODE v else v) 0
  let s2 : State := (s1.store PMP_Q_CTRL.reg v1).wrIf PMP_Q_CTRL.FLUSH 0
  let s3 : State := if was = 1 ∧ s2.rd PMP_Q_CTRL.MODE = 0 then s2.modeOff else s2
  if PMP_Q_CTRL.FLUSH.get v = 1 then
    (s3.flushQueues ⟨PMP_Q_CTRL.CTX.get v, Nat.mod_lt _ (by decide)⟩).retryLanded
  else s3

/-- QUEUE_FLUSH. -/
def execQueueFlush (v : Word) (s : State) : Host.Outcome State Fault Refusal :=
  .next (if s.busUp 0 ∧ PMP_Q_CTRL.FLUSH.get v = 1 then qCtrlWrite .config v s else s)

end Sys2Proof.Machine
end

