-- ==== Sys2Proof/Machine/TickSet.lean ====
section
/-!
DEFINITION. The tick ordered set (R41): its fields, what the master puts into it (R51, R52, R54), and how it is sent down the
tree (R42, R304).
-/

namespace Sys2Proof.Machine

open Sys2Proof

/-! ### Fields of a tick ordered set (R41) -/

/-- A field of the payload. -/
def setBits (x : BitVec 192) (lo len : Nat) : Nat := bitsOf x.toNat lo len
/-- TICK. -/
def setTick (x : BitVec 192) : Nat := setBits x 0 48
/-- PERIOD. -/
def setPeriod (x : BitVec 192) : Nat := setBits x 48 16
/-- LAUNCH. -/
def setLaunch (x : BitVec 192) : Nat := setBits x 64 16
/-- COMMIT. -/
def setCommit (x : BitVec 192) : Nat := setBits x 80 16
/-- ABORT. -/
def setAbort (x : BitVec 192) : Nat := setBits x 96 16
/-- HOPS. -/
def setHops (x : BitVec 192) : Nat := setBits x 112 4
/-- HOLDOVER. -/
def setHoldover (x : BitVec 192) : Bool := x.getLsbD 116
/-- STOP. -/
def setStop (x : BitVec 192) : Bool := x.getLsbD 117
/-- FIRE. -/
def setFire (x : BitVec 192) : Nat := setBits x 120 24
/-- PATH. -/
def setPath (x : BitVec 192) : Nat := setBits x 144 24
/-- MASTER. -/
def setMaster (x : BitVec 192) : Nat := setBits x 168 6

/-- A payload. -/
def mkSet (tick period launch commit abort hops : Nat) (hold stop : Bool) (fire path master : Nat) : BitVec 192 :=
  BitVec.ofNat 192 (tick % 2 ^ 48 + period % 2 ^ 16 * 2 ^ 48 + launch % 2 ^ 16 * 2 ^ 64 + commit % 2 ^ 16 * 2 ^ 80 +
    abort % 2 ^ 16 * 2 ^ 96 + hops % 2 ^ 4 * 2 ^ 112 + bitNat hold * 2 ^ 116 + bitNat stop * 2 ^ 117 +
    fire % 2 ^ 24 * 2 ^ 120 + path % 2 ^ 24 * 2 ^ 144 + master % 2 ^ 6 * 2 ^ 168)

/-- The same set with FIRE, HOPS and PATH of another transmission (R42). -/
def resend (x : BitVec 192) (hops fire path : Nat) : BitVec 192 :=
  mkSet (setTick x) (setPeriod x) (setLaunch x) (setCommit x) (setAbort x) hops (setHoldover x) (setStop x) fire path
    (setMaster x)

/-- Ports of CHILDREN on which a tick set can leave: in UP and not removed. -/
def State.childPorts (s : State) : List Port := s.setPorts.filter fun p => (s.rd TCK_TREE.CHILDREN).testBit p.val

/-- Units of 0.625 ns that a slot lasts on a port: 1.4 ns at full width, 2.8 ns at degraded width (R302). -/
def State.slotUnits (s : State) (p : Port) : Nat := if s.rd (PMP_LNK_STATUS.WIDTH4 p) = 1 then 4 else 2

/-- Send a tick set to the children, COPY 0 and then COPY 1 one slot later, each with its own FIRE (R304). -/
def State.sendTick (s : State) (x : BitVec 192) (hops fire path : Nat) : State :=
  s.childPorts.foldl (fun (s : State) (p : Port) =>
    (s.emit (setOut p 1 false (resend x hops (min fire (2 ^ 24 - 1)) path))).emit
      (setOut p 1 true (resend x hops (min (fire - s.slotUnits p) (2 ^ 24 - 1)) path))) s

/-- A tick set is accepted: the next counted event of each running step sends a beacon (R54). -/
def State.beaconsDue (s : State) : State :=
  (List.finRange 16).foldl (fun (s : State) (c : Ctx) =>
    if (s.steps c).any fun st => st.live && st.beaconSent then
      s.modStep c (fun st => st.live) fun st => { st with beaconSent := false }
    else s) s

/-! ### The master's view (R51, R52, R54) -/

/-- `TCK_CTXSET` of a context (R441). -/
def State.ctxSet (s : State) (c : Ctx) : Nat := s.rd2 (TCK_CTXSET_LO.CHIPS c) (TCK_CTXSET_HI.CHIPS c)

/-- The effective lead in units of 0.625 ns (R43, R38). -/
def State.effLead (s : State) : Nat :=
  let cur := s.rd TCK_PERIOD.CUR_US
  let p := if cur = 0 ∨ (s.tick.first ∧ s.rd TCK_CTRL.SRC = 2) then s.rd TCK_PERIOD.PERIOD_US else cur
  min (s.rd TCK_LEAD.LEAD * 16) (p * (usUnits / 2))

/-- Local done of the running step has come from every member of the context's set (R52). -/
def State.allDone (s : State) (c : Ctx) (r : MasterRun) : Bool :=
  let ms := bitsSet 64 (s.ctxSet c)
  !ms.isEmpty && ms.all fun d => s.tick.dones.any fun x =>
    x.chip.val == d && x.ctx == c && x.seq == r.seq && r.atts.any fun a => a.1 == x.chip && a.2 == x.att

/-- The ready report of each member of a context's set, ascending; none while one is missing (R51). -/
def State.ready (s : State) (c : Ctx) : Option (List CtlRec) :=
  let ms := bitsSet 64 (s.ctxSet c)
  let rs := ms.filterMap fun d => s.tick.reports.find? fun r => r.chip.val == d && r.ctx == c
  if ms.isEmpty || rs.length ≠ ms.length then none else some rs

/-- What the master decides for one context. -/
structure Decision where
  commit : Bool
  abort : Bool
  launch : Bool
  /-- The step that runs after the tick. -/
  running : Option MasterRun

/-- R51, R52, R54: the decisions for a context at the emission of the set for tick `t`. -/
def State.decide1 (s : State) (c : Ctx) (t : Nat) : Decision :=
  let run := s.tick.running[c]
  let commit := match run with | some r => s.allDone c r | none => false
  let abort := run.isSome && s.tick.wdAbort.contains c
  let still := match run with
    | some r => !commit && !abort && !r.late && s.rd TCK_CTRL.OVR_POLICY == 0
    | none => false
  let agreed := match s.ready c with
    | some (r :: rs) => rs.all fun x => x.seq == r.seq
    | _ => false
  let launch := !s.tick.stop && !still && agreed
  let after : Option MasterRun :=
    if launch then match s.ready c with
      | some (r :: rs) => some { seq := r.seq, launch := t, atts := (r :: rs).map fun x => (x.chip, x.att), late := false }
      | _ => none
    else if still && !s.tick.stop then run.map fun r => { r with late := true }
    else none
  { commit := commit, abort := abort, launch := launch, running := after }

/-- Event 0x0205: every member has reported and the sequence numbers differ (R51). -/
def State.reportDiffer (s : State) (c : Ctx) : State :=
  match s.ready c with
  | some (r :: rs) =>
    match rs.find? fun x => x.seq != r.seq with
    | some y => s.raise 0x0205 1 [r.seq.toNat, y.chip.val, y.seq.toNat] c
    | none => s
  | _ => s

/-- TICK_WATCHDOG: the running steps from which nothing has come since the previous emission are to be aborted (R54). -/
def tickWatchdog (s : State) : State :=
  if s.rd TCK_WD.ENABLE = 0 then s
  else (List.finRange 16).foldl (fun (s : State) (c : Ctx) =>
    match s.tick.running[c] with
    | none => s
    | some r =>
      if s.tick.wdAbort.contains c || (s.tick.beats.any fun b => b.ctx == c && b.seq == r.seq) || s.allDone c r then s
      else
        let s1 : State := { s with tick := { s.tick with wdAbort := s.tick.wdAbort ++ [c] } }
        let s2 : State := s1.bump TCK_WD_CNT.COUNT
        if (s.ctxSet c).testBit s.chip then s2 else s2.raise 0x0206 2 [r.launch % 2 ^ 32, 1] c r.seq) s

/-- The master has a tick to announce: its instant is known and its set is not yet formed. -/
def State.emissionDue (s : State) : Option Nat :=
  if s.hubUp ∧ s.leadUp ∧ s.isMaster ∧ s.tick.set.isNone ∧ (s.rd TCK_CTRL.RUN = 1 ∨ s.tick.stop) then s.tick.due else none

/-- MASTER_EMISSION: the set for the tick due at `d` is formed and sent. -/
def masterEmission (d : Nat) (s : State) : State :=
  let s0 : State := tickWatchdog (s.at (d - s.effLead))
  let t := s0.tickNow + 1
  let ds := (List.finRange 16).map fun c => (c, s0.decide1 c t)
  let mask (f : Decision → Bool) : Nat := maskOf ((ds.filter fun x => f x.2).map fun x => x.1.val)
  let x := mkSet t (s0.rd TCK_PERIOD.PERIOD_US) (mask (·.launch)) (mask (·.commit)) (mask (·.abort)) 0 s0.tick.holdover
    s0.tick.stop (d - s0.now) 0 s0.chip
  let s1 : State := (List.finRange 16).foldl (fun (s : State) (c : Ctx) => s.reportDiffer c) s0
  let gone (c : Ctx) : Bool := ds.any fun y => y.1 == c && y.2.launch
  let kept (c : Ctx) : Bool := ds.any fun y => y.1 == c && !y.2.launch && y.2.running.isSome
  let s2 : State := { s1 with tick := { s1.tick with
    running := Vector.ofFn fun c : Fin 16 => (s0.decide1 c t).running
    reports := s1.tick.reports.filter fun r => !gone r.ctx
    dones := s1.tick.dones.filter fun r => kept r.ctx
    beats := [], wdAbort := [], set := some (x, d), master := some s1.ownChip } }
  (((s2.sendTick x 0 (d - s0.now) 0).beaconsDue).sendHeld s2.ownChip)

end Sys2Proof.Machine
end

