-- ==== Sys2Proof/Machine/Tick.lean ====
section
/-!
DEFINITION. The boundary of a tick on a member (R47-R53): decisions of cycle 1, launches of cycle 2, and what is reported at
each local tick instant.
-/

namespace Sys2Proof.Machine

open Sys2Proof

/-! ### Cycle 1 -/

/-- A committed forward step's ledger entry becomes final, and the header of each share gets the commit tick (R211, R212). -/
def State.ledgerCommit (s : State) (c : Ctx) (seq : Word) : State :=
  match s.act.core.ledger[c].find? fun e => e.tentative && e.seq == seq with
  | none => s
  | some e =>
    let l := s.act.core.ledger[c].map fun x => if x = e then { x with tentative := false } else x
    e.shares.foldl (fun (s : State) (x : WellNo × Nat × Nat) =>
        s.writeDram x.1 c (s.ledgerBase c + x.2.1 + 0x18) (toBytes 8 s.tickNow))
      (s.setCore { s.act.core with
        ledger := s.act.core.ledger.set c l
        shareEnd := s.act.core.shareEnd.set c (e.shares.foldl (fun (v : List (WellNo × Nat)) (x : WellNo × Nat × Nat) =>
          (v.filter fun y => y.1 != x.1) ++ [(x.1, x.2.1 + x.2.2)]) s.act.core.shareEnd[c]) })

/-- Attempt counts per expert, routed and shared (R156). -/
def State.attEcho (s : State) (c : Ctx) : List (Nat × Nat) :=
  match s.work.att[c] with | some a => a.used ++ a.shUsed | none => []

/-- COMMIT (R48, R388). -/
def State.commitStep (s : State) (c : Ctx) (st : Step) : State :=
  let d := st.counts (s.attCounts c)
  let echo := if st.opcode = 1 then s.attEcho c else []
  let status := if st.state = .overtime then 1 else if st.errAborted then 5 else 0
  ((({ s with commits := s.commits.set c (s.commits[c] ++ [st.seq]) } : State).endAttempt c st 0).ledgerCommit c st.seq).outcome c
      (fun x => x.live && x.seq == st.seq) fun x =>
    { x with state := .committed, status := status, detail := 0, complete := true, endTick := s.tickNow, dropped := d.1,
             spilled := d.2, echo := echo }

/-- The decisions of a tick's set for the live step of a context: ABORT, COMMIT, or the overrun outcome (R48, R49, R59). -/
def State.cycle1 (s : State) (x : BitVec 192) (c : Ctx) : State :=
  match s.liveStep c with
  | none => s
  | some st =>
    if (setAbort x).testBit c then (s.raise 0x0206 2 [st.launch % 2 ^ 32, 0] c st.seq).abortLive c 0 0
    else if (setCommit x).testBit c then s.commitStep c st
    else if setStop x then
      (if st.state = .running ∧ s.rd TCK_CTRL.OVR_POLICY = 0 then s.bump TCK_OVR_CNT.COUNT else s).retireLive c 1 0x42
    else if st.state = .running ∧ s.rd TCK_CTRL.OVR_POLICY = 0 then
      (s.modStep c (fun y => y.live) fun y => { y with state := .overtime }).bump TCK_OVR_CNT.COUNT
    else s.retireLive c 1 0x41

/-! ### Cycle 2 -/

/-- The placement computed again from the bank that the first launch binds (R444). -/
def State.rebind (s : State) (c : Ctx) (st : Step) : State × Step :=
  let bank := s.activeBank c
  if st.opcode = 1 ∧ !st.launched ∧ st.swapped then
    let host := s.placeHost c bank st.layer true
    let r := s.writePlacement c st.seq (s.layer c bank st.layer) host
    (r.1, { st with bank := bank, hostPlaced := host, slot := r.2, mapSkip := 0 })
  else (s, { st with bank := bank })

/-- The layer of a step is scored on Wells and names one of this chip that is absent (R392). -/
def State.rowsAbsent (s : State) (c : Ctx) (st : Step) : Bool :=
  let l := s.layer c st.bank st.layer
  (st.opcode == 1 || st.opcode == 2) && l.loc == 2 && l.rowWells.any fun w => !s.wells[w].inService

/-- The KiB of the smallest enabled buffer that holds a payload (R172). -/
def State.leastFit (s : State) (n : Nat) : Nat :=
  match (s.fitting n).map s.poolKib with
  | [] => 0
  | x :: xs => xs.foldl min x

/-- What is tested in cycle 2 of a launch, before the attempt starts: a ledger entry that has become invalid (R446), a payload
that no buffer or quota can hold (R172), router rows on an absent Well (R392). None: the attempt may start. -/
def State.launchBar (s : State) (c : Ctx) (st : Step) : Option State :=
  let n := payloadSize st.payload (s.hid c)
  if st.opcode = 2 ∧ (s.validLedger c st.fwdSeq).isNone then some (s.noticeLive c 7 0)
  else if st.opcode ≠ 3 ∧ s.fitting n = [] then some (s.quotaAbort c st 0x31)
  else if st.opcode ≠ 3 ∧ s.rd (CST_QUOTA.LIMIT c) < s.leastFit n then some (s.quotaAbort c st 0x32)
  else if s.rowsAbsent c st then some (s.noticeLive c 2 0x26)
  else if st.opcode = 3 then none
  else
    let r := s.touchSram 2 (tblBase c st.bank + 32768 + 64 * st.layer) 64 c
    if r.2 then none else some r.1

/-- The attempt of a launched step starts; a step without tokens has its ledger and its EODs at once. -/
def State.begin (s : State) (c : Ctx) (st : Step) : State :=
  let s1 : State := s.startAttempt c st
  (if st.opcode = 1 ∧ st.ntok = 0 then (s1.combineStarts c).writeLedger c st else s1).pumpCtx c

/-- The step that a LAUNCH bit of the tick's set starts: of the READY steps, the one this member has reported last, whose report
the launch consumes (R51). Taken before cycle 1, so that a step which that cycle aborts is replayed at a later tick (R57). -/
def State.launchee (s : State) (c : Ctx) : Option Word :=
  let l := (s.steps c).filter fun st => st.state == .ready
  match l.find? fun st => s.tick.reported[c] == some st.seq with
  | some st => some st.seq
  | none => l.head?.map (·.seq)

/-- LAUNCH of a READY step of a context (R48, R53). -/
def State.launchStep (s : State) (c : Ctx) (seq : Option Word) : State :=
  match (s.steps c).find? fun st => st.state == .ready && seq == some st.seq with
  | none => s
  | some st =>
    let isIt (x : Step) : Bool := x.state == .ready && x.seq == st.seq
    let now := s.tickNow
    if s.ringFrozen c then s.outcome c isIt fun x => x.retire 6 0x21 now 0 0
    else
      let r := s.rebind c st
      let st1 := r.2
      let st2 : Step := { st1 with
        state := .running, launched := true, launch := now, finished := false, beaconSent := false
        firstLaunch := if st1.launched then st1.firstLaunch else now }
      if st1.inmode = 2 ∧ st1.opcode = 1 ∧ 0 < st1.ntok ∧ st1.inPitch < 4 * r.1.stepE c st1 st1.bank then
        r.1.outcome c isIt fun _ => st2.retire 2 0x05 now 0 0
      else
        let s2 : State := r.1.modStep c isIt fun _ => st2
        let s3 : State := if 0 < st2.replays then s2.bump (CTX_ACC_REPLAYS.COUNT c) else s2
        match s3.launchBar c st2 with
        | some s4 => s4
        | none => s3.begin c st2

/-- A launch has consumed the reports of every member for the context; another READY step of this member, whose report is not the
last one sent or on its way, reports afresh (R51). -/
def State.reportNext (s : State) (c : Ctx) : State :=
  match (s.steps c).find? fun st => st.state == .ready with
  | some st =>
    if s.tick.reported[c] = some st.seq ∨ (s.mch.effects.any fun e => e.2 == .readyReport c st.seq true || e.2 == .readyReport c st.seq false) then s
    else s.readyReport c st.seq st.replays
  | none => s

/-! ### Reports at a local tick instant -/

/-- Event 0x0706 for discarded packets (R193). -/
def State.staleReport (s : State) : State :=
  let l := s.tick.stale
  let s1 : State := l.foldl (fun (s : State) (x : Ctx × Word × Nat × Nat × Nat × Bool) =>
    if x.2.2.2.2.2 then s else s.raise 0x0706 0 [x.2.2.2.1, x.2.2.2.2.1] x.1 x.2.1)
    { s with tick := { s.tick with
      stale := l.map fun x => (x.1, x.2.1, x.2.2.1, x.2.2.2.1, x.2.2.2.2.1, true) } }
  if s1.tick.stalePlain = 0 then s1
  else
    ({ s1 with tick := { s1.tick with stalePlain := 0 } } : State).raise 0x0706 0
      [s1.tick.stalePlain, s1.tick.stalePtype]

/-- A completion record of a context is held for want of room (R86): that of its oldest step, since records are written in order (R81). -/
def State.recordHeld (s : State) (c : Ctx) : Option Step :=
  match s.steps c with
  | st :: _ =>
    if (st.state = .committed ∨ st.state = .retiring ∨ (st.state = .fetched ∧ st.checked)) ∧ !st.recOut ∧ !s.cqRoom c st.index then
      some st
    else none
  | [] => none

/-- Event 0x0305, once for each tick at which a record is held (R86). Its SEQ is 0: that it concerns a ring and no step is the model's
choice (log entry 100). -/
def State.heldReport (s : State) : State :=
  (List.finRange 16).foldl (fun (s : State) (c : Ctx) =>
    match s.recordHeld c with
    | some st => (s.wrIf (RNG_CTX_STATUS.CQ_FULL c) 1).raise 0x0305 1 [st.index.toNat, s.rd (RNG_CQ_HEAD.INDEX c)] c
    | none => s) s

/-- The accounting counters are mirrored at each tick (R293): those that differ from the mirror's copy. -/
def State.mirrorAcc (s : State) : State :=
  let offs := (List.range 16).flatMap fun c => (List.range 13).map fun i => 0x0D1028 + 0x80 * c + 4 * i
  offs.foldl (fun (s : State) (o : Nat) =>
    if s.word o = s.mirWord o then s else { s with mch := s.mch.push (.reg o (s.word o)) }) s

/-- What every local tick instant brings beside the decisions: TICK_OUT (R39), the starvation test's marks (R172), the
reports. -/
def State.tickDuties (s : State) (inst : Nat) : State :=
  let w := min (s.rd TCK_CTRL.OUT_WIDTH * 16) (s.rd TCK_PERIOD.CUR_US * (usUnits / 2))
  let s1 : State := if s.rd TCK_CTRL.RUN = 1 ∧ w ≠ 0 then s.emit (.tickOut (inst - delayUnits s.build.tickOutDlyPs) w) else s
  s1.starveMark.staleReport.heldReport

/-- The local tick of an accepted set at an instant (R37, R40, R43, R53). -/
def State.boundary (s : State) (x : BitVec 192) (inst : Nat) : State :=
  let again := s.isMaster && s.rd TCK_CTRL.SRC == 0 && !setStop x
  let s1 : State := (s.at inst).wr2 TCK_NOW_LO.TICK TCK_NOW_HI.TICK (setTick x)
  let s2 : State := s1.wrIf TCK_PERIOD.CUR_US (setPeriod x)
  let s3 : State := if s.isMaster then (s2.wrIf TCK_STATUS.HOPS 0).wrIf TCK_STATUS.PATH 0 else s2
  let s4 : State := { s3 with tick := { s3.tick with
    set := none, lastFire := inst, first := false
    stop := s3.tick.stop && !setStop x
    due := if again then some (inst + setPeriod x * usUnits) else none } }
  let s5 : State := s4.tickDuties inst
  let s6 : State := (List.finRange 16).foldl (fun (s : State) (c : Ctx) => s.cycle1 x c) s5
  let s7 : State := (List.finRange 16).foldl (fun (s : State) (c : Ctx) => s.swapAt c (setTick x)) s6
  let s8 : State := (List.finRange 16).foldl (fun (s : State) (c : Ctx) =>
    if (setLaunch x).testBit c then (s.launchStep c (s5.launchee c)).reportNext c else s) s7
  let s9 : State := (List.finRange 16).foldl (fun (s : State) (c : Ctx) => s.heldRelease c) s8
  s9.mirrorAcc

/-- LOCAL_TICK: the local tick instant of the accepted set. -/
def localTick (s : State) : State :=
  match s.tick.set with
  | some (x, d) => s.boundary x (max s.now d)
  | none => s

/-- LOCAL_TICK. -/
def execLocalTick (s : State) : Host.Outcome State Fault Refusal := .next (if s.hubUp then localTick s else s)

/-- MASTER_EMISSION. -/
def execMasterEmission (s : State) : Host.Outcome State Fault Refusal :=
  .next (match s.emissionDue with
    | some d => masterEmission d s
    | none => s)

/-- TICK_WATCHDOG. -/
def execTickWatchdog (s : State) : Host.Outcome State Fault Refusal :=
  .next (if s.emissionDue.isSome then tickWatchdog s else s)

/-! ### TCK_CTRL and TCK_PERIOD -/

/-- RUN of `TCK_CTRL` went from 0 to 1 (R37, R38, R43, R443). -/
def State.runSet (s : State) : State :=
  { s with tick := { s.tick with
    first := true, stop := false, edge := none, holdover := false, master := none, set := none
    due := if s.rd TCK_CTRL.SRC = 0 then some (s.now + s.rd TCK_PERIOD.PERIOD_US * usUnits) else none } }

/-- RUN went from 1 to 0 (R59): the master's next set carries STOP; a follower's local tick stops. -/
def State.runClear (s : State) : State :=
  if s.isMaster then { s with tick := { s.tick with stop := true } }
  else { s with tick := { s.tick with set := none } }

/-- A write of `TCK_CTRL` (R59). A write of 0b11 to SRC is discarded. -/
def tckCtrlWrite (v : Word) (s : State) : State :=
  let old := s.rd TCK_CTRL.RUN
  let s1 : State := s.store TCK_CTRL.reg (if TCK_CTRL.SRC.get v = 3 then s.keep TCK_CTRL.SRC v else v)
  let new := s1.rd TCK_CTRL.RUN
  if old = 0 ∧ new = 1 then s1.runSet else if old = 1 ∧ new = 0 then s1.runClear else s1

/-- TCK_RUN_SET. -/
def execTckRunSet (v : Word) (s : State) : Host.Outcome State Fault Refusal :=
  .next (if s.busUp 0 ∧ s.rd TCK_CTRL.RUN = 0 ∧ TCK_CTRL.RUN.get v = 1 then tckCtrlWrite v s else s)

/-- TCK_RUN_CLEAR. -/
def execTckRunClear (v : Word) (s : State) : Host.Outcome State Fault Refusal :=
  .next (if s.busUp 0 ∧ s.rd TCK_CTRL.RUN = 1 ∧ TCK_CTRL.RUN.get v = 0 then tckCtrlWrite v s else s)

/-- A write of `TCK_PERIOD`: 0 and 1 store 2 (R60). The next set formed carries it (R40). -/
def tckPeriodWrite (v : Word) (s : State) : State :=
  s.store TCK_PERIOD.reg (if TCK_PERIOD.PERIOD_US.get v < 2 then TCK_PERIOD.PERIOD_US.put v 2 else v)

/-- TCK_PERIOD_WRITE. -/
def execTckPeriodWrite (v : Word) (s : State) : Host.Outcome State Fault Refusal :=
  .next (if s.busUp 0 then tckPeriodWrite v s else s)

/-! ### TICK_IN (R38) -/

/-- The chip is a TICK_IN master that has a tick to come: RUN is 1, or its last set, with STOP, is still to be sent (R59). -/
def State.tickInMaster (s : State) : Bool := s.hubUp && s.leadUp && s.rd TCK_CTRL.SRC == 2 &&
  (s.rd TCK_CTRL.RUN == 1 || s.tick.stop)

/-- The instant one period after the previous accepted edge. -/
def State.edgeExpected (s : State) : Option Nat := s.tick.edge.map fun e => e + s.rd TCK_PERIOD.CUR_US * usUnits

/-- The instant of an edge of TICK_IN at the tray connector, of one stamped at the macro pin (R353). -/
def State.pinEdge (s : State) (t : Nat) : Nat := t - delayUnits s.build.tickInDlyPs

/-- TICK_IN_EDGE: a rising edge stamped at an instant is the origin of the next tick when it is the first since RUN was set or falls
within its window. -/
def tickInEdge (t0 : Nat) (s : State) : State :=
  let t := s.pinEdge t0
  let ok : Bool := match s.edgeExpected with
    | none => true
    | some e => decide (e ≤ t + s.rd TCK_PERIOD.CUR_US * 100 ∧ t ≤ e + s.rd TCK_PERIOD.CUR_US * 100)
  if ok then { s with now := max s.now t0
                      tick := { s.tick with edge := some t, due := some (t + s.effLead), holdover := false } }
  else s.at t0

/-- TICK_IN_EDGE. -/
def execTickInEdge (t : Nat) (s : State) : Host.Outcome State Fault Refusal :=
  .next (if s.tickInMaster then tickInEdge t s else s)

/-- TICK_IN_HOLDOVER: no edge was accepted by the end of the window; the master generates the tick at the expected instant. The
window ends CUR_US/16 after that instant, which with a short lead lies after the tick's own instant: the tick then fires when the
window ends, with FIRE 0 (log entry 17). -/
def tickInHoldover (s : State) : State :=
  match s.edgeExpected with
  | none => s
  | some e =>
    let s1 : State := (s.at (e + s.rd TCK_PERIOD.CUR_US * 100)).bump TCK_HOLD_CNT.COUNT
    { s1 with tick := { s1.tick with edge := some e, due := some (e + s.effLead), holdover := true } }

/-- TICK_IN_HOLDOVER. -/
def execTickInHoldover (s : State) : Host.Outcome State Fault Refusal :=
  .next (if s.tickInMaster ∧ s.tick.due = none ∧ s.tick.set = none then tickInHoldover s else s)

/-! ### Tick sets on a follower -/

/-- A set of the parent port whose TICK is not yet accepted: forwarded whether or not RUN is set; a running follower takes
its instant and its master from it (R42, R43, R443). A set already waiting fires first. A path latency above the 12 bits of
`TCK_STATUS.PATH` reads 0xFFF (log entry 98). -/
def State.acceptSet (s0 : State) (p : Port) (x : BitVec 192) (arrival : Nat) : State :=
  let s : State := s0.at arrival
  let l := s.hop p
  let due := arrival + setFire x - l
  let ps := setPath x * 625 + s.rd (PMP_LNK_LAT.PS p)
  let s1 : State := s.sendTick x (setHops x + 1) (due - s.now) (setPath x + l)
  let s2 : State := (s1.wrIf TCK_STATUS.HOPS (setHops x)).wrIf TCK_STATUS.PATH (min 0xFFF ((ps + 9999) / 10000))
  let s3 : State := { s2 with tick := { s2.tick with seen := some (setTick x) } }
  if s.rd TCK_CTRL.RUN = 0 then s3
  else
    let s4 : State := (localTick s3).wrIf TCK_STATUS.HOLDOVER 0
    let m : Chip := ⟨setMaster x % 64, Nat.mod_lt _ (by decide)⟩
    let s5 : State := { s4 with tick := { s4.tick with set := some (x, max arrival due), master := some m } }
    let s6 : State := (s5.beaconsDue).sendHeld m
    if setFire x < l then
      localTick ((s6.wrIf TCK_STATUS.ALIGNED 0).raise 0x0202 1 [setTick x % 2 ^ 32, min (2 ^ 32 - 1) (l - setFire x)])
    else s6

/-- TICK_SET_AT_MASTER: discarded, counted, event 0x0201 (R36). -/
def tickSetAtMaster (port : Port) (s : State) : State := (s.bump TCK_HOLD_CNT.COUNT).raise 0x0201 1 [port.val]

/-- TICK_SET_AT_MASTER. -/
def execTickSetAtMaster (port : Port) (_set : BitVec 192) (s : State) : Host.Outcome State Fault Refusal :=
  .next (if s.leadUp ∧ s.hubUp ∧ s.isMaster then tickSetAtMaster port s else s)

/-- A tick ordered set arrives on a port. -/
def tickOrderedSet (port : Port) (x : BitVec 192) (arrival : Nat) (s : State) : State :=
  if s.isMaster then tickSetAtMaster port s
  else if s.rd TCK_TREE.PARENT_V = 0 ∨ s.rd TCK_TREE.PARENT ≠ port.val then s
  else if s.tick.seen = some (setTick x) then s.at arrival
  else s.acceptSet port x arrival

/-- TICK_ORDERED_SET. -/
def execTickOrderedSet (port : Port) (copy : Bool) (set : BitVec 192) (arrival : Nat) (s : State) :
    Host.Outcome State Fault Refusal :=
  .next (if !s.leadUp then s
    else if s.intBypass then s.bridge port 1 copy set
    else if s.hubUp ∧ s.portState port = 3 ∧ !s.ports[port].removed then tickOrderedSet port set arrival s
    else s)

/-! ### Holdover and alignment -/

/-- The instant at which a follower without a set fires its holdover tick (R44): 1 µs after the expected one. -/
def State.holdoverDue (s : State) : Option Nat :=
  if s.leadUp ∧ s.hubUp ∧ s.rd TCK_CTRL.SRC = 1 ∧ s.rd TCK_CTRL.RUN = 1 ∧ s.tick.set = none ∧ s.tick.first = false ∧
      s.rd TCK_PERIOD.CUR_US ≠ 0 then
    some (s.tick.lastFire + s.rd TCK_PERIOD.CUR_US * usUnits)
  else none

/-- FOLLOWER_HOLDOVER: a holdover tick without step decisions; the chip declares itself absent. -/
def followerHoldover (expected : Nat) (s : State) : State :=
  let inst := max s.now (expected + usUnits)
  let t := s.tickNow + 1
  let s1 : State := ((s.at inst).wr2 TCK_NOW_LO.TICK TCK_NOW_HI.TICK t).wrIf TCK_STATUS.HOLDOVER 1
  let s2 : State := { s1 with tick := { s1.tick with lastFire := expected } }
  let s3 : State := (s2.tickDuties inst).raise 0x0204 2 [t % 2 ^ 32]
  let s4 : State := s3.declareAbsent (2 ^ s.chip) 2
  ((List.finRange 16).foldl (fun (s : State) (c : Ctx) => s.swapAt c t) s4).mirrorAcc

/-- FOLLOWER_HOLDOVER. -/
def execFollowerHoldover (s : State) : Host.Outcome State Fault Refusal :=
  .next (match s.holdoverDue with
    | some e => followerHoldover e s
    | none => s)

/-- The parent port of the tick tree. -/
def State.parentPort (s : State) : Option Port :=
  if s.rd TCK_TREE.PARENT_V = 1 then some ⟨s.rd TCK_TREE.PARENT % 16, Nat.mod_lt _ (by decide)⟩ else none

/-- The residual of `TCK_SKEW.OFFSET` as a 32-bit word, two's complement. -/
def State.offset32 (s : State) : Nat :=
  let o := s.rd TCK_SKEW.OFFSET
  if o < 2 ^ 15 then o else 2 ^ 32 - 2 ^ 16 + o

/-- CALIBRATION_STALE: the parent hop's calibration is older than one interval (R46). -/
def calibrationStale (p : Port) (s : State) : State :=
  let s1 : State := (s.at (s.ports[p].calAt + s.rd HTH_CAL.CAL_PERIOD_US * usUnits)).wrIf TCK_STATUS.ALIGNED 0
  ({ s1 with tick := { s1.tick with staleCal := some (p, s.ports[p].calAt) } } : State).raise 0x0203 1 [1, s.offset32, p.val]

/-- A calibration of the port is there whose age has not been reported. -/
def State.staleNews (s : State) (p : Port) : Bool := s.ports[p].lat.isSome && s.tick.staleCal != some (p, s.ports[p].calAt)

/-- CALIBRATION_STALE. -/
def execCalibrationStale (s : State) : Host.Outcome State Fault Refusal :=
  .next (match s.parentPort with
    | some p => if s.leadUp ∧ s.hubUp ∧ s.staleNews p then calibrationStale p s else s
    | none => s)

end Sys2Proof.Machine
end

