-- ==== Sys2Proof/Machine/Background.lean ====
section
/-!
DEFINITION. Background calibration (R46, R305, R367), adaptation and recalibration (R368).
-/

namespace Sys2Proof.Machine

open Sys2Proof

/-! ### Calibration -/

/-- An exchange can run on the port: UP, not being removed. -/
def State.calPort (s : State) (p : Port) : Bool := s.portState p == 3 && !s.ports[p].removed

/-- CAL_START: a CAL_REQ with T1 and its number. -/
def calStart (p : Port) (t : Nat) (s : State) : State :=
  let n := s.ports[p].calSeq % 2 ^ 16
  (((s.at t).emit (setOut p 2 false (BitVec.ofNat 192 (t % 2 ^ 48 + n * 2 ^ 48)))).modPort p fun x =>
    { x with cal := some (n, t % 2 ^ 48), calSeq := n + 1 })

/-- CAL_START. -/
def execCalStart (port : Port) (t : Nat) (s : State) : Host.Outcome State Fault Refusal :=
  .next (if s.leadUp ∧ s.calPort port then calStart port t s else s)

/-- CAL_REQ: answered with CAL_RSP, which carries T1, T2 and T3 (R305). -/
def calReq (p : Port) (x : BitVec 192) (t2 t3 : Nat) (s : State) : State :=
  (s.at t3).emit (setOut p 3 false (BitVec.ofNat 192
    (bitsOf x.toNat 0 48 + t2 % 2 ^ 48 * 2 ^ 48 + t3 % 2 ^ 48 * 2 ^ 96 + bitsOf x.toNat 48 16 * 2 ^ 144)))

/-- CAL_REQ. -/
def execCalReq (port : Port) (payload : BitVec 192) (t2 t3 : Nat) (s : State) : Host.Outcome State Fault Refusal :=
  .next (if !s.leadUp then s
    else if s.intBypass then s.bridge port 2 false payload
    else if s.calPort port then calReq port payload t2 t3 s
    else s)

/-- A residual in ps as `TCK_SKEW.OFFSET` holds it: 16 bits, two's complement; one that they do not hold
wraps (log entry 98). -/
def residualBits (r : Int) : Nat := (r % 2 ^ 16).toNat

/-- The parent hop's residual of R367 sets or clears ALIGNED (R46). -/
def State.alignBy (s : State) (p : Port) (r : Int) : State :=
  let s1 : State := s.wrIf TCK_SKEW.OFFSET (residualBits r)
  if r < -750 ∨ 750 < r then
    (s1.wrIf TCK_STATUS.ALIGNED 0).raise 0x0203 1 [0, (r % 2 ^ 32).toNat, p.val]
  else s1.wrIf TCK_STATUS.ALIGNED 1

/-- *L* in ps as `PMP_LNK_LAT` holds it; of one that its 20 bits do not hold the spec states no value: a free value. -/
def State.latency (s : State) (ps : Nat) : Nat := if ps < 2 ^ 20 then ps else Config.freeNat s.free % 2 ^ 20

/-- CAL_RSP: *L* of the exchange in ps; the parent port's residual follows (R305, R367). -/
def calRsp (p : Port) (x : BitVec 192) (t4 : Nat) (s0 : State) : State :=
  let s : State := s0.at t4
  let t1 := bitsOf x.toNat 0 48
  let t2 := bitsOf x.toNat 48 48
  let t3 := bitsOf x.toNat 96 48
  if s.ports[p].cal ≠ some (bitsOf x.toNat 144 16, t1) then s
  else
    let m := 2 ^ 48
    let whole := (t4 + m - t1) % m
    let there := (t3 + m - t2) % m
    let ps := s.latency ((whole - there) * 625 / 2)
    let s0 : State := { s with free := s.free + 1 }
    let s1 : State := (s0.wr (PMP_LNK_LAT.PS p) ps).modPort p fun y => { y with cal := none, lat := some ps, calAt := t4 }
    if s.parentPort = some p then
      match s.ports[p].lat with
      | some old => s1.alignBy p ((ps : Int) - (old : Int))
      | none => s1
    else s1

/-- CAL_RSP. -/
def execCalRsp (port : Port) (payload : BitVec 192) (t4 : Nat) (s : State) : Host.Outcome State Fault Refusal :=
  .next (if !s.leadUp then s
    else if s.intBypass then s.bridge port 3 false payload
    else calRsp port payload t4 s)

/-- CAL_LOST: the exchange is given up; the next is due in its turn (R367). -/
def execCalLost (port : Port) (s : State) : Host.Outcome State Fault Refusal :=
  .next (if s.leadUp then s.modPort port fun x => { x with cal := none } else s)

/-! ### Adaptation and recalibration (R368) -/

/-- The next of a list of numbers below `n`, from a turn on. -/
def nextOf (l : List Nat) (turn n : Nat) : Option Nat :=
  ((List.range n).map fun i => (turn + i) % n).find? fun x => l.contains x

/-- EQ_ADAPTATION: one PHY, in ascending port order. -/
def eqAdaptation (s : State) : State :=
  match nextOf (bitsSet 16 s.build.portsWired.toNat) s.eqTurn 16 with
  | none => s
  | some n =>
    ({ s with eqTurn := n + 1 } : State).emit (.phyAdapt ⟨n % 16, Nat.mod_lt _ (by decide)⟩)

/-- EQ_ADAPTATION. -/
def execEqAdaptation (s : State) : Host.Outcome State Fault Refusal :=
  .next (if s.leadUp ∧ s.rd HTH_CAL.EQ_PERIOD_MS ≠ 0 then eqAdaptation s else s)

/-- WELL_LINK_RECAL: one Well link, in ascending slot order. -/
def wellLinkRecal (s : State) : State :=
  match nextOf (s.serviceWells.map (·.val)) s.wlTurn 24 with
  | none => s
  | some n =>
    ({ s with wlTurn := n + 1 } : State).emit (.wellRecal ⟨n % 24, Nat.mod_lt _ (by decide)⟩)

/-- WELL_LINK_RECAL. -/
def execWellLinkRecal (s : State) : Host.Outcome State Fault Refusal :=
  .next (if s.hubUp ∧ s.rd HTH_CAL.WL_RECAL_MS ≠ 0 then wellLinkRecal s else s)

end Sys2Proof.Machine
end

