-- ==== Sys2Proof/Machine/Collective.lean ====
section
/-!
DEFINITION. The commands of the collective channels (R252-R272).
-/

namespace Sys2Proof.Machine

open Sys2Proof

/-! ### Start words (R252) -/

/-- The channel a number names. -/
def chanNo (n : Nat) : Fin 16 := ⟨n % 16, Nat.mod_lt _ (by decide)⟩

/-- Event 0x0A01: a start word is discarded. -/
def State.wordDiscard (s : State) (ch : Fin 16) (w : DWord) : State :=
  s.raise 0x0A01 1 [w.toNat % 2 ^ 32, w.toNat / 2 ^ 32] (s.colCtx ch)

/-- A word written to the collective start address. -/
def collectiveWord (w : DWord) (s : State) : State :=
  let n := w.toNat
  let ch := chanNo (bitsOf n 2 4)
  let st := s.colState ch
  let ready := n / 2 ^ 32
  if bitsOf n 6 2 ≠ 0 ∨ s.rd (COL_CH_CTRL.ENABLE ch) = 0 then s.wordDiscard ch w
  else if n % 4 = 0 then
    if st ≠ 1 then s.wordDiscard ch w
    else
      let s1 : State := s.modChan ch fun k => { Channel.fresh with addr := n / 256 * 256, kept := k.kept }
      let s2 : State := s1.setWord (COL_CH_STATUS.reg ch) ((COL_CH_STATUS.STATE ch).put 0 2)
      (s2.wr (COL_CH_READY.READY ch) 0).hostRead (.colDesc ch) (n / 256 * 256) 64
  else if n % 4 = 1 ∧ bitsOf n 8 24 = 0 ∧ st ≠ 1 ∧ s.rd (COL_CH_READY.READY ch) ≤ ready then
    (s.wrIf (COL_CH_READY.READY ch) ready).colGo ch
  else s.wordDiscard ch w

/-- COLLECTIVE_START. -/
def execCollectiveStart (w : DWord) (s : State) : Host.Outcome State Fault Refusal :=
  .next (if s.slaveUp then collectiveWord w s else s)

/-- COLLECTIVE_READY. -/
def execCollectiveReady (w : DWord) (s : State) : Host.Outcome State Fault Refusal :=
  .next (if s.slaveUp then collectiveWord w s else s)

/-! ### Descriptor checks (R254) -/

/-- The regions of a descriptor, with their bytes. -/
def Channel.regions (k : Channel) : List (Nat × Nat) :=
  let shard := k.cap * k.esz
  [(k.inAddr, if k.isRs then k.m * shard else shard), (k.outAddr, if k.isRs then shard else k.m * shard),
   (k.cntAddr, 4 * (k.m + 1)), (k.progAddr, 0x20 + 4 * (if k.isRs then 1 else k.m))]

/-- KiB that the reservation is charged at (R167, R268): its buffers in the smallest pool that holds one. -/
def State.colKib (s : State) (k : Channel) (alg : Nat) : Nat :=
  k.reserve alg * (match s.fitting (k.bufBytes alg) with | p :: _ => s.poolKib p | [] => 0)

/-- The first failing check, as (STATUS, DETAIL). -/
def State.colCheck (s : State) (ch : Fin 16) : Option (Nat × Nat) :=
  let k := s.chan[ch]
  let alg := k.algRun (s.rd COL_CFG.THRESH_KIB)
  if k.malformed then some (2, 0x01)
  else if k.seq.toNat ≠ s.rd (COL_CH_SEQ.SEQ ch) then some (3, 0x12)
  else if !k.members.testBit s.chip then some (2, 0x08)
  else if k.alg = 3 ∧ !isBox k.members then some (2, 0x09)
  else if k.regions.any fun r => badAddr r.1 r.2 then some (2, 0x07)
  else if s.fitting (k.bufBytes alg) = [] then some (2, 0x0A)
  else if s.rd (CST_QUOTA.LIMIT 16) < s.colKib k alg then some (4, 0x32)
  else if k.members &&& s.absent ≠ 0 then some (7, 0x20)
  else none

/-- The channel returns to IDLE: the reservation is given back, the collective is counted, and the completion interrupt of
its context may be signalled (R253, R258, R268). -/
def State.colIdle (s : State) (ch : Fin 16) : State :=
  let k := s.chan[ch]
  let s1 : State := (s.releaseAll k.bufs).modChan ch fun k => { Channel.fresh with kept := k.kept }
  let s2 : State := (s1.wr (COL_CH_STATUS.STATE ch) 1).bump (COL_CH_DONE_CNT.COUNT ch)
  if k.irq ∧ s.rd (COL_CH_CTRL.IRQ_EN ch) = 1 then s2.emit (.irqCq (s.colCtx ch)) else s2

/-- A collective is rejected: event 0x0A02 and the final header, wherever PROG_ADDR points; a header that would reach beyond the host's
addresses cannot be written (log entry 59). -/
def State.colReject (s : State) (ch : Fin 16) (status detail : Nat) : State :=
  let k := s.chan[ch]
  let s1 : State := s.raise 0x0A02 1 [ch.val, status, detail] (s.colCtx ch) k.seq
  if 2 ^ 64 < k.progAddr + 0x20 then s1.colIdle ch
  else (s1.modChan ch fun k => { k with final := some (status, detail, false) }).colTryHeader ch

/-- COL_DESCRIPTOR_CHECK: the checks in order; a descriptor that passes advances `COL_CH_SEQ` and waits for its buffers. -/
def colDescriptorCheck (ch : Fin 16) (s : State) : State :=
  match s.colCheck ch with
  | some (status, detail) => s.colReject ch status detail
  | none =>
    let alg := s.chan[ch].algRun (s.rd COL_CFG.THRESH_KIB)
    let s1 : State := s.wr (COL_CH_SEQ.SEQ ch) (s.rd (COL_CH_SEQ.SEQ ch) + 1)
    (((s1.wr (COL_CH_STATUS.ALG_USED ch) alg).wr (COL_CH_STATUS.STATE ch) 3).modChan ch fun k => { k with
      need := k.reserve alg, needBytes := k.bufBytes alg, counted := false }).markWaits

/-- COL_DESCRIPTOR_CHECK. -/
def execColDescriptorCheck (ch : Fin 16) (s : State) : Host.Outcome State Fault Refusal :=
  .next (if s.busUp 0xc ∧ s.colState ch = 2 ∧ s.chan[ch].fetched ∧ s.chan[ch].final.isNone then colDescriptorCheck ch s else s)

/-! ### COL_START and entering RUNNING (R256, R258, R259, R269) -/

/-- Word 1 of the own COL_START, without CREDITS. -/
def State.colStartWord (s : State) (ch : Fin 16) : Nat :=
  let k := s.chan[ch]
  k.op % 4 + k.dtype * 4 + (s.colAlg ch) * 16 + k.narrow * 64 + k.clog * 2 ^ 8 + k.cap * 2 ^ 12

/-- A COL_START of the current attempt: initial credits; a field that differs from the own descriptor is a mismatch. -/
def State.colStarted (s : State) (ch : Fin 16) (p : Pkt) : State :=
  let n := bitsOf p.w1.toNat 40 8
  let src := srcOf p
  let s1 : State := s.modChan ch fun k =>
    let k1 := k.setCredit src 0 (k.credit src 0 + n)
    { k1.setCredit src 1 (k1.credit src 1 + n) with starts := k1.starts ++ [src], moved := true }
  let s2 : State :=
    if bitsOf p.w1.toNat 0 40 ≠ s.colStartWord ch ∨ p.w2.toNat ≠ s.chan[ch].members then s1.colAbortSend ch 6 0 else s1
  s2.colFlush ch

/-- A packet of the channel's current attempt (R267). -/
def State.colCurrent (s : State) (ch : Fin 16) (p : Pkt) : Bool :=
  s.colLive ch && seqOf p == s.chan[ch].seq && attOf p == s.rd (COL_CH_STATUS.ATT ch)

/-- A packet is discarded and counted (R267). -/
def State.colStale (s : State) (_p : Pkt) : State := s.bump COL_STALE_CNT.COUNT

/-- Kept COL_STARTs that are still to come: of a later attempt, or of the next collective (R269). -/
def State.keepsStart (s : State) (ch : Fin 16) (p : Pkt) : Bool :=
  (seqOf p).toNat == s.rd (COL_CH_SEQ.SEQ ch) ||
    (decide (3 ≤ s.colState ch) && seqOf p == s.chan[ch].seq &&
      (s.colState ch == 3 || decide (s.rd (COL_CH_STATUS.ATT ch) < attOf p)))

/-- What stops a collective that enters RUNNING: a member declared absent, or the ring of its context frozen, before (R258, R271). -/
def State.colStopped (s : State) (ch : Fin 16) : Option Nat :=
  if s.chan[ch].members &&& s.absent ≠ 0 then some 4 else if s.ringFrozen (s.colCtx ch) then some 5 else none

/-- Enter RUNNING: the header with DONE = 0, the input counts, COL_START to every member, and the COL_STARTs kept. -/
def State.colRun (s : State) (ch : Fin 16) : State :=
  let s0 : State := (s.wr (COL_CH_STATUS.STATE ch) 4).modChan ch fun k => { k with
    starts := [], credits := [], outq := [], counts := none, countBytes := [], asked := [], inBytes := [], own := [],
    arrived := [], sums := [], outs := [], acked := [], bad := [], countsOut := false, fins := [], finSent := false, stalled := 0,
    hold := false, moved := true, heldFrom := [] }
  let k := s0.chan[ch]
  let s1 : State := s0.hostWrite (.colRec ch) k.progAddr (s0.colHeader ch false 0 0 false)
  let s2 : State := s1.hostRead (.colCount ch) k.cntAddr (if k.isRs then 4 * k.m else 4)
  let w := s2.colStartWord ch
  let s3 : State := (posList k.members).foldl (fun (s : State) (d : Nat) =>
    s.send (s.colPkt ch 0x11 d (w + k.creditsFor (s.colAlg ch) s.chip d * 2 ^ 40) k.members)) s2
  let kept := s3.chan[ch].kept
  let now := kept.filter fun p => s3.colCurrent ch p
  let later := kept.filter fun p => !s3.colCurrent ch p && s3.keepsStart ch p
  let gone := kept.filter fun p => !s3.colCurrent ch p && !s3.keepsStart ch p
  let s4 : State := gone.foldl State.colStale (now.foldl (fun (s : State) (p : Pkt) => s.colStarted ch p)
    (s3.modChan ch fun k => { k with kept := later }))
  match s4.colStopped ch with
  | some cause => s4.colAbortSend ch cause 0
  | none => s4

/-- The channels in RESERVING, in rotation from the one after the last granted. -/
def State.reserving (s : State) : List (Fin 16) :=
  ((List.range 16).map fun i => chanNo (s.cist.colLast + 1 + i)).filter fun ch => s.colState ch == 3

/-- COL_RESERVATION_GRANT: the next waiting channel whose buffers are all free takes them in one grant and runs. -/
def colReservationGrant (pick : Nat) (s : State) : State :=
  let try_ (ch : Fin 16) : Option (Fin 16 × State × List Nat) :=
    (State.takeMany s.chan[ch].need s.chan[ch].needBytes pick (some (s, []))).map fun r => (ch, r.1, r.2)
  match s.reserving.findSome? try_ with
  | none => s
  | some (ch, s1, hs) =>
    let s2 : State := s1.modChan ch fun k => { k with bufs := hs }
    (({ s2 with cist := { s2.cist with colLast := ch.val } } : State).colRun ch).markWaits

/-- COL_RESERVATION_GRANT. -/
def execColReservationGrant (pick : Nat) (s : State) : Host.Outcome State Fault Refusal :=
  .next (if s.busUp 0x9 then colReservationGrant pick s else s)

/-! ### Packets -/

/-- A packet with a type lies among the landed ones. -/
def State.hasLanded (s : State) (p : Pkt) (ptype : Nat) : Bool := ptypeOf p == ptype && s.landed.any fun l => l.pkt == p

/-- COL_START: one that arrives before the receiver's own is kept. -/
def colStart (p : Pkt) (s : State) : State :=
  let ch := ctxOf p
  let s1 : State := s.takeLanded p
  if s.colCurrent ch p then s1.colStarted ch p
  else if s.keepsStart ch p then s1.modChan ch fun k => { k with kept := k.kept ++ [p] }
  else s1.colStale p

/-- COL_START. -/
def execColStart (p : Pkt) (s : State) : Host.Outcome State Fault Refusal :=
  .next (if s.busUp 0xa ∧ s.hasLanded p 0x11 then s.checked p (colStart p) else s)

/-- A chunk of the current attempt: under DIRECT it is kept by the position of its source, under a ring by its phase. -/
def State.colArrived (s : State) (ch : Fin 16) (p : Pkt) : State :=
  let k := s.chan[ch]
  let alg := s.colAlg ch
  let w := p.w1.toNat
  let ph := bitsOf w 4 2
  let sh := bitsOf w 8 6
  let q := bitsOf w 20 24
  let buf := some (srcOf p, bitsOf w 6 1)
  let ws := colWords p
  let s1 : State := s.modChan ch fun k => { k with moved := true }
  if !k.isRs then s1.colHave ch sh q (some ph) ws buf
  else if alg = 1 then
    State.colDirect ch q (k.m + 1) (s1.modChan ch fun k =>
      { k with arrived := k.arrived ++ [⟨sh, q, k.pos (srcOf p).val, ws, buf⟩] })
  else
    let s2 : State := s1.modChan ch fun k => { k with arrived := k.arrived ++ [⟨sh, q, ph, ws, buf⟩] }
    match k.own.find? fun x => x.shard == sh && x.chunk == q && x.phase == ph with
    | none => s2
    | some o =>
      State.colTerm ch sh q ((k.phases alg).filter fun x => decide (ph ≤ x)) o.words
        (s2.modChan ch fun k => { k with own := k.own.erase o })

/-- COL_DATA. -/
def colData (p : Pkt) (s : State) : State :=
  let ch := ctxOf p
  let k := s.chan[ch]
  let s1 : State := s.takeLanded p
  if s.colCurrent ch p && decide (bitsOf p.w1.toNat 8 6 < k.m ∧ bitsOf p.w1.toNat 20 24 < k.cps) then s1.colArrived ch p
  else s1.colStale p

/-- COL_DATA. -/
def execColData (p : Pkt) (s : State) : Host.Outcome State Fault Refusal :=
  .next (if s.busUp 0xa ∧ s.hasLanded p 0x10 then s.checked p (colData p) else s)

/-- COL_CREDIT. -/
def colCredit (p : Pkt) (s : State) : State :=
  let ch := ctxOf p
  let s1 : State := s.takeLanded p
  if s.colCurrent ch p then
    let dir := bitsOf p.w1.toNat 0 1
    (s1.modChan ch fun k =>
      { k.setCredit (srcOf p) dir (k.credit (srcOf p) dir + bitsOf p.w1.toNat 1 8) with moved := true }).colFlush ch
  else s1.colStale p

/-- COL_CREDIT. -/
def execColCredit (p : Pkt) (s : State) : Host.Outcome State Fault Refusal :=
  .next (if s.busUp 0xa ∧ s.hasLanded p 0x12 then s.checked p (colCredit p) else s)

/-- COL_HOLD. -/
def colHold (p : Pkt) (s : State) : State :=
  let ch := ctxOf p
  let s1 : State := s.takeLanded p
  if s.colCurrent ch p then s1.modChan ch fun k => { k with heldFrom := k.heldFrom ++ [srcOf p] } else s1.colStale p

/-- COL_HOLD. -/
def execColHold (p : Pkt) (s : State) : Host.Outcome State Fault Refusal :=
  .next (if s.busUp 0xa ∧ s.hasLanded p 0x13 then s.checked p (colHold p) else s)

/-- COL_FIN. -/
def colFin (p : Pkt) (s : State) : State :=
  let ch := ctxOf p
  let s1 : State := s.takeLanded p
  if s.colCurrent ch p then
    (s1.modChan ch fun k => { k with fins := k.fins ++ [srcOf p], moved := true }).colTryFinish ch
  else s1.colStale p

/-- COL_FIN. -/
def execColFin (p : Pkt) (s : State) : Host.Outcome State Fault Refusal :=
  .next (if s.busUp 0xa ∧ s.hasLanded p 0x15 then s.checked p (colFin p) else s)

/-! ### Abort and restart (R271) -/

/-- A restart: RESTARTING until the old attempt's packets have drained; the reservation is kept. -/
def State.colRestart (s : State) (ch : Fin 16) (cause newatt : Nat) : State :=
  let att := s.rd (COL_CH_STATUS.ATT ch)
  (((s.colDrop ch).wr (COL_CH_STATUS.STATE ch) 6).bump COL_RESTART_CNT.COUNT).modChan ch fun k =>
    { k with newAtt := max newatt (att + 1), restarts := max newatt (att + 1), uncor := k.uncor || cause == 2 }

/-- COL_ABORT: event 0x0A03 (already written for the own STALL), then a restart or the end. -/
def colAbort (p : Pkt) (s : State) : State :=
  let ch := ctxOf p
  let s1 : State := s.takeLanded p
  let cause := bitsOf p.w1.toNat 0 4
  let newatt := bitsOf p.w1.toNat 4 3
  if s.colCurrent ch p && decide (1 ≤ cause ∧ cause ≤ 6) then
    let s2 : State :=
      if cause = 1 ∧ (srcOf p).val = s.chip then s1
      else s1.raise 0x0A03 2 [ch.val, cause, newatt, (srcOf p).val] (s.colCtx ch) s.chan[ch].seq
    if cause ≤ 3 ∧ s.chan[ch].restarts < s.rd COL_CFG.RESTART_MAX then s2.colRestart ch cause newatt else s2.colFail ch cause
  else s1.colStale p

/-- COL_ABORT. -/
def execColAbort (p : Pkt) (s : State) : Host.Outcome State Fault Refusal :=
  .next (if s.busUp 0xa ∧ s.hasLanded p 0x14 then s.checked p (colAbort p) else s)

/-- No packet of the old attempt is left on this member. -/
def State.colDrained (s : State) (ch : Fin 16) : Bool :=
  let seq := s.chan[ch].seq
  let att := s.rd (COL_CH_STATUS.ATT ch)
  (List.finRange 16).all (fun p => s.ports[p].link.txq.toList.all fun q => q.all fun f => !f.ofCol ch seq att) &&
    s.landed.all fun l => !ofColAttempt ch seq att l.pkt

/-- COL_RESTART_DRAINED: RUNNING again, with the next attempt; the descriptor is read again too (R257). A channel whose reservation went
with a failed Hub takes it anew first (R173, R268). -/
def colRestartDrained (ch : Fin 16) (s : State) : State :=
  let s1 : State := s.wr (COL_CH_STATUS.ATT ch) s.chan[ch].newAtt
  if s.chan[ch].bufs.length < s.chan[ch].need then (s1.wr (COL_CH_STATUS.STATE ch) 3).markWaits
  else (s1.hostRead (.colDesc ch) s.chan[ch].addr 64).colRun ch

/-- COL_RESTART_DRAINED. -/
def execColRestartDrained (ch : Fin 16) (s : State) : Host.Outcome State Fault Refusal :=
  .next (if s.hubUp ∧ s.colState ch = 6 ∧ s.colDrained ch then colRestartDrained ch s else s)

/-! ### Finishing and stalls -/

/-- COL_OUTPUTS_COMPLETE: COL_FIN to every member, FINISHING. -/
def colOutputsComplete (ch : Fin 16) (s : State) : State :=
  ((((s.colAll ch 0x15 0 0).modChan ch fun k => { k with finSent := true, moved := true }).wr
    (COL_CH_STATUS.STATE ch) 5)).colTryFinish ch

/-- COL_OUTPUTS_COMPLETE. -/
def execColOutputsComplete (ch : Fin 16) (s : State) : Host.Outcome State Fault Refusal :=
  .next (if s.hubUp ∧ s.colState ch = 4 ∧ s.colLive ch ∧ s.chan[ch].counts.isSome ∧ s.chan[ch].outsDone then
    colOutputsComplete ch s else s)

/-- The interval that ends was a stalled one (R270). -/
def State.colStood (s : State) (ch : Fin 16) : Bool :=
  let k := s.chan[ch]
  (posList k.members).all (fun d => k.starts.any fun x => x.val == d) && k.heldFrom.isEmpty && !k.moved

/-- One channel at a tick: count the interval, abort at WD_LIMIT, and begin the next interval. -/
def State.colTick (s : State) (ch : Fin 16) : State :=
  if !s.colLive ch then s
  else
    let n := if s.colState ch = 4 ∧ s.colStood ch then s.chan[ch].stalled + 1 else 0
    let hit := decide (0 < n ∧ s.rd COL_CFG.WD_LIMIT ≤ n)
    let s1 : State := s.modChan ch fun k => { k with
      stalled := if hit then 0 else n, moved := false, heldFrom := [], hold := false }
    let s2 : State :=
      if hit then
        ((s1.colAbortSend ch 1 0).bump COL_STALL_CNT.COUNT).raise 0x0A03 2
          [ch.val, 1, (s.rd (COL_CH_STATUS.ATT ch) + 1) % 8, s.chip] (s.colCtx ch) s.chan[ch].seq
      else s1
    if s2.colUnready ch && !s2.busyFor (Purpose.colInput ch) then s2.colHoldSend ch else s2

/-- COL_STALL_COUNT: every channel, at a local tick instant. -/
def colStallCount (s : State) : State := (List.finRange 16).foldl (fun (s : State) (ch : Fin 16) => s.colTick ch) s

/-- COL_STALL_COUNT. -/
def execColStallCount (s : State) : Host.Outcome State Fault Refusal := .next (if s.hubUp then colStallCount s else s)

/-! ### COL_CH_CTRL (R258, R275) -/

/-- A write of `COL_CH_CTRL`: ENABLE is cleared only in IDLE, CTX changes only while ENABLE is 0; what is refused keeps its
value and event 0x0A06 is written. -/
def colChCtrlWrite (ch : Fin 16) (v : Word) (s : State) : State :=
  let on := s.rd (COL_CH_CTRL.ENABLE ch) == 1
  let want := (COL_CH_CTRL.ENABLE ch).get v == 1
  let badOff := on && !want && s.colState ch != 1
  let badCtx := on && (COL_CH_CTRL.CTX ch).get v != s.rd (COL_CH_CTRL.CTX ch)
  let v1 := if badOff then s.keep (COL_CH_CTRL.ENABLE ch) v else v
  let v2 := if badCtx then s.keep (COL_CH_CTRL.CTX ch) v1 else v1
  let s1 : State := s.store (COL_CH_CTRL.reg ch) v2
  let s2 : State := if badOff || badCtx then s1.raise 0x0A06 1 [COL_CH_CTRL.reg ch, v.toNat] else s1
  if !on && want then s2.wr (COL_CH_STATUS.STATE ch) 1
  else if on && !want && !badOff then s2.wr (COL_CH_STATUS.STATE ch) 0 else s2

/-- COL_CH_ENABLE. -/
def execColChEnable (ch : Fin 16) (v : Word) (s : State) : Host.Outcome State Fault Refusal :=
  .next (if s.busUp 0 then colChCtrlWrite ch v s else s)

/-! ### Host transfers of a channel (R338) -/

/-- A read of a channel ends in an error: COL_ABORT with cause 2. Before RUNNING no member is told (log 59): the descriptor is
read again. -/
def State.colReadError (s : State) (ch : Fin 16) : State :=
  if s.colState ch = 2 then s.hostRead (.colDesc ch) s.chan[ch].addr 64 else s.colAbortSend ch 2 0

/-- A write of a chunk has been answered with an error: the chunk is not written in this attempt (R256). -/
def State.colWriteBad (s : State) (ch : Fin 16) (sh q : Nat) : State :=
  (s.modChan ch fun k => { k with bad := k.bad ++ [(sh, q)] }).colTryHeader ch

/-- A write of a channel has been answered: the chunk may be final, the final header may be written or the channel go IDLE. -/
def State.colWritten (s : State) (ch : Fin 16) (why : Purpose) : State :=
  match why with
  | .colWrite _ sh q => (s.colAck ch sh q).colTryFinish ch
  | _ => if s.chan[ch].finalOut then (if s.colWriting ch then s else s.colIdle ch) else s.colTryFinish ch

end Sys2Proof.Machine
end

