-- ==== Sys2Proof/Machine/EventLog.lean ====
section
/-!
DEFINITION. The event recorder's flushes (R418, R419), the sectors of the xSPI device (R375, R376), the read window (R420) and
the recorder's registers (R422, R423).
-/

namespace Sys2Proof.Machine

open Sys2Proof

/-! ### Records and slots (R411, R375, R417) -/

/-- What an erased byte of the device reads as. -/
def nvByte (_ : Nat) : Byte := 0xFF#8

/-- The 64 bytes of a recorder record. -/
def recBytes (e : RecEntry) : List Byte :=
  let w0 := e.ev.code % 2 ^ 16 + (e.ev.sev % 4) * 2 ^ 16 +
    (match e.ev.ctx with | some c => c.val * 2 ^ 18 + 2 ^ 22 | none => 0) + bitNat e.snap.isNone * 2 ^ 23 + e.suppr % 256 * 2 ^ 24
  let body := toBytes 4 w0 ++ toBytes 4 e.rseq.toNat ++ toBytes 4 e.opsec.toNat ++
    toBytes 4 (e.pcyc % 2 ^ 24 + e.frac % 256 * 2 ^ 24) ++ toBytes 6 e.ev.tick ++ toBytes 2 e.ev.source ++
    toBytes 4 e.ev.seq.toNat ++ toBytes 4 (e.ev.data.getD 0 0) ++ toBytes 4 (e.ev.data.getD 1 0) ++
    ((List.range 6).map fun i => toBytes 4 (((e.snap.getD []).getD i 0).toNat)).flatten
  body ++ toBytes 4 (crc32c body).toNat

/-- 64-byte slots of a sector, its header's among them. -/
def Recorder.slots (r : Recorder) : Nat := r.sectorKib * 16

/-- Device address of a sector. -/
def State.sectorAddr (s : State) (idx : Nat) : Nat := s.rd HTH_NVM.BASE_MIB * 2 ^ 20 + idx * (s.evr.sectorKib * 1024)

/-- The largest use sequence of the area. -/
def Recorder.lastUse (r : Recorder) : Nat := r.sectors.foldl (fun n x => max n x.useSeq) 0

/-- A sector whose header cannot be read counts so (R375). -/
def unreadErases : Nat := 0xFFFFFFFF

/-- A page of four records fits in the sector being written. -/
def Recorder.fits (r : Recorder) (x : Sector) : Bool :=
  !x.bad && x.erases != unreadErases && x.next != 0 && x.useSeq == r.lastUse && decide (x.next + 4 ≤ r.slots)

/-- The free sector opened next: the lowest erase count, then the lowest address (R375). -/
def Recorder.freeSector (r : Recorder) : Option Sector :=
  (r.sectors.filter fun x => !x.bad && x.next == 0).foldl (fun (b : Option Sector) (x : Sector) =>
    match b with
    | some y => if x.erases < y.erases then some x else some y
    | none => some x) none

/-- There is room for a page. -/
def Recorder.hasRoom (r : Recorder) : Bool := r.sectors.any r.fits || r.freeSector.isSome

/-- Erased slots ready for records. -/
def Recorder.reserve (r : Recorder) : Nat :=
  r.sectors.foldl (fun n x => n + (if x.bad then 0 else if x.next = 0 then r.slots - 1 else if r.fits x then r.slots - x.next else 0)) 0

/-- Change a sector. -/
def Recorder.modSector (r : Recorder) (idx : Nat) (f : Sector → Sector) : Recorder :=
  { r with sectors := r.sectors.map fun x => if x.idx = idx then f x else x }

/-- The header of a sector: its erase count and its use sequence. -/
def sectorHead (x : Sector) : List Byte := toBytes 4 x.erases ++ toBytes 4 x.useSeq

/-- The sector that takes the next page: the one being written, or a free one, which is opened. -/
def State.openSector (s : State) : Option (State × Sector) :=
  match s.evr.sectors.find? s.evr.fits with
  | some x => some (s, x)
  | none => s.evr.freeSector.map fun x =>
    let y : Sector := { x with useSeq := s.evr.lastUse + 1, next := 1 }
    let a := s.sectorAddr x.idx
    let s1 : State := { s with evr := s.evr.modSector x.idx fun _ => y, nvm := mwrite nvByte s.nvm a (sectorHead y) }
    (s1.emit (.xspi 0 a (sectorHead y)), y)

/-! ### Flushes (R361, R418) -/

/-- A power-fail flush ends: what it leaves unwritten counts as overwritten; PFAIL clears once the Heath draws from VAON_MAIN. -/
def State.powerFailEnd (s : State) : State :=
  let n := s.evr.unflushed.length
  { s with evr := { s.evr with flush := none, page := [], ovwr := min (2 ^ 32 - 1) (s.evr.ovwr + n) }
           pfail := s.pfail && s.leadHeath.onBkup }

/-- The next page of the flush under way, or its end. A power-fail flush never erases (R419). -/
def State.nextPage (s : State) : State :=
  let r := s.evr.startPage
  let s1 : State := { s with evr := r }
  if s.evr.flush = some .powerFail ∧ (r.flush = none ∨ !r.hasRoom) then s1.powerFailEnd else s1

/-- A power-fail flush starts, or takes over from the flush that runs. -/
def State.powerFailFlush (s : State) : State :=
  if s.evr.nv then ({ s with evr := { s.evr with flush := some .powerFail, pfBudget := s.rd EVR_CTRL.PF_MAX } } : State).nextPage
  else s

/-- The oldest unflushed record is TRICKLE_S seconds old. -/
def State.trickleOld (s : State) : Bool :=
  match s.evr.unflushed with
  | e :: _ => decide (s.rd EVR_CTRL.TRICKLE_S ≤ s.op256 / 256 - e.opsec.toNat)
  | [] => false

/-- TRICKLE_FLUSH: whole pages of unflushed records, while the erased slots stay enough for a power-fail flush. -/
def trickleFlush (s : State) : State :=
  ({ s with evr := { s.evr with flush := some .trickle } } : State).nextPage

/-- The conditions of R418 and R419 for a trickle flush. -/
def State.trickles (s : State) : Bool :=
  s.evr.nv && s.evr.flush.isNone && (decide (s.rd EVR_CTRL.TRICKLE_N ≤ s.evr.unflushed.length) || s.trickleOld) &&
    decide (s.rd EVR_CTRL.PF_MAX + 4 ≤ s.evr.reserve)

/-- TRICKLE_FLUSH. -/
def execTrickleFlush (t : Nat) (s : State) : Host.Outcome State Fault Refusal :=
  .next (if s.leadUp then (if (s.at t).trickles then trickleFlush (s.at t) else s.at t) else s)

/-- EVR_FLUSH: a fault flush. -/
def execEvrFlush (s : State) : Host.Outcome State Fault Refusal :=
  .next (if s.busUp 0 ∧ s.leadUp then { s with evr := s.evr.faultFlush } else s)

/-- A device failure: counted, event 0x0E04, and the sector is not used again (R419). -/
def State.nvFail (s : State) (idx kind addr : Nat) : State :=
  ({ s with evr := { s.evr.modSector idx (fun x => { x with bad := true }) with nvErr := min (2 ^ 32 - 1) (s.evr.nvErr + 1) } } : State).raiseHeath
    0x0E04 2 [kind] addr

/-- A page program ends. -/
def State.pageDone (s : State) (ok : Bool) : State :=
  match s.openSector with
  | none => s
  | some (s1, x) =>
    let pg := s1.evr.page
    let bs := (pg.map recBytes).flatten
    let page := bs ++ List.replicate (256 - bs.length) 0xFF#8
    let a := s1.sectorAddr x.idx + 64 * x.next
    let s2 : State := ({ s1 with evr := { s1.evr with page := [] } } : State).emit (.xspi 0 a page)
    if ok then
      { s2 with
        nvm := mwrite nvByte s2.nvm a page
        evr := { s2.evr.modSector x.idx (fun y => { y with next := y.next + 4 }) with
          ring := s2.evr.ring.map fun e => if pg.any fun x => x.rseq == e.rseq then { e with flushed := true } else e
          pfBudget := s2.evr.pfBudget - pg.length } }
    else s2.nvFail x.idx 0 a

/-- An erase ends. -/
def State.eraseDone (s : State) (idx : Nat) (ok : Bool) : State :=
  let a := s.sectorAddr idx
  let n := s.evr.sectorKib * 1024
  let left := s.evr.nvErase.filter fun i => i != idx
  let s1 : State := { s with evr := { s.evr with eraseOf := none, nvErase := left, erasing := s.evr.erasing && !left.isEmpty } }
  if ok then
    { s1 with nvm := s1.nvm.filter fun c => !(decide (a ≤ c.1 ∧ c.1 < a + n))
              evr := s1.evr.modSector idx fun x => { x with next := 0, erases := min unreadErases (x.erases + 1) } }
  else s1.nvFail idx 1 a

/-- PAGE_PROGRAM_DONE: the erase under way ends, else the page program. -/
def pageProgramDone (ok : Bool) (s : State) : State :=
  match s.evr.eraseOf with
  | some idx => (s.eraseDone idx ok).nextPage
  | none => if s.evr.page = [] then s else (s.pageDone ok).nextPage

/-- PAGE_PROGRAM_DONE. -/
def execPageProgramDone (ok : Bool) (s : State) : Host.Outcome State Fault Refusal :=
  .next (if s.leadUp then pageProgramDone ok s else s)

/-! ### Erasing (R375, R376, R422) -/

/-- A used sector is erased before another: the older use sequence, and one with an unreadable header last. -/
def Sector.before (x y : Sector) : Bool :=
  if (x.erases == unreadErases) == (y.erases == unreadErases) then decide (x.useSeq < y.useSeq) else y.erases == unreadErases

/-- The used sector with the oldest use sequence, the one being written apart. -/
def Recorder.oldestUsed (r : Recorder) : Option Nat :=
  ((r.sectors.filter fun x => !x.bad && x.next != 0 && !r.fits x).foldl (fun (b : Option Sector) (x : Sector) =>
    match b with
    | some y => if x.before y then some x else some y
    | none => some x) none).map (·.idx)

/-- The sector to be erased next: of NV_ERASE, once its flush has ended, or to keep erased slots ready for PF_MAX records. -/
def State.eraseTarget (s : State) : Option Nat :=
  match s.evr.nvErase with
  | i :: _ => if s.evr.flush.isNone then some i else if s.evr.hasRoom then none else s.evr.oldestUsed
  | [] => if s.evr.reserve < s.rd EVR_CTRL.PF_MAX ∨ !s.evr.hasRoom then s.evr.oldestUsed else none

/-- The erases of the last hour. -/
def State.recentErases (s : State) : List Nat := s.erases.filter fun t => decide (s.now < t + 3600 * 1000000 * usUnits)

/-- NVM_ERASE: one erase, unless the limit of the hour holds it back; a fault flush ignores the limit. -/
def nvmErase (s : State) : State :=
  match s.eraseTarget with
  | none => s
  | some i =>
    let past := s.recentErases
    if s.evr.flush ≠ some .fault ∧ s.rd HTH_NVM.ERASE_PER_H ≤ past.length then
      if s.erasePaused then s else ({ s with erasePaused := true } : State).raiseHeath 0x0C15 1 [past.length]
    else
      ({ s with erases := s.now :: past, erasePaused := false, evr := { s.evr with eraseOf := some i } } : State).emit
        (.xspi 1 (s.sectorAddr i) [])

/-- NVM_ERASE. -/
def execNvmErase (s : State) : Host.Outcome State Fault Refusal :=
  .next (if s.leadUp ∧ s.evr.nv ∧ s.evr.eraseOf.isNone ∧ s.evr.flush ≠ some .powerFail ∧ (s.evr.page = [] ∨ !s.evr.hasRoom) then
    nvmErase s else s)

/-- NV_ERASE: a fault flush, then every sector in ascending address; discarded while ERASING is 1. -/
def nvErase (s : State) : State :=
  if s.evr.erasing ∨ s.evr.sectors = [] then s
  else
    let r := s.evr.faultFlush
    { s with evr := { r with erasing := true, nvErase := r.sectors.map (·.idx) } }

/-- NV_ERASE. -/
def execNvErase (s : State) : Host.Outcome State Fault Refusal :=
  .next (if s.busUp 0 ∧ s.leadUp then nvErase s else s)

/-! ### Records formed whatever LEVEL, `EVR_MATCH` and the rate limit say -/

/-- Form a record of an event of the Heath in any case: the two records that R419 and R422 name must exist. -/
def State.recordAlways (s : State) (code : Nat) (data : List Nat) : State :=
  let e : Event := { code := code, sev := 0, ctx := none, seq := 0, tick := s.tickNow, source := s.source 26 0, addr := 0, data := data }
  (s.enqueue e).ringPut
    { ev := e, suppr := 0, rseq := s.evr.rseq, opsec := BitVec.ofNat 32 (s.op256 / 256), frac := s.op256 % 256, pcyc := s.evr.pcyc
      snap := s.snapshot (match s.evrMatch code with | some (_, p) => p | none => 0), flushed := false }

/-- EVR_CLEAR: event 0x0E03, then only its record is left in the ring; a page program under way ends with the records it holds; discarded
while ERASING is 1. -/
def evrClear (s : State) : State :=
  if s.evr.erasing then s
  else
    let s1 : State := s.recordAlways 0x0E03 [s.evr.ring.length]
    ({ s1 with evr := { s1.evr with ring := s1.evr.ring.drop (s1.evr.ring.length - 1) } } : State).nextPage

/-- EVR_CLEAR. -/
def execEvrClear (s : State) : Host.Outcome State Fault Refusal :=
  .next (if s.busUp 0 ∧ s.leadUp then evrClear s else s)

/-- A write of `EVR_CTRL`: the fields, then FLUSH, CLEAR and NV_ERASE. -/
def evrCtrlWrite (v : Word) (s : State) : State :=
  let v1 := EVR_CTRL.NV_ERASE.put (EVR_CTRL.CLEAR.put (EVR_CTRL.FLUSH.put v 0) 0) 0
  let v2 := if EVR_CTRL.TRICKLE_N.get v1 = 0 then EVR_CTRL.TRICKLE_N.put v1 1 else v1
  let v3 := if EVR_CTRL.TRICKLE_S.get v2 = 0 then EVR_CTRL.TRICKLE_S.put v2 1 else v2
  let v4 := if EVR_CTRL.PF_MAX.get v3 < 4 then EVR_CTRL.PF_MAX.put v3 4 else v3
  let s1 : State := s.store EVR_CTRL.reg v4
  if !s1.leadUp then s1
  else
    let s2 : State := if EVR_CTRL.FLUSH.get v = 1 then { s1 with evr := s1.evr.faultFlush } else s1
    let s3 : State := if EVR_CTRL.CLEAR.get v = 1 then evrClear s2 else s2
    if EVR_CTRL.NV_ERASE.get v = 1 then nvErase s3 else s3

/-- TOKEN_REFILL: every bucket below BURST gains a token (R415). -/
def tokenRefill (s : State) : State :=
  let n := s.rd EVR_RATE.BURST
  { s with evr := { s.evr with buckets := s.evr.buckets.map fun b => if b.tokens < n then { b with tokens := b.tokens + 1 } else b } }

/-- TOKEN_REFILL. -/
def execTokenRefill (s : State) : Host.Outcome State Fault Refusal := .next (if s.leadUp then tokenRefill s else s)

/-- A write of `EVR_TRIG`: event 0x0E80 + NUM with DATA0 = ARG. -/
def evrTrig (v : Word) (s : State) : State :=
  let s1 : State := s.store EVR_TRIG.reg v
  s1.raiseHeath (0x0E80 + s1.rd EVR_TRIG.NUM) 0 [s1.rd EVR_TRIG.ARG]

/-- EVR_TRIG. -/
def execEvrTrig (v : Word) (s : State) : Host.Outcome State Fault Refusal :=
  .next (if s.busUp 0 ∧ s.leadUp then evrTrig v s else s)

/-! ### Reading (R420) -/

/-- The 16 words of 64 bytes. -/
def words16 (bs : List Byte) : List Word := (List.range 16).map fun i => BitVec.ofNat 32 (ofBytes (slice bs (4 * i) 4))

/-- Load the read buffer with the record of an RSEQ. -/
def Recorder.loadSeq (r : Recorder) (pos : Word) : Recorder :=
  let r0 := { r with hit := false, skipped := false, empty := false, busy := false, badCrc := false }
  match r.ring.find? (fun e => e.rseq == pos), r.ring with
  | some e, _ => { r0 with buf := words16 (recBytes e), hit := true }
  | none, [] => { r0 with buf := List.replicate 16 0, empty := true }
  | none, e :: _ =>
    if seqLater pos r.newest then { r0 with buf := List.replicate 16 0, empty := true }
    else { r0 with buf := words16 (recBytes e), skipped := true }

/-- Load at the cursor: a record of the ring, or a read of a slot of the nonvolatile area. A slot outside the area reads empty. -/
def cursorLoad (pos : Word) (s : State) : State :=
  let s1 : State := s.wr EVR_CURSOR.POS pos.toNat
  if s.rd EVR_RCTL.SRC = 0 then { s1 with evr := s1.evr.loadSeq pos }
  else if s.evr.nv ∧ pos.toNat < s.evr.sectors.length * s.evr.slots then
    ({ s1 with evr := { s1.evr with hit := false, skipped := false, empty := false, busy := true, badCrc := false } } : State).emit
      (.xspi 2 (s.sectorAddr 0 + 64 * pos.toNat) [])
  else
    { s1 with evr := { s1.evr with buf := List.replicate 16 0, hit := false, skipped := false, empty := true, busy := false, badCrc := false } }

/-- EVR_CURSOR_LOAD. -/
def execEvrCursorLoad (v : Word) (s : State) : Host.Outcome State Fault Refusal :=
  .next (if s.busUp 0 ∧ s.leadUp then cursorLoad v s else s)

/-- NV_READ_DONE: the slot's 64 bytes are in the buffer; a header reads 0xFF, and a record whose CRC fails sets BADCRC. -/
def nvReadDone (bytes : List Byte) (s : State) : State :=
  let bs := padTo 64 bytes
  let head := s.rd EVR_CURSOR.POS % max 1 s.evr.slots == 0
  let blank := bs.all fun b => b == 0xFF#8
  { s with evr := { s.evr with
      busy := false
      buf := if head then List.replicate 16 0xFFFFFFFF#32 else words16 bs
      badCrc := !head && !blank && ofBytes (slice bs 60 4) != (crc32c (slice bs 0 60)).toNat } }

/-- NV_READ_DONE. -/
def execNvReadDone (bytes : List Byte) (s : State) : Host.Outcome State Fault Refusal :=
  .next (if s.leadUp ∧ s.evr.busy then nvReadDone bytes s else s)

/-- A read of `EVR_WIN15` with AUTOINC loads the next record. -/
def win15 (s : State) : State := cursorLoad (BitVec.ofNat 32 (s.rd EVR_CURSOR.POS + 1)) s

/-- WIN15_AUTOINC. -/
def execWin15Autoinc (s : State) : Host.Outcome State Fault Refusal :=
  .next (if s.hubUp ∧ s.leadUp ∧ s.rd EVR_RCTL.AUTOINC = 1 then win15 s else s)

/-! ### Start after a lead-Heath reset (R412, R419) -/

/-- The 64 bytes of a slot. -/
def State.nvSlot (s : State) (idx kib k : Nat) : List Byte :=
  mread nvByte s.nvm (s.rd HTH_NVM.BASE_MIB * 2 ^ 20 + idx * (kib * 1024) + 64 * k) 64

/-- A slot that is empty: all 0xFF. -/
def slotEmpty (bs : List Byte) : Bool := bs.all fun b => b == 0xFF#8

/-- A sector as its header and slots show it: a sector with an empty header is free; one whose header is no header, its reserved bytes
not 0xFF, cannot be read, and counts as used last (log entry 118). -/
def State.readSector (s : State) (kib idx : Nat) : Sector :=
  let h := s.nvSlot idx kib 0
  if slotEmpty h then { idx := idx, useSeq := 0, erases := 0, next := 0, bad := false }
  else
    let used := (List.range (kib * 16)).filter fun k => k != 0 && !slotEmpty (s.nvSlot idx kib k)
    let next := used.foldl (fun n k => max n (k + 1)) 1
    if slotEmpty (h.drop 8) then { idx := idx, useSeq := ofBytes (slice h 4 4), erases := ofBytes (slice h 0 4), next := next, bad := false }
    else { idx := idx, useSeq := 0, erases := unreadErases, next := next, bad := false }

/-- The two used sectors with the highest use sequence. -/
def topTwo (l : List Sector) : List Sector :=
  l.foldl (fun (b : List Sector) (x : Sector) =>
    if x.next = 0 then b
    else match b with
      | [] => [x]
      | [y] => if y.useSeq < x.useSeq then [x, y] else [y, x]
      | y :: z :: _ => if y.useSeq < x.useSeq then [x, y] else if z.useSeq < x.useSeq then [y, x] else [y, z]) []

/-- The good record with the largest RSEQ in some sectors. -/
def State.lastRecord (s : State) (kib : Nat) (l : List Sector) : Option (List Byte) :=
  let slots := (l.map fun x => (List.range (x.next - 1)).map fun k => s.nvSlot x.idx kib (k + 1)).flatten
  (slots.filter fun b => !slotEmpty b && ofBytes (slice b 60 4) == (crc32c (slice b 0 60)).toNat).foldl
    (fun (best : Option (List Byte)) (b : List Byte) =>
      match best with
      | some y => if seqLater (BitVec.ofNat 32 (ofBytes (slice b 4 4))) (BitVec.ofNat 32 (ofBytes (slice y 4 4))) then some b else some y
      | none => some b) none

/-- The records formed since the reset follow event 0x0E01, with the numbers that continue the device's. -/
def renumber (rseq : Word) (pcyc opsec : Nat) : List RecEntry → List RecEntry
  | [] => []
  | e :: l => { e with rseq := rseq, pcyc := pcyc, opsec := BitVec.ofNat 32 (opsec + e.opsec.toNat) } :: renumber (rseq + 1) pcyc opsec l

/-- Begin a run of the recorder: RSEQ, PCYC and OPSEC continue, event 0x0E01 is formed. -/
def State.startRun (s : State) (r : Recorder) (found : Option (List Byte)) : State :=
  let old := s.evr.ring
  let word (k : Nat) : Nat := match found with | some b => ofBytes (slice b k 4) | none => 0
  let rseq : Word := if found.isSome then BitVec.ofNat 32 (word 4 + 1) else 0
  let pcyc := if found.isSome then (word 12 % 2 ^ 24 + 1) % 2 ^ 24 else 0
  let s1 : State := ({ s with evr := { r with ring := [], rseq := rseq, pcyc := pcyc, opsec0 := word 8, started := true } } : State).recordAlways
    0x0E01 [pcyc, word 4]
  let new := renumber s1.evr.rseq pcyc (word 8) old
  let all := s1.evr.ring ++ new
  { s1 with evr := { s1.evr with ring := all.drop (all.length - 4096), rseq := s1.evr.rseq + BitVec.ofNat 32 new.length } }

/-- The device is usable: its table was read, it has at least 16 MiB (R354) and sectors of at least 4 KiB (R375). -/
def NvDevice.usable (d : NvDevice) : Bool := d.readable && decide (16 ≤ d.mib ∧ 4 ≤ d.sectorKib)

/-- RECORDER_START: without a usable device, event 0x0104 and a run that starts at 0. -/
def recorderStart (dev : Option NvDevice) (s : State) : State :=
  match dev with
  | none => (s.startRun { s.evr with nv := false } none).raiseHeath 0x0104 2 [0]
  | some d =>
    if NvDevice.usable d then
      let l := (List.range ((d.mib - s.rd HTH_NVM.BASE_MIB) * 1024 / d.sectorKib)).map (s.readSector d.sectorKib)
      s.startRun { s.evr with nv := true, nvMib := d.mib, sectorKib := d.sectorKib, sectors := l } (s.lastRecord d.sectorKib (topTwo l))
    else (s.startRun { s.evr with nv := false } none).raiseHeath 0x0104 2 [bitNat d.readable]

/-- RECORDER_START. -/
def execRecorderStart (dev : Option NvDevice) (s : State) : Host.Outcome State Fault Refusal :=
  .next (if s.leadUp ∧ !s.evr.started then recorderStart dev s else s)

end Sys2Proof.Machine
end

