-- ==== Sys2Proof/Machine/Power.lean ====
section
/-!
DEFINITION. Resets (R350), self-test and the roles (R16), supplies (R358-R361), the lead Heath (R18), and the Well links' training
(R4, R345).
-/

namespace Sys2Proof.Machine

open Sys2Proof

/-! ### The two macros -/

/-- The Heath of a macro. -/
def State.heath (s : State) (side : Side) : Heath := match side with | .a => s.heathA | .b => s.heathB

/-- Change the Heath of a macro. -/
def State.modHeath (s : State) (side : Side) (f : Heath → Heath) : State :=
  match side with
  | .a => { s with heathA := f s.heathA }
  | .b => { s with heathB := f s.heathB }

/-- The code of a macro in an event. -/
def sideNo (side : Side) : Nat := bitNat (side == .b)

/-- The lead Heath: A's while it runs, else B's while that runs (R18). -/
def State.leadOf (s : State) : Side := if s.heathA.inReset ∧ !s.heathB.inReset then .b else .a

/-! ### What a Hub loses -/

/-- The work of the active Hub that no mirror holds is gone: the master transactions out are absorbed (R397, R404). -/
def State.dropWork (s : State) : State :=
  { s with
    work := Work.fresh, cist := Cistern.fresh, landed := [], routeWait := [], hk := Housekeeping.fresh
    evq := { waiting := [], inflight := none, lost := 0 }, cfgWait := []
    tick := { s.tick with held := [] }
    host := { s.host with queue := [], txns := s.host.txns.map fun t => { t with orphan := true }
                          slices := s.host.slices.map fun x => { x with takes := [] } }
    mch := { s.mch with link := Link.fresh } }

/-- The active Hub is at its reset values, its self-test begins (R350). -/
def State.freshAct (s : State) : State :=
  let s1 : State := { (s.dropWork.modTap s.act.side fun d => { d with hold := none }) with
    act := HubCore.fresh s.act.side false, chan := Vector.replicate 16 Channel.fresh, ports := s.ports.map fun x => { x with link := Link.fresh } }
  { s1 with wells := s1.wells.map fun k => { k with link := Link.fresh, linkUp := false, inService := false, opens := [], homes := []
                                                    queues := [], waiting := [], running := none, scoring := [], rx := [], dram := [] } }

/-! ### HUB_RST_N (R350) -/

/-- HUB_RESET of the Hub with the active role, or that would have it: a Hub fault while it is active. -/
def State.resetAct (s : State) : State :=
  let s1 : State := s.trigger 3
  if s1.failover.isSome then s1 else s1.freshAct.checkBypass

/-- HUB_RESET of the other Hub: the mirror is out of service. A Hub that a failover left held stays held (R406). -/
def State.resetMir (s : State) : State :=
  let s1 : State := s.mirrorGone 12
  { s1 with mir := HubCore.fresh s1.mir.side (s1.mch.mstate == .held) }

/-- HUB_RESET: a released HUB_RST_N comes after a good VDD_HUB. -/
def hubReset (side : Side) (s : State) : State :=
  let s1 : State := if side = s.act.side then s.resetAct else s.resetMir
  s1.modHeath side fun h => { h with hubGood := true }

/-- HUB_RESET. -/
def execHubReset (side : Side) (s : State) : Host.Outcome State Fault Refusal :=
  .next (if (s.heath side).inReset then s else hubReset side s)

/-! ### Self-test and roles (R16, R406) -/

/-- A Hub that may take the active role. -/
def HubCore.able (h : HubCore) : Bool := !h.inReset && h.bistDone && h.bistPass

/-- A Hub that will not take it. -/
def HubCore.unable (h : HubCore) : Bool := h.inReset || (h.bistDone && !h.bistPass)

/-- The side that takes the active role: Hub A, or Hub B when Hub A cannot; none while Hub A's self-test runs, or both fail. -/
def State.roleOf (s : State) : Option Side :=
  if (s.hub .a).able then some .a else if (s.hub .a).unable && (s.hub .b).able then some .b else none

/-- Give the active role to a side. -/
def State.takeRole (s : State) (side : Side) : State :=
  let s1 : State := if side = s.act.side then s else { s with act := s.mir, mir := s.act }
  ({ s1 with active := true } : State).checkBypass

/-- SELF_TEST_DONE: without an active Hub the roles are assigned; a mirror that fails is held in reset, with event 0x0F05. -/
def selfTestDone (side : Side) (pass : Bool) (s : State) : State :=
  let s1 : State := s.modHub side fun h => { h with bistDone := true, bistPass := pass }
  if s1.active ∨ s1.failover.isSome then
    if pass then s1
    else
      ({ (s1.modHub side fun h => { h with inReset := true }) with mch := { s1.mch with mstate := .held } } : State).raiseHeath 0x0F05 2
        [sideNo side]
  else
    let s2 : State := if side = .a ∧ !pass then s1.raiseHeath 0x0F05 2 [0] else s1
    match s2.roleOf with
    | some c => s2.takeRole c
    | none => s2

/-- SELF_TEST_DONE. -/
def execSelfTestDone (side : Side) (pass : Bool) (s : State) : Host.Outcome State Fault Refusal :=
  .next (if !(s.hub side).inReset ∧ !(s.hub side).bistDone then selfTestDone side pass s else s)

/-! ### AON_RST_N and the Heath's supplies (R350, R359-R361, R417) -/

/-- The lead Heath starts afresh: recorder ring, tick time base, LED and removal state (R350, R417). -/
def State.leadFresh (s : State) : State :=
  { s with
    evr := { Recorder.fresh with start := s.now }, erases := [], erasePaused := false, pfail := false
    tick := { TickBlock.fresh with first := s.rd TCK_CTRL.RUN == 1 }
    ports := s.ports.map fun x => { x with
      cal := none, lat := none, refusedAt := none, agreeRcvd := false
      doneSent := false, doneRcvd := false, removed := false } }

/-- AON_RESET: the macro's Heath runs again on a good supply; the lead Heath loses the recorder's ring. -/
def aonReset (side : Side) (s : State) : State :=
  let led := side == s.lead || (s.heath s.lead).inReset
  let s1 : State := s.modHeath side fun h => { h with
    inReset := false, mainGood := h.mainGood || !h.bkupGood, onBkup := !(h.mainGood || !h.bkupGood) }
  let s2 : State := { s1 with lead := s1.leadOf }
  if led then s2.leadFresh else s2

/-- AON_RESET. -/
def execAonReset (side : Side) (s : State) : Host.Outcome State Fault Refusal := .next (aonReset side s)

/-- VAON_SOURCE_CHANGE: counted, event 0x0C10; the lead Heath on its backup starts the power-fail flush (R361). -/
def vaonSourceChange (side : Side) (toBkup : Bool) (mv : Nat) (s : State) : State :=
  let s1 : State := s.modHeath side fun h => { h with mainGood := !toBkup, onBkup := toBkup }
  let s2 : State := (s1.bump HTH_SW_CNT.COUNT).raiseHeath 0x0C10 1 [bitNat (!toBkup), mv]
  if side ≠ s2.lead then s2
  else if toBkup then (({ s2 with pfail := true } : State).raiseHeath 0x0C11 3 [s2.evr.unflushed.length]).powerFailFlush
  else if s2.evr.flush = some .powerFail then s2
  else { s2 with pfail := false }

/-- VAON_SOURCE_CHANGE. -/
def execVaonSourceChange (side : Side) (toBkup : Bool) (mv t : Nat) (s : State) : Host.Outcome State Fault Refusal :=
  .next (if !(s.heath side).inReset ∧ (s.heath side).onBkup ≠ toBkup ∧ (toBkup = true → (s.heath side).bkupGood = true) then
    vaonSourceChange side toBkup mv (s.at t) else s)

/-- A Hub fault of a side: of the active Hub a trigger of R402, of the mirror its loss (R407). `hold`: the Heath holds it in reset. -/
def State.hubFault (s : State) (side : Side) (actCause mirCause : Nat) (hold : Bool) : State :=
  if side = s.act.side then
    let s1 : State := s.trigger actCause
    { s1 with act := { s1.act with inReset := s1.act.inReset || hold } }
  else
    let s1 : State := s.mirrorGone mirCause
    { s1 with mir := { s1.mir with inReset := s1.mir.inReset || hold } }

/-- VAON_LOSS: the Heath is held in reset and with it its Hub; the other Heath leads with its copy of the ring, which is lost
when no Heath is left. -/
def vaonLoss (side : Side) (s : State) : State :=
  let led := side == s.lead
  let s1 : State := s.modHeath side fun h => { h with inReset := true, mainGood := false, bkupGood := false, onBkup := false }
  let s2 : State := { s1 with lead := s1.leadOf }
  let s3 : State := if led && s2.leadHeath.inReset then s2.leadFresh else s2
  s3.hubFault side 3 12 true

/-- VAON_LOSS. -/
def execVaonLoss (side : Side) (s : State) : Host.Outcome State Fault Refusal :=
  .next (if (s.heath side).inReset then s else vaonLoss side s)

/-- LEAD_HEATH_LOSS: the other Heath takes the lead with its copy of the state (R18, R416). It keeps the lead until a supply changes
or an AON reset comes, although the supplies of the first may be good (log entry 99). -/
def execLeadHeathLoss (s : State) : Host.Outcome State Fault Refusal :=
  let other : Side := match s.lead with | .a => .b | .b => .a
  .next (if (s.heath other).inReset then s else { s with lead := other })

/-- VDD_HUB_LOSS: event 0x0C12, the Heath holds the Hub in reset, and a Hub fault or the loss of the mirror follows (R360). -/
def vddHubLoss (side : Side) (mv : Nat) (s : State) : State :=
  ((s.modHeath side fun h => { h with hubGood := false, hubMv := mv }).raiseHeath 0x0C12 2 [sideNo side, mv]).hubFault side 2 12 true

/-- VDD_HUB_LOSS. -/
def execVddHubLoss (side : Side) (mv : Nat) (s : State) : Host.Outcome State Fault Refusal :=
  .next (if !(s.heath side).inReset ∧ (s.heath side).hubGood then vddHubLoss side mv s else s)

/-! ### Wells: supply, reset, link -/

/-- A Well whose logic stops ends the locked sequence that its running tile has on a channel: it is marked to its target as ended
incomplete (R26). Whether and where one stands is not stated: free choices. -/
def State.cutSeq (s : State) (w : WellNo) : State :=
  let s1 : State := { s with free := s.free + 3 }
  if s.wells[w].running.isSome ∧ Config.freeNat s.free % 2 = 1 then
    s1.emit (.lockedSeq w (Config.freeNat (s.free + 1) % 32) (Config.freeNat (s.free + 2) % max 1 s.build.dramBanks) .incomplete)
  else s1

/-- VDD_WEL_LOSS: the Well is absent (R19). -/
def execVddWelLoss (w : WellNo) (s : State) : Host.Outcome State Fault Refusal :=
  .next (((s.cutSeq w).wellAbsent w).modWell w fun k => { k with supplyOk := false })

/-- The registers of a Well page at their reset values. -/
def State.resetPage (s : State) (w : WellNo) : State :=
  let of (e : Nat × Word) : Bool := decide (0x080000 + w.val * 0x2000 ≤ e.1 ∧ e.1 < 0x080000 + (w.val + 1) * 0x2000)
  { s with
    cwin := s.cwin.filter fun e => !of e
    mch := (s.cwin.filter of).foldl (fun (m : MirChan) (e : Nat × Word) => m.push (.reg e.1 (resetWord s.build e.1))) s.mch }

/-- WEL_RESET: the Well's logic and registers at reset, its DRAM contents kept. -/
def welReset (w : WellNo) (s : State) : State :=
  (((s.cutSeq w).wellAbsent w).resetPage w).modWell w fun k =>
    { Well.fresh with version := k.version, stack := k.stack, flips := k.flips, lanesBad := k.lanesBad, tempT := k.tempT, tempFails := k.tempFails
                      hostRows := k.hostRows, hostMasked := k.hostMasked }

/-- WEL_RESET. -/
def execWelReset (w : WellNo) (s : State) : Host.Outcome State Fault Refusal := .next (welReset w s)

/-- A Well that a trained link brings into service: its version fits and an engine is left (R4, R386). -/
def State.wellFits (s : State) (w : WellNo) : Bool :=
  majorMinor s.wells[w].version == majorMinor (s.view HUB_VERSION.reg) && s.rd (WEL_FENCE.FENCED w) != 0xFFFF

/-- WELL_LINK_TRAINED: the version is compared; a Well that does not fit is absent, with event 0x0902 for its version (R4). A Well that
enters service gets the echo regions of the enabled contexts (R248), and its first window begins (R373). The training ends with 16 IDLE flits (R344). -/
def wellLinkTrained (w : WellNo) (s : State) : State :=
  let s1 : State := ((s.trainLink (.well w) resetShare).modWell w fun k => { k with linkUp := true }).idleFlits (.well w) 16
  if majorMinor s1.wells[w].version ≠ majorMinor (s1.view HUB_VERSION.reg) then
    s1.raiseFrom w.val 0 0x0902 2 [s1.wells[w].version.toNat, (s1.view HUB_VERSION.reg).toNat]
  else if s1.wellFits w then
    ((((List.finRange 16).filter s1.ctxOn).foldl (fun (s : State) (c : Ctx) => s.echoCopy w c) s1).rdmWindow w).modWell w fun k => { k with inService := true }
  else s1

/-- The end of a retraining: the link layer is as it was, and flits move again (R345). -/
def wellLinkRetrained (w : WellNo) (s : State) : State := (s.modWell w fun k => { k with retraining := false }).idleFlits (.well w) 16

/-- WELL_LINK_TRAINED, of a link that was down or of one that retrains. -/
def execWellLinkTrained (w : WellNo) (s : State) : Host.Outcome State Fault Refusal :=
  .next (if s.hubUp ∧ s.build.slots.getLsbD w.val ∧ s.wells[w].supplyOk ∧ !s.wells[w].inReset ∧ !s.wells[w].linkUp then
    wellLinkTrained w s else if s.hubUp ∧ s.wells[w].linkUp ∧ s.wells[w].retraining then wellLinkRetrained w s else s)

/-- WELL_LINK_RETRAIN: event 0x0909; the link layer is kept, and flits wait until the link is trained (R345). -/
def execWellLinkRetrain (w : WellNo) (lanes : Nat) (s : State) : Host.Outcome State Fault Refusal :=
  .next (if s.hubUp ∧ s.wells[w].linkUp then
    (s.modWell w fun k => { k with lanesBad := k.lanesBad + lanes, retraining := true }).raise 0x0909 1 [w.val, lanes] else s)

/-- WELL_LINK_DOWN: event 0x090A, and the Well is absent (R345). -/
def execWellLinkDown (w : WellNo) (noLane : Bool) (s : State) : Host.Outcome State Fault Refusal :=
  .next (if s.hubUp ∧ s.wells[w].linkUp then (s.raise 0x090A 2 [w.val, bitNat noLane]).wellAbsent w else s)

/-! ### CFG_RST_N -/

/-- CFG_RESET: the interface of a Hub's Config Port: an access in progress, a held _LO write and the shadows are gone. -/
def cfgReset (side : Side) (s : State) : State :=
  let drop (h : HubCore) : HubCore := { h with
    loHeld := h.loHeld.filter fun x => x.1 != .config, shadow := h.shadow.filter fun x => x.1 != .config }
  let s1 : State := s.modHub side drop
  { s1 with cfgWait := s1.cfgWait.filter fun x => x.1 != side
            mch := { s1.mch with effects := s1.mch.effects.filter fun x => x.2 != .cfgReady side } }

/-- CFG_RESET. -/
def execCfgReset (side : Side) (s : State) : Host.Outcome State Fault Refusal := .next (cfgReset side s)

end Sys2Proof.Machine
end

