-- ==== Sys2Proof/Machine/Ras.lean ====
section
/-!
DEFINITION. Residue failures and fences (R385, R386), uncorrectable words (R387, R390, R391), released masters (R396), control-core
faults (R33, R394).
-/

namespace Sys2Proof.Machine

open Sys2Proof

/-! ### Fences (R386) -/

/-- The FENCED field of a part: of a Well below 24, else of the Hub. -/
def fenceFld (part : Nat) : Fld := if part < 24 then WEL_FENCE.FENCED part else RAS_FENCE_HUB.FENCED

/-- Engines of a part: 16 of a Well, 4 of a Hub. -/
def partEngines (part : Nat) : Nat := if part < 24 then 16 else 4

/-- Fence an engine; a RESIDUE fence stays one until software releases it (R386): its bit, event 0x0D05, IRQ_RAS; a Well with every engine fenced is absent. -/
def State.fence (s : State) (part engine : Nat) (residue : Bool) (step : Option (Ctx × Word)) : State :=
  let s1 : State := s.wr (fenceFld part) (s.rd (fenceFld part) ||| 2 ^ engine)
  let before : List (Nat × Bool × Option (Ctx × Word)) := if h : part < 24 then s.wells[(⟨part, h⟩ : WellNo)].fenceWhy else s.work.fenceWhy
  let why : Nat × Bool × Option (Ctx × Word) := (engine, residue || before.any fun x => x.1 == engine && x.2.1, step)
  let s2 : State :=
    if h : part < 24 then s1.modWell ⟨part, h⟩ fun k => { k with fenceWhy := k.fenceWhy.filter (fun x => x.1 != engine) ++ [why] }
    else { s1 with work := { s1.work with fenceWhy := s1.work.fenceWhy.filter (fun x => x.1 != engine) ++ [why] } }
  let s3 : State := (s2.raiseFrom part engine 0x0D05 2 [part, engine, bitNat (!residue)]).rasIrq RAS_IRQ_STATUS.FENCE
  if h : part < 24 then (if s3.rd (fenceFld part) = 0xFFFF then s3.wellAbsent ⟨part, h⟩ else s3) else s3

/-- The tile that runs has failed the residue check before. -/
def State.failedOnce (s : State) (part : Nat) : Bool :=
  if h : part < 24 then s.wells[(⟨part, h⟩ : WellNo)].residueOnce else s.work.residueOnce

/-- Note that it has, or has not. -/
def State.setOnce (s : State) (part : Nat) (b : Bool) : State :=
  if h : part < 24 then s.modWell ⟨part, h⟩ fun k => { k with residueOnce := b }
  else { s with work := { s.work with residueOnce := b } }

/-- A tile runs on the engines of a part. -/
def State.tileRuns (s : State) (part : Nat) : Bool :=
  if h : part < 24 then s.wells[(⟨part, h⟩ : WellNo)].inService && s.wells[(⟨part, h⟩ : WellNo)].running.isSome
  else part == s.hubPart && !s.work.scoreOpen.isEmpty

/-- RESIDUE_FAILURE: counted, event 0x0D04; the tile runs again, after each failure beyond its first without the engine that failed. -/
def residueFailure (part engine cell : Nat) (s : State) : State :=
  let s1 : State := (s.bump RAS_RESIDUE_CNT.COUNT).raiseFrom part engine 0x0D04 1 [part, engine, cell]
  if s.failedOnce part then s1.fence part engine true none else s1.setOnce part true

/-- RESIDUE_FAILURE. -/
def execResidueFailure (part engine cell : Nat) (s : State) : Host.Outcome State Fault Refusal :=
  .next (if s.hubUp ∧ s.tileRuns part ∧ engine < partEngines part ∧ !(s.rd (fenceFld part)).testBit engine then
    residueFailure part engine cell s else s)

/-- ENGINE_RELEASE: each fenced engine whose bit is written 1 is tested; one that passes leaves its fence. -/
def engineRelease (part : Nat) (v : Word) (pass : BitVec 16) (s : State) : State :=
  ((List.range (partEngines part)).filter fun i => v.getLsbD i && pass.getLsbD i && (s.rd (fenceFld part)).testBit i).foldl
    (fun (s : State) (i : Nat) => s.unfence part i) s

/-- ENGINE_RELEASE. -/
def execEngineRelease (part : Nat) (v : Word) (pass : BitVec 16) (s : State) : Host.Outcome State Fault Refusal :=
  .next (if s.busUp 0 ∧ (part < 24 ∨ part = s.hubPart) then engineRelease part v pass s else s)

/-! ### Uncorrectable words (R386, R387, R390, R391) -/

/-- The read that returned an uncorrectable word: its step is aborted UNCORRECTABLE (R387). -/
def State.uncorRead (s : State) (u : WordRead) (fixed : Bool) : State :=
  let mis := (wordVerdict u) == .mismatch
  let s1 : State := s.uncor u.part (memCode u.mem) u.addr mis
  match u.ctx with
  | none => s1.uncorEvent (memCode u.mem) u.addr mis fixed none 0
  | some c =>
    match s.liveStep c with
    | some st => (s1.uncorEvent (memCode u.mem) u.addr mis fixed (some c) st.seq).noticeLive c 1 0
    | none => s1.uncorEvent (memCode u.mem) u.addr mis fixed (some c) 0

/-- The step a context has in progress, as a fence keeps it. -/
def State.stepKey (s : State) (c : Option Ctx) : Option (Ctx × Word) :=
  match c with
  | some c => (s.liveStep c).map fun st => (c, st.seq)
  | none => none

/-- The collectives one of whose buffers holds a word of the Cistern are aborted with cause 2 (R271). -/
def State.colUncor (s : State) (n : Nat) : State :=
  s.colAbortIf 2 fun s ch => s.chan[ch].bufs.any fun h => decide (s.bufAddr h ≤ 8 * n ∧ 8 * n < s.bufAddr h + s.chan[ch].needBytes)

/-- UNCORRECTABLE_WORD for a word that reads as uncorrectable, by the memory that holds it. -/
def uncorrectableWord (u : WordRead) (s : State) : State :=
  let mis := (wordVerdict u) == .mismatch
  if u.part < 24 ∨ u.part = s.hubPart then
    match u.mem with
    | .stack => if h : u.part < 24 then (s.uncorRead u false).voidAt ⟨u.part, h⟩ (u.addr / 8 * 8) else s
    | .engine n => if n < partEngines u.part then (s.uncorRead u false).fence u.part n false (s.stepKey u.ctx) else s
    | .table => if u.part < 24 then s else (s.uncorRead u (s.lineCopy s.act.side 2 u.addr)).lineBad s.act.side 2 u.addr
    | .router => if u.part < 24 then s else (s.uncorRead u (s.lineCopy s.act.side 1 u.addr)).lineBad s.act.side 1 u.addr
    | .core => if u.part < 24 then s else (s.uncor u.part 6 u.addr mis).hubFault s.act.side 4 11 false
    | .cistern => if u.part < 24 then s else (s.uncorRead u false).colUncor u.addr
    | _ => s.uncorRead u false
  else
    let side := partSide u.part
    match u.mem with
    | .table => (s.uncor u.part 3 u.addr mis).lineBad side 2 u.addr
    | .router => (s.uncor u.part 4 u.addr mis).lineBad side 1 u.addr
    | .core => (s.uncor u.part 6 u.addr mis).hubFault side 4 11 false
    | _ => s.uncor u.part (memCode u.mem) u.addr mis

/-- A word is read (R381): a corrected one is delivered and counted, an uncorrectable one has its consequences. -/
def wordRead (u : WordRead) (s : State) : State :=
  let s1 : State := s.plantWord u
  match wordVerdict u with
  | .clean => s1
  | .corrected _ => s1.wordFixed u
  | _ => uncorrectableWord u s1

/-- UNCORRECTABLE_WORD. -/
def execUncorrectableWord (u : WordRead) (s : State) : Host.Outcome State Fault Refusal :=
  .next (if s.hubUp ∧ u.part < 26 then wordRead u s else s)

/-! ### Frozen masters (R396) -/

/-- A master is frozen. -/
def State.isFrozen (s : State) : Master → Bool
  | .ring c => s.ringFrozen c
  | .well w => s.wellFrozen w
  | .peer d => s.peerFrozen d
  | .debug => s.rd RAS_FREEZE.DEBUG == 1
  | .core => false

/-- Event 0x0D08. -/
def State.releasedEvent (s : State) (kind n : Nat) (c : Option Ctx) : State := s.raise 0x0D08 0 [kind, n] c

/-- Clear a bit of a freeze register. -/
def State.clearBit (s : State) (f : Fld) (n : Nat) : State := s.wr f (s.rd f &&& (2 ^ f.len - 1 - 2 ^ n))

/-- A released ring writes its held completions, then fetches again. -/
def State.ringAgain (s : State) (c : Ctx) : State := descriptorFetch c (completionRecordWrite c (rejectRetire c s))

/-- MASTER_RELEASE: the bit clears, event 0x0D08 is written, and the master goes on: a ring with its held records, a Well link with
a link-layer start. -/
def masterRelease (m : Master) (s : State) : State :=
  match m with
  | .ring c => ((s.clearBit RAS_FREEZE.CTX c.val).releasedEvent 0 c.val (some c)).ringAgain c
  | .well w => (((s.clearBit RAS_FREEZE_WELL.WELLS w.val).releasedEvent 1 w.val none)).trainLink (.well w) resetShare
  | .peer d =>
    (if d.val < 32 then s.clearBit RAS_FREEZE_PEER_LO.CHIPS d.val else s.clearBit RAS_FREEZE_PEER_HI.CHIPS (d.val - 32)).releasedEvent 2
      d.val none
  | .debug => (s.wr RAS_FREEZE.DEBUG 0).releasedEvent 3 0 none
  | .core => s

/-- MASTER_RELEASE. -/
def execMasterRelease (m : Master) (s : State) : Host.Outcome State Fault Refusal :=
  .next (if s.busUp 0 ∧ s.isFrozen m then masterRelease m s else s)

/-! ### Control cores (R33, R394, R401) -/

/-- CORE_WATCHDOG_EXPIRY: a Hub fault of the active Hub, or the loss of the mirror. -/
def execCoreWatchdogExpiry (side : Side) (s : State) : Host.Outcome State Fault Refusal :=
  .next (if (s.hub side).inReset then s else s.hubFault side 1 8 false)

/-- CONTROL_CORE_ACCESS_VIOLATION: the control core is frozen, event 0x0D07. -/
def execControlCoreAccessViolation (side : Side) (off : Nat) (s : State) : Host.Outcome State Fault Refusal :=
  .next (if (s.hub side).inReset then s else (s.setFrozen .core off (24 + sideNo side)).hubFault side 5 11 false)

end Sys2Proof.Machine
end

