-- ==== Sys2Proof/Machine/Template.lean ====
section
/-!
DEFINITION. Loading a template image (R280, R281).
-/

namespace Sys2Proof.Machine

open Sys2Proof

/-- A load ends with an error: event 0x0B02 with the LEN written and the LEN in the image header. -/
def State.tplError (s : State) (c : Ctx) (err len hdr : Nat) : State :=
  (s.wr CTX_TPL_STATUS.ERR err).raise 0x0B02 2 [err, len, hdr] c

/-- Why a load is refused, 0 when it starts. -/
def State.tplRefusal (s : State) (c : Ctx) (len : Nat) : Nat :=
  if s.rd (RNG_CTX_CTRL.ENABLE c) = 1 then 1
  else if s.rd CTX_TPL_STATUS.BUSY = 1 then 5
  else if len = 0 ∨ 256 < len then 2
  else 0

/-- A write of `CTX_TPL_CTRL`. A refused load has no image, so the header LEN of its event is a free value. -/
def tplCtrlWrite (v : Word) (s : State) : State :=
  let s1 : State := s.store CTX_TPL_CTRL.reg (CTX_TPL_CTRL.GO.put v 0)
  if CTX_TPL_CTRL.GO.get v = 0 then s1
  else
    let c : Ctx := ⟨CTX_TPL_CTRL.CTX.get v % 16, Nat.mod_lt _ (by decide)⟩
    let len := CTX_TPL_CTRL.LEN.get v
    let err := s.tplRefusal c len
    if err ≠ 0 then
      let s2 : State := ({ s1 with free := s1.free + 1 } : State).tplError c err len (Config.freeNat s1.free % 65536)
      if s.rd CTX_TPL_STATUS.BUSY = 1 then s2 else s2.wr CTX_TPL_STATUS.DONE 1
    else
      let s2 : State := (((s1.wr CTX_TPL_CTRL.GO 1).wr CTX_TPL_STATUS.BUSY 1).wr CTX_TPL_STATUS.ERR 0).wrIf (CTX_STATUS.TPL_V c) 0
      let base := s.rd2 CTX_TPL_SRC_LO.ADDR CTX_TPL_SRC_HI.ADDR * 64
      ({ s2 with work := { s2.work with tload := some ⟨c, 64 * len, [], false⟩ } } : State).hostRead (.template base) base (64 * len)

/-- TEMPLATE_LOAD. -/
def execTemplateLoad (v : Word) (s : State) : Host.Outcome State Fault Refusal :=
  .next (if s.busUp 0 ∧ CTX_TPL_CTRL.GO.get v = 1 then tplCtrlWrite v s else s)

/-- A part of the image, or a read error, has arrived. -/
def State.tplData (s : State) (off : Nat) (bs : List Byte) (err : Bool) : State :=
  match s.work.tload with
  | none => s
  | some l =>
    { s with work := { s.work with tload := some (if err then { l with err := true } else { l with got := l.got ++ [(off, bs)] }) } }

/-- The bytes of an image from its parts. -/
def imageOf (n : Nat) (got : List (Nat × List Byte)) : List Byte :=
  got.foldl (fun (l : List Byte) (x : Nat × List Byte) => l.take x.1 ++ x.2 ++ l.drop (x.1 + x.2.length)) (List.replicate n 0)

/-- The checks of R280 on an image. -/
def State.tplOk (s : State) (img : List Byte) : Bool :=
  let w := ofBytes (slice img 0 4)
  let ver := (s.view HUB_VERSION.reg).toNat
  w % 256 == bitsOf ver 24 8 && decide (w / 256 % 256 ≤ bitsOf ver 16 8) && w / 65536 == img.length / 64 &&
    ofBytes (slice img 4 4) == (crc32c (img.drop 16)).toNat && ofBytes (slice img 8 8) == 0

/-- The reads of a template load. -/
def Purpose.isTemplate : Purpose → Bool
  | .template _ => true
  | _ => false

/-- TEMPLATE_LOAD_END: with every byte, or after a read error. -/
def templateLoadEnd (s : State) : State :=
  match s.work.tload with
  | none => s
  | some l =>
    if !l.err && decide (gotBytes l.got < l.len) then s
    else
      let img := imageOf l.len l.got
      let s0 : State := ((s.dropReads Purpose.isTemplate).wr CTX_TPL_CTRL.GO 0).wr CTX_TPL_STATUS.BUSY 0
      let s1 : State := { s0 with work := { s0.work with tload := none } }
      let s2 : State :=
        if l.err then
          let hdr := if l.got.any fun x => x.1 == 0 then ofBytes (slice img 2 2) else Config.freeNat s1.free % 65536
          ({ s1 with free := s1.free + 1 } : State).tplError l.ctx 3 (l.len / 64) hdr
        else if s.tplOk img then
          (s1.setCore { s1.act.core with tpl := s1.act.core.tpl.set l.ctx img }).wr (CTX_STATUS.TPL_V l.ctx) 1
        else s1.tplError l.ctx 4 (l.len / 64) (ofBytes (slice img 2 2))
      s2.hold .tplDone fun s => s.wr CTX_TPL_STATUS.DONE 1

/-- TEMPLATE_LOAD_END. -/
def execTemplateLoadEnd (s : State) : Host.Outcome State Fault Refusal := .next (if s.hubUp then templateLoadEnd s else s)

end Sys2Proof.Machine
end

