-- ==== Sys2Proof/Machine/Mirror.lean ====
section
/-!
DEFINITION. The mirrored pair (R397-R407): updates and their acknowledgement, synchronisation, failover.
-/

namespace Sys2Proof.Machine

open Sys2Proof

/-! ### Copies -/

/-- The registers of a mirror after a copy: the active Hub's mirrored ones with those of the Wells, `wel` (R249), and its own others
(R397). -/
def mirWin (b : Build) (src wel old : Win) : Win :=
  (src.filter (fun e => mirrored e.1 && !welOff e.1) ++ wel.filter (fun e => welOff e.1)).foldl (fun (m : Win) (e : Nat × Word) => sput (resetWord b) m e.1 e.2)
    (old.filter fun e => !mirrored e.1)

/-- A Hub that holds what another has of the mirrored state. -/
def copyHub (b : Build) (src : HubCore) (wel : Win) (old : HubCore) : HubCore :=
  { old with win := mirWin b src.win wel old.win, core := src.core, table := src.table, router := src.router, tableFlips := src.tableFlips,
             routerFlips := src.routerFlips }

/-- An update applied to the mirror. -/
def HubCore.apply (b : Build) (h : HubCore) (u : MirUpd) : HubCore :=
  match u with
  | .reg off v => { h with win := sput (resetWord b) h.win off v }
  | .router a bs => h.putRouter a bs
  | .table a bs => h.putTable a bs
  | .core m => { h with core := m }

/-! ### Updates and acknowledgements (R399) -/

/-- USEQ of the last update the mirror has applied. -/
def MirChan.applied (m : MirChan) : Word := match m.sent with | (u, _) :: _ => u - 1 | [] => m.useq

/-- The mirror is in service, or being synchronised. -/
def MirChan.serves (m : MirChan) : Bool := m.mstate == .syncing || m.mstate == .inSync

/-- MIR_UPDATE: the oldest update is applied and acknowledged. -/
def mirUpdate (s : State) : State :=
  match s.mch.sent with
  | [] => s
  | (n, u) :: rest =>
    ({ s with mir := s.mir.apply s.build u, mch := { s.mch with sent := rest } } : State).emit (.mirPacket 0x21 n.toNat 0 [])

/-- MIR_UPDATE. -/
def execMirUpdate (s : State) : Host.Outcome State Fault Refusal :=
  .next (if s.mch.serves ∧ !s.mir.inReset ∧ !s.arbHeld 3 then mirUpdate s else s)

/-- MIR_ACK: cumulative; the effects held for acknowledged updates happen. -/
def mirAck (n : Word) (s : State) : State :=
  if seqLater n s.mch.acked ∧ !seqLater n s.mch.applied then
    ({ s with mch := { s.mch with acked := n } } : State).releaseEffects fun u => !seqLater u n
  else s

/-- MIR_ACK. -/
def execMirAck (useq : Word) (s : State) : Host.Outcome State Fault Refusal :=
  .next (if s.hubUp ∧ s.mch.serves then mirAck useq s else s)

/-! ### Heartbeat (R400, R402, R407) -/

/-- MIR_BEAT_SEND: the last update sent, or applied. -/
def execMirBeatSend (side : Side) (s : State) : Host.Outcome State Fault Refusal :=
  .next (if (s.hub side).inReset then s
    else if side = s.act.side then (if s.arbHeld 3 then s else s.emit (.mirBeat side s.mch.useq s.active))
    else s.emit (.mirBeat side s.mch.applied false))

/-- MIR_BEAT_LOSS: no beat from the Hub of the side for 4 µs. -/
def mirBeatLoss (side : Side) (s : State) : State :=
  if side = s.act.side then (if (s.heath side).hubGood then s.trigger 6 else s) else s.mirrorGone 13

/-- MIR_BEAT_LOSS. -/
def execMirBeatLoss (side : Side) (s : State) : Host.Outcome State Fault Refusal := .next (mirBeatLoss side s)

/-! ### Synchronisation (R407) -/

/-- A mirror that can be synchronised: out of service, out of reset, its self-test passed, DISABLE 0. -/
def State.canSync (s : State) : Bool :=
  s.hubUp && s.mch.mstate == .out && s.mir.able && s.rd MIR_CTRL.DISABLE == 0

/-- MIR_SYNC with PHASE 0, and the copy. -/
def startSync (t : Nat) (s0 : State) : State :=
  let s : State := s0.at t
  let s1 : State := { s with
    mir := copyHub s.build s.act s.cwin s.mir
    mch := { s.mch with mstate := .syncing, syncStart := t, sent := [], acked := s.mch.useq
                        onLink := s.mch.useq, fetch := [] } }
  (s1.trainLink .mirror resetShare).emit (.mirPacket 0x23 (s.mch.useq.toNat * 2 ^ 32) 0 [])

/-- MIR_SYNC with PHASE 1 has been acknowledged: IN_SYNC, event 0x0F04. -/
def endSync (t : Nat) (s0 : State) : State :=
  let s : State := s0.at t
  let us := min 0xFFFF ((t - s.mch.syncStart) / usUnits)
  let s1 : State := { s with mch := { s.mch with mstate := .inSync, syncUs := us } }
  (s1.emit (.mirPacket 0x23 (1 + s.mch.useq.toNat * 2 ^ 32) 0 [])).raise 0x0F04 0 [us]

/-- MIR_SYNC. -/
def execMirSync (done : Bool) (t : Nat) (s : State) : Host.Outcome State Fault Refusal :=
  .next (if done then (if s.busUp 3 ∧ s.mch.mstate = .syncing ∧ s.mch.sent = [] then endSync t s else s)
    else if s.canSync ∧ !s.arbHeld 3 ∧ s.rd MIR_CTRL.AUTO_SYNC = 1 then startSync t s else s)

/-- SYNC: software starts the synchronisation; the bit reads 0. -/
def execSync (t : Nat) (s : State) : Host.Outcome State Fault Refusal := .next (if s.canSync ∧ !s.arbHeld 0 then startSync t s else s)

/-- MIRROR_DISABLE: DISABLE is 1, and the mirror out of service. -/
def mirrorDisable (s : State) : State := (s.wr MIR_CTRL.DISABLE 1).mirrorGone 10

/-- MIRROR_DISABLE. -/
def execMirrorDisable (s : State) : Host.Outcome State Fault Refusal := .next (if s.busUp 0 then mirrorDisable s else s)

/-! ### Lines fetched from the other Hub (R391, R400) -/

/-- The 64 bytes of a line of a Hub. How control-core data memory lies in its space is not stated: free bytes. -/
def State.lineOf (s : State) (side : Side) (space off : Nat) : List Byte :=
  let h := s.hub side
  match space with
  | 0 => ((List.range 16).map fun i => toBytes 4 (s.viewOf side (off + 4 * i)).toNat).flatten
  | 1 => eccRead h.router zeroByte h.routerFlips off 64
  | 2 => eccRead h.table tblDefault h.tableFlips off 64
  | _ => (List.range 64).map fun i => Config.freeByte (s.free + i)

/-- MIR_FETCH reaches a Hub: it returns the line in MIR_DATA, with BAD when its copy is uncorrectable. -/
def mirFetch (side : Side) (space off : Nat) (s : State) : State :=
  let bad := (space == 1 || space == 2) && (s.hub side).sramBad space off 64 != []
  ({ s with free := s.free + 64 } : State).emit (.mirPacket 0x25 (64 + bitNat bad * 2 ^ 20) (off + space * 2 ^ 56) (s.lineOf side space off))

/-- MIR_FETCH. -/
def execMirFetch (side : Side) (space off : Nat) (s : State) : Host.Outcome State Fault Refusal :=
  .next (if s.mch.mstate = .inSync ∧ !(s.hub side).inReset ∧ space < 4 ∧ !(side = s.act.side ∧ s.arbHeld 3) then mirFetch side space off s else s)

/-- A line written into a Hub's SRAM. -/
def HubCore.putLine (h : HubCore) (space off : Nat) (bs : List Byte) : HubCore :=
  match space with
  | 1 => h.putRouter off (padTo 64 bs)
  | _ => h.putTable off (padTo 64 bs)

/-- MIR_DATA: a good copy repairs the line that was asked for; otherwise the line stays bad. -/
def mirData (side : Side) (space off : Nat) (bad : Bool) (bytes : List Byte) (s : State) : State :=
  let s1 : State := { s with mch := { s.mch with fetch := s.mch.fetch.erase (side, space, off) } }
  if bad then s1 else s1.modHub side fun h => h.putLine space off bytes

/-- MIR_DATA. -/
def execMirData (side : Side) (space off : Nat) (bad : Bool) (bytes : List Byte) (s : State) : Host.Outcome State Fault Refusal :=
  .next (if s.mch.fetch.contains (side, space, off) ∧ !(s.hub side).inReset ∧ (space = 1 ∨ space = 2) then mirData side space off bad bytes s
    else s)

/-! ### Debug hold, which a failover ends (R439) -/

/-- Release the grant that ARBHOLD holds: `DBG_HOLD_MAX`, event 0x0112, and the interrupted owner goes on. `why`: 0 released, 1
freeze, 2 mask, 3 failover. -/
def State.endHold (s : State) (t why : Nat) : State :=
  match s.dbg.hold with
  | none => s
  | some (a, since) =>
    let ns := (t - since) * 5 / 8
    let s1 : State := s.modTap s.act.side fun d => { d with hold := none }
    let s2 : State := s1.wr DBG_HOLD_MAX.NS (max (s1.rd DBG_HOLD_MAX.NS) (min 0xFFFFFFFF ns))
    (s2.raise 0x0112 0 [a, ns, why]).issueAll

/-! ### Failover (R402-R405) -/

/-- SWAP: a failover with cause 7, or event 0x0F06. -/
def swapRoles (t : Nat) (s0 : State) : State :=
  let s : State := s0.at t
  if s.mch.mstate = .inSync then s.failoverStart 7 t else s.raise 0x0F06 1 [s.mch.mstate.code]

/-- SWAP; while a swap waits for its idle point another write finds it under way. -/
def execSwap (t : Nat) (s : State) : Host.Outcome State Fault Refusal :=
  .next (if s.busUp 0 ∧ s.failover.isNone then swapRoles t s else s)

/-- REJOIN: the failed Hub is released and runs its self-test (R406). -/
def rejoin (s : State) : State :=
  { s with mir := HubCore.fresh s.mir.side false, mch := { s.mch with mstate := .out } }

/-- REJOIN. -/
def execRejoin (s : State) : Host.Outcome State Fault Refusal :=
  .next (if s.busUp 0 ∧ s.mch.mstate = .held then rejoin s else s)

/-- What the new active Hub is: the mirror, with what is not mirrored afresh. Its noise lanes are its own (R120): free values. -/
def newActive (h : HubCore) (seeding : Option Bool) (n : Nat) : HubCore :=
  { h with
    loHeld := [], shadow := [], inReset := false, seeding := seeding
    lanes := (List.range 128).map fun i => BitVec.ofNat 256 (Config.freeNat (n + i)) }

/-- Phases 1 and 2: updates that have not arrived are lost, the roles change; after a swap the old active Hub is the mirror. -/
def State.takeOver (s : State) (fo : Failover) : State :=
  let a := newActive s.mir s.act.seeding s.free
  let s1 : State := s.dropWork
  { s1 with
    active := true, failover := none, free := s.free + 128, act := a
    mir := if fo.swap then copyHub s.build a s.cwin s.act else HubCore.fresh s.act.side true
    mch := { s1.mch with
      mstate := if fo.swap then .inSync else .held
      sent := [], effects := [], fetch := [], useq := s1.mch.applied, acked := s1.mch.applied, onLink := s1.mch.applied } }

/-- A load that the failed Hub ran ends as after a read error: the data of its reads is absorbed (R404). -/
def State.loadsLost (s : State) (l : Option TableLoad) (t : Option TplLoad) : State :=
  templateLoadEnd (loadEnd { s with work := { s.work with
    load := l.map fun x => { x with err := 4 }, tload := t.map fun x => { x with err := true } } })

/-- Collective channels of the new active Hub: the volatile part afresh, without a buffer (R173): a reservation is taken again before the
channel runs again. Early COL_STARTs stay (log entry 59). -/
def State.colAnew (s : State) (ch : Fin 16) : State :=
  let k := s.chan[ch]
  let s1 : State := s.modChan ch fun _ => { Channel.fresh with
    addr := k.addr, desc := k.desc, need := k.need, needBytes := k.needBytes, kept := k.kept, restarts := k.restarts, newAtt := k.newAtt
    uncor := k.uncor, written := k.written, dropped := k.dropped, final := k.final }
  if k.final.isSome then s1.colTryHeader ch
  else if s.colState ch = 2 then s1.hostRead (.colDesc ch) k.addr 64
  else s1.markWaits

/-- Phase 3 on a Well link: a link-layer start. -/
def State.wellsAgain (s : State) : State :=
  (List.finRange 24).foldl (fun (s : State) (w : WellNo) =>
    if s.wells[w].linkUp then
      (s.modLink (.well w) fun _ => Link.fresh).trainLink (.well w) resetShare
    else s) s

/-- The link layers of the ports hold nothing of the failed Hub. -/
def State.portsAgain (s : State) : State :=
  { s with ports := s.ports.map fun x => { x with link := Link.fresh } }

/-- Phase 3 on a port in UP: CHECK, with a link-layer start; what phase 4 has to send waits. -/
def State.portCheck (s : State) (p : Port) : State :=
  if s.portState p = 3 then
    (((((s.wr (PMP_LNK_STATUS.STATE p) 2).raise 0x0707 0 [p.val, 3, 2]).endRemoval p).trainLink (.port p) (s.rd (PMP_RBUF.SHARE p))).modPort p
      fun x => { x with good := 0, locked := false, trainFails := 0 })
  else s.trainLink (.port p) (s.rd (PMP_RBUF.SHARE p))

/-- Completion records whose write the failed Hub had out are written again (R399). -/
def State.recordsAgain (s : State) : State :=
  (List.finRange 16).foldl (fun (s : State) (c : Ctx) =>
    if (s.steps c).any (·.recOut) then s.setSteps c ((s.steps c).map fun x => { x with recOut := false, recErrs := 0 }) else s) s

/-- Phase 4: abort notices, COL_ABORT, and ready reports sent again. -/
def State.phase4 (s : State) : State :=
  let s1 : State := s.liveCtxs.foldl (fun (s : State) (c : Ctx) => s.noticeLive c 6 0) s
  let s2 : State := s1.colAbortIf 3 fun _ _ => true
  (List.finRange 16).foldl (fun (s : State) (c : Ctx) =>
    match (s.steps c).find? fun st => st.state == .ready with
    | some st => s.readyReport c st.seq st.replays
    | none => s) s2

/-- Collectives that run on this member. -/
def State.liveCols (s : State) : Nat :=
  ((List.finRange 16).filter fun ch => s.rd (COL_CH_STATUS.STATE ch) == 4 || s.rd (COL_CH_STATUS.STATE ch) == 5).length

/-- MIRROR_TAKEOVER: the mirror takes the active role, and the phases of R403 run. -/
def mirrorTakeover (t : Nat) (fo : Failover) (s0 : State) : State :=
  let s : State := (s0.at t).endHold (max t s0.now) 3
  let ev := s.failoverEvent fo.cause
  let s1 : State := ((s.takeOver fo).portsAgain).enqueue ev
  let s2 : State := ((s1.recordsAgain).wellsAgain).loadsLost s.work.load s.work.tload
  let steps := s2.liveCtxs.length
  let cols := s2.liveCols
  let s3 : State := (List.finRange 16).foldl (fun (s : State) (ch : Fin 16) => s.colAnew ch) s2
  let s4 : State := (List.finRange 16).foldl (fun (s : State) (p : Port) => s.portCheck p) s3.phase4
  let n := min 0xFFFF ((t - fo.at_) / 160)
  let s5 : State := { s4 with mch := { s4.mch with fo100ns := n } }
  (s5.raise 0x0F02 1 [n, steps, cols]).checkBypass

/-- The Hub that a swap leaves is at an idle point (R17, R342): no Host Port transaction is in progress, every accepted access has
completed and every update is acknowledged. -/
def State.atIdle (s : State) : Bool :=
  s.host.txns.isEmpty && s.cfgWait.isEmpty && s.mch.sent.isEmpty && s.mch.effects.isEmpty

/-- MIRROR_TAKEOVER: after a failure at once, in a swap at an idle point of the Hub that is left (R17). -/
def execMirrorTakeover (t : Nat) (s : State) : Host.Outcome State Fault Refusal :=
  .next (match s.failover with
    | some fo => if s.mir.inReset || (fo.swap && !s.atIdle) then s else mirrorTakeover t fo s
    | none => s)

end Sys2Proof.Machine
end

