-- ==== Sys2Proof/Machine/Regions.lean ====
section
/-!
DEFINITION. The regions of contexts in a stack (R219, R247, R249, R299), in MiB.
-/

namespace Sys2Proof.Machine

open Sys2Proof

/-- What a region of a stack holds. -/
inductive RegionKind where
  | dir0 | dir1 | weights | actlog | glog | echo | ledger | spill
  deriving DecidableEq, Repr

/-- MiB of a stack (R219). -/
def stackMib : Nat := 91552

/-- The regions of every context on a Well: context, kind, base and size in MiB. A region of size 0 is none. -/
def State.regionsOn (s : State) (w : Nat) : List (Nat × RegionKind × Nat × Nat) :=
  ((List.range 16).map fun c =>
    let d := s.rd (WEL_CTX_DIRSZ.SIZE_MIB w c)
    [(c, .dir0, s.rd (WEL_CTX_DIR0.BASE_MIB w c), d), (c, .dir1, s.rd (WEL_CTX_DIR1.BASE_MIB w c), d),
     (c, .weights, s.rd (WEL_CTX_WBASE.BASE_MIB w c), s.rd (WEL_CTX_WSIZE.SIZE_MIB w c)),
     (c, .actlog, s.rd (WEL_CTX_ACTLOG.BASE_MIB w c), s.rd (WEL_CTX_ACTLOG_SZ.SIZE_MIB w c)),
     (c, .glog, s.rd (WEL_CTX_GLOG.BASE_MIB w c), s.rd (WEL_CTX_GLOG_SZ.SIZE_MIB w c)),
     (c, .echo, s.rd (WEL_CTX_ECHO.BASE_MIB w c), s.rd (WEL_CTX_ECHO.SIZE_MIB w c)),
     (c, .ledger, s.rd (CMB_CTX_LEDGER.BASE_MIB c), s.rd (CMB_CTX_LEDGER_SZ.SIZE_MIB c)),
     (c, .spill, s.rd (CTX_SPILL.BASE_MIB c), s.rd (CTX_SPILL.V c))]).flatten.filter fun r => r.2.2.2 != 0

/-- An address lies in a region that the patrol scrub covers (R369). -/
def State.scrubbed (s : State) (w a : Nat) : Bool :=
  (s.regionsOn w).any fun r => r.2.1 != .echo && decide (r.2.2.1 * 2 ^ 20 ≤ a ∧ a < (r.2.2.1 + r.2.2.2) * 2 ^ 20)

end Sys2Proof.Machine
end

