-- ==== Sys2Proof/Machine/TickCtl.lean ====
section
/-!
DEFINITION. Step control messages (R51, R52, R54, R192, R441) and local finish (R50).
-/

namespace Sys2Proof.Machine

open Sys2Proof

/-- A step control packet with a nonzero reserved bit, or an abort notice with a reserved CAUSE (R187, R192). -/
def ctlBad (p : Pkt) : Bool :=
  let t := ptypeOf p
  let w1 := p.w1.toNat
  fmtOf p || bitsOf p.w0.toNat 30 2 != 0 || p.w2 != 0 || p.w3 != 0 ||
    (if t = 8 then decide (1 < w1)
     else if t = 0x0B then decide (2 ^ 12 ≤ w1) || w1 % 16 == 0 || decide (7 < w1 % 16)
     else w1 != 0)

/-- The message as the master records it. -/
def ctlRec (p : Pkt) : CtlRec := { chip := srcOf p, ctx := ctxOf p, seq := seqOf p, att := attOf p }

/-- What every step control packet meets first: the checks of R394 or, at the master, of R441, and its reserved bits. The
state to continue from, or the state in which the packet is gone. -/
def State.ctlIn (s : State) (p : Pkt) : State × Bool :=
  match s.landCheck p with
  | some s1 => (s1, false)
  | none =>
    let s0 : State := s.takeLanded p
    if ctlBad p then (s0.staleAny p, false)
    else if s0.isMaster ∧ !((s0.ctxSet (ctxOf p)).testBit (srcOf p).val) then (s0.bump PMP_STALE_CNT.COUNT, false)
    else (s0, true)

/-- A message for the master: recorded there, discarded elsewhere. -/
def State.atMaster (s : State) (p : Pkt) (f : TickBlock → TickBlock) : State :=
  let r := s.ctlIn p
  if !r.2 then r.1
  else if r.1.isMaster then { r.1 with tick := f r.1.tick }
  else r.1.stalePkt p

/-- A list with a record in it once. -/
def addOnce (l : List CtlRec) (r : CtlRec) : List CtlRec := if l.contains r then l else l ++ [r]

/-- READY_REPORT: the latest report of a member for a context replaces an earlier one (R51). -/
def readyReport (p : Pkt) (s : State) : State :=
  s.atMaster p fun k => { k with
    reports := (k.reports.filter fun r => !(r.chip == srcOf p && r.ctx == ctxOf p)) ++ [ctlRec p] }

/-- READY_REPORT. -/
def execReadyReport (p : Pkt) (s : State) : Host.Outcome State Fault Refusal :=
  .next (if s.hubUp ∧ ptypeOf p = 0x08 then readyReport p s else s)

/-- PROGRESS_BEACON (R54). -/
def progressBeacon (p : Pkt) (s : State) : State :=
  s.atMaster p fun k => { k with beats := addOnce k.beats (ctlRec p) }

/-- PROGRESS_BEACON. -/
def execProgressBeacon (p : Pkt) (s : State) : Host.Outcome State Fault Refusal :=
  .next (if s.hubUp ∧ ptypeOf p = 0x09 then progressBeacon p s else s)

/-- LOCAL_DONE (R52). -/
def localDone (p : Pkt) (s : State) : State :=
  s.atMaster p fun k => { k with dones := addOnce k.dones (ctlRec p), beats := addOnce k.beats (ctlRec p) }

/-- LOCAL_DONE. -/
def execLocalDone (p : Pkt) (s : State) : Host.Outcome State Fault Refusal :=
  .next (if s.hubUp ∧ ptypeOf p = 0x0A then localDone p s else s)

/-- The master forgets the running attempt that a notice ends: every member aborts it. -/
def TickBlock.aborted (k : TickBlock) (p : Pkt) : TickBlock :=
  match k.running[ctxOf p] with
  | some r =>
    if r.seq = seqOf p ∧ (r.atts.any fun a => a.2 == attOf p) then
      { k with running := k.running.set (ctxOf p) none
               dones := k.dones.filter fun x => !(x.ctx == ctxOf p && x.seq == r.seq) }
    else k
  | none => k

/-- The step that the notice names has had its COMMIT bit, whether its record is still held or it has retired (R49, R389). -/
def State.committedHere (s : State) (p : Pkt) : Bool :=
  s.commits[ctxOf p].contains (seqOf p) ||
    (s.steps (ctxOf p)).any fun st => st.state == .committed && st.seq == seqOf p

/-- ABORT_NOTICE: the step it names goes to ABORTED (R48, R49); one that has its COMMIT bit is not touched (R389). -/
def abortNotice (p : Pkt) (s : State) : State :=
  let r := s.ctlIn p
  if !r.2 then r.1
  else
    let s1 : State := if r.1.isMaster then { r.1 with tick := r.1.tick.aborted p } else r.1
    let c := ctxOf p
    match s1.current p with
    | some _ => s1.abortLive c (bitsOf p.w1.toNat 0 4) (bitsOf p.w1.toNat 4 8)
    | none =>
      if s1.committedHere p then s1.lateNotice
      else if s1.rd (RNG_CTX_CTRL.ENABLE c) = 0 then s1
      else s1.stalePkt p

/-- ABORT_NOTICE. -/
def execAbortNotice (p : Pkt) (s : State) : Host.Outcome State Fault Refusal :=
  .next (if s.hubUp ∧ ptypeOf p = 0x0B then abortNotice p s else s)

/-! ### LOCAL_FINISH (R50) -/

/-- A flit of a RETURN of an attempt. -/
def TxFlit.isReturn (c : Ctx) (seq : Word) (att : Nat) (f : TxFlit) : Bool :=
  (f.ptype == 3 || f.ptype == 4) && f.ctx == c && f.seq == seq && f.att == att % 8

/-- A RETURN of an attempt waits to leave or to be acknowledged. -/
def State.returnsOut (s : State) (c : Ctx) (seq : Word) (att : Nat) : Bool :=
  ((List.finRange 16).any fun p =>
    let k := s.ports[p].link
    (k.txq.toList.any fun q => q.any (TxFlit.isReturn c seq att)) || k.replay.any fun x => x.2.isReturn c seq att) ||
  s.routeWait.any fun t => ofAttempt c seq att t.pkt && (ptypeOf t.pkt == 3 || ptypeOf t.pkt == 4)

/-- The conditions of R50 for the live attempt of a context. -/
def State.finishes (s : State) (c : Ctx) (st : Step) (a : Attempt) : Bool :=
  !st.finished && a.toks.all (·.emitted) && s.decided c && a.sendq.isEmpty &&
    ((s.homesOf c).all fun h => a.eodSent.contains h) &&
    (s.hostHome c st.seq (st.replays % 8)).complete &&
    !(s.work.queues.any fun q => q.ctx == c && !q.entries.isEmpty) &&
    !(s.work.tiles.any fun t => t.ctx == c && !t.dead) &&
    !(s.cist.waits.any fun r => r.why.ofCtx c) &&
    !(s.returnsOut c st.seq st.replays) && a.ledgerPend == 0 &&
    s.serviceWells.all fun w => a.wellDone.contains w.val

/-- LOCAL_FINISH: the finished flag, and the local-done message. -/
def localFinish (c : Ctx) (s : State) : State :=
  match s.liveStep c, s.work.att[c] with
  | some st, some a =>
    if s.finishes c st a then
      (s.modStep c (fun x => x.live) fun x => { x with finished := true }).sendMaster 0x0A c st.seq st.replays 0
    else s
  | _, _ => s

/-- LOCAL_FINISH. -/
def execLocalFinish (c : Ctx) (s : State) : Host.Outcome State Fault Refusal :=
  .next (if s.hubUp then localFinish c s else s)

end Sys2Proof.Machine
end

