-- ==== Sys2Proof/Machine/WellHost.lean ====
section
/-!
DEFINITION. The host side of a stack (R239-R242, R383), the power cap (R243, R244) and row-disturb mitigation (R373, R374).
-/

namespace Sys2Proof.Machine

open Sys2Proof

/-! ### Row-disturb mitigation (R373, R374) -/

/-- The rows within DIST of a row. -/
def neighbours (row dist : Nat) : List Nat :=
  ((List.range dist).map fun i => if i + 1 ≤ row then [row - (i + 1), row + (i + 1)] else [row + (i + 1)]).flatten

/-- Targeted refreshes are made: one for each neighbouring row; beyond the bank's budget the trigger is counted, and event 0x0D31 is
written once in the window (R374). -/
def State.targetRows (s : State) (w : WellNo) (ch bank row : Nat) : State :=
  let b := bankOf s.wells[w].rows ch bank
  if s.rdmBudget w ≤ b.targeted then
    let s1 : State := (s.modWell w fun k => { k with rows := setBank k.rows { b with reported := true } }).bump HTH_RDM_OVF_CNT.COUNT
    if b.reported then s1 else s1.raiseFrom w.val 0 0x0D31 1 [w.val, ch, bank]
  else
    let ns := neighbours row (s.rdmOf w HTH_RDM.DIST)
    let s1 : State := s.modWell w fun k => { k with rows := setBank k.rows { b with targeted := b.targeted + ns.length } }
    ns.foldl (fun (s : State) (r : Nat) => (s.emit (.refresh w ch bank (some r))).bump HTH_RDM_CNT.COUNT) s1

/-- The counter of a row. -/
def rowCount (l : List BankRows) (ch bank row : Nat) : Nat :=
  (((bankOf l ch bank).rows.find? fun r => r.1 == row).map (·.2)).getD 0

/-- A row's counter goes to 0: it is free for another row. -/
def State.rowServed (s : State) (w : WellNo) (ch bank row : Nat) : State :=
  s.modWell w fun k =>
    let b := bankOf k.rows ch bank
    { k with rows := setBank k.rows { b with rows := b.rows.filter fun r => r.1 != row } }

/-! ### Host commands (R240, R241, R383) -/

/-- Host energy in the current window. -/
def State.hostEnergy (s : State) (w : WellNo) (fj : Nat) : State := s.modWell w fun k => { k with hostFJ := k.hostFJ + fj }

/-- The 8-byte words that a range of bytes covers only in part. -/
def partWords (a n : Nat) : List Nat :=
  ([a / 8 * 8, (a + n - 1) / 8 * 8].dedup).filter fun x => decide (0 < n) && !(decide (a ≤ x ∧ x + 8 ≤ a + n))

/-- The arbiter reads a word for a merge (R383): what it delivers is encoded afresh; an uncorrectable word is counted, and its bytes stand
as stored. -/
def State.mergeRead (s : State) (w : WellNo) (x : Nat) : State :=
  let v := s.stackWord w x
  let s1 : State := match readWord v (x / 8) with
    | .clean => s
    | .corrected _ => s.correctedWord w.val
    | .uncorrectable => s.bump RAS_UNC_CNT.COUNT
    | .mismatch => (s.bump RAS_UNC_CNT.COUNT).bump RAS_ADDRMIS_CNT.COUNT
  s1.stackWrite w x (toBytes 8 (deliverWord v (x / 8)).toNat)

/-- A merged word gets check bits that read as uncorrectable (R383). Which is not stated: free bits that read so. -/
def State.keepBad (s : State) (w : WellNo) (x : Nat) : State :=
  let good := s.stackWord w x
  let any := good ^^^ BitVec.ofNat 80 ((Config.freeWord s.free).toNat * 2 ^ 64)
  let bad := if (readWord any (x / 8)).bad then any else good ^^^ BitVec.ofNat 80 (7 * 2 ^ 64)
  ({ s with free := s.free + 1 } : State).stackSet w x bad

/-- A host write: whole words are encoded afresh, a word written in part is merged; one that was uncorrectable stays so (R383). -/
def State.hostStackWrite (s : State) (w : WellNo) (a : Nat) (bs : List Byte) : State :=
  let part := (partWords a bs.length).filter fun x => s.wells[w].flips.any fun f => f.1 == x
  let bad := part.filter fun x => s.badWord w x
  let s1 : State := part.foldl (fun (s : State) (x : Nat) => s.mergeRead w x) s
  bad.foldl (fun (s : State) (x : Nat) => s.keepBad w x) (s1.stackWrite w a bs)

/-- A host read of a burst: checked, corrected words delivered corrected and counted, uncorrectable ones delivered as stored, counted and
indicated (R383). -/
def State.hostStackRead (s : State) (w : WellNo) (a0 : Nat) : State :=
  let a := a0 / 64 * 64
  let bad := s.badWords w a 64
  let s1 : State := bad.foldl (fun (s : State) (x : Nat) =>
    let s1 : State := s.bump RAS_UNC_CNT.COUNT
    if s.misread w x then s1.bump RAS_ADDRMIS_CNT.COUNT else s1) (s.countFixed w a 64)
  s1.emit (.hostData w (s.stackRead w a 64) (bad != []))

/-- The effect of a host command on the stack and on what the Well keeps of it. -/
def State.hostEffect (s : State) (w : WellNo) (cmd : HostCmd) : State :=
  match cmd with
  | .activate ch bank row =>
    ((s.hostEnergy w (s.rd (WEL_COEF_ACT.PJ w) * 1000)).activated w ch bank row).modWell w fun k =>
      { k with hostRows := (k.hostRows.filter fun r => !(r.1 == ch && r.2.1 == bank)) ++ [(ch, bank, row)] }
  | .precharge ch bank => s.modWell w fun k => { k with hostRows := k.hostRows.filter fun r => !(r.1 == ch && r.2.1 == bank) }
  | .read a =>
    (s.hostEnergy w (64 * s.rd (WEL_COEF_RD.FJ w))).hostStackRead w a
  | .write a bs =>
    if a + bs.length ≤ stackMib * 2 ^ 20 then
      (s.hostEnergy w (bs.length * s.rd (WEL_COEF_WR.FJ w))).hostStackWrite w a bs
    else s
  | .other => s

/-- The fixed extension of host commands in ns (R240). -/
def State.hostExtension (s : State) (w : WellNo) : Nat := (s.view (WEL_ARB_STATUS.reg w.val)).toNat % 256

/-- The wait of a host command (R240, R242): none while the Well does nothing on its channels, else a free value, within the extension
while refresh is host-driven. -/
def State.hostWait (s : State) (w : WellNo) : State :=
  let mode := s.rd (WEL_ARB_STATUS.REF_MODE w)
  if s.wells[w].running.isNone ∧ mode = 0 then s
  else
    let n := if mode = 0 then Config.freeNat s.free % (s.hostExtension w + 1) else min 0xFFFF (Config.freeNat s.free)
    let s1 : State := { s with free := s.free + 1 }
    s1.wr (WEL_HOST_WAIT_MAX.NS w) (max (s1.rd (WEL_HOST_WAIT_MAX.NS w)) n)

/-- HOST_COMMAND: delayed by the fixed extension, and always carried out. -/
def hostCommand (w : WellNo) (cmd : HostCmd) (s : State) : State :=
  (((s.emit (.dram w cmd)).hostEffect w cmd).modWell w fun k => { k with hostMasked := false }).hostWait w

/-! ### Refresh (R25, R242) -/

/-- A locked sequence of the running tile stands in a bank: which bank it has reached is not stated, a free choice. -/
def State.seqIn (s : State) (w : WellNo) : Bool := s.wells[w].running.isSome && Config.freeNat s.free % 2 == 1

/-- A host refresh reaches its bank at once. A locked sequence there is interrupted: its row is precharged first, and it resumes with its
next burst after the refresh. A Well that drove refresh returns to host-driven refresh. -/
def hostRefresh (w : WellNo) (ch bank : Nat) (s : State) : State :=
  let busy := s.seqIn w
  let s0 : State := { s with free := s.free + 1 }
  let s1 : State := (if busy then s0.emit (.lockedSeq w ch bank .precharged) else s0).emit (.refresh w ch bank none)
  let s2 : State := if busy then s1.emit (.lockedSeq w ch bank .resumed) else s1
  let s3 : State := if s.rd (WEL_ARB_STATUS.REF_MODE w) = 1 then s2.emit (.selfRefresh w false) else s2
  (s3.modWell w fun k => { k with hostMasked := false }).wrIf (WEL_ARB_STATUS.REF_MODE w) 0

/-- HOST_REFRESH. -/
def execHostRefresh (w : WellNo) (ch bank : Nat) (s : State) : Host.Outcome State Fault Refusal := .next (hostRefresh w ch bank s)

/-- REFRESH_TAKEOVER: the Well refreshes every bank from its own timer, because the host is masked or no refresh has reached a bank of a
channel for the timeout. Which channel a masked host concerns is not stated: a free value (log entry 62). -/
def refreshTakeover (w : WellNo) (late : Option Nat) (s : State) : State :=
  let s1 : State := { (s.modWell w fun k => { k with hostMasked := k.hostMasked || late.isNone }) with free := s.free + 1 }
  (((s1.wr (WEL_ARB_STATUS.REF_MODE w) 1).bump (WEL_REF_TAKEOVER_CNT.COUNT w)).raiseFrom w.val 0 0x0908 1
    [bitNat late.isSome, late.getD (Config.freeNat s.free % 32)]).emit (.selfRefresh w true)

/-- REFRESH_TAKEOVER. -/
def execRefreshTakeover (w : WellNo) (late : Option Nat) (s : State) : Host.Outcome State Fault Refusal :=
  .next (if s.wells[w].supplyOk ∧ !s.wells[w].inReset ∧ s.rd (WEL_ARB_STATUS.REF_MODE w) = 0 then refreshTakeover w late s else s)

/-! ### Power cap (R243, R244) -/

/-- Static energy of a window in fJ: mW × µs. -/
def State.staticFJ (s : State) (w : WellNo) : Nat := s.rd (WEL_COEF_STATIC.MW w) * s.rd (WEL_PCAP.WIN_US w) * 10 ^ 6

/-- Budget of a window in fJ: 0.25 W × µs for each unit of the effective cap. -/
def State.budgetFJ (s : State) (w : WellNo) : Nat := s.effCap w * s.rd (WEL_PCAP.WIN_US w) * 25 * 10 ^ 7

/-- Energy of the current window. -/
def State.windowFJ (s : State) (w : WellNo) : Nat := s.staticFJ w + s.wells[w].hostFJ + s.wells[w].wellFJ

/-- PCAP_REACHED: the Well's own requesters are held until the window ends. -/
def pcapReached (w : WellNo) (s : State) : State := (s.wr (WEL_PCAP_STATUS.THROTTLING w) 1).bump (WEL_THR_CNT.COUNT w)

/-- PCAP_REACHED. -/
def execPcapReached (w : WellNo) (s : State) : Host.Outcome State Fault Refusal :=
  .next (if s.wellUp w ∧ s.effCap w ≠ 0 ∧ s.rd (WEL_PCAP_STATUS.THROTTLING w) = 0 ∧ s.budgetFJ w ≤ s.windowFJ w then
    pcapReached w s else s)

/-- The end of a window: its energy goes to `WEL_ENERGY`, HOST_OVER is judged for the window that ends, held requesters
are released and the estimate restarts. -/
def State.windowEnd (s : State) (w : WellNo) : State :=
  let total := s.windowFJ w + s.wells[w].restFJ
  let hit := decide (s.effCap w ≠ 0 ∧ s.budgetFJ w ≤ s.staticFJ w + s.wells[w].hostFJ)
  let s1 : State := s.addPair (WEL_ENERGY_LO.UJ w) (WEL_ENERGY_HI.UJ w) (total / 10 ^ 9)
  let s2 : State := (s1.wrIf (WEL_PCAP_STATUS.HOST_OVER w) (bitNat hit)).wrIf (WEL_PCAP_STATUS.THROTTLING w) 0
  let s3 : State := if hit && !s.wells[w].overLast then s2.raiseFrom w.val 0 0x0906 1 [s.effCap w, s.windowFJ w / 10 ^ 9] else s2
  s3.modWell w fun k => { k with hostFJ := 0, wellFJ := 0, restFJ := total % 10 ^ 9, overLast := hit }

end Sys2Proof.Machine
end

