-- ==== Sys2Proof/Machine/RegWrite.lean ====
section
/-!
DEFINITION. What a write of each register does beyond the access codes of R7: values that are stored changed, writes refused in the
present state, and actions.
-/

namespace Sys2Proof.Machine

open Sys2Proof

/-! ### Shared pieces -/

/-- A field written 0 stores another value. -/
def zeroTo (f : Fld) (n : Nat) (v : Word) : Word := if f.get v = 0 then f.put v n else v

/-- A field written above a limit stores the limit. -/
def capTo (f : Fld) (n : Nat) (v : Word) : Word := if n < f.get v then f.put v n else v

/-- A field written below a limit stores the limit. -/
def floorTo (f : Fld) (n : Nat) (v : Word) : Word := if f.get v < n then f.put v n else v

/-- The context of a register in an array of contexts. -/
def ctxAt (off base stride : Nat) : Ctx := ⟨(off - base) / stride % 16, Nat.mod_lt _ (by decide)⟩

/-- Some context's ring is enabled. -/
def State.anyOn (s : State) : Bool := (List.finRange 16).any fun c => s.ctxOn c

/-! ### Rings, routes, special functions, admission -/

/-- A base pair or `RNG_NEXT_SEQ` is refused while it would change under an enabled ring (R94). -/
def State.rngKeep (s : State) (on : Bool) (off : Nat) (v : Word) (c : Option Ctx) : State :=
  let s1 : State := s.store off v
  if on ∧ s1.word off ≠ s.word off then s.raise 0x0304 1 [off, v.toNat] c else s1

/-- A write to the RING block. -/
def State.rngWrite (s : State) (off : Nat) (v : Word) : State :=
  if off < 0x021000 then
    if off = RNG_EQ_CTRL.reg then eqCtrlWrite v s
    else if off = RNG_EQ_HEAD.reg then eqHeadWrite v s
    else s.store off v
  else
    let c := ctxAt off 0x021000 0x40
    match off % 0x40 with
    | 0x10 => ctxCtrlWrite c v s
    | 0x14 => doorbell c v s
    | 0x20 => cqHeadWrite c v s
    | 0x24 => s.rngKeep (s.ctxOn c) off v (some c)
    | _ => s.store off v

/-- A write to the ROUTE block. -/
def State.rteWrite (s : State) (off : Nat) (v : Word) : State :=
  if off = RTE_LOAD_CTRL.reg then (if RTE_LOAD_CTRL.GO.get v = 1 then loadCtrlWrite v s else s.store off v)
  else if off < 0x031000 then s.store off v
  else
    let c := ctxAt off 0x031000 0x20
    match off % 0x20 with
    | 0x00 => rteCfgWrite c v s
    | 0x04 => swapCtrlWrite c v s
    | _ => s.store off v

/-- An EPS that R148 refuses: negative, −0.0, infinite or NaN. -/
def epsBad (v : Word) : Bool := v.getLsbD 31 || bitsOf v.toNat 23 8 == 255

/-- A write to the SFU block (R148). -/
def State.sfuWrite (s : State) (off : Nat) (v : Word) : State :=
  if off < 0x041000 then s.store off v
  else
    let c := ctxAt off 0x041000 0x10
    let bad := s.ctxOn c || (off % 0x10 == 4 && epsBad v) ||
      (off % 0x10 == 0 && (SFU_RMS_CFG.GAIN_V c).get v == 1 &&
        decide (s.rd (RTE_CTX_CFG.ALLOT_SIZE c) * 65536 < (SFU_RMS_CFG.GAIN_OFF c).get v * 64 + 2 * s.hid c))
    if bad then s.raise 0x0501 1 [off, v.toNat] c else s.store off v

/-- A write to the ADMIT block (R176). -/
def State.admWrite (s : State) (off : Nat) (v : Word) : State :=
  if off < 0x051000 ∨ 8 ≤ off % 0x10 then s.store off v
  else
    let c := ctxAt off 0x051000 0x10
    if s.ctxOn c then s.refuse 0x0601 off v c
    else if off % 0x10 = 0 then
      s.store off (capTo (ADM_CTX_CFG.AWIN c) 11 (zeroTo (ADM_CTX_CFG.CAPF_DEF c) 0x10 v))
    else s.store off v

/-- A write to the CST block: pool registers are refused while ENABLE is 1 (R164). -/
def State.cstWrite (s : State) (off : Nat) (v : Word) : State :=
  if off = CST_CTRL.reg then cstEnable v s
  else if 0x058040 ≤ off ∧ off < 0x058080 then
    let n := (off - 0x058040) / 0x10
    if s.rd CST_CTRL.ENABLE = 1 then s.refuse 0x0601 off v
    else if off % 0x10 = 4 then (((s.noteLow n).store off v).noteLow n) else s.store off v
  else s.store off v

/-! ### Pump, ledger, Wells -/

/-- The four 8-bit fields of a word. -/
def byteFields (v : Word) : List Nat := (List.range 4).map fun i => bitsOf v.toNat (8 * i) 8

/-- A weight written 0 stores 1. -/
def weightsWord (v : Word) : Word :=
  BitVec.ofNat 32 (((List.range 4).map fun i => max 1 (bitsOf v.toNat (8 * i) 8) * 2 ^ (8 * i)).foldl (· + ·) 0)

/-- A share is 0, or the shares exceed the buffer (R216). -/
def shareBad (v : Word) : Bool := (byteFields v).contains 0 || decide (128 < (byteFields v).foldl (· + ·) 0)

/-- A write to the PUMP block (R216, R217). -/
def State.pmpWrite (s : State) (port : AccessPort) (off : Nat) (v : Word) : State :=
  let p : Port := ⟨(off - 0x060000) / 0x1000 % 16, Nat.mod_lt _ (by decide)⟩
  if off = PMP_Q_CTRL.reg then qCtrlWrite port v s
  else if PMP_ROUTE.reg 0 ≤ off ∧ off ≤ PMP_ROUTE.reg 63 then
    if s.anyOn then s.refuse 0x0701 off v else (s.store off v).pumpWaiting
  else match off % 0x1000 with
    | 0x004 => s.store off (weightsWord v)
    | 0x008 => if s.anyOn then s.refuse 0x0701 off v else s.store off v
    | 0x00C => if shareBad v then s.refuse 0x0701 off v else s.store off v
    | 0x100 => lnkCtrlWrite p v s
    | _ => s.store off v

/-- Two regions in MiB overlap. -/
def mibOverlap (a n b m : Nat) : Bool := decide (a < b + m ∧ b < a + n ∧ 0 < n ∧ 0 < m)

/-- A context's ledger region overlaps another's (R219), or a valid spill region (R299). -/
def State.ledgerClash (s : State) (c : Ctx) : Bool :=
  let hits := mibOverlap (s.rd (CMB_CTX_LEDGER.BASE_MIB c)) (s.rd (CMB_CTX_LEDGER_SZ.SIZE_MIB c))
  (List.finRange 16).any fun d => (d != c && hits (s.rd (CMB_CTX_LEDGER.BASE_MIB d)) (s.rd (CMB_CTX_LEDGER_SZ.SIZE_MIB d))) ||
    hits (s.rd (CTX_SPILL.BASE_MIB d)) (s.rd (CTX_SPILL.V d))

/-- A write to the COMBINE block: an accepted write of a ledger region empties the context's index (R212, R219). -/
def State.cmbWrite (s : State) (off : Nat) (v : Word) : State :=
  if off < 0x071000 ∨ 8 ≤ off % 0x10 then s.store off v
  else
    let c := ctxAt off 0x071000 0x10
    let s1 : State := s.store off v
    if s.ctxOn c ∨ stackMib < s1.rd (CMB_CTX_LEDGER.BASE_MIB c) + s1.rd (CMB_CTX_LEDGER_SZ.SIZE_MIB c) ∨ s1.ledgerClash c then
      s.refuse 0x0801 off v
    else s1.setCore { s1.act.core with ledger := s1.act.core.ledger.set c [], shareEnd := s1.act.core.shareEnd.set c [] }

/-- The kinds of region that may overlap nothing (R249). -/
def RegionKind.alone : RegionKind → Bool
  | .dir0 | .dir1 | .actlog | .glog | .echo => true
  | .weights | .ledger | .spill => false

/-- A region of a context on a Well reaches beyond the stack, or overlaps what it must not (R249): nothing of the Well's overlaps a valid
spill region (R299). -/
def State.regionBad (s : State) (w : Nat) (c : Ctx) : Bool :=
  let l := s.regionsOn w
  l.any fun r => r.1 == c.val && r.2.1 != .ledger && r.2.1 != .spill &&
    (decide (stackMib < r.2.2.1 + r.2.2.2) ||
      l.any fun x => !(x.1 == r.1 && x.2.1 == r.2.1) && (r.2.1.alone || x.2.1 == .spill) && mibOverlap r.2.2.1 r.2.2.2 x.2.2.1 x.2.2.2)

/-- The directory of a bank that is the context's shadow in state OPEN may be moved while the ring is enabled. -/
def State.dirOpen (s : State) (c : Ctx) (r : Nat) : Bool :=
  (r == 0 && s.activeBank c == 1 || r == 4 && s.activeBank c == 0) && s.rd (RTE_SET_STATUS.SHADOW c) == 0

/-- A write to a Well's page (R246, R247, R249); releases of fenced engines are tested (R386), the result a free choice. -/
def State.welWrite (s : State) (off : Nat) (v : Word) : State :=
  let w := (off - 0x080000) / 0x2000
  let r := (off - 0x080000) % 0x2000
  if r < 0x1000 then
    match r with
    | 0x010 => engineRelease w v (BitVec.ofNat 16 (Config.freeNat s.free)) { s with free := s.free + 1 }
    | 0x020 => s.store off (capTo (WEL_ARB_CFG.LOCKMAX w) 8 (zeroTo (WEL_ARB_CFG.LOCKMAX w) 1 v))
    | 0x028 => s.store off (zeroTo (WEL_REF_CFG.TIMEOUT_US w) 1 v)
    | 0x040 => s.store off (zeroTo (WEL_PCAP.WIN_US w) 1 v)
    | _ => s.store off v
  else
    let c := ctxAt r 0x1000 0x40
    let s1 : State := s.store off v
    if (s.ctxOn c && !s.dirOpen c (r % 0x40)) || s1.regionBad w c then s.raiseFrom w 0 0x0901 1 [off, v.toNat] else s1

/-! ### Collectives, contexts -/

/-- A write to the COL block (R274, R275). -/
def State.colWrite (s : State) (off : Nat) (v : Word) : State :=
  if off = COL_CFG.reg then
    if (List.finRange 16).any fun ch => 1 < s.colState ch then s.refuse 0x0A06 off v else s.store off (zeroTo COL_CFG.WD_LIMIT 1 v)
  else if off = COL_HK_CFG.reg then s.store off (zeroTo COL_HK_CFG.WAIT 1 (zeroTo COL_HK_CFG.PERIOD 1 v))
  else if off < 0x0C1000 then s.store off v
  else
    let ch := chanNo ((off - 0x0C1000) / 0x20)
    match off % 0x20 with
    | 0x00 => colChCtrlWrite ch v s
    | 0x04 => if s.rd (COL_CH_CTRL.ENABLE ch) = 1 then s.refuse 0x0A06 off v else s.store off v
    | _ => s.store off v

/-- A plan that R279 refuses, as it would stand. -/
def State.planBad (s : State) (c : Ctx) (plan1 : Bool) : Bool :=
  if plan1 then
    decide (s.rd (CTX_PLAN1.LAYERS c) = 0 ∨ 1024 < s.rd (CTX_PLAN1.LAYERS c) ∨ 262144 < s.rd (CTX_PLAN1.MAX_VOCAB c))
  else
    decide (s.rd (CTX_PLAN0.MAX_K c) = 0 ∨ 32 < s.rd (CTX_PLAN0.MAX_K c) ∨ 4 < s.rd (CTX_PLAN0.MAX_SHARED c) ∨
      524288 < s.rd (CTX_PLAN0.MAX_TOK c) ∨ 524288 < (List.finRange 16).foldl (fun n d => n + s.rd (CTX_PLAN0.MAX_TOK d)) 0)

/-- The 1 MiB of a valid spill region reaches beyond a stack or overlaps a region of R219 or R249 on a Well (R299). -/
def State.spillBad (s : State) (c : Ctx) : Bool :=
  let b := s.rd (CTX_SPILL.BASE_MIB c)
  s.rd (CTX_SPILL.V c) == 1 && (decide (stackMib < b + 1) ||
    (List.range 24).any fun w => (s.regionsOn w).any fun r => r.2.1 != .spill && mibOverlap b 1 r.2.2.1 r.2.2.2)

/-- A write to the CTX block (R278, R279, R297-R299). -/
def State.ctxWrite (s : State) (off : Nat) (v : Word) : State :=
  if off = CTX_QUANTUM.reg then s.store off (zeroTo CTX_QUANTUM.CYCLES 1 v)
  else if off = CTX_TPL_CTRL.reg then (if CTX_TPL_CTRL.GO.get v = 1 then tplCtrlWrite v s else s.store off v)
  else if off < 0x0D1000 then s.store off v
  else
    let c := ctxAt off 0x0D1000 0x80
    let take (v1 : Word) (bad : State → Bool) : State :=
      let s1 : State := s.store off v1
      if s.ctxOn c || bad s1 then s.raise 0x0B01 1 [off, v.toNat] c else s1
    match off % 0x80 with
    | 0x08 => take v fun x => x.planBad c false
    | 0x0C => take v fun x => x.planBad c true
    | 0x10 => s.store off (zeroTo (CTX_SHARE.SHARE c) 1 v)
    | 0x14 => take (capTo (CTX_ORDER.OE c) 14 v) fun _ => false
    | 0x18 => take (zeroTo (CTX_PRED.COLW c) 1 v) fun _ => false
    | 0x20 => take v fun x => x.spillBad c
    | _ => s.store off v

/-! ### Service, reliability, recorder, mirror, Heath, debug -/

/-- A write to the SVC block (R327). -/
def State.svcWrite (s : State) (off : Nat) (v : Word) : State :=
  if off = SVC_ID.reg then svcIdWrite v s
  else if off = SVC_CTRL.reg then svcCtrlWrite v s
  else if off = SVC_BYP_CTRL.reg then svcBypWrite v s
  else if off = SVC_BEACON.reg then
    if SVC_BEACON.ABS_US.get v ≤ 2 * SVC_BEACON.PERIOD_US.get v then s.refuse 0x0C07 off v else s.store off v
  else if off = SVC_DRAIN.reg then
    if (List.finRange 16).any fun c => (s.rd SVC_DRAIN.CTX).testBit c.val && !v.getLsbD c.val && !s.idle c then s.refuse 0x0C07 off v
    else s.store off v
  else if 0x0E0100 ≤ off ∧ off % 8 = 0 then svcPortWrite ⟨(off - 0x0E0100) / 8 % 16, Nat.mod_lt _ (by decide)⟩ v s
  else s.store off v

/-- Release the frozen masters that a written mask names (R396). -/
def State.releaseMasters (s : State) (l : List Master) : State :=
  l.foldl (fun (s : State) (m : Master) => if s.isFrozen m then masterRelease m s else s) s

/-- A write to the RAS block (R408). -/
def State.rasWrite (s : State) (off : Nat) (v : Word) : State :=
  if off = RAS_CFG.reg then s.store off (zeroTo RAS_CFG.DBG_HOLD_US 1 v)
  else if off = RAS_FENCE_HUB.reg then
    engineRelease s.hubPart v (BitVec.ofNat 16 (Config.freeNat s.free)) { s with free := s.free + 1 }
  else if off = RAS_FREEZE.reg then
    s.releaseMasters (((List.finRange 16).filter fun c => v.getLsbD c.val).map Master.ring ++ (if v.getLsbD 16 then [Master.debug] else []))
  else if off = RAS_FREEZE_WELL.reg then s.releaseMasters (((List.finRange 24).filter fun w => v.getLsbD w.val).map Master.well)
  else if off = RAS_FREEZE_PEER_LO.reg then
    s.releaseMasters (((List.finRange 64).filter fun d => decide (d.val < 32) && v.getLsbD d.val).map Master.peer)
  else if off = RAS_FREEZE_PEER_HI.reg then
    s.releaseMasters (((List.finRange 64).filter fun d => decide (32 ≤ d.val) && v.getLsbD (d.val - 32)).map Master.peer)
  else if off = RAS_WDOG.reg then s.store off (floorTo RAS_WDOG.PERIOD_US 10 v)
  else s.store off v

/-- A snapshot entry names a register that no snapshot may read (R423). -/
def snapBad (v : Word) : Bool :=
  let o := 4 * bitsOf v.toNat 2 19
  v.getLsbD 0 && decide ((0x080000 ≤ o ∧ o < 0x0B0000) ∨ (0x100000 ≤ o ∧ o < 0x110000) ∨ (0x140000 ≤ o ∧ o < 0x150000))

/-- A write to the EVR block (R423). -/
def State.evrWrite (s : State) (off : Nat) (v : Word) : State :=
  if off = EVR_CTRL.reg then evrCtrlWrite v s
  else if off = EVR_RATE.reg then s.store off (zeroTo EVR_RATE.BURST 1 (zeroTo EVR_RATE.RATE 1 v))
  else if off = EVR_TRIG.reg then evrTrig v s
  else if off = EVR_CURSOR.reg then cursorLoad v s
  else if 0x100080 ≤ off ∧ off < 0x1000A0 then
    let f := EVR_MATCH.MODE ((off - 0x100080) / 4)
    s.store off (if f.get v = 3 then f.put v 0 else v)
  else if 0x100100 ≤ off ∧ snapBad v then s.raiseHeath 0x0E05 1 [off, v.toNat]
  else s.store off v

/-- A write of `MIR_CTRL`: the two stored bits, then the actions, which read 0. -/
def mirCtrlWrite (v : Word) (s : State) : State :=
  let old := s.rd MIR_CTRL.DISABLE
  let s1 : State := s.store MIR_CTRL.reg (MIR_CTRL.SWAP.put (MIR_CTRL.SYNC.put (MIR_CTRL.REJOIN.put v 0) 0) 0)
  let s2 : State := if old = 0 ∧ s1.rd MIR_CTRL.DISABLE = 1 then s1.mirrorGone 10 else s1
  let s3 : State := if MIR_CTRL.REJOIN.get v = 1 ∧ s2.mch.mstate = .held then rejoin s2 else s2
  let s4 : State := if MIR_CTRL.SYNC.get v = 1 ∧ s3.canSync then startSync s3.now s3 else s3
  if MIR_CTRL.SWAP.get v = 1 then swapRoles s4.now s4 else s4

/-- A setting that each Well in service is told over its sideband. -/
def State.tellWells (s : State) (off : Nat) : State :=
  s.serviceWells.foldl (fun (s : State) (w : WellNo) => s.emit (.sideband w off (s.word off))) s

/-- Store a setting of R369, R370, R373 or R374; a change reaches the Wells (R378). -/
def State.storeTell (s : State) (off : Nat) (v : Word) : State :=
  let s1 : State := s.store off v
  if s1.word off = s.word off then s1 else s1.tellWells off

/-- A write to the HTH block (R378). -/
def State.hthWrite (s : State) (off : Nat) (v : Word) : State :=
  if off = HTH_CAL.reg then s.store off (capTo HTH_CAL.CAL_PERIOD_US 1000 (floorTo HTH_CAL.CAL_PERIOD_US 10 v))
  else if off = HTH_SCRUB.reg then
    s.storeTell off (zeroTo HTH_SCRUB.BURST_MAX 1 (zeroTo HTH_SCRUB.SRAM_PASS_S 1 (zeroTo HTH_SCRUB.DRAM_PASS_H 1 v)))
  else if off = HTH_RDM.reg then
    let v1 := zeroTo HTH_RDM.WINDOW_MS 1 (zeroTo HTH_RDM.TH 1 v)
    s.storeTell off (if HTH_RDM.DIST.get v1 = 1 then v1 else HTH_RDM.DIST.put v1 2)
  else if off = HTH_RDM_MAX.reg then s.storeTell off v
  else if off = HTH_THERM.reg then
    s.store off (if HTH_THERM.CRIT_C.get v ≤ HTH_THERM.THROTTLE_C.get v then s.keep HTH_THERM.CRIT_C v else v)
  else if off = HTH_THERM2.reg then s.store off (zeroTo HTH_THERM2.SAMPLE_MS 1 v)
  else if off = HTH_NVM.reg then s.store off (zeroTo HTH_NVM.ERASE_PER_H 1 v)
  else if off = HTH_TELE.reg then s.store off (zeroTo HTH_TELE.PERIOD_MS 1 v)
  else s.store off v

/-- The codes of R438. -/
def arbCode (n : Nat) : Bool := decide (n ≤ 3 ∨ (8 ≤ n ∧ n ≤ 0x0C) ∨ (0x10 ≤ n ∧ n ≤ 0x1F) ∨ (0x20 ≤ n ∧ n ≤ 0x37))

/-- A write to the DBG block (R437-R439). -/
def State.dbgWrite (s : State) (port : AccessPort) (off : Nat) (v : Word) : State :=
  if off = DBG_ARBSEL.reg then
    match port with
    | .config => s.raise 0x0110 1 [off, v.toNat, 0]
    | .debug =>
      if s.dbg.hold.isSome ∨ !arbCode (DBG_ARBSEL.ARB.get v) then s.raise 0x0110 1 [off, v.toNat, 1]
      else s.wr DBG_ARBSEL.ARB (DBG_ARBSEL.ARB.get v)
  else s.store off v

/-! ### A write of any register of the active Hub -/

/-- A write to the TICK block. -/
def State.tckWrite (s : State) (off : Nat) (v : Word) : State :=
  if off = TCK_CTRL.reg then tckCtrlWrite v s else if off = TCK_PERIOD.reg then tckPeriodWrite v s else s.store off v

/-- A write of one register word, _LO and _HI pairs apart (R7 and the block's own rules). -/
def regWrite (port : AccessPort) (off : Nat) (v : Word) (s : State) : State :=
  match off / 0x10000 with
  | 0x01 => s.tckWrite off v
  | 0x02 => s.rngWrite off v
  | 0x03 => s.rteWrite off v
  | 0x04 => s.sfuWrite off v
  | 0x05 => if off < 0x058000 then s.admWrite off v else s.cstWrite off v
  | 0x06 => s.pmpWrite port off v
  | 0x07 => s.cmbWrite off v
  | 0x08 => s.welWrite off v
  | 0x09 => s.welWrite off v
  | 0x0A => s.welWrite off v
  | 0x0C => s.colWrite off v
  | 0x0D => s.ctxWrite off v
  | 0x0E => s.svcWrite off v
  | 0x0F => s.rasWrite off v
  | 0x10 => s.evrWrite off v
  | 0x11 => if off = MIR_CTRL.reg then mirCtrlWrite v s else s.store off v
  | 0x12 => if off = NSE_CTRL.reg then nseCtrlWrite v s else s.store off v
  | 0x13 => s.hthWrite off v
  | 0x14 => s.dbgWrite port off v
  | _ => s.store off v

/-! ### Pairs (R10) -/

/-- Offsets of the _LO registers. -/
def loRegs : List (Nat × List (Nat × Nat)) :=
  [(0x00010C, []), (0x010018, []), (0x010100, [(8, 16)]), (0x020000, []), (0x021000, [(0x40, 16)]), (0x021008, [(0x40, 16)]),
   (0x030000, []), (0x031008, [(0x20, 16)]), (0x080060, [(0x2000, 24)]), (0x0D0008, []), (0x0D0028, []), (0x0D1000, [(0x80, 16)]),
   (0x0D1028, [(0x80, 16)]), (0x0D1030, [(0x80, 16)]), (0x0D1038, [(0x80, 16)]), (0x0D1040, [(0x80, 16)]), (0x0D1048, [(0x80, 16)]),
   (0x0E0014, []), (0x0F0020, []), (0x0F0038, []), (0x110014, []), (0x120008, [])]

/-- The register is the _LO of a pair. -/
def isLo (off : Nat) : Bool := loRegs.any fun r => covers r.1 r.2 off

/-- The register is the _HI of a pair. -/
def isHi (off : Nat) : Bool := decide (4 ≤ off) && isLo (off - 4)

/-- Both words of a pair take effect: with a rule of the pair's own, or as two register writes. -/
def pairWrite (port : AccessPort) (lo : Option Word) (off : Nat) (hi : Word) (s : State) : State :=
  let put (s : State) : State :=
    let s1 : State := match lo with | some l => regWrite port (off - 4) l s | none => s
    regWrite port off hi s1
  let same (x : State) : Bool := x.word off == s.word off && x.word (off - 4) == s.word (off - 4)
  if off = RNG_EQ_BASE_HI.reg then
    if s.rd RNG_EQ_CTRL.ENABLE = 1 ∧ !same (put s) then s.raise 0x0304 1 [off, hi.toNat] else put s
  else if 0x021000 ≤ off ∧ off < 0x021400 then
    let c := ctxAt off 0x021000 0x40
    if s.ctxOn c ∧ !same (put s) then s.raise 0x0304 1 [off, hi.toNat] c else put s
  else if 0x0D1000 ≤ off ∧ off < 0x0D1800 ∧ off % 0x80 = 4 then
    let c := ctxAt off 0x0D1000 0x80
    let m := (put s).rd2 (CTX_MEMBERS_LO.CHIPS c) (CTX_MEMBERS_HI.CHIPS c)
    if s.ctxOn c ∨ (m ≠ 0 ∧ !m.testBit s.chip) then s.raise 0x0B01 1 [off, hi.toNat] c else put s
  else if off = SVC_ABSENT_HI.reg then
    svcAbsentWrite true hi (match lo with | some l => svcAbsentWrite false l s | none => s)
  else put s

/-- The write of a _LO register that a port holds for its _HI. -/
def State.heldLo (s : State) (port : AccessPort) (off : Nat) : Option Word :=
  (s.act.loHeld.find? fun x => x.1 == port && x.2.1 == off).map (·.2.2)

/-- Forget it. -/
def State.dropLo (s : State) (port : AccessPort) (off : Nat) : State :=
  { s with act := { s.act with loHeld := s.act.loHeld.filter fun x => !(x.1 == port && x.2.1 == off) } }

/-- A write through a port: a _LO write is held until the _HI of its pair is written (R10). -/
def accessWrite (port : AccessPort) (off : Nat) (v : Word) (s : State) : State :=
  if isLo off then
    let s1 : State := s.dropLo port off
    { s1 with act := { s1.act with loHeld := s1.act.loHeld ++ [(port, off, v)] } }
  else if isHi off then pairWrite port (s.heldLo port (off - 4)) off v (s.dropLo port (off - 4))
  else regWrite port off v s

end Sys2Proof.Machine
end

