-- ==== Sys2Proof/Machine/Access.lean ====
section
/-!
DEFINITION. Register accesses: what a read returns and clears (R7, R10), the Config Port (R340, R341, R346, R426), and a write
of a register that has no command of its own.
-/

namespace Sys2Proof.Machine

open Sys2Proof

/-- The word offset [20:2] of an access (R340). -/
def wordOff (off : Nat) : Nat := off % 2 ^ 21 / 4 * 4

/-- An offset that decodes to a register, or lies in the capability area, which decodes in full (R426, R427). -/
def decodes (off : Nat) : Bool := decide (off < 0x1000) || (findReg off).isSome

/-- The Well whose page holds an offset. -/
def pageWell (off : Nat) : Option WellNo :=
  if h : 0x080000 ≤ off ∧ off < 0x0B0000 then some ⟨(off - 0x080000) / 0x2000, by omega⟩ else none

/-- The Well is there and its sideband answers. -/
def State.reachable (s : State) (w : WellNo) : Bool := s.build.slots.getLsbD w.val && s.wells[w].supplyOk && !s.wells[w].inReset

/-- Store a word in the window of one Hub. -/
def State.putSide (s : State) (side : Side) (off : Nat) (v : Word) : State :=
  if side = s.act.side ∨ mirOff off then s.setWord off v
  else { s with mir := { s.mir with win := sput (resetWord s.build) s.mir.win off v } }

/-- The stored word of one Hub. -/
def State.sideWord (s : State) (side : Side) (off : Nat) : Word := if side = s.act.side then s.word off else s.mirWord off

/-- The RC fields of a register take their cleared value (R7); the counters of the recorder and the Cistern lie in their units. -/
def State.clearRead (s : State) (side : Side) (off : Nat) : State :=
  if off = EVR_SUPPR_CNT.reg then { s with evr := { s.evr with suppr := 0 } }
  else if off = EVR_OVWR_CNT.reg then { s with evr := { s.evr with ovwr := 0 } }
  else if off = EVR_NV_ERR_CNT.reg then { s with evr := { s.evr with nvErr := 0 } }
  else if side = s.act.side ∧ 0x058040 ≤ off ∧ off < 0x058080 ∧ off % 0x10 = 12 then
    let n := (off - 0x058040) / 0x10 % 4
    { s with cist := { s.cist with low := s.cist.low.set n (some (s.poolFree n)) (Nat.mod_lt _ (by decide)) } }
  else
    match findReg off with
    | none => s
    | some r =>
      let cur := s.sideWord side off
      let w := r.fields.foldl (fun (w : Word) (f : FieldRow) => if f.acc == .rc then (f.fld off).put w 0 else w) cur
      if w = cur then s else s.putSide side off w

/-- The shadow that a port holds for a _HI register (R10). -/
def HubCore.shadowOf (h : HubCore) (port : AccessPort) (off : Nat) : Option Word :=
  (h.shadow.find? fun x => x.1 == port && x.2.1 == off).map (·.2.2)

/-- Drop it, or replace it. -/
def HubCore.setShadow (h : HubCore) (port : AccessPort) (off : Nat) (v : Option Word) : HubCore :=
  { h with shadow := (h.shadow.filter fun x => !(x.1 == port && x.2.1 == off)) ++
      (match v with | some w => [(port, off, w)] | none => []) }

/-- The page of a Well that is absent: a read returns 0 and clears nothing (R19). -/
def State.absentPage (s : State) (off : Nat) : Bool := match pageWell off with | some w => !s.wells[w].inService | none => false

/-- What a read does beside returning its word: the shadow of a pair, RC fields, and the recorder's next record. -/
def State.readEffect (s : State) (port : AccessPort) (side : Side) (off : Nat) : State :=
  let s1 : State :=
    if isLo off then s.modHub side fun h => h.setShadow port (off + 4) (some (s.viewOf side (off + 4)))
    else if isHi off then s.modHub side fun h => h.setShadow port off none
    else s
  let s2 : State := if s.absentPage off then s1 else s1.clearRead side off
  if off = 0x10007C ∧ s2.leadUp ∧ s2.rd EVR_RCTL.AUTOINC = 1 then win15 s2 else s2

/-- The word that a read returns: the shadow of a _HI register after a read of its _LO, the register otherwise. -/
def State.readWord (s : State) (port : AccessPort) (side : Side) (off : Nat) : Word :=
  if isHi off then ((s.hub side).shadowOf port off).getD (s.viewOf side off) else s.viewOf side off

/-! ### Config Port -/

/-- A register that the mirror Hub holds from the active one: a write through the mirror's Config Port is an error (R341). The
words of the capability area that no register holds are none (R427). -/
def heldByMirror (off : Nat) : Bool := mirrored off && (decide (0x1000 ≤ off) || (findReg off).isSome)

/-- A write, through a Hub without the active role, of a register that is not mirrored: the MIR block, which both Hubs share, and
the DBG block of its own macro (R409, R437). -/
def mirrorWrite (port : AccessPort) (off : Nat) (v : Word) (s : State) : State :=
  if off / 0x10000 = 0x11 then regWrite port off v s
  else if off = DBG_STATUS.reg then
    if DBG_STATUS.DEC_ERR.get v = 1 then s.putSide s.mir.side off (DBG_STATUS.DEC_ERR.put (s.mirWord off) 0) else s
  else if off = DBG_ARBSEL.reg then
    match port with
    | .config => s.raise 0x0110 1 [off, v.toNat, 0]
    | .debug =>
      if (s.tap s.mir.side).hold.isSome ∨ !arbCode (DBG_ARBSEL.ARB.get v) then s.raise 0x0110 1 [off, v.toNat, 1]
      else s.putSide s.mir.side off (DBG_ARBSEL.ARB.put (s.mirWord off) (DBG_ARBSEL.ARB.get v))
  else s

/-- A write through the active Hub; one to a Well's page goes out on its sideband too (R346). -/
def activeWrite (port : AccessPort) (off : Nat) (v : Word) (s : State) : State :=
  match pageWell off with
  | some w => accessWrite port off v (s.emit (.sideband w off v))
  | none => accessWrite port off v s

/-- CFG_READY of a write waits for the update that carries it (R399). -/
def State.writeReady (s : State) (side : Side) (before : Word) : State :=
  if s.mch.useq = before then s.emit (.cfgReady side 0 false) else s.hold (.cfgReady side) fun s => s.emit (.cfgReady side 0 false)

/-- The register arbiter of a Hub is held by its debug port. -/
def State.regsHeld (s : State) (side : Side) : Bool := match (s.tap side).hold with | some (a, _) => a == 0 | none => false

/-- An access of this side is still outstanding (R340). -/
def State.cfgBusy (s : State) (side : Side) : Bool :=
  (s.cfgWait.any fun x => x.1 == side) || (s.mch.effects.any fun x => x.2 == .cfgReady side)

/-- The Config Port of a side takes an access. -/
def State.cfgTakes (s : State) (side : Side) : Bool := !(s.hub side).inReset && !s.regsHeld side && !s.cfgBusy side

/-- The side holds the active role. -/
def State.isActive (s : State) (side : Side) : Bool := s.active && side == s.act.side

/-- A write through a Config Port at a decoded offset. -/
def configWrite (side : Side) (off : Nat) (v : Word) (s : State) : State :=
  if s.isActive side then
    if (pageWell off).any fun w => !s.reachable w then
      -- the sideband does not answer: the access ends with SIDEBAND_TIMEOUT
      { s with cfgWait := s.cfgWait ++ [(side, true, off, v)] }
    else (activeWrite .config off v s).writeReady side s.mch.useq
  else if heldByMirror off then s.emit (.cfgReady side 0 true)
  else (mirrorWrite .config off v s).emit (.cfgReady side 0 false)

/-- A read through a Config Port at a decoded offset. -/
def configRead (side : Side) (off : Nat) (s : State) : State :=
  (s.readEffect .config side off).emit (.cfgReady side (s.readWord .config side off) false)

/-- An access of a Config Port. -/
def configAccess (side : Side) (wr : Bool) (off0 : Nat) (v : Word) (s : State) : State :=
  let off := wordOff off0
  if !decodes off then s.emit (.cfgReady side 0 true)
  else if wr then configWrite side off v s
  else configRead side off s

/-- CONFIG_ACCESS: while the port takes none, the requester holds its access (R341) and the state is unchanged. -/
def execConfigAccess (side : Side) (wr : Bool) (off : Nat) (v : Word) (s : State) : Host.Outcome State Fault Refusal :=
  .next (if s.cfgTakes side then configAccess side wr off v s else s)

/-- SIDEBAND_TIMEOUT: the access ends with CFG_ERR. -/
def sidebandTimeout (side : Side) (s : State) : State :=
  ({ s with cfgWait := s.cfgWait.filter fun x => x.1 != side } : State).emit (.cfgReady side 0 true)

/-- SIDEBAND_TIMEOUT. -/
def execSidebandTimeout (side : Side) (s : State) : Host.Outcome State Fault Refusal :=
  .next (if s.cfgWait.any fun x => x.1 == side then sidebandTimeout side s else s)

/-- REGISTER_WRITE: a write of the active Hub's window; one to an undecoded offset, or to the page of a Well that does not answer,
is not performed. -/
def execRegisterWrite (off : Nat) (v : Word) (s : State) : Host.Outcome State Fault Refusal :=
  let o := wordOff off
  .next (if s.hubUp ∧ decodes o ∧ !s.arbHeld 0 ∧ !((pageWell o).any fun w => !s.reachable w) then activeWrite .config o v s else s)

/-- SVC_ABSENT_CLEAR: a write of one half of the pair, of which the _LO word is held until the _HI word is written (R10). -/
def execSvcAbsentClear (hi : Bool) (v : Word) (s : State) : Host.Outcome State Fault Refusal :=
  .next (if s.busUp 0 then accessWrite .config (if hi then SVC_ABSENT_HI.reg else SVC_ABSENT_LO.reg) v s else s)

end Sys2Proof.Machine
end

