-- ==== Sys2Proof/Machine/Issue.lean ====
section
/-!
DEFINITION. Issue (R200, R226, R231), the tile table (R201), the takes (R287-R290), the release word (R170, R202) and Return
(R204).
-/

namespace Sys2Proof.Machine

open Sys2Proof

/-! ### ISSUE_TILE -/

/-- A queue may give a tile: it is full, or its expert's dispatch is complete and it is not empty (R200). -/
def Queue.issuable (q : Queue) (r : HomeRec) (members : List Nat) : Bool :=
  decide (128 ≤ q.entries.length) || (q.entries != [] && r.expertDone members q.expert)

/-- The queues after a tile has been taken from one: a queue that is empty while its expert's dispatch is complete is released
(R198). In rewind mode the entries taken stay until the release pointer moves (R196). -/
def takeFrom (l : List Queue) (q : Queue) (done keep : Bool) : List Queue :=
  let rest := q.entries.drop 128
  if rest = [] ∧ done then l.erase q
  else l.map fun x => if x = q then { x with entries := rest, kept := if keep then x.kept + (q.entries.length - rest.length) else x.kept } else x

/-- Free slots of the tile table. -/
def State.freeSlots (s : State) : List Nat := (List.range 2048).filter fun n => s.work.tiles.all fun t => t.slot != n

/-- Issue a host-path tile into a free slot; which one is open. Without a free slot Issue waits. -/
def State.issueHost (s : State) (c : Ctx) (st : Step) (e : Nat) : State :=
  match s.work.queues.find? fun q => q.isFor c st.seq (st.replays % 8) e with
  | none => s
  | some q =>
    let r := s.hostHome c st.seq (st.replays % 8)
    let free := s.freeSlots
    if !q.issuable r (s.memberList c) || free.isEmpty then s
    else
      let es := q.entries.take 128
      let slot := free.getD (Config.freeNat s.free % free.length) 0
      let t : Tile := { slot := slot, ctx := c, seq := st.seq, att := st.replays % 8, expert := e
                        layer := (es.head?.map (·.layer)).getD 0, bwd := st.opcode == 2, bf16 := st.payload, entries := es, released := []
                        taken := false, dead := false, issue := s.work.issued }
      ({ s with
          free := s.free + 1
          work := { s.work with
            queues := takeFrom s.work.queues q (r.expertDone (s.memberList c) e) (s.rd PMP_Q_CTRL.MODE == 1), tiles := s.work.tiles ++ [t]
            issued := s.work.issued + 1 } } : State).retryLanded

/-- A Well tile is formed from a queue: its directory entry is checked (R226), and it waits for the engine arbiter. -/
def State.formTile (s : State) (w : WellNo) (o : WellOpen) (q : Queue) (done : Bool) : State :=
  let es := q.entries.take 128
  let t : WTile := { ctx := q.ctx, seq := q.seq, att := q.att, expert := q.expert, layer := o.layer, bwd := o.opcode == 2, entries := es }
  let s1 : State := s.modWell w fun k => { k with queues := takeFrom k.queues q done false }
  match s1.dirRead w t o.bank with
  | (s2, none) => s2
  | (s2, some _) => ((s2.modWell w fun k => { k with waiting := k.waiting ++ [.expert t] }).wellGrant w).retryLanded

/-- Issue a Well tile. -/
def State.issueWell (s : State) (w : WellNo) (c : Ctx) (st : Step) (e : Nat) : State :=
  match s.wells[w].queues.find? (fun q => q.isFor c st.seq (st.replays % 8) e), s.wellOpen w c st.seq (st.replays % 8) with
  | some q, some o =>
    let r := homeRec s.wells[w].homes (mkHome s.chip w.val) c st.seq (st.replays % 8)
    if q.issuable r (s.memberList c) then s.formTile w o q (r.expertDone (s.memberList c) e) else s
  | _, _ => s

/-- ISSUE_TILE: a tile is taken from the queue of an expert at a home of this chip. -/
def issueTile (home : Nat) (c : Ctx) (e : Nat) (s : State) : State :=
  match s.liveStep c with
  | none => s
  | some st =>
    if homeChip home ≠ s.chip then s
    else if homeSlot home = 24 then s.issueHost c st e
    else match s.homeWell home with
      | some w => s.issueWell w c st e
      | none => s

/-- ISSUE_TILE. -/
def execIssueTile (home : Nat) (c : Ctx) (e : Nat) (s : State) : Host.Outcome State Fault Refusal :=
  .next (if s.busUp 0xb then issueTile home c e s else s)

/-! ### PARTIAL_TILE (R231) -/

/-- A header waits for a landing slot of a Well. -/
def State.slotWait (s : State) (w : WellNo) : Bool :=
  match s.wells[w].rx with
  | [] => false
  | x :: _ => (s.wellOpen w (ctxOf x.pkt) (seqOf x.pkt) (attOf x.pkt)).isSome && !s.landRoom w (ctxOf x.pkt)

/-- The fullest queue of a RUNNING or OVERTIME step; ties go to the lower expert ID. -/
def State.fullest (s : State) (w : WellNo) : Option Queue :=
  let l := s.wells[w].queues.filter fun q => q.entries != [] && s.isLive q.ctx q.seq q.att
  match l with
  | [] => none
  | x :: xs => some (xs.foldl (fun (b : Queue) (q : Queue) =>
      if b.entries.length < q.entries.length ∨ (q.entries.length = b.entries.length ∧ q.expert < b.expert) then q else b) x)

/-- PARTIAL_TILE: a header has waited 256 cycles while no tile runs. -/
def partialTile (w : WellNo) (s : State) : State :=
  if s.wells[w].running.isSome ∨ !s.slotWait w then s
  else match s.fullest w with
    | none => s
    | some q =>
      match s.wellOpen w q.ctx q.seq q.att with
      | none => s
      | some o =>
        let r := homeRec s.wells[w].homes (mkHome s.chip w.val) q.ctx q.seq q.att
        (s.bump (WEL_PARTIAL_CNT.COUNT w)).formTile w o q (r.expertDone (s.memberList q.ctx) q.expert)

/-- PARTIAL_TILE. -/
def execPartialTile (w : WellNo) (s : State) : Host.Outcome State Fault Refusal :=
  .next (if s.wellUp w then partialTile w s else s)

/-! ### Takes (R287-R289) -/

/-- A tile that a take may hand out. -/
def Tile.ready (t : Tile) : Bool := !t.taken && !t.dead

/-- Ready tiles of a context. -/
def State.readyTiles (s : State) (c : Ctx) : List Tile := s.work.tiles.filter fun t => t.ready && t.ctx == c

/-- No host tile of a context will be issued here before its next launch (R287): no attempt runs, or the attempt is a SAMPLE
step, or dispatch to the host path is complete and its queues are empty. -/
def State.finalTake (s : State) (c : Ctx) : Bool :=
  match s.liveStep c with
  | none => true
  | some st => st.opcode == 3 ||
      ((s.hostHome c st.seq (st.replays % 8)).complete && s.work.queues.all fun q => q.ctx != c || q.entries == [])

/-- The take word of a tile handed out. -/
def takeWord (t : Tile) (ticket : Nat) : DWord :=
  BitVec.ofNat 64 (t.slot % 2048 + 2 ^ 11 + t.att % 8 * 2 ^ 13 + t.ctx.val * 2 ^ 16 + t.entries.length % 256 * 2 ^ 20 + bitNat t.bwd * 2 ^ 28 +
    ticket % 2 ^ 32 * 2 ^ 32)

/-- The take word of an empty take. ATT and BWD describe no tile, so their values are open; so are CTX and TICKET of the
any-context address (log entry 44). -/
def emptyWord (c : Option Ctx) (final : Bool) (ticket : Nat) (open_ : Word) : DWord :=
  BitVec.ofNat 64 (bitNat final * 2 ^ 12 + bitsOf open_.toNat 0 3 * 2 ^ 13 +
    (match c with | some c => c.val | none => bitsOf open_.toNat 4 4) * 2 ^ 16 + bitsOf open_.toNat 3 1 * 2 ^ 28 + ticket % 2 ^ 32 * 2 ^ 32)

/-- The tile of R289 within a context: by affinity of the source, then by order key, then issued first. -/
def State.chooseTile (s : State) (c : Ctx) (src : Nat) : Option Tile :=
  let l := s.readyTiles c
  let key (t : Tile) : Nat := orderKey (s.rd (CTX_ORDER.OUT_MODE c)) (s.rd (CTX_ORDER.IN_MODE c)) (s.rd (CTX_ORDER.OT c)) (s.rd (CTX_ORDER.OE c))
    ((t.entries.head?.map (·.token)).getD 0) t.expert
  let last := (s.work.takeLast.find? fun x => x.1 == src && x.2.1 == c).map (·.2.2)
  let near := l.filter fun t => some t.expert == last
  let pool := if s.rd (CTX_ORDER.AFF c) = 1 ∧ near ≠ [] then near else l
  match pool with
  | [] => none
  | x :: xs => some (xs.foldl (fun (b : Tile) (t : Tile) =>
      if key t < key b ∨ (key t = key b ∧ t.issue < b.issue) then t else b) x)

/-- The last expert by source and context; up to 256 sources are remembered, the oldest forgotten first (DESIGN CHOICE, log
entry 45). -/
def noteLast (l : List (Nat × Ctx × Nat)) (src : Nat) (c : Ctx) (e : Nat) : List (Nat × Ctx × Nat) :=
  let l1 := (l.filter fun x => !(x.1 == src && x.2.1 == c)) ++ [(src, c, e)]
  let srcs := (l1.map (·.1)).dedup
  if 256 < srcs.length then l1.filter fun x => x.1 != (srcs.headD 0) else l1

/-- Hand a tile out on a slice (R288, R293). -/
def State.handOut (s : State) (sl src : Nat) (t : Tile) : State :=
  let n := s.work.tickets[t.ctx]
  let s1 : State := { s with
    work := { s.work with
      tiles := s.work.tiles.map fun x => if x.slot = t.slot then { x with taken := true } else x
      tickets := s.work.tickets.set t.ctx (n + 1)
      takeLast := noteLast s.work.takeLast src t.ctx t.expert }
    host := { s.host with slices := s.host.slices.modify sl fun x => { x with takes := x.takes ++ [t.slot] } } }
  let s2 : State := { s1 with work := { s1.work with takeDef := dropIdle s1.work.takeDef fun c => s1.readyTiles c != [] } }
  ((s2.bump (CTX_ACC_HTILES.COUNT t.ctx)).emit (.slaveRead (some sl) (toBytes 8 (takeWord t n).toNat) 0)).emit (.credit sl 1)

/-- Answer an empty take. -/
def State.emptyTake (s : State) (sl : Nat) (c : Option Ctx) : State :=
  let x := Config.freeWord s.free
  let y := (Config.freeWord (s.free + 1)).toNat
  let w := match c with
    | some d => emptyWord c (s.finalTake d) s.work.tickets[d] x
    | none => emptyWord none false y x
  (((({ s with free := s.free + 2 } : State).bump CTX_TAKE_EMPTY_CNT.COUNT).emit (.slaveRead (some sl) (toBytes 8 w.toNat) 0))).emit (.credit sl 1)

/-- A fetch-add to a context's take address. -/
def take (sl src : Nat) (c : Ctx) (s : State) : State :=
  match s.chooseTile c src with
  | some t => s.handOut sl src t
  | none => s.emptyTake sl (some c)

/-- A slice's slave half takes requests (R351). -/
def State.sliceUp (s : State) (sl : Nat) : Bool := s.slaveUp && decide (sl < s.build.hpSlices) && !s.sliceHeld sl

/-- TAKE. -/
def execTake (sl src : Nat) (c : Ctx) (s : State) : Host.Outcome State Fault Refusal :=
  .next (if s.sliceUp sl then take sl src c s else s)

/-- A fetch-add to the any-context take address: the context is chosen under R282 with a deficit in copies. -/
def anyContextTake (sl src : Nat) (s : State) : State :=
  match chooseCtx s.work.takeDef (fun c => s.readyTiles c != []) s.work.takeCtx (fun c => s.rd (CTX_SHARE.SHARE c)) with
  | none => s.emptyTake sl none
  | some (c, d) =>
    match s.chooseTile c src with
    | none => s.emptyTake sl none
    | some t =>
      ({ s with work := { s.work with takeCtx := some c, takeDef := chargeDef d c t.entries.length } } : State).handOut sl src t

/-- ANY_CONTEXT_TAKE. -/
def execAnyContextTake (sl src : Nat) (s : State) : Host.Outcome State Fault Refusal :=
  .next (if s.sliceUp sl then anyContextTake sl src s else s)

/-! ### Return of host-path copies, and the release word -/

/-- The RETURN of a host-path copy (R204): the row the host wrote, in the step's format. -/
def State.hostReturn (s : State) (t : Tile) (x : QEntry) : State :=
  let els := bfRow (s.bufRead x.handle (2 * s.hid t.ctx))
  let fast := x.fast && !t.bwd
  let r := if fast then rowToBf (els.map fun n => mul32 x.weight (bfTo32 n)) else (els, 0)
  let p : Pkt :=
    { w0 := mkW0 (if t.bwd then 4 else 3) t.ctx t.att t.bf16 s.chip x.src.val t.seq
      w1 := BitVec.ofNat 64 (x.token % 2 ^ 22 + x.rank % 64 * 2 ^ 22 + bitNat x.fast * 2 ^ 29 + (if t.bwd then x.weight.toNat else 0) * 2 ^ 32)
      w2 := BitVec.ofNat 64 (2 ^ x.rank), w3 := BitVec.ofNat 64 (if fast ∨ t.bwd then one32 else x.weight).toNat
      body := encodePayload t.bf16 r.1 }
  (s.satHub r.2).send p [x.handle]

/-- Position of a handle among the copies of a taken tile that are not yet released. -/
def Tile.holds (t : Tile) (h : Nat) : Option Nat :=
  if t.taken then
    (List.range t.entries.length).find? fun j => !t.released.contains j && (t.entries[j]?.map (·.handle)) == some h
  else none

/-- The release word is discarded: a reserved bit is set, it names the other Hub, or no buffer of its pool (R170). -/
def State.badRelease (s : State) (w : Word) : Bool :=
  bitsOf w.toNat 19 13 != 0 || bitsOf w.toNat 18 1 != bitNat (s.act.side == .b) ||
    decide (s.poolCount (handlePool w.toNat) ≤ handleIndex w.toNat)

/-- A copy of a taken tile is released: its output is returned, or for an aborted attempt its buffer is freed; the slot frees with
its last handle (R202, R204, R215). -/
def State.releaseCopy (s : State) (t : Tile) (j : Nat) (h : Nat) : State :=
  let t' : Tile := { t with released := t.released ++ [j] }
  let s1 : State := { s with
    work := { s.work with
      tiles := if t'.released.length = t'.entries.length then s.work.tiles.filter fun x => x.slot != t.slot
        else s.work.tiles.map fun x => if x.slot = t.slot then t' else x }
    host := { s.host with slices := s.host.slices.map fun (x : Slice) => { x with takes := x.takes.filter fun n => n != t.slot } } }
  let whole := t'.released.length == t'.entries.length && s1.isLive t.ctx t.seq t.att
  let s2 : State := if whole then s1.progress t.ctx else s1
  if t.dead then s2.release h
  else match t.entries[j]? with
    | some x => s2.hostReturn t x
    | none => s2

/-- RELEASE_WORD: the host releases a reference (R169-R171). -/
def releaseWord (w : Word) (s : State) : State :=
  let h := w.toNat
  if s.badRelease w then (s.bump CST_BADREL_CNT.COUNT).raise 0x0604 2 [h]
  else
    let s1 : State := s.release h
    match s1.work.tiles.find? fun t => (t.holds h).isSome with
    | none => s1
    | some t =>
      match t.holds h with
      | some j => s1.releaseCopy t j h
      | none => s1

/-- RELEASE_WORD. -/
def execReleaseWord (w : Word) (s : State) : Host.Outcome State Fault Refusal :=
  .next (if s.slaveUp then releaseWord w s else s)

/-! ### The tile table as the host sees it (R201) -/

/-- The 1,088 bytes of a slot; 0 where it holds no tile. -/
def State.slotBytes (s : State) (n : Nat) : List Byte :=
  match s.work.tiles.find? fun t => t.slot == n with
  | none => List.replicate 1088 0
  | some t =>
    padTo 1088 (padTo 64 (toBytes 4 (t.expert % 2 ^ 14 + t.ctx.val * 2 ^ 14 + bitNat t.bwd * 2 ^ 18 + t.entries.length % 256 * 2 ^ 19 +
        t.att % 8 * 2 ^ 27) ++ toBytes 4 t.seq.toNat ++ toBytes 4 (t.layer % 1024)) ++
      (t.entries.map fun x => toBytes 4 x.handle ++ toBytes 4 x.weight.toNat).flatten)

/-- The host may write the WEIGHT of copy `j` of a slot: the slot holds a backward tile with such a copy (R335). -/
def State.weightSlot (s : State) (n j : Nat) : Option Tile :=
  s.work.tiles.find? fun t => t.slot == n && t.bwd && decide (j < t.entries.length)

/-- The host writes DW into the WEIGHT field of a copy (R202); any other slot is a decode error (R335). -/
def tileWeightWrite (n j : Nat) (dw : Word) (s : State) : State :=
  match s.weightSlot n j with
  | none => s.emit (.slaveWrite none 2)
  | some t =>
    ({ s with work := { s.work with tiles := s.work.tiles.map fun x =>
        if x.slot = t.slot then { x with entries := x.entries.modify j fun y => { y with weight := dw } } else x } } : State).emit
      (.slaveWrite none 0)

/-- TILE_WEIGHT_WRITE. -/
def execTileWeightWrite (n j : Nat) (dw : Word) (s : State) : Host.Outcome State Fault Refusal :=
  .next (if s.slaveUp then tileWeightWrite n j dw s else s)

/-! ### Slices (R332, R350, R352) -/

/-- A take whose response had not moved is withdrawn: the tile is ready again, and event 0x0103 is written. The host never held a
tile of an aborted attempt taken so: its references are released. -/
def State.withdrawTake (s : State) (sl slot : Nat) : State :=
  let s1 : State := s.raise 0x0103 1 [sl, slot]
  match s1.work.tiles.find? fun t => t.slot == slot with
  | none => s1
  | some t =>
    let hs := t.entries.map (·.handle)
    if t.dead then
      let s2 : State := s1.releaseAll (hs ++ hs)
      { s2 with work := { s2.work with tiles := s2.work.tiles.filter fun x => x.slot != slot } }
    else { s1 with work := { s1.work with tiles := s1.work.tiles.map fun x => if x.slot = slot then { x with taken := false } else x } }

/-- SLICE_RESET: the slice's requests in progress are discarded and its credits taken back. How many of its latest takes had not
yet been answered is open: a free choice (log entry 46). -/
def sliceReset (sl : Nat) (s : State) : State :=
  match s.host.slices[sl]? with
  | none => s
  | some x =>
    let k := Config.freeNat s.free % (x.takes.length + 1)
    let gone := x.takes.drop (x.takes.length - k)
    let s1 : State := { s with
      free := s.free + 1, host := { s.host with slices := s.host.slices.set sl { inReset := true, credits := 0, takes := [] } } }
    if s1.hubUp then gone.foldl (fun (s : State) (n : Nat) => s.withdrawTake sl n) s1 else s1

/-- SLICE_RESET. -/
def execSliceReset (sl : Nat) (s : State) : Host.Outcome State Fault Refusal :=
  .next (if sl < s.build.hpSlices then sliceReset sl s else s)

/-- HP_RST_RELEASE: the slice runs again with its initial credits, and waiting master requests may issue on it. -/
def hpRstRelease (sl : Nat) (s : State) : State :=
  match s.host.slices[sl]? with
  | none => s
  | some x =>
    if x.inReset then
      (({ s with host := { s.host with slices := s.host.slices.set sl { x with inReset := false, credits := s.build.crdInit } } } : State).emit
        (.credit sl s.build.crdInit)).issueAll
    else s

/-- HP_RST_RELEASE. -/
def execHpRstRelease (sl : Nat) (s : State) : Host.Outcome State Fault Refusal :=
  .next (if sl < s.build.hpSlices then hpRstRelease sl s else s)

/-! ### DISPATCH and EOD, with the reports they bring -/

/-- What is done once a packet has reached a home of this chip: queues that are empty while their expert's dispatch is complete are
released (R198), the Wells take what they can and report, and headers that waited for a queue go on. -/
def State.homesMoved (s : State) : State :=
  let gone (r : HomeRec) (c : Ctx) (q : Queue) : Bool := q.entries == [] && r.expertDone (s.memberList c) q.expert
  let s1 : State := { s with work := { s.work with
    queues := s.work.queues.filter fun q => !gone (homeRec s.work.homes (hostPath s.chip) q.ctx q.seq q.att) q.ctx q } }
  let s2 : State := s1.serviceWells.foldl (fun (s : State) (w : WellNo) => s.modWell w fun k => { k with
    queues := k.queues.filter fun q => !gone (homeRec k.homes (mkHome s.chip w.val) q.ctx q.seq q.att) q.ctx q }) s1
  let s3 : State := s2.serviceWells.foldl State.wellPump s2
  let s4 : State := if s3.work.queues.length < s.work.queues.length then s3.retryLanded else s3
  s4.serviceWells.foldl State.wellReports s4

/-- DISPATCH. -/
def execDispatch (p : Pkt) (s : State) : Host.Outcome State Fault Refusal :=
  .next (if s.busUp 0xa ∧ (ptypeOf p = 1 ∨ ptypeOf p = 2) then (dispatch p s).homesMoved else s)

/-- EOD: the Wells report what it completes. -/
def execEod (p : Pkt) (s : State) : Host.Outcome State Fault Refusal :=
  .next (if s.busUp 0xa ∧ ptypeOf p = 5 then (eod p s).homesMoved else s)

end Sys2Proof.Machine
end

