-- ==== Sys2Proof/Machine/HubWell.lean ====
section
/-!
DEFINITION. What a Hub and its Wells exchange beside copies: logits (R109), ledger bytes (R213, R238), reports (R238), and the
violations that freeze a Well link (R394).
-/

namespace Sys2Proof.Machine

open Sys2Proof

/-! ### SCORE_LOGITS -/

/-- The token of a SCORE_LOGITS packet has been multicast to the Well in the current attempt. -/
def State.logitsDue (s : State) (w : WellNo) (p : Pkt) (st : Step) : Option (Token × LayerE) :=
  let c := ctxOf p
  let l := s.layer c st.bank st.layer
  let t := bitsOf p.w1.toNat 0 22 - st.tokBase
  match s.tok c t with
  | some tk => if st.tokBase ≤ bitsOf p.w1.toNat 0 22 ∧ tk.mcast ∧ st.opcode = 1 ∧ l.loc = 2 ∧ l.rowWells.contains w then some (tk, l) else none
  | none => none

/-- SCORE_LOGITS: a Well's logits of a token reach the Gate (R109, R394). -/
def scoreLogits (w : WellNo) (p : Pkt) (s : State) : State :=
  let s0 : State := s.takeLanded p
  if s0.wellFrozen w then s0
  else match s0.current p with
    | none => s0.stalePkt p
    | some st =>
      match s0.logitsDue w p st with
      | none => s0.freezeWell w 0x33
      | some (tk, l) =>
        match l.rowsOf w with
        | none => s0.freezeWell w 0x33
        | some (i, n, m) =>
          let zs := wordRow m (padTo (4 * m) p.body)
          let new := (zs.zip (List.range m)).map fun x => (i + x.2 * n, x.1)
          ((s0.modTok (ctxOf p) tk.t fun y => { y with
            logits := (y.logits.filter fun x => !(new.any fun z => z.1 == x.1)) ++ new }).front).progress (ctxOf p)

/-- SCORE_LOGITS. -/
def execScoreLogits (w : WellNo) (p : Pkt) (s : State) : Host.Outcome State Fault Refusal :=
  .next (if s.wellUp w ∧ !s.arbHeld 8 ∧ ptypeOf p = 0x33 then scoreLogits w p s else s)

/-! ### The ledger (R212, R213, R238) -/

/-- The bytes of a LEDGER_WRITE reach the stack. The write is one of those that local finish waits for (R50). -/
def State.ledgerStore (s : State) (w : WellNo) (p : Pkt) : State :=
  let n := bitsOf p.w2.toNat 0 24
  (s.writeDram w (ctxOf p) (bitsOf p.w1.toNat 0 37) (padTo n p.body)).modAtt (ctxOf p) fun a => { a with ledgerPend := a.ledgerPend - 1 }

/-- The Well answers a LEDGER_READ with the bytes; an uncorrectable word aborts the step and makes the entry invalid (R390). -/
def State.ledgerFetch (s : State) (w : WellNo) (p : Pkt) : State :=
  let c := ctxOf p
  let a := bitsOf p.w1.toNat 0 37
  let n := bitsOf p.w2.toNat 0 24
  match s.touch w a n c with
  | (s1, false) => s1
  | (s1, true) =>
    (s1.accDram w c a n 0).landHere
      { w0 := mkW0 0x36 c (attOf p) false s.chip s.chip (seqOf p), w1 := BitVec.ofNat 64 a, w2 := BitVec.ofNat 64 n, w3 := 0
        body := s1.stackRead w a n }

/-- A copy of a BACKWARD token from its rank slot (R211, R213). BUCKET is the local token index. -/
def slotCopy (t rank : Nat) (b : List Byte) : Copy :=
  let w0 := ofBytes (slice b 0 4)
  { expert := bitsOf w0 0 14, shared := w0.testBit 14, rank := rank, weight := BitVec.ofNat 32 (ofBytes (slice b 8 4))
    gscore := BitVec.ofNat 32 (ofBytes (slice b 12 4))
    fate := if w0.testBit 15 then .dropped else if w0.testBit 16 then .spilled else .admitted
    dest := ofBytes (slice b 4 2), bucket := t }

/-- The token of a ledger record. -/
def recordToken (b : List Byte) (y : Token) : Token :=
  let n := bitsOf (ofBytes (slice b 12 4)) 22 6
  { y with
    selected := true, gmax := BitVec.ofNat 32 (ofBytes (slice b 0 4)), gsum := BitVec.ofNat 32 (ofBytes (slice b 4 4))
    rfact := BitVec.ofNat 32 (ofBytes (slice b 8 4))
    copies := (List.range n).map fun r => slotCopy y.t r (slice b (16 + 16 * r) 16) }

/-- LEDGER_DATA: the record of a BACKWARD token; data that was not asked for freezes the Well link (R213, R394). -/
def ledgerData (w : WellNo) (p : Pkt) (s : State) : State :=
  let c := ctxOf p
  let s0 : State := s.takeLanded p
  if s0.wellFrozen w then s0
  else match s0.current p with
    | none => s0.stalePkt p
    | some _ =>
      let a := bitsOf p.w1.toNat 0 37
      let n := bitsOf p.w2.toNat 0 24
      match (s0.work.att[c]).bind fun x => x.ledWait.find? fun y => y.1 == w.val && y.2.1 == a && y.2.2.1 == n with
      | none => s0.freezeWell w 0x36
      | some y =>
        ((s0.modAtt c fun x => { x with ledWait := x.ledWait.erase y }).modTok c y.2.2.2 (recordToken (padTo n p.body))).progress c

/-- LEDGER_DATA. -/
def execLedgerData (w : WellNo) (p : Pkt) (s : State) : Host.Outcome State Fault Refusal :=
  .next (if s.wellUp w ∧ ptypeOf p = 0x36 then ledgerData w p s else s)

/-! ### WELL_REPORT (R238) -/

/-- WELL_REPORT: a completed tile is a progress event, a local finish counts for R50, and an activation-log entry that was not
written makes its ledger entry invalid (R233). -/
def wellReport (w : WellNo) (p : Pkt) (s : State) : State :=
  let c := ctxOf p
  let s0 : State := s.takeLanded p
  if s0.wellFrozen w then s0
  else match s0.current p with
    | none => s0.stalePkt p
    | some st =>
      match bitsOf p.w1.toNat 0 4 with
      | 0 => s0.progress c
      | 2 => s0.modAtt c fun a => { a with wellDone := if a.wellDone.contains w.val then a.wellDone else a.wellDone ++ [w.val] }
      | 3 => if bitsOf p.w2.toNat 0 16 = 0x0904 then s0.voidLedger c fun e => e.seq == st.seq else s0
      | _ => s0

/-- WELL_REPORT. -/
def execWellReport (w : WellNo) (p : Pkt) (s : State) : Host.Outcome State Fault Refusal :=
  .next (if s.wellUp w ∧ ptypeOf p = 0x37 then wellReport w p s else s)

end Sys2Proof.Machine
end

