-- ==== Sys2Proof/Machine/Housekeep.lean ====
section
/-!
DEFINITION. Housekeeping collectives (R273, R295, R377).
-/

namespace Sys2Proof.Machine

open Sys2Proof

/-- The chips of the domain as this chip's routes show them: the own chip and every chip it has a route to. Absent chips take
no part. -/
def State.hkMembers (s : State) : List Nat :=
  (List.range 64).filter fun d => (decide (d = s.chip) || s.rd (PMP_ROUTE.PORTS d) != 0) && !s.absent.testBit d

/-- The housekeeping leader: the lowest-numbered chip of the domain that is not absent. -/
def State.hkLeader (s : State) : Option Nat := s.hkMembers.head?

/-- The record of KIND 1 (R295): 48 bytes for each context. -/
def State.hkRecord (s : State) : List Byte :=
  ((List.range 16).map fun c =>
    toBytes 8 (s.rd2 (CTX_ACC_CYC_LO.VAL c) (CTX_ACC_CYC_HI.VAL c)) ++
    toBytes 8 (s.rd2 (CTX_ACC_LINKB_LO.VAL c) (CTX_ACC_LINKB_HI.VAL c)) ++
    toBytes 8 (s.rd2 (CTX_ACC_DRAMB_LO.VAL c) (CTX_ACC_DRAMB_HI.VAL c)) ++
    toBytes 8 (s.rd2 (CTX_ACC_HOSTB_LO.VAL c) (CTX_ACC_HOSTB_HI.VAL c)) ++
    toBytes 8 (s.rd2 (CTX_ACC_UJ_LO.VAL c) (CTX_ACC_UJ_HI.VAL c)) ++
    toBytes 4 (s.rd (CTX_ACC_STEPS.COUNT c)) ++ toBytes 4 (s.rd (CTX_ACC_HTILES.COUNT c))).flatten

/-- Send a housekeeping record to the leader (R267). -/
def State.hkSend (s : State) (kind tick : Nat) (bs : List Byte) : State :=
  match s.hkLeader with
  | none => s
  | some d =>
    s.send { w0 := mkW0 0x16 0 0 false s.chip d 0, w1 := BitVec.ofNat 64 (kind % 256 + bs.length % 2048 * 256)
             w2 := BitVec.ofNat 64 (tick % 2 ^ 48), w3 := 0, body := bs }

/-! ### Closing -/

/-- The members whose record is missing. -/
def State.hkMissing (s : State) (k : HkOpen) : List Nat := s.hkMembers.filter fun d => k.recs.all fun r => r.1.val != d

/-- Lateness in 100 MHz cycles of an instant after the starting tick. -/
def HkOpen.late (k : HkOpen) (t : Nat) : Nat := min (2 ^ 24 - 1) ((t - k.startAt) / 16)

/-- `COL_HK_SLOWEST`: a missing member (which of several, and its lateness, the spec does not state: free values), else the
one whose record arrived last. -/
def State.hkSlowest (s : State) (k : HkOpen) : State :=
  match s.hkMissing k with
  | [] => match k.recs.getLast? with
    | none => s
    | some (d, t, _) => s.setWord COL_HK_SLOWEST.reg (BitVec.ofNat 32 (d.val + 64 + k.late t * 256))
  | l =>
    ({ s with free := s.free + 2 } : State).setWord COL_HK_SLOWEST.reg
      (BitVec.ofNat 32 (l.getD (Config.freeNat s.free % l.length) 0 + 64 + 128 + Config.freeNat (s.free + 1) % 2 ^ 24 * 256))

/-- The sum of one field of the reported records; a sum that does not fit is a free value. -/
def State.hkSum (s : State) (k : HkOpen) (i off n : Nat) : List Byte :=
  let t := k.recs.foldl (fun (a : Nat) (r : Chip × Nat × List Byte) => a + ofBytes (slice r.2.2 off n)) 0
  toBytes n (if t < 256 ^ n then t else Config.freeNat (s.free + i))

/-- The roll-up (R295): the entries first, the header last. -/
def State.hkRollup (s : State) (k : HkOpen) : State :=
  let a := s.rd2 CTX_ROLL_LO.ADDR CTX_ROLL_HI.ADDR * 64
  if a = 0 then s
  else
    let fields := ((List.range 16).map fun c =>
      [(0, 8), (8, 8), (16, 8), (24, 8), (32, 8), (40, 4), (44, 4)].map fun f => (48 * c + f.1, f.2)).flatten
    let bs := ((fields.zip (List.range fields.length)).map fun x => s.hkSum k x.2 x.1.1 x.1.2).flatten
    let s1 : State := ({ s with free := s.free + fields.length } : State).hostWrite .rollup (a + 64) bs
    s1.hostWrite .rollup a (padTo 64 (toBytes 6 k.tick ++ toBytes 2 0 ++
      toBytes 8 (maskOf (k.recs.map fun r => r.1.val)) ++ toBytes 8 (maskOf (s.hkMissing k))))

/-- The leader closes a collective. -/
def State.hkEnd (s : State) (k : HkOpen) : State :=
  let s1 : State := (s.hkMissing k).foldl (fun (s : State) (d : Nat) =>
    (s.bump (COL_HK_MISS.COUNT d)).raise 0x0A05 1 [d, k.tick % 2 ^ 32]) s
  let s2 : State := (s1.hkSlowest k).hkRollup k
  { s2 with hk := { s2.hk with opened := s2.hk.opened.filter fun x => x.tick != k.tick, closed := max s2.hk.closed k.tick } }

/-- HK_CLOSE: each open collective of which every record is in, or whose WAIT ticks have passed. -/
def hkClose (s : State) : State :=
  (s.hk.opened.filter fun k => decide (s.hkMissing k = [] ∨ k.tick + s.rd COL_HK_CFG.WAIT ≤ s.tickNow)).foldl State.hkEnd s

/-- HK_CLOSE. -/
def execHkClose (s : State) : Host.Outcome State Fault Refusal := .next (if s.hubUp then hkClose s else s)

/-! ### Starting and arriving -/

/-- HK_START: at a tick whose number is a multiple of PERIOD the record is sent; the leader opens the collective, or takes the instant of
the tick for one that an early record has opened. -/
def hkStart (s : State) : State :=
  let t := s.tickNow
  if s.hkLeader = some s.chip then
    let at_ := s.tick.lastFire
    let opened := if s.hk.opened.any fun k => k.tick == t then
        s.hk.opened.map fun k => if k.tick = t then { k with startAt := at_ } else k
      else s.hk.opened ++ [{ tick := t, startAt := at_, recs := [] }]
    ({ s with hk := { s.hk with opened := opened } } : State).hkSend 1 t s.hkRecord
  else s.hkSend 1 t s.hkRecord

/-- HK_START. -/
def execHkStart (s : State) : Host.Outcome State Fault Refusal :=
  .next (if s.hubUp ∧ s.rd COL_HK_CFG.ENABLE = 1 ∧ 0 < s.tickNow ∧ s.tickNow % s.rd COL_HK_CFG.PERIOD = 0 then hkStart s else s)

/-- A record is stored in the open collective of its tick. -/
def HkOpen.store (k : HkOpen) (d : Chip) (now : Nat) (bs : List Byte) : HkOpen :=
  { k with recs := (k.recs.filter fun x => x.1 != d) ++ [(d, now, bs)] }

/-- HK_DATA: the leader stores a record of an open collective, or of one that it has yet to start; one that arrives after the close is
discarded and counted. Records of KIND 2 are kept by chip. -/
def hkData (p : Pkt) (s : State) : State :=
  let s1 : State := s.takeLanded p
  let kind := bitsOf p.w1.toNat 0 8
  let bs := slice p.body 0 (min 1024 (bitsOf p.w1.toNat 8 11))
  let t := bitsOf p.w2.toNat 0 48
  if s.hkLeader ≠ some s.chip then s1.bump COL_STALE_CNT.COUNT
  else if kind = 2 then { s1 with hk := { s1.hk with tele := (s1.hk.tele.filter fun x => x.1 != srcOf p) ++ [(srcOf p, bs)] } }
  else if kind ≠ 1 then s1.bump COL_STALE_CNT.COUNT
  else if s.hk.opened.any fun k => k.tick == t then
    { s1 with hk := { s1.hk with opened := s1.hk.opened.map fun k => if k.tick = t then k.store (srcOf p) s.now bs else k } }
  else if s.hk.closed < t ∧ s.tickNow ≤ t then
    let k : HkOpen := { tick := t, startAt := s.now, recs := [] }
    { s1 with hk := { s1.hk with opened := s1.hk.opened ++ [k.store (srcOf p) s.now bs] } }
  else s1.bump COL_STALE_CNT.COUNT

/-- HK_DATA. -/
def execHkData (p : Pkt) (s : State) : Host.Outcome State Fault Refusal :=
  .next (if s.busUp 0xa ∧ ptypeOf p = 0x16 ∧ s.landed.any (fun l => l.pkt == p) then s.checked p (hkData p) else s)

end Sys2Proof.Machine
end

