-- ==== Sys2Proof/Machine/Patrol.lean ====
section
/-!
DEFINITION. Patrol scrub (R369, R370), stack temperature and caps (R371), telemetry (R377).
-/

namespace Sys2Proof.Machine

open Sys2Proof

/-! ### Scrub -/

/-- An uncorrectable word of a stack found by the scrub: counted, event 0x0D30, and an entry that holds it invalid (R390). -/
def State.scrubBad (s : State) (w : WellNo) (x : Nat) : State :=
  (((s.bump HTH_SCRUB_UNC_CNT.COUNT).uncor w.val 0 x (s.misread w x)).raiseFrom w.val 0 0x0D30 2 [0, w.val] none 0 x).voidAt w x

/-- A word the scrub corrects is counted and written back. -/
def State.scrubGood (s : State) (w : WellNo) (x : Nat) : State :=
  ((s.bump HTH_SCRUB_COR_CNT.COUNT).correctedWord w.val).stackWrite w x (toBytes 8 (deliverWord (s.stackWord w x) (x / 8)).toNat)

/-- The energy of a Well's window with a scrub read of 64 bytes and its activate (R243). -/
def State.scrubCharge (s : State) (w : WellNo) : Nat :=
  s.wells[w].wellFJ + 64 * s.rd (WEL_COEF_RD.FJ w) + 1000 * s.rd (WEL_COEF_ACT.PJ w)

/-- A scrub burst is read (R369); one in which a word is corrected is written back, while its row is open. `found` gives the words of the burst as they are read where they differ from what was stored last:
address and 80 bits. -/
def State.scrubBurst (s : State) (w : WellNo) (addr : Nat) (found : List (Nat × BitVec 80)) : State :=
  let a := addr / 64 * 64
  let mine := (found.map fun x => (x.1 / 8 * 8, x.2)).filter fun x => decide (a ≤ x.1 ∧ x.1 < a + 64)
  let s0 : State := mine.foldl (fun (s : State) (x : Nat × BitVec 80) => s.stackSet w x.1 x.2)
    (s.modWell w fun k => { k with
      wellFJ := s.scrubCharge w
      rows := if s.rdmOf w HTH_RDM.EN = 0 then k.rows else countActivate k.rows (s.build.pagePlace (a / 1024)) })
  let fixed := wordsThat Verdict.fixed s0.wells[w].stack zeroByte s0.wells[w].flips a 64
  let bad := s0.badWords w a 64
  let s1 : State := if fixed = [] then s0 else s0.modWell w fun k => { k with wellFJ := k.wellFJ + 64 * s.rd (WEL_COEF_WR.FJ w) }
  bad.foldl (fun (s : State) (x : Nat) => s.scrubBad w x) (fixed.foldl (fun (s : State) (x : Nat) => s.scrubGood w x) s1)

/-- A corrected word of table or router SRAM is written back (R370). -/
def State.writeBack (s : State) (u : WordRead) : State :=
  let bs := toBytes 8 (deliverWord u.word (wordIndex u)).toNat
  match u.mem with
  | .table => s.modHub (partSide u.part) fun h => h.putTable (u.addr / 8 * 8) bs
  | .router => s.modHub (partSide u.part) fun h => h.putRouter (u.addr / 8 * 8) bs
  | _ => s

/-- An uncorrectable word of an SRAM found outside a step (R370, R384, R386, R391): a table or router line is fetched from the other Hub, an
engine is fenced, a control core is a Hub fault. -/
def State.sramLost (s : State) (u : WordRead) : State :=
  match u.mem with
  | .table => if u.part < 24 then s else s.lineBad (partSide u.part) 2 u.addr
  | .router => if u.part < 24 then s else s.lineBad (partSide u.part) 1 u.addr
  | .engine n => if n < partEngines u.part ∧ (u.part < 24 ∨ u.part = s.hubPart) then s.fence u.part n false none else s
  | .core => if u.part < 24 then s else s.hubFault (partSide u.part) 4 11 false
  | _ => s

/-- SRAM_SCRUB: a word of an SRAM of a part is read (R370): a corrected one is counted and written back; an uncorrectable one is counted,
with event 0x0D30. -/
def sramScrub (u : WordRead) (s : State) : State :=
  let s1 : State := s.plantWord u
  match wordVerdict u with
  | .clean => s1
  | .corrected _ => ((s1.bump HTH_SCRUB_COR_CNT.COUNT).wordFixed u).writeBack u
  | v =>
    (((s1.bump HTH_SCRUB_UNC_CNT.COUNT).uncor u.part (memCode u.mem) u.addr (v == .mismatch)).raiseFrom u.part 0 0x0D30 2 [1, u.part] none 0
      u.addr).sramLost u

/-- The part whose SRAM is scrubbed runs: a Well in service, or a Hub out of reset (R366). -/
def State.partRuns (s : State) (part : Nat) : Bool :=
  if h : part < 24 then s.wellUp ⟨part, h⟩ else decide (part < 26) && !(s.hub (partSide part)).inReset

/-- SRAM_SCRUB. -/
def execSramScrub (part addr : Nat) (read : MemOf × BitVec 80) (s : State) : Host.Outcome State Fault Refusal :=
  .next (if s.hubUp ∧ s.partRuns part ∧ read.1 ≠ .stack ∧ s.rd HTH_SCRUB.SRAM_EN = 1
    then sramScrub { part := part, mem := read.1, addr := addr, word := read.2, ctx := none } s else s)

/-! ### Temperature (R371) -/

/-- The cap of R371 for a temperature, in 0.25 W units. -/
def State.heathCap (s : State) (t : Int) : Nat :=
  let th : Int := s.rd HTH_THERM.THROTTLE_C
  if t < th then 0
  else if t < (s.rd HTH_THERM.CRIT_C : Int) then (max 1 ((s.rd HTH_THERM.HOT_CAP : Int) - s.rd HTH_THERM.STEP * (t - th))).toNat
  else 1

/-- A temperature as a register or event word. -/
def tempWord (n : Nat) (t : Int) : Nat := (t % 2 ^ n).toNat

/-- Set the cap of a Well over its sideband. -/
def State.setHeathCap (s : State) (w : WellNo) (cap : Nat) : State :=
  if s.rd (WEL_PCAP_HEATH.CAP w) = cap then s.wrIf (HTH_TEMP.CAP w) cap
  else ((s.wr (WEL_PCAP_HEATH.CAP w) cap).wrIf (HTH_TEMP.CAP w) cap).emit (.sideband w (WEL_PCAP_HEATH.reg w.val) (BitVec.ofNat 32 cap))

/-- The temperature used for the cap after a reading: it rises at once and falls by HYST_C or more. -/
def nextTemp (old : Option Int) (t : Int) (hyst : Nat) : Int :=
  match old with
  | none => t
  | some o => if o < t then t else if t ≤ o - hyst then t else o

/-- Event 0x0C13 when the temperature first reaches a limit. -/
def State.heatEvent (s : State) (w : WellNo) (old : Option Int) (t : Int) (limit crit : Nat) : State :=
  let was := match old with | none => false | some o => decide ((limit : Int) ≤ o)
  if (limit : Int) ≤ t ∧ !was then s.raiseHeath 0x0C13 2 [w.val, tempWord 32 t, s.heathCap t, crit] else s

/-- One in-service Well at a sample. -/
def State.tempOne (s : State) (w : WellNo) (r : Option Int) : State :=
  match r with
  | some x =>
    let old := s.wells[w].tempT
    let t := nextTemp old x (s.rd HTH_THERM2.HYST_C)
    let s1 : State := ((s.modWell w fun k => { k with tempT := some t, tempFails := 0 }).wrIf (HTH_TEMP.TEMP w) (tempWord 8 x)).wrIf
      (HTH_TEMP.VALID w) 1
    let s2 : State := s1.setHeathCap w (s1.heathCap t)
    let crit := s.rd HTH_THERM.CRIT_C
    let s3 : State := (s2.heatEvent w old t (s.rd HTH_THERM.THROTTLE_C) 0).heatEvent w old t crit 1
    if (crit : Int) ≤ t ∧ old.all (fun o => decide (o < (crit : Int))) = true then s3.rasIrq RAS_IRQ_STATUS.THERMAL
    else s3
  | none =>
    let n := s.wells[w].tempFails + 1
    let s1 : State := s.modWell w fun k => { k with tempFails := min 3 n }
    if n = 3 then ((s1.wrIf (HTH_TEMP.VALID w) 0).setHeathCap w 1).raiseHeath 0x0C14 2 [w.val] else s1

/-- TEMP_SAMPLE: the readings by Well slot; none: it could not be read. -/
def tempSample (readings : List (Option Int)) (s : State) : State :=
  s.serviceWells.foldl (fun (s : State) (w : WellNo) => s.tempOne w (readings.getD w.val none)) s

/-- TEMP_SAMPLE. -/
def execTempSample (readings : List (Option Int)) (s : State) : Host.Outcome State Fault Refusal :=
  .next (if s.hubUp ∧ s.leadUp then tempSample readings s else s)

/-! ### Telemetry (R377) -/

/-- The 64-byte record of KIND 2. -/
def teleRecord (main bkup hubA hubB : Nat) (temps : List (Option Int)) : List Byte :=
  padTo 64 (toBytes 2 main ++ toBytes 2 bkup ++ toBytes 2 hubA ++ toBytes 2 hubB ++
    (List.range 24).map fun w => match temps.getD w none with
      | some t => BitVec.ofNat 8 (tempWord 8 t)
      | none => 0x80#8)

/-- TELEMETRY_SAMPLE: supplies and temperatures into their registers, and the record to the leader. -/
def telemetrySample (main bkup hubA hubB : Nat) (temps : List (Option Int)) (s : State) : State :=
  let s1 : State := (s.wr HTH_SUPPLY_MV.MAIN main).wr HTH_SUPPLY_MV.BKUP bkup
  let s2 : State := { s1 with heathA := { s1.heathA with hubMv := hubA }, heathB := { s1.heathB with hubMv := hubB } }
  let s3 : State := (List.finRange 24).foldl (fun (s : State) (w : WellNo) =>
    match temps.getD w.val none with
    | some t => (s.wrIf (HTH_TEMP.TEMP w) (tempWord 8 t)).wrIf (HTH_TEMP.VALID w) 1
    | none => s) s2
  if s.rd COL_HK_CFG.ENABLE = 1 then s3.hkSend 2 s.tickNow (teleRecord main bkup hubA hubB temps) else s3

/-- TELEMETRY_SAMPLE. -/
def execTelemetrySample (main bkup hubA hubB : Nat) (temps : List (Option Int)) (s : State) : Host.Outcome State Fault Refusal :=
  .next (if s.hubUp ∧ s.leadUp then telemetrySample main bkup hubA hubB temps s else s)

end Sys2Proof.Machine
end

