-- ==== Sys2Proof/Machine/Channel.lean ====
section
/-!
DEFINITION. The channel arbiters of a Well (R21, R23, R239, R241, R244): which waiting request of the Well's own requesters is served, and
the commands whose reads and writes go through them.
-/

namespace Sys2Proof.Machine

open Sys2Proof

/-! ### Requests -/

/-- The ranges of the stack that a request touches. -/
def State.dramRanges (s : State) (w : WellNo) : DramWhy → List (Nat × Nat)
  | .opening p =>
    match (s.wellOpen w (ctxOf p) (seqOf p) (attOf p)).bind fun o => s.logEntry w (ctxOf p) o.fwdSeq with
    | some x => [(s.logBase w (ctxOf p) + x.start, 64), (s.logBase w (ctxOf p) + x.start, x.bytes)]
    | none => []
  | .ledgerWrite p | .ledgerRead p => [(bitsOf p.w1.toNat 0 37, bitsOf p.w2.toNat 0 24)]
  | .tile _ => s.tileRanges w
  | .scrub a _ => [(a / 64 * 64, 64)]
  | .refresh _ _ _ => []

/-- A request waits for the host's precharge of a bank (R241). -/
def State.waitsHost (s : State) (w : WellNo) (y : DramWhy) : Bool :=
  match y with
  | .refresh ch bank _ => s.hostHolds w (ch, bank)
  | _ => s.wells[w].hostRows != [] && (s.dramRanges w y).any fun r => (s.banksOf r.1 r.2).any (s.hostHolds w)

/-- A request may be granted: it is not masked (R244), and its banks are free for the Well (R241, R374). -/
def State.dramFree (s : State) (w : WellNo) (y : DramWhy) : Bool :=
  match y with
  | .refresh ch bank _ => !s.hostHolds w (ch, bank)
  | _ => !s.throttled w && (s.dramRanges w y).all fun r => s.banksFree w r.1 r.2

/-- The priority of a requester (R239). -/
def State.dramPrio (s : State) (w : WellNo) : Nat → Nat
  | 0 => s.rd (WEL_ARB_CFG.RD_PRIO w)
  | 1 => s.rd (WEL_ARB_CFG.WR_PRIO w)
  | 2 => s.rd (WEL_ARB_CFG.SCRUB_PRIO w)
  | _ => s.rd (WEL_ARB_CFG.RDM_PRIO w)

/-- The request granted next: the highest priority, among equals the requesters in rotation from the one after the last granted at that
priority (R21, R23), and of one requester the oldest. -/
def State.dramNext (s : State) (w : WellNo) : Option DramReq :=
  let l := s.wells[w].dram.filter fun x => s.dramFree w x.why
  let prio (x : DramReq) : Nat := s.dramPrio w x.why.kind
  let top := l.foldl (fun m x => max m (prio x)) 0
  let turn (x : DramReq) : Nat := (x.why.kind + 7 - s.wells[w].dramLast.toList.getD top 3) % 4
  match l.filter fun x => prio x == top with
  | [] => none
  | x :: xs => some (xs.foldl (fun b y => if turn y < turn b then y else b) x)

/-- What a granted request does. -/
def State.dramRun (s : State) (w : WellNo) : DramWhy → State
  | .opening p => (((s.readIndex w p).wellPump w).wellReports w)
  | .ledgerWrite p => s.ledgerStore w p
  | .ledgerRead p => s.ledgerFetch w p
  | .tile cycles => s.endTile w cycles
  | .scrub a found => s.scrubBurst w a found
  | .refresh ch bank row => s.targetRows w ch bank row

/-- The waiting requests that can be granted are granted, one after the other. -/
def State.dramServe : Nat → WellNo → State → State
  | 0, _, s => s
  | n + 1, w, s =>
    match s.dramNext w with
    | none => s
    | some x =>
      let p := s.dramPrio w x.why.kind
      let s1 : State := s.modWell w fun k => { k with
        dram := k.dram.erase x
        dramLast := Vector.ofFn fun i : Fin 4 => if i.val = p then x.why.kind else k.dramLast[i] }
      (s1.dramRun w x.why).dramServe n w

/-- A request that waits for the host's precharge is counted once in `WEL_OPENROW_WAIT_CNT` (R241). -/
def State.dramCount (s : State) (w : WellNo) : State :=
  let new := s.wells[w].dram.filter fun x => !x.counted && s.waitsHost w x.why
  let s1 : State := new.foldl (fun (s : State) (_ : DramReq) => s.bump (WEL_OPENROW_WAIT_CNT.COUNT w)) s
  s1.modWell w fun k => { k with dram := k.dram.map fun x => if x ∈ new then { x with counted := true } else x }

/-- The channels of a Well are tried again. -/
def State.dramPump (s : State) (w : WellNo) : State := ((s.dramServe s.wells[w].dram.length w).dramCount w).wellReports w

/-- A requester of a Well asks. -/
def State.dramAsk (s : State) (w : WellNo) (y : DramWhy) : State :=
  (s.modWell w fun k => { k with dram := k.dram ++ [⟨y, false⟩] }).dramPump w

/-! ### Commands of the Well link and of the engines -/

/-- STEP_OPEN (R238): the attempt is open on the Well; a BACKWARD attempt reads the index of its forward step's activation-log entry
(R234); a header that waited for the opening is taken up. -/
def stepOpen (w : WellNo) (p : Pkt) (s : State) : State :=
  if (s.openFor w p).isSome then s
  else if bitsOf p.w1.toNat 0 4 = 2 then (s.openStep w p).dramAsk w (.opening p)
  else ((s.openStep w p).wellPump w).wellReports w

/-- STEP_OPEN. -/
def execStepOpen (w : WellNo) (p : Pkt) (s : State) : Host.Outcome State Fault Refusal :=
  .next (if s.wellUp w ∧ ptypeOf p = 0x30 ∧ !(s.wellFrozen w) then stepOpen w p s else s)

/-- LEDGER_WRITE: the bytes go to the stack. -/
def ledgerWrite (w : WellNo) (p : Pkt) (s : State) : State :=
  match s.openFor w p with
  | none => s.stalePkt p
  | some _ => s.dramAsk w (.ledgerWrite p)

/-- LEDGER_WRITE. -/
def execLedgerWrite (w : WellNo) (p : Pkt) (s : State) : Host.Outcome State Fault Refusal :=
  .next (if s.wellUp w ∧ ptypeOf p = 0x34 ∧ !(s.wellFrozen w) then ledgerWrite w p s else s)

/-- LEDGER_READ: the bytes are asked of the stack. -/
def ledgerRead (w : WellNo) (p : Pkt) (s : State) : State :=
  match s.openFor w p with
  | none => s.stalePkt p
  | some _ => s.dramAsk w (.ledgerRead p)

/-- LEDGER_READ. -/
def execLedgerRead (w : WellNo) (p : Pkt) (s : State) : Host.Outcome State Fault Refusal :=
  .next (if s.wellUp w ∧ ptypeOf p = 0x35 ∧ !(s.wellFrozen w) then ledgerRead w p s else s)

/-- The running tile already waits for the channels. -/
def Well.tileAsks (k : Well) : Bool := k.dram.any fun x => match x.why with | .tile _ => true | _ => false

/-- WELL_TILE_COMPLETE: the running tile ends when its reads and writes have been granted. -/
def wellTileComplete (w : WellNo) (cycles : Nat) (s : State) : State :=
  if s.wells[w].running.isNone ∨ s.wells[w].tileAsks then s else s.dramAsk w (.tile cycles)

/-- WELL_TILE_COMPLETE. -/
def execWellTileComplete (w : WellNo) (cycles : Nat) (s : State) : Host.Outcome State Fault Refusal :=
  .next (if s.wellUp w then wellTileComplete w cycles s else s)

/-! ### Scrub and row-disturb mitigation -/

/-- DRAM_SCRUB: the patrol scrub asks for a burst. -/
def dramScrub (w : WellNo) (addr : Nat) (found : List (Nat × BitVec 80)) (s : State) : State := s.dramAsk w (.scrub addr found)

/-- DRAM_SCRUB. -/
def execDramScrub (w : WellNo) (addr : Nat) (found : List (Nat × BitVec 80)) (s : State) : Host.Outcome State Fault Refusal :=
  .next (if s.wellUp w ∧ s.rd HTH_SCRUB.DRAM_EN = 1 ∧ s.scrubbed w.val addr then dramScrub w addr found s else s)

/-- RDM_TRIGGER: a row's counter has reached TH; it goes to 0, and the neighbouring rows are to be refreshed (R373). -/
def rdmTrigger (w : WellNo) (ch bank row : Nat) (s : State) : State := (s.rowServed w ch bank row).dramAsk w (.refresh ch bank row)

/-- RDM_TRIGGER. -/
def execRdmTrigger (w : WellNo) (ch bank row : Nat) (s : State) : Host.Outcome State Fault Refusal :=
  .next (if s.wellUp w ∧ s.rdmOf w HTH_RDM.EN = 1 ∧ s.rdmOf w HTH_RDM.TH ≤ rowCount s.wells[w].rows ch bank row then rdmTrigger w ch bank row s else s)

/-- RDM_WINDOW_END: every counter and budget of the Well clears, and the next window has the settings as they stand now (R378). -/
def execRdmWindowEnd (w : WellNo) (s : State) : Host.Outcome State Fault Refusal :=
  .next ((s.rdmWindow w).dramPump w)

/-! ### The host and the power cap -/

/-- HOST_COMMAND; a precharge frees its bank for the Well (R241). -/
def execHostCommand (w : WellNo) (cmd : HostCmd) (s : State) : Host.Outcome State Fault Refusal :=
  .next ((hostCommand w cmd s).dramPump w)

/-- PCAP_WINDOW_END: held requesters are released. -/
def pcapWindowEnd (w : WellNo) (s : State) : State := (s.windowEnd w).dramPump w

/-- PCAP_WINDOW_END. -/
def execPcapWindowEnd (w : WellNo) (s : State) : Host.Outcome State Fault Refusal :=
  .next (if s.wells[w].supplyOk ∧ !s.wells[w].inReset then pcapWindowEnd w s else s)

end Sys2Proof.Machine
end

