-- ==== Sys2Proof/Machine/Debug.lean ====
section
/-!
DEFINITION. The debug ports of the two Hub macros: the instructions of R355, the arbiter hold of R439, masking (R351) and the
freeze of R394.
-/

namespace Sys2Proof.Machine

open Sys2Proof

/-- REGACC and ARBHOLD act; otherwise they behave as BYPASS (R355, R395). -/
def State.debugActs (s : State) (side : Side) : Bool :=
  (s.tap side).en && !(s.tap side).trst && !(s.hub side).inReset && decide (s.rd RAS_FREEZE.DEBUG = 0)

/-- The instruction register takes a code. -/
def State.setIr (s : State) (side : Side) (code : Byte) : State := s.modTap side fun d => { d with ir := code }

/-- IDCODE: the 32-bit identity on TDO. -/
def idcode (side : Side) (s : State) : State := (s.setIr side 0x01).emit (.tdo (s.viewOf side DBG_IDCODE.reg))

/-- IDCODE. -/
def execIdcode (side : Side) (s : State) : Host.Outcome State Fault Refusal :=
  .next (if (s.tap side).trst then s else idcode side s)

/-- TAP_BYPASS: BYPASS and every unlisted code select the one-bit bypass. -/
def tapBypass (side : Side) (code : Byte) (s : State) : State := s.setIr side code

/-- TAP_BYPASS. -/
def execTapBypass (side : Side) (code : Byte) (s : State) : Host.Outcome State Fault Refusal :=
  .next (if (s.tap side).trst then s else tapBypass side code s)

/-- Count a REGACC access in the macro's own counter; it saturates. -/
def State.countRegacc (s : State) (side : Side) : State :=
  let w := s.sideWord side DBG_REGACC_CNT.reg
  if w = 0xFFFFFFFF#32 then s else s.putSide side DBG_REGACC_CNT.reg (w + 1)

/-- A REGACC write at a decoded offset. One that the page of a silent Well, or the mirror's copy of a register, cannot take is
discarded. -/
def regaccWrite (side : Side) (off : Nat) (v : Word) (s : State) : State :=
  if s.isActive side then (if (pageWell off).any fun w => !s.reachable w then s else activeWrite .debug off v s)
  else if heldByMirror off then s
  else mirrorWrite .debug off v s

/-- REGACC (R426: an undecoded offset reads 0, discards a write and sets DEC_ERR). -/
def regacc (side : Side) (wr : Bool) (off0 : Nat) (v : Word) (s0 : State) : State :=
  let s : State := s0.setIr side 0x20
  let off := wordOff off0
  if !decodes off then
    (s.putSide side DBG_STATUS.reg (DBG_STATUS.DEC_ERR.put (s.sideWord side DBG_STATUS.reg) 1)).emit (.tdo 0)
  else if wr then regaccWrite side off v (s.countRegacc side)
  else ((s.readEffect .debug side off).countRegacc side).emit (.tdo (s.readWord .debug side off))

/-- REGACC; with the port masked or frozen its code selects the bypass. -/
def execRegacc (side : Side) (wr : Bool) (off : Nat) (v : Word) (s : State) : Host.Outcome State Fault Refusal :=
  .next (if s.debugActs side then regacc side wr off v s else if (s.tap side).trst then s else s.setIr side 0x20)

/-! ### ARBHOLD (R439) -/

/-- An Update-DR of 1: a grant held of another arbiter is released first; then the grant of `DBG_ARBSEL.ARB` is taken. -/
def arbholdTake (t : Nat) (s0 : State) : State :=
  let s : State := (s0.at t).setIr s0.act.side 0x21
  let arb := s.rd DBG_ARBSEL.ARB
  let take (s : State) : State :=
    (s.modTap s.act.side fun d => { d with hold := some (arb, s.now) }).raise 0x0111 1 [arb]
  match s.dbg.hold with
  | some (a, _) => if a = arb then s else take (s.endHold s.now 0)
  | none => take s

/-- ARBHOLD_TAKE on the active Hub's macro; with the port masked or frozen its code selects the bypass. -/
def execArbholdTake (t : Nat) (s : State) : Host.Outcome State Fault Refusal :=
  .next (if s.debugActs s.act.side then arbholdTake t s else if s.dbg.trst then s else s.setIr s.act.side 0x21)

/-- An Update-DR of 0: the grant is released and the interrupted owner resumes. -/
def arbholdRelease (t : Nat) (s0 : State) : State :=
  let s : State := (s0.at t).setIr s0.act.side 0x21
  s.endHold s.now 0

/-- ARBHOLD_RELEASE. -/
def execArbholdRelease (t : Nat) (s : State) : Host.Outcome State Fault Refusal :=
  .next (if s.debugActs s.act.side then arbholdRelease t s else if s.dbg.trst then s else s.setIr s.act.side 0x21)

/-- DEBUG_HOLD_TIMEOUT: the hold has lasted `RAS_CFG.DBG_HOLD_US`: the debug port is frozen, which releases the grant. -/
def debugHoldTimeout (since : Nat) (s0 : State) : State :=
  let s : State := s0.at (since + s0.rd RAS_CFG.DBG_HOLD_US * usUnits)
  (s.setFrozen .debug DBG_ARBSEL.reg).endHold s.now 1

/-- DEBUG_HOLD_TIMEOUT. -/
def execDebugHoldTimeout (s : State) : Host.Outcome State Fault Refusal :=
  .next (match s.dbg.hold with
    | some (_, since) => debugHoldTimeout since s
    | none => s)

/-- DBG_TRST: the levels of DBG_TRST_N (`rst`: asserted) and DBG_EN of one macro. Either masks the port, which ends its hold at once
(R26, R351); the reset selects the bypass. -/
def dbgTrst (side : Side) (rst en : Bool) (t : Nat) (s0 : State) : State :=
  let s : State := (s0.at t).modTap side fun d => { d with en := en, trst := rst, ir := if rst then 0xFF else d.ir }
  if side = s.act.side ∧ (rst ∨ !en) then s.endHold s.now 2 else s

/-- DBG_TRST. -/
def execDbgTrst (side : Side) (rst en : Bool) (t : Nat) (s : State) : Host.Outcome State Fault Refusal :=
  .next (dbgTrst side rst en t s)

end Sys2Proof.Machine
end

