-- ==== Sys2Proof/Machine/HostData.lean ====
section
/-!
DEFINITION. Read data and write responses of the Host Port's master half (R331, R333, R338).
-/

namespace Sys2Proof.Machine

open Sys2Proof

/-- The transaction that holds a tag. -/
def State.txnAt (s : State) (tag : Fin 1024) : Option HostTxn := s.host.txns.find? fun t => t.tag == tag

/-- Change the transaction that holds a tag. -/
def State.modTxn (s : State) (tag : Fin 1024) (f : HostTxn → HostTxn) : State :=
  { s with host := { s.host with txns := s.host.txns.map fun t => if t.tag = tag then f t else t } }

/-- The context and step a transfer belongs to, for event 0x0101. -/
def State.txnCtx (s : State) (why : Purpose) : Option Ctx × Word :=
  match why with
  | .descriptor c => (some c, 0)
  | .input c q _ _ | .noise c q _ _ | .output c q _ | .aux c q _ => (some c, q)
  | .completion c _ => (some c, 0)
  | .colDesc ch | .colRead ch _ _ | .colWrite ch _ _ | .colCount ch | .colRec ch =>
    (some (s.colCtx (chanNo ch)), s.chan[chanNo ch].seq)
  | .table _ => (s.work.load.map (·.ctx), 0)
  | .template _ => (s.work.tload.map (·.ctx), 0)
  | .event | .rollup => (none, 0)

/-- Bytes of a completed read request reach the stage that asked for them; `a` is the address of the first. -/
def State.deliver (s : State) (why : Purpose) (a : Nat) (bs : List Byte) : State :=
  match why with
  | .descriptor c => s.fetched c bs
  | .input c q att t =>
    match s.liveStep c with
    | some st => if st.seq = q ∧ st.replays = att then s.inputData c t (a - (st.inAddr + t * st.inPitch)) false bs else s
    | none => s
  | .noise c q att t =>
    match s.liveStep c with
    | some st =>
      if st.seq = q ∧ st.replays = att then
        s.inputData c t (a - (st.noiseAddr + t * (4 * s.noiseC c st st.bank))) true bs
      else s
    | none => s
  | .table base => s.loadData (a - base) bs false
  | .template base => s.tplData (a - base) bs false
  | .colDesc n => s.modChan (chanNo n) fun k => { k with desc := BitVec.ofNat 512 (ofBytes (slice bs 0 64)), fetched := true }
  | .colCount n => s.colCounts (chanNo n) (a - s.chan[chanNo n].cntAddr) bs
  | .colRead n sh q =>
    let k := s.chan[chanNo n]
    s.colInput (chanNo n) sh q (a - (k.inAddr + ((if k.isRs then sh * k.cap else 0) + q * k.chunkEl) * k.esz)) bs
  | _ => s

/-- The outcome of a read answered with an error (R338). -/
def State.readError (s : State) (why : Purpose) : State :=
  match why with
  | .descriptor c => s.freezeRing c (RNG_SQ_HEAD.reg c)
  | .input c q att _ | .noise c q att _ => s.sendAbort c q att 1 0
  | .table _ => s.loadData 0 [] true
  | .template _ => s.tplData 0 [] true
  | .colDesc n | .colCount n | .colRead n _ _ => s.colReadError (chanNo n)
  | _ => s

/-- A beat for a step's Intake is an event that R54 counts. -/
def State.beatProgress (s : State) (why : Purpose) : State :=
  match why with
  | .input c _ _ _ | .noise c _ _ _ => s.progress c
  | _ => s

/-- HOST_READ_DATA: one beat of a tag, bytes in their natural lanes. The data of an orphan is discarded and its tag is free
at its last beat (R58, R404); an error ends the use of the request's data. -/
def hostReadData (tag : Fin 1024) (data : BitVec 512) (last : Bool) (err : Nat) (s : State) : State :=
  match s.txnAt tag with
  | none => s
  | some t =>
    if t.req.write then s
    else if t.orphan then (if last then s.endTxn t else s)
    else if err ≠ 0 then
      let s1 : State := s.hostError t err (s.txnCtx t.req.why).1 (s.txnCtx t.req.why).2
      let s2 : State := if last then s1.endTxn t else s1.modTxn tag fun x => { x with orphan := true }
      s2.readError t.req.why
    else
      let lane := (t.req.addr + t.got.length) % 64
      let got := t.got ++ slice (toBytes 64 data.toNat) lane (min (64 - lane) (t.req.len - t.got.length))
      if last then ((s.endTxn t).beatProgress t.req.why).deliver t.req.why t.req.addr (slice got 0 t.req.len)
      else (s.modTxn tag fun x => { x with got := got }).beatProgress t.req.why

/-- HOST_READ_DATA. -/
def execHostReadData (tag : Fin 1024) (data : BitVec 512) (last : Bool) (err : Nat) (s : State) :
    Host.Outcome State Fault Refusal :=
  .next (if s.hubUp then hostReadData tag data last err s else s)

/-- The outcome of a write answered with an error (R338), completion and event records apart. -/
def State.writeError (s : State) (why : Purpose) : State :=
  match why with
  | .output c q att | .aux c q att => s.sendAbort c q att 1 0
  | .colWrite n _ _ | .colRec n => s.colAbortSend (chanNo n) 2 0
  | _ => s

/-- A write has been answered: what waited for it may go on. A chunk whose write failed does not become final. -/
def State.writeDone (s : State) (why : Purpose) (orphan bad : Bool) : State :=
  match why with
  | .colWrite n sh q =>
    if orphan then s.colTryHeader (chanNo n)
    else if bad then s.colWriteBad (chanNo n) sh q
    else s.colWritten (chanNo n) why
  | .colRec n => if orphan then s.colTryHeader (chanNo n) else s.colWritten (chanNo n) why
  | _ => s

/-- HOST_WRITE_RESPONSE: the response of a step's, a collective's or the roll-up's write. Completion and event records have
their own commands. -/
def hostWriteResponse (tag : Fin 1024) (err : Nat) (s : State) : State :=
  match s.txnAt tag with
  | none => s
  | some t =>
    if !t.req.write then s
    else match t.req.why with
      | .completion c _ => if t.orphan then s.endTxn t else completionWriteResponse c err s
      | .event => if t.orphan then s.endTxn t else eventWriteResponse err s
      | why =>
        let s1 : State := if err = 0 then s else s.hostError t err (s.txnCtx why).1 (s.txnCtx why).2
        let s2 : State := s1.endTxn t
        let s3 : State := if err = 0 ∨ t.orphan then s2 else s2.writeError why
        s3.writeDone why t.orphan (err != 0)

/-- HOST_WRITE_RESPONSE. -/
def execHostWriteResponse (tag : Fin 1024) (err : Nat) (s : State) : Host.Outcome State Fault Refusal :=
  .next (if s.hubUp then hostWriteResponse tag err s else s)

end Sys2Proof.Machine
end

