-- ==== Sys2Proof/Machine/Slave.lean ====
section
/-!
DEFINITION. The slave window of the Host Port (R335, R336).
-/

namespace Sys2Proof.Machine

open Sys2Proof

/-- The 2,048-byte stride of a tile-table slot: its 1,088 bytes, then zeros. -/
def State.tileByte (s : State) (off : Nat) : Byte :=
  if off % 0x800 < 1088 then (s.slotBytes (off / 0x800)).getD (off % 0x800) 0 else 0

/-- The slot and copy whose WEIGHT field lies at an offset of the tile table. -/
def weightAt (off : Nat) : Option (Nat × Nat) :=
  let r := off % 0x800
  if 64 ≤ r ∧ r < 1088 ∧ r % 8 = 4 then some (off / 0x800, (r - 64) / 8) else none

/-- One byte of the window as a read returns it; the take addresses read 0. -/
def State.slaveByte (s : State) (off : Nat) : Byte :=
  if off < 0x4000000 then sget zeroByte s.cist.data off
  else if off < 0x4400000 then s.tileByte (off - 0x4000000)
  else 0

/-- A read of the window: data, or zeros with a decode error. Its first address decides. -/
def State.slaveReadOf (s : State) (off n : Nat) : List Byte × Nat :=
  if off + n ≤ 0x4000000 then (mread zeroByte s.cist.data off n, 0)
  else if off < 0x4400088 then ((List.range n).map fun i => s.slaveByte (off + i), 0)
  else (List.replicate n 0, 2)

/-- A write of the window. -/
def State.slaveWriteOf (s : State) (off : Nat) (bs : List Byte) : State :=
  if off + bs.length ≤ 0x4000000 then
    ({ s with cist := { s.cist with data := mwrite zeroByte s.cist.data off bs } } : State).emit (.slaveWrite none 0)
  else if 0x4000000 ≤ off ∧ off < 0x4400000 then
    match weightAt (off - 0x4000000) with
    | some (n, j) =>
      if bs.length = 4 then tileWeightWrite n j (BitVec.ofNat 32 (ofBytes bs)) s else s.emit (.slaveWrite none 2)
    | none => s.emit (.slaveWrite none 2)
  else if off = 0x4400100 ∧ bs.length = 4 then (releaseWord (BitVec.ofNat 32 (ofBytes bs)) s).emit (.slaveWrite none 0)
  else if off = 0x4400140 ∧ bs.length = 8 then (collectiveWord (BitVec.ofNat 64 (ofBytes bs)) s).emit (.slaveWrite none 0)
  else s.emit (.slaveWrite none 2)

/-- CISTERN_DATA_ACCESS: a read or write of the window at an offset; Cistern data pass without a check of the allocation. A
read takes as many bytes as `data` has. -/
def execCisternDataAccess (wr : Bool) (off : Nat) (data : List Byte) (s : State) : Host.Outcome State Fault Refusal :=
  .next (if s.slaveUp then
      if wr then s.slaveWriteOf off data
      else let r := s.slaveReadOf off data.length; s.emit (.slaveRead none r.1 r.2)
    else s)

/-- The window assigns nothing to an operation at an offset: 0 READ, 1 WRITE, 2 FETCH_ADD. -/
def State.unassigned (s : State) (op off : Nat) : Bool :=
  match op with
  | 0 => decide (0x4400088 ≤ off)
  | 1 =>
    if off < 0x4000000 then false
    else if off < 0x4400000 then
      match weightAt (off - 0x4000000) with
      | some (n, j) => (s.weightSlot n j).isNone
      | none => true
    else off != 0x4400100 && off != 0x4400140
  | _ => decide (off < 0x4400000 ∨ 0x4400088 ≤ off) || off % 8 != 0

/-- SLAVE_DECODE_ERROR: zeros with RD_ERR 2 for a read or fetch-add, RSP_ERR 2 for a write; the request's credit returns. -/
def slaveDecodeError (sl op : Nat) (s : State) : State :=
  (s.emit (if op = 1 then .slaveWrite (some sl) 2
    else .slaveRead (some sl) (List.replicate (if op = 0 then 64 else 8) 0) 2)).emit (.credit sl 1)

/-- SLAVE_DECODE_ERROR. -/
def execSlaveDecodeError (slice op off : Nat) (s : State) : Host.Outcome State Fault Refusal :=
  .next (if s.sliceUp slice ∧ s.unassigned op off then slaveDecodeError slice op s
    else s)

end Sys2Proof.Machine
end

