-- ==== Sys2Proof/Machine/Dispatch.lean ====
section
/-!
DEFINITION. One arm per command: its meaning, or its mnemonic where it has none yet.
-/

namespace Sys2Proof.Machine

open Sys2Proof

/-- The effect of a command on everything but the queue (the form of this model). -/
def exec (i : Instr) (s : State) : Host.Outcome State Fault Refusal :=
  match i with
  | .tckRunSet v => Sys2Proof.Machine.execTckRunSet v s
  | .tckRunClear v => Sys2Proof.Machine.execTckRunClear v s
  | .tckPeriodWrite v => Sys2Proof.Machine.execTckPeriodWrite v s
  | .masterEmission => Sys2Proof.Machine.execMasterEmission s
  | .tickWatchdog => Sys2Proof.Machine.execTickWatchdog s
  | .localTick => Sys2Proof.Machine.execLocalTick s
  | .starvedTest => Sys2Proof.Machine.execStarvedTest s
  | .tickInEdge t => Sys2Proof.Machine.execTickInEdge t s
  | .tickInHoldover => Sys2Proof.Machine.execTickInHoldover s
  | .tickOrderedSet port copy set arrival => Sys2Proof.Machine.execTickOrderedSet port copy set arrival s
  | .tickSetAtMaster port set => Sys2Proof.Machine.execTickSetAtMaster port set s
  | .followerHoldover => Sys2Proof.Machine.execFollowerHoldover s
  | .calibrationStale => Sys2Proof.Machine.execCalibrationStale s
  | .readyReport p => Sys2Proof.Machine.execReadyReport p s
  | .progressBeacon p => Sys2Proof.Machine.execProgressBeacon p s
  | .localDone p => Sys2Proof.Machine.execLocalDone p s
  | .abortNotice p => Sys2Proof.Machine.execAbortNotice p s
  | .localFinish c => Sys2Proof.Machine.execLocalFinish c s
  | .doorbell c v => Sys2Proof.Machine.execDoorbell c v s
  | .cqHeadWrite c v => Sys2Proof.Machine.execCqHeadWrite c v s
  | .eqHeadWrite v => Sys2Proof.Machine.execEqHeadWrite v s
  | .ctxRingEnable c v => Sys2Proof.Machine.execCtxRingEnable c v s
  | .ctxRingDisable c v => Sys2Proof.Machine.execCtxRingDisable c v s
  | .eqEnable v => Sys2Proof.Machine.execEqEnable v s
  | .descriptorFetch c => Sys2Proof.Machine.execDescriptorFetch c s
  | .descriptorCheck c => Sys2Proof.Machine.execDescriptorCheck c s
  | .rejectRetire c => Sys2Proof.Machine.execRejectRetire c s
  | .completionRecordWrite c => Sys2Proof.Machine.execCompletionRecordWrite c s
  | .completionWriteResponse c err => Sys2Proof.Machine.execCompletionWriteResponse c err s
  | .eventRecordWrite => Sys2Proof.Machine.execEventRecordWrite s
  | .eventWriteResponse err => Sys2Proof.Machine.execEventWriteResponse err s
  | .loadHomeTable v => Sys2Proof.Machine.execLoadHomeTable v s
  | .loadLayerEntries v => Sys2Proof.Machine.execLoadLayerEntries v s
  | .loadRouterRows v => Sys2Proof.Machine.execLoadRouterRows v s
  | .copyActiveSet v => Sys2Proof.Machine.execCopyActiveSet v s
  | .loadEnd => Sys2Proof.Machine.execLoadEnd s
  | .arm c => Sys2Proof.Machine.execArm c s
  | .disarm c => Sys2Proof.Machine.execDisarm c s
  | .reseed v => Sys2Proof.Machine.execReseed v s
  | .seedingDone entropy ok => Sys2Proof.Machine.execSeedingDone entropy ok s
  | .hostReadData tag data last err => Sys2Proof.Machine.execHostReadData tag data last err s
  | .hostWriteResponse tag err => Sys2Proof.Machine.execHostWriteResponse tag err s
  | .admissionWindow c => Sys2Proof.Machine.execAdmissionWindow c s
  | .cisternGrant pick => Sys2Proof.Machine.execCisternGrant pick s
  | .flitTransmit link => Sys2Proof.Machine.execFlitTransmit link s
  | .flitReceive link flit => Sys2Proof.Machine.execFlitReceive link flit s
  | .retryTimeout link => Sys2Proof.Machine.execRetryTimeout link s
  | .dispatch p => Sys2Proof.Machine.execDispatch p s
  | .eod p => Sys2Proof.Machine.execEod p s
  | .issueTile home c expert => Sys2Proof.Machine.execIssueTile home c expert s
  | .partialTile w => Sys2Proof.Machine.execPartialTile w s
  | .wellTileComplete w cycles => Sys2Proof.Machine.execWellTileComplete w cycles s
  | .returnPacket p => Sys2Proof.Machine.execReturnPacket p s
  | .rowNormalise => Sys2Proof.Machine.execRowNormalise s
  | .queueFlush v => Sys2Proof.Machine.execQueueFlush v s
  | .take slice src c => Sys2Proof.Machine.execTake slice src c s
  | .anyContextTake slice src => Sys2Proof.Machine.execAnyContextTake slice src s
  | .releaseWord w => Sys2Proof.Machine.execReleaseWord w s
  | .tileWeightWrite slot j dw => Sys2Proof.Machine.execTileWeightWrite slot j dw s
  | .cisternDataAccess wr off data => Sys2Proof.Machine.execCisternDataAccess wr off data s
  | .sliceReset slice => Sys2Proof.Machine.execSliceReset slice s
  | .collectiveStart w => Sys2Proof.Machine.execCollectiveStart w s
  | .collectiveReady w => Sys2Proof.Machine.execCollectiveReady w s
  | .colDescriptorCheck ch => Sys2Proof.Machine.execColDescriptorCheck ch s
  | .colReservationGrant pick => Sys2Proof.Machine.execColReservationGrant pick s
  | .colStart p => Sys2Proof.Machine.execColStart p s
  | .colData p => Sys2Proof.Machine.execColData p s
  | .colCredit p => Sys2Proof.Machine.execColCredit p s
  | .colHold p => Sys2Proof.Machine.execColHold p s
  | .colAbort p => Sys2Proof.Machine.execColAbort p s
  | .colFin p => Sys2Proof.Machine.execColFin p s
  | .colOutputsComplete ch => Sys2Proof.Machine.execColOutputsComplete ch s
  | .colStallCount => Sys2Proof.Machine.execColStallCount s
  | .colRestartDrained ch => Sys2Proof.Machine.execColRestartDrained ch s
  | .colChEnable ch v => Sys2Proof.Machine.execColChEnable ch v s
  | .hkStart => Sys2Proof.Machine.execHkStart s
  | .hkData p => Sys2Proof.Machine.execHkData p s
  | .hkClose => Sys2Proof.Machine.execHkClose s
  | .templateLoad v => Sys2Proof.Machine.execTemplateLoad v s
  | .templateLoadEnd => Sys2Proof.Machine.execTemplateLoadEnd s
  | .stepOpen w p => Sys2Proof.Machine.execStepOpen w p s
  | .stepClose w p => Sys2Proof.Machine.execStepClose w p s
  | .scoreRow w p => Sys2Proof.Machine.execScoreRow w p s
  | .scoreLogits w p => Sys2Proof.Machine.execScoreLogits w p s
  | .ledgerWrite w p => Sys2Proof.Machine.execLedgerWrite w p s
  | .ledgerRead w p => Sys2Proof.Machine.execLedgerRead w p s
  | .ledgerData w p => Sys2Proof.Machine.execLedgerData w p s
  | .wellReport w p => Sys2Proof.Machine.execWellReport w p s
  | .hostCommand w cmd => Sys2Proof.Machine.execHostCommand w cmd s
  | .hostRefresh w ch bank => Sys2Proof.Machine.execHostRefresh w ch bank s
  | .refreshTakeover w late => Sys2Proof.Machine.execRefreshTakeover w late s
  | .pcapWindowEnd w => Sys2Proof.Machine.execPcapWindowEnd w s
  | .pcapReached w => Sys2Proof.Machine.execPcapReached w s
  | .prsntInsert port => Sys2Proof.Machine.execPrsntInsert port s
  | .prsntRemove port => Sys2Proof.Machine.execPrsntRemove port s
  | .attnPress port => Sys2Proof.Machine.execAttnPress port s
  | .removalWindowClose port => Sys2Proof.Machine.execRemovalWindowClose port s
  | .removeRequest x => Sys2Proof.Machine.execRemoveRequest x s
  | .removeAgree x => Sys2Proof.Machine.execRemoveAgree x s
  | .removeRefuse x => Sys2Proof.Machine.execRemoveRefuse x s
  | .removeCancel x => Sys2Proof.Machine.execRemoveCancel x s
  | .removeDone x => Sys2Proof.Machine.execRemoveDone x s
  | .removeSilence port => Sys2Proof.Machine.execRemoveSilence port s
  | .removeDrained port => Sys2Proof.Machine.execRemoveDrained port s
  | .forceSafe port v => Sys2Proof.Machine.execForceSafe port v s
  | .linkRestart port v => Sys2Proof.Machine.execLinkRestart port v s
  | .phyLock port lanes sameFar => Sys2Proof.Machine.execPhyLock port lanes sameFar s
  | .trainTimeout port => Sys2Proof.Machine.execTrainTimeout port s
  | .lossOfLock port => Sys2Proof.Machine.execLossOfLock port s
  | .uncCodewordLimit port n => Sys2Proof.Machine.execUncCodewordLimit port n s
  | .beacon port payload t => Sys2Proof.Machine.execBeacon port payload t s
  | .beaconSend port => Sys2Proof.Machine.execBeaconSend port s
  | .beaconAbsence d => Sys2Proof.Machine.execBeaconAbsence d s
  | .absentSet port payload => Sys2Proof.Machine.execAbsentSet port payload s
  | .svcAbsentClear hi v => Sys2Proof.Machine.execSvcAbsentClear hi v s
  | .svcLeave v => Sys2Proof.Machine.execSvcLeave v s
  | .svcIdLock v => Sys2Proof.Machine.execSvcIdLock v s
  | .svcBypCtrlWrite v => Sys2Proof.Machine.execSvcBypCtrlWrite v s
  | .bypassHoldRelease => Sys2Proof.Machine.execBypassHoldRelease s
  | .calStart port t => Sys2Proof.Machine.execCalStart port t s
  | .calReq port payload t2 t3 => Sys2Proof.Machine.execCalReq port payload t2 t3 s
  | .calRsp port payload t4 => Sys2Proof.Machine.execCalRsp port payload t4 s
  | .calLost port => Sys2Proof.Machine.execCalLost port s
  | .eqAdaptation => Sys2Proof.Machine.execEqAdaptation s
  | .wellLinkRecal => Sys2Proof.Machine.execWellLinkRecal s
  | .dramScrub w addr found => Sys2Proof.Machine.execDramScrub w addr found s
  | .sramScrub part addr read => Sys2Proof.Machine.execSramScrub part addr read s
  | .tempSample readings => Sys2Proof.Machine.execTempSample readings s
  | .rdmTrigger w ch bank row => Sys2Proof.Machine.execRdmTrigger w ch bank row s
  | .rdmWindowEnd w => Sys2Proof.Machine.execRdmWindowEnd w s
  | .telemetrySample main bkup hubA hubB temps => Sys2Proof.Machine.execTelemetrySample main bkup hubA hubB temps s
  | .nvmErase => Sys2Proof.Machine.execNvmErase s
  | .aonReset side => Sys2Proof.Machine.execAonReset side s
  | .hubReset side => Sys2Proof.Machine.execHubReset side s
  | .selfTestDone side pass => Sys2Proof.Machine.execSelfTestDone side pass s
  | .welReset w => Sys2Proof.Machine.execWelReset w s
  | .cfgReset side => Sys2Proof.Machine.execCfgReset side s
  | .wellLinkTrained w => Sys2Proof.Machine.execWellLinkTrained w s
  | .wellLinkRetrain w lanes => Sys2Proof.Machine.execWellLinkRetrain w lanes s
  | .wellLinkDown w noLane => Sys2Proof.Machine.execWellLinkDown w noLane s
  | .configAccess side wr off v => Sys2Proof.Machine.execConfigAccess side wr off v s
  | .sidebandTimeout side => Sys2Proof.Machine.execSidebandTimeout side s
  | .registerWrite off v => Sys2Proof.Machine.execRegisterWrite off v s
  | .vaonSourceChange side toBkup mv t => Sys2Proof.Machine.execVaonSourceChange side toBkup mv t s
  | .vddHubLoss side mv => Sys2Proof.Machine.execVddHubLoss side mv s
  | .vddWelLoss w => Sys2Proof.Machine.execVddWelLoss w s
  | .leadHeathLoss => Sys2Proof.Machine.execLeadHeathLoss s
  | .residueFailure part engine cell => Sys2Proof.Machine.execResidueFailure part engine cell s
  | .engineRelease part v pass => Sys2Proof.Machine.execEngineRelease part v pass s
  | .uncorrectableWord u => Sys2Proof.Machine.execUncorrectableWord u s
  | .masterRelease m => Sys2Proof.Machine.execMasterRelease m s
  | .coreWatchdogExpiry side => Sys2Proof.Machine.execCoreWatchdogExpiry side s
  | .mirrorTakeover t => Sys2Proof.Machine.execMirrorTakeover t s
  | .mirBeatSend side => Sys2Proof.Machine.execMirBeatSend side s
  | .mirBeatLoss side => Sys2Proof.Machine.execMirBeatLoss side s
  | .mirUpdate => Sys2Proof.Machine.execMirUpdate s
  | .mirAck useq => Sys2Proof.Machine.execMirAck useq s
  | .mirFetch side space off => Sys2Proof.Machine.execMirFetch side space off s
  | .mirData side space off bad bytes => Sys2Proof.Machine.execMirData side space off bad bytes s
  | .mirSync done t => Sys2Proof.Machine.execMirSync done t s
  | .swap t => Sys2Proof.Machine.execSwap t s
  | .rejoin => Sys2Proof.Machine.execRejoin s
  | .sync t => Sys2Proof.Machine.execSync t s
  | .mirrorDisable => Sys2Proof.Machine.execMirrorDisable s
  | .debugHoldTimeout => Sys2Proof.Machine.execDebugHoldTimeout s
  | .tokenRefill => Sys2Proof.Machine.execTokenRefill s
  | .trickleFlush t => Sys2Proof.Machine.execTrickleFlush t s
  | .evrFlush => Sys2Proof.Machine.execEvrFlush s
  | .pageProgramDone ok => Sys2Proof.Machine.execPageProgramDone ok s
  | .evrClear => Sys2Proof.Machine.execEvrClear s
  | .nvErase => Sys2Proof.Machine.execNvErase s
  | .evrCursorLoad v => Sys2Proof.Machine.execEvrCursorLoad v s
  | .nvReadDone bytes => Sys2Proof.Machine.execNvReadDone bytes s
  | .win15Autoinc => Sys2Proof.Machine.execWin15Autoinc s
  | .evrTrig v => Sys2Proof.Machine.execEvrTrig v s
  | .recorderStart dev => Sys2Proof.Machine.execRecorderStart dev s
  | .idcode side => Sys2Proof.Machine.execIdcode side s
  | .regacc side wr off v => Sys2Proof.Machine.execRegacc side wr off v s
  | .arbholdTake t => Sys2Proof.Machine.execArbholdTake t s
  | .arbholdRelease t => Sys2Proof.Machine.execArbholdRelease t s
  | .tapBypass side code => Sys2Proof.Machine.execTapBypass side code s
  | .dbgTrst side rst en t => Sys2Proof.Machine.execDbgTrst side rst en t s
  | .cstEnable v => Sys2Proof.Machine.execCstEnable v s
  | .vaonLoss side => Sys2Proof.Machine.execVaonLoss side s
  | .hpRstRelease slice => Sys2Proof.Machine.execHpRstRelease slice s
  | .slaveDecodeError slice op off => Sys2Proof.Machine.execSlaveDecodeError slice op off s
  | .controlCoreAccessViolation side off => Sys2Proof.Machine.execControlCoreAccessViolation side off s

end Sys2Proof.Machine
end

