-- ==== Sys2Proof/WellFormed.lean ====
section
/-!
DEFINITION. What the operands of a command must be for the command to be one that the spec names: a packet of the row's type
(R187), an offset of the 2 MiB window (R340), a count that the spec fixes. `exec` has a meaning for every command; a command
that is not well formed leaves the state unchanged or has the effect its meaning says.
-/

namespace Sys2Proof

/-- The packet has one of these types (R187). -/
def isType (l : List Nat) (p : Pkt) : Bool := l.contains (p.w0.toNat % 256)

/-- The operands are within their ranges. -/
def Instr.wellFormed : Instr → Bool
  | .tckRunSet _ => true
  | .tckRunClear _ => true
  | .tckPeriodWrite _ => true
  | .masterEmission => true
  | .tickWatchdog => true
  | .localTick => true
  | .starvedTest => true
  | .tickInEdge _ => true
  | .tickInHoldover => true
  | .tickOrderedSet _ _ _ _ => true
  | .tickSetAtMaster _ _ => true
  | .followerHoldover => true
  | .calibrationStale => true
  | .readyReport p => isType [0x08] p
  | .progressBeacon p => isType [0x09] p
  | .localDone p => isType [0x0A] p
  | .abortNotice p => isType [0x0B] p
  | .localFinish _ => true
  | .doorbell _ _ => true
  | .cqHeadWrite _ _ => true
  | .eqHeadWrite _ => true
  | .ctxRingEnable _ _ => true
  | .ctxRingDisable _ _ => true
  | .eqEnable _ => true
  | .descriptorFetch _ => true
  | .descriptorCheck _ => true
  | .rejectRetire _ => true
  | .completionRecordWrite _ => true
  | .completionWriteResponse _ err => decide (err < 4)
  | .eventRecordWrite => true
  | .eventWriteResponse err => decide (err < 4)
  | .loadHomeTable _ => true
  | .loadLayerEntries _ => true
  | .loadRouterRows _ => true
  | .copyActiveSet _ => true
  | .loadEnd => true
  | .arm _ => true
  | .disarm _ => true
  | .reseed _ => true
  | .seedingDone entropy _ => decide (entropy.length = 128)
  | .hostReadData _ _ _ err => decide (err < 4)
  | .hostWriteResponse _ err => decide (err < 4)
  | .admissionWindow _ => true
  | .cisternGrant _ => true
  | .flitTransmit _ => true
  | .flitReceive _ flit => decide (flit.body.length = 264)
  | .retryTimeout _ => true
  | .dispatch p => isType [0x01, 0x02] p
  | .eod p => isType [0x05] p
  | .issueTile home _ _ => decide (home < 2 ^ 16 ∧ home / 32 % 32 < 25)
  | .partialTile _ => true
  | .wellTileComplete _ _ => true
  | .returnPacket p => isType [0x03, 0x04] p
  | .rowNormalise => true
  | .queueFlush _ => true
  | .take slice src _ => decide (slice < 64 ∧ src < 256)
  | .anyContextTake slice src => decide (slice < 64 ∧ src < 256)
  | .releaseWord _ => true
  | .tileWeightWrite slot j _ => decide (slot < 2048 ∧ j < 128)
  | .cisternDataAccess _ off data => decide (off + data.length ≤ 0x4000000)
  | .sliceReset slice => decide (slice < 64)
  | .collectiveStart _ => true
  | .collectiveReady _ => true
  | .colDescriptorCheck _ => true
  | .colReservationGrant _ => true
  | .colStart p => isType [0x11] p
  | .colData p => isType [0x10] p
  | .colCredit p => isType [0x12] p
  | .colHold p => isType [0x13] p
  | .colAbort p => isType [0x14] p
  | .colFin p => isType [0x15] p
  | .colOutputsComplete _ => true
  | .colStallCount => true
  | .colRestartDrained _ => true
  | .colChEnable _ _ => true
  | .hkStart => true
  | .hkData p => isType [0x16] p
  | .hkClose => true
  | .templateLoad _ => true
  | .templateLoadEnd => true
  | .stepOpen _ p => isType [0x30] p
  | .stepClose _ p => isType [0x31] p
  | .scoreRow _ p => isType [0x32] p
  | .scoreLogits _ p => isType [0x33] p
  | .ledgerWrite _ p => isType [0x34] p
  | .ledgerRead _ p => isType [0x35] p
  | .ledgerData _ p => isType [0x36] p
  | .wellReport _ p => isType [0x37] p
  | .hostCommand _ _ => true
  | .hostRefresh _ _ _ => true
  | .refreshTakeover _ late => late.all fun ch => decide (ch < 32)
  | .pcapWindowEnd _ => true
  | .pcapReached _ => true
  | .prsntInsert _ => true
  | .prsntRemove _ => true
  | .attnPress _ => true
  | .removalWindowClose _ => true
  | .removeRequest _ => true
  | .removeAgree _ => true
  | .removeRefuse _ => true
  | .removeCancel _ => true
  | .removeDone _ => true
  | .removeSilence _ => true
  | .removeDrained _ => true
  | .forceSafe _ _ => true
  | .linkRestart _ _ => true
  | .phyLock _ _ _ => true
  | .trainTimeout _ => true
  | .lossOfLock _ => true
  | .uncCodewordLimit _ _ => true
  | .beacon _ _ _ => true
  | .beaconSend _ => true
  | .beaconAbsence _ => true
  | .absentSet _ _ => true
  | .svcAbsentClear _ _ => true
  | .svcLeave _ => true
  | .svcIdLock _ => true
  | .svcBypCtrlWrite _ => true
  | .bypassHoldRelease => true
  | .calStart _ _ => true
  | .calReq _ _ _ _ => true
  | .calRsp _ _ _ => true
  | .calLost _ => true
  | .eqAdaptation => true
  | .wellLinkRecal => true
  | .dramScrub _ _ _ => true
  | .sramScrub part _ _ => decide (part < 26)
  | .tempSample readings => decide (readings.length = 24)
  | .rdmTrigger _ _ _ _ => true
  | .rdmWindowEnd _ => true
  | .telemetrySample _ _ _ _ temps => decide (temps.length = 24)
  | .nvmErase => true
  | .aonReset _ => true
  | .hubReset _ => true
  | .selfTestDone _ _ => true
  | .welReset _ => true
  | .cfgReset _ => true
  | .wellLinkTrained _ => true
  | .wellLinkRetrain _ _ => true
  | .wellLinkDown _ _ => true
  | .configAccess _ _ off _ => decide (off < 2 ^ 21 ∧ off % 4 = 0)
  | .sidebandTimeout _ => true
  | .registerWrite off _ => decide (off < 2 ^ 21 ∧ off % 4 = 0)
  | .vaonSourceChange _ _ _ _ => true
  | .vddHubLoss _ _ => true
  | .vddWelLoss _ => true
  | .leadHeathLoss => true
  | .residueFailure part engine _ => decide (part < 26 ∧ engine < 16)
  | .engineRelease part _ _ => decide (part < 26)
  | .uncorrectableWord u => decide (u.part < 26)
  | .masterRelease _ => true
  | .coreWatchdogExpiry _ => true
  | .mirrorTakeover _ => true
  | .mirBeatSend _ => true
  | .mirBeatLoss _ => true
  | .mirUpdate => true
  | .mirAck _ => true
  | .mirFetch _ space off => decide (space < 4 ∧ off % 64 = 0)
  | .mirData _ space off _ bytes => decide (space < 4 ∧ off % 64 = 0 ∧ bytes.length = 64)
  | .mirSync _ _ => true
  | .swap _ => true
  | .rejoin => true
  | .sync _ => true
  | .mirrorDisable => true
  | .debugHoldTimeout => true
  | .tokenRefill => true
  | .trickleFlush _ => true
  | .evrFlush => true
  | .pageProgramDone _ => true
  | .evrClear => true
  | .nvErase => true
  | .evrCursorLoad _ => true
  | .nvReadDone bytes => decide (bytes.length = 64)
  | .win15Autoinc => true
  | .evrTrig _ => true
  | .recorderStart _ => true
  | .idcode _ => true
  | .regacc _ _ off _ => decide (off < 2 ^ 21 ∧ off % 4 = 0)
  | .arbholdTake _ => true
  | .arbholdRelease _ => true
  | .tapBypass _ _ => true
  | .dbgTrst _ _ _ _ => true
  | .cstEnable _ => true
  | .vaonLoss _ => true
  | .hpRstRelease slice => decide (slice < 64)
  | .slaveDecodeError slice op _ => decide (slice < 64 ∧ op < 3)
  | .controlCoreAccessViolation _ _ => true

end Sys2Proof
end

