-- ==== Sys2Proof/Safety.lean ====
section
/-!
DEFINITION. What claims are stated in: the answer of a command, the canonical form of the memories, the parameters of R356,
and the invariant that every step keeps.
-/

namespace Sys2Proof.Machine

open Sys2Proof

/-- The command completes at this state: `exec` answers a next state, and it has the property. -/
def Answers (i : Instr) (s : State) (post : State → Prop) : Prop := ∃ t, exec i s = .next t ∧ post t

/-- An event of a code is formed: its record waits for the event ring of a Hub that is up, behind those that waited, unless 64
records were waiting (R88, R90). -/
def Reports (s : State) (code : Nat) (t : State) : Prop :=
  s.hubUp = true → s.evq.waiting.length < 64 → ∃ l e, t.evq.waiting = s.evq.waiting ++ l ∧ e ∈ l ∧ e.code = code

/-- The block drives this at its pins or links in the course of the command. -/
def Drives (t : State) (e : Emission) : Prop := e ∈ t.out

/-- A saturating counter has counted `n` more (R7). -/
def Counted (s t : State) (f : Fld) (n : Nat) : Prop := t.rd f = min (2 ^ f.len - 1) (s.rd f + n)

/-- A sparse memory has its canonical form: addresses strictly rising, no entry equal to what an unlisted address reads as. -/
def Memory.wf (d : Nat → Byte) (m : Mem) : Bool := swf d m

/-- A register window has its canonical form. -/
def Win.wf (b : Build) (m : Win) : Bool := swf (resetWord b) m

/-- Every memory and window of the chip has its canonical form. -/
def State.memWf (s : State) : Bool :=
  Win.wf s.build s.act.win && Win.wf s.build s.mir.win && Win.wf s.build s.cwin &&
    Memory.wf tblDefault s.act.table && Memory.wf tblDefault s.mir.table && Memory.wf zeroByte s.act.router &&
    Memory.wf zeroByte s.mir.router && Memory.wf zeroByte s.cist.data && Memory.wf nvByte s.nvm &&
    swf noFlip s.act.tableFlips && swf noFlip s.mir.tableFlips && swf noFlip s.act.routerFlips && swf noFlip s.mir.routerFlips &&
    s.wells.toList.all fun k => Memory.wf zeroByte k.stack && swf noFlip k.flips

/-- No request waits at the channels of a Well, and what is to be reported of its attempts has been: a command that tries the channels
again (R239) finds nothing to do there. -/
def State.wellQuiet (s : State) (w : WellNo) : Bool :=
  s.wells[w].dram == [] && s.wells[w].opens.all fun o =>
    !(homeRec s.wells[w].homes (mkHome s.chip w.val) o.ctx o.seq o.att).complete || (o.homeSent && o.finSent)

/-- The parameters are within the ranges of R356. -/
def Build.legal (b : Build) : Bool :=
  decide (b.integ < 256 ∧ 4 ≤ (bitsSet 24 b.slots.toNat).length ∧ b.slvBase % 2 ^ 27 = 0 ∧ 8 ≤ b.crdInit ∧ b.crdInit ≤ 64 ∧
    1 ≤ b.trpNs ∧ b.trpNs ≤ 63 ∧ b.tickInDlyPs ≤ 20000 ∧ b.tickOutDlyPs ≤ 20000 ∧ b.mfr < 2 ^ 11 ∧ b.part < 2 ^ 16) &&
    [4, 8, 16, 32, 64].contains b.hpSlices

/-- The invariant of the block: its parameters are legal (R356), and the two Hub macros are the two sides, one in each role (R15). -/
def State.Inv (s : State) : Prop := s.build.legal = true ∧ s.act.side ≠ s.mir.side

end Sys2Proof.Machine
end

