-- ==== Sys2Proof/Certificates/Slice0/Obligations.lean ====
section
/-!
DEFINITION. The statements for the provers, each a `Prop` that its docstring reads to the rules it formalises.
-/

set_option linter.unusedVariables false

open Sys2Proof Sys2Proof.Machine

/-! ### Tick -/

/-- R37, R38, R59, R60, R443: the writes of `TCK_CTRL` that start and stop the tick and the write of `TCK_PERIOD`; an edge of
TICK_IN within its window, or the first since RUN was set, is the origin of the next tick, an edge outside leaves the tick
state as it is, and without an edge the master holds over. Readings and choices of the model in it: log entries 15, 17. -/
def Obligations.TickSources : Prop :=
  (∀ (s : State) (v : Word), s.busUp 0 = true →
     (s.rd TCK_CTRL.RUN = 0 → TCK_CTRL.RUN.get v = 1 →
       Answers (.tckRunSet v) s fun t => t.rd TCK_CTRL.RUN = 1 ∧ t.tick.first = true ∧ t.tick.set = none ∧ t.tick.master = none ∧
         t.tick.due = if t.rd TCK_CTRL.SRC = 0 then some (s.now + t.rd TCK_PERIOD.PERIOD_US * usUnits) else none) ∧
     (s.rd TCK_CTRL.RUN = 1 → TCK_CTRL.RUN.get v = 0 →
       Answers (.tckRunClear v) s fun t => t.rd TCK_CTRL.RUN = 0 ∧ (t.isMaster = true → t.tick.stop = true) ∧
         (t.isMaster = false → t.tick.set = none)) ∧
     (Answers (.tckPeriodWrite v) s fun t => t.rd TCK_PERIOD.PERIOD_US = max 2 (TCK_PERIOD.PERIOD_US.get v) ∧
         t.rd TCK_PERIOD.CUR_US = s.rd TCK_PERIOD.CUR_US)) ∧
  (∀ (s : State) (z x : Nat), s.tickInMaster = true → s.pinEdge z = x →
     (s.tick.edge = none →
       Answers (.tickInEdge z) s fun t => t.tick.edge = some x ∧ t.tick.due = some (x + s.effLead) ∧ t.tick.holdover = false) ∧
     (∀ e, s.tick.edge = some e →
       e + s.rd TCK_PERIOD.CUR_US * 1600 ≤ x + s.rd TCK_PERIOD.CUR_US * 100 →
       x ≤ e + s.rd TCK_PERIOD.CUR_US * 1600 + s.rd TCK_PERIOD.CUR_US * 100 →
       Answers (.tickInEdge z) s fun t => t.tick.edge = some x ∧ t.tick.due = some (x + s.effLead) ∧ t.tick.holdover = false) ∧
     (∀ e, s.tick.edge = some e →
       (x + s.rd TCK_PERIOD.CUR_US * 100 < e + s.rd TCK_PERIOD.CUR_US * 1600 ∨
         e + s.rd TCK_PERIOD.CUR_US * 1600 + s.rd TCK_PERIOD.CUR_US * 100 < x) →
       Answers (.tickInEdge z) s fun t => t.tick = s.tick) ∧
     (∀ e, s.tick.edge = some e → s.tick.due = none → s.tick.set = none →
       Answers .tickInHoldover s fun t => t.tick.edge = some (e + s.rd TCK_PERIOD.CUR_US * 1600) ∧ t.tick.holdover = true ∧
         Counted s t TCK_HOLD_CNT.COUNT 1))

/-- R52, R59, R54: at the emission of the set for a due tick the master forms it, with the next tick number; the watchdog marks
every running step from which nothing has come. Readings and choices of the model in it: log entry 16. -/
def Obligations.MasterForms : Prop :=
  ∀ (s : State) (d : Nat), s.emissionDue = some d →
    (Answers .masterEmission s fun t => ∃ x, t.tick.set = some (x, d) ∧ setTick x = (s.tickNow + 1) % 2 ^ 48 ∧
        setStop x = s.tick.stop ∧ setHops x = 0 ∧ setPath x = 0 ∧ t.tick.beats = [] ∧ t.tick.wdAbort = []) ∧
    (Answers .tickWatchdog s fun t =>
      (s.rd TCK_WD.ENABLE = 0 → t = s) ∧
      (s.rd TCK_WD.ENABLE = 1 → ∀ (c : Ctx) (r : MasterRun), s.tick.running[c] = some r →
        (s.tick.beats.any fun b => b.ctx == c && b.seq == r.seq) = false → s.allDone c r = false → c ∈ t.tick.wdAbort))

/-- R36, R40, R44, R46, R53, R172: a local tick takes the accepted set, a follower without one takes a holdover tick one later,
and the starvation test uses up the contexts that the tick marked; a tick set at a master is discarded and reported, and a
stale calibration ends ALIGNED. Readings and choices of the model in it: log entry 14. -/
def Obligations.LocalTicks : Prop :=
  (∀ (s : State), s.hubUp = true →
     (∀ (x : BitVec 192) (d : Nat), s.tick.set = some (x, d) →
       Answers .localTick s fun t => t.tick.set = none ∧ t.tick.first = false ∧ t.tick.lastFire = max s.now d) ∧
     (∀ e, s.holdoverDue = some e → Answers .followerHoldover s fun t => t.tick.lastFire = e ∧ s.now ≤ t.now) ∧
     (Answers .starvedTest s fun t => t.cist.starved = [])) ∧
  (∀ (s : State), s.leadUp = true → s.hubUp = true →
     (∀ (p : Port) (x : BitVec 192), s.isMaster = true →
       Answers (.tickSetAtMaster p x) s fun t => Reports s 0x0201 t ∧ t.tick = s.tick) ∧
     (∀ p, s.parentPort = some p →
       (s.staleNews p = true → Answers .calibrationStale s fun t => t.rd TCK_STATUS.ALIGNED = 0 ∧ Reports s 0x0203 t) ∧
       (s.staleNews p = false → Answers .calibrationStale s fun t => t = s)))

/-- R42, R43, R304, R443: a follower accepts a tick set from its parent port once, and takes its instant and its master when RUN
is set. -/
def Obligations.FollowerAccepts : Prop :=
  ∀ (s : State) (p : Port) (copy : Bool) (x : BitVec 192) (a : Nat),
    s.leadUp = true → s.hubUp = true → s.intBypass = false → s.portState p = 3 → s.ports[p].removed = false →
    s.isMaster = false → s.rd TCK_TREE.PARENT_V = 1 → s.rd TCK_TREE.PARENT = p.val →
    (s.tick.seen = some (setTick x) → Answers (.tickOrderedSet p copy x a) s fun t => t = s.at a) ∧
    (s.tick.seen ≠ some (setTick x) → s.rd TCK_CTRL.RUN = 0 →
      Answers (.tickOrderedSet p copy x a) s fun t => t.tick.seen = some (setTick x) ∧ t.tick.set = s.tick.set ∧
        t.rd TCK_STATUS.PATH = min 0xFFF ((setPath x * 625 + s.rd (PMP_LNK_LAT.PS p) + 9999) / 10000) ∧ t.rd TCK_STATUS.HOPS = setHops x) ∧
    (s.tick.seen ≠ some (setTick x) → s.rd TCK_CTRL.RUN = 1 → s.tick.set = none → s.hop p ≤ setFire x →
      Answers (.tickOrderedSet p copy x a) s fun t => t.tick.seen = some (setTick x) ∧
        t.tick.set = some (x, a + setFire x - s.hop p) ∧ t.tick.master = some ⟨setMaster x % 64, Nat.mod_lt _ (by decide)⟩)

/-- R51, R52, R54: what the master records of the step control packets of its members. -/
def Obligations.MasterRecords : Prop :=
  ∀ (s : State) (p : Pkt), s.hubUp = true → s.isMaster = true → s.landCheck p = none → ctlBad p = false →
    (s.ctxSet (ctxOf p)).testBit (srcOf p).val = true →
    (ptypeOf p = 0x08 → Answers (.readyReport p) s fun t => ctlRec p ∈ t.tick.reports ∧
      ∀ r, r ∈ t.tick.reports → r.chip = srcOf p → r.ctx = ctxOf p → r = ctlRec p) ∧
    (ptypeOf p = 0x09 → Answers (.progressBeacon p) s fun t => ctlRec p ∈ t.tick.beats) ∧
    (ptypeOf p = 0x0A → Answers (.localDone p) s fun t => ctlRec p ∈ t.tick.dones ∧ ctlRec p ∈ t.tick.beats)

/-- R48, R49, R50: an abort notice ends the live step it names; a step whose local conditions hold is finished. Readings and
choices of the model in it: log entry 20. -/
def Obligations.StepEnds : Prop :=
  ∀ (s : State), s.hubUp = true →
    (∀ (p : Pkt) (st : Step), ptypeOf p = 0x0B → s.landCheck p = none → ctlBad p = false → s.isMaster = false →
      s.liveStep (ctxOf p) = some st → s.current p = some st →
      Answers (.abortNotice p) s fun t => ∀ x, x ∈ t.steps (ctxOf p) → x.seq = st.seq → x.live = false) ∧
    (∀ (c : Ctx) (st : Step) (a : Attempt), s.liveStep c = some st → s.work.att[c] = some a → s.finishes c st a = true →
      Answers (.localFinish c) s fun t => ∃ x, x ∈ t.steps c ∧ x.seq = st.seq ∧ x.finished = true)

/-! ### Rings -/

/-- R71, R72, R93: doorbells and consumer indices, each taken in its range and refused outside it. Readings and choices of the
model in it: log entry 12. -/
def Obligations.DoorbellsAndHeads : Prop :=
  ∀ (s : State) (c : Ctx) (v : Word), s.busUp 0 = true →
    (s.rd (RNG_CTX_CTRL.ENABLE c) = 0 → Answers (.doorbell c v) s fun t => Reports s 0x0302 t ∧
      t.rd (RNG_DOORBELL.TAIL c) = s.rd (RNG_DOORBELL.TAIL c)) ∧
    (s.rd (RNG_CTX_CTRL.ENABLE c) = 1 → dist32 v.toNat (s.rd (RNG_DOORBELL.TAIL c)) < 2 ^ 31 →
      dist32 v.toNat (s.rd (RNG_SQ_HEAD.INDEX c)) ≤ 2 ^ s.rd (RNG_CTX_CTRL.SQ_LOG2 c) →
      Answers (.doorbell c v) s fun t => t.rd (RNG_DOORBELL.TAIL c) = v.toNat) ∧
    (s.rd (RNG_CTX_CTRL.ENABLE c) = 1 → 2 ^ s.rd (RNG_CTX_CTRL.SQ_LOG2 c) < dist32 v.toNat (s.rd (RNG_SQ_HEAD.INDEX c)) →
      Answers (.doorbell c v) s fun t => t.ringFrozen c = true ∧ t.rd (RNG_DOORBELL.TAIL c) = s.rd (RNG_DOORBELL.TAIL c)) ∧
    (headOk v.toNat (s.rd (RNG_CQ_HEAD.INDEX c)) (s.rd (RNG_CQ_TAIL.INDEX c)) = true →
      Answers (.cqHeadWrite c v) s fun t => t.rd (RNG_CQ_HEAD.INDEX c) = v.toNat) ∧
    (headOk v.toNat (s.rd (RNG_CQ_HEAD.INDEX c)) (s.rd (RNG_CQ_TAIL.INDEX c)) = false →
      Answers (.cqHeadWrite c v) s fun t => Reports s 0x0303 t ∧ t.rd (RNG_CQ_HEAD.INDEX c) = s.rd (RNG_CQ_HEAD.INDEX c)) ∧
    (headOk v.toNat (s.rd RNG_EQ_HEAD.INDEX) (s.rd RNG_EQ_TAIL.INDEX) = true →
      Answers (.eqHeadWrite v) s fun t => t.rd RNG_EQ_HEAD.INDEX = v.toNat) ∧
    (headOk v.toNat (s.rd RNG_EQ_HEAD.INDEX) (s.rd RNG_EQ_TAIL.INDEX) = false →
      Answers (.eqHeadWrite v) s fun t => Reports s 0x0303 t ∧ t.rd RNG_EQ_HEAD.INDEX = s.rd RNG_EQ_HEAD.INDEX)

/-- R69, R94: a ring that is enabled starts with all its indices 0; one is disabled only when it is idle. -/
def Obligations.RingsOnAndOff : Prop :=
  ∀ (s : State) (c : Ctx) (v : Word), s.busUp 0 = true →
    (s.rd (RNG_CTX_CTRL.ENABLE c) = 0 → (RNG_CTX_CTRL.ENABLE c).get v = 1 →
      Answers (.ctxRingEnable c v) s fun t => t.rd (RNG_CTX_CTRL.ENABLE c) = 1 ∧ t.rd (RNG_DOORBELL.TAIL c) = 0 ∧
        t.rd (RNG_SQ_HEAD.INDEX c) = 0 ∧ t.rd (RNG_CQ_TAIL.INDEX c) = 0 ∧ t.rd (RNG_CQ_HEAD.INDEX c) = 0) ∧
    (s.rd (RNG_CTX_CTRL.ENABLE c) = 1 → (RNG_CTX_CTRL.ENABLE c).get v = 0 → s.steps c = [] →
      Answers (.ctxRingDisable c v) s fun t => t.rd (RNG_CTX_CTRL.ENABLE c) = 0) ∧
    (s.rd (RNG_CTX_CTRL.ENABLE c) = 1 → (RNG_CTX_CTRL.ENABLE c).get v = 0 → s.steps c ≠ [] →
      Answers (.ctxRingDisable c v) s fun t => t.rd (RNG_CTX_CTRL.ENABLE c) = 1 ∧ Reports s 0x0304 t) ∧
    (s.rd RNG_EQ_CTRL.ENABLE = 0 → RNG_EQ_CTRL.ENABLE.get v = 1 →
      Answers (.eqEnable v) s fun t => t.rd RNG_EQ_CTRL.ENABLE = 1 ∧ t.rd RNG_EQ_TAIL.INDEX = 0 ∧ t.rd RNG_EQ_HEAD.INDEX = 0)

/-- R76-R78: the fetch of the next descriptor goes out; a fetched one becomes READY and the next sequence number is one later, or
it is marked with the outcome of its first failing check. Readings and choices of the model in it: log entry 13. -/
def Obligations.DescriptorPath : Prop :=
  ∀ (s : State) (c : Ctx), s.busUp 0xc = true →
    (s.mayFetch c = true → Answers (.descriptorFetch c) s fun t => t.busyFor (Purpose.isDescriptor c) = true) ∧
    (∀ (st : Step) (detail status : Nat), s.unchecked c = some st → s.checkStep c st = some (detail, status) →
      Answers (.descriptorCheck c) s fun t => t.unchecked c = none ∧
        ∃ x, x ∈ t.steps c ∧ x.seq = st.seq ∧ x.state = .fetched ∧ x.status = status ∧ x.detail = detail) ∧
    (∀ (st : Step), s.unchecked c = some st → s.checkStep c st = none → ((s.steps c).any fun x => x.state == .ready) = false →
      Answers (.descriptorCheck c) s fun t => t.unchecked c = none ∧
        t.rd (RNG_NEXT_SEQ.SEQ c) = (s.rd (RNG_NEXT_SEQ.SEQ c) + 1) % 2 ^ 32 ∧
        ∃ x, x ∈ t.steps c ∧ x.seq = st.seq ∧ x.state = .ready)

/-- R81, R86, R91: a completion record goes out once its ring has room and the step's writes and events are done; its good
response advances the completion ring. Readings and choices of the model in it: log entries 8, 18. -/
def Obligations.CompletionPath : Prop :=
  ∀ (s : State) (c : Ctx), s.hubUp = true →
    (∀ (st : Step) (rest : List Step), s.busUp 0xc = true → s.steps c = st :: rest → st.state = .fetched → st.checked = true → st.recOut = false →
      s.ringFrozen c = false → s.writesDone c st.seq = true → s.eventsPending c st.seq = false → s.cqRoom c st.index = true →
      Answers (.rejectRetire c) s fun t => t.busyFor (Purpose.isCompletion c) = true ∧ ∃ x, x ∈ t.steps c ∧ x.recOut = true) ∧
    (∀ (st : Step), s.busUp 0xc = true → ((s.steps c).find? fun x => x.state == .committed || x.state == .retiring) = some st → st.recOut = false →
      s.ringFrozen c = false → s.writesDone c st.seq = true → s.eventsPending c st.seq = false → s.cqRoom c st.index = true →
      Answers (.completionRecordWrite c) s fun t =>
        t.busyFor (Purpose.isCompletion c) = true ∧ ∃ x, x ∈ t.steps c ∧ x.recOut = true) ∧
    (∀ (x : HostTxn) (st : Step), s.txnOf (Purpose.isCompletion c) = some x → ((s.steps c).find? fun y => y.recOut) = some st →
      Answers (.completionWriteResponse c 0) s fun t => t.rd (RNG_CQ_TAIL.INDEX c) = (s.rd (RNG_CQ_TAIL.INDEX c) + 1) % 2 ^ 32 ∧
        ∀ y, y ∈ t.steps c → y.index ≠ st.index)

/-- R90, R91, R338: the event writer puts the oldest record into the event ring; a good response advances the ring, a first bad
one writes again, a second loses the record. -/
def Obligations.EventWriter : Prop :=
  ∀ (s : State), s.hubUp = true →
    (∀ (e : Event) (rest : List Event), s.busUp 0xc = true → s.evq.inflight = none → s.evq.waiting = e :: rest →
      Answers .eventRecordWrite s fun t => t.evq.waiting = rest ∧
        (s.rd RNG_EQ_CTRL.ENABLE = 1 → dist32 (s.rd RNG_EQ_TAIL.INDEX) (s.rd RNG_EQ_HEAD.INDEX) < 2 ^ s.rd RNG_EQ_CTRL.LOG2 →
          t.evq.inflight = some (e, 0) ∧ t.busyFor Purpose.isEvent = true) ∧
        (s.rd RNG_EQ_CTRL.ENABLE = 0 → t.evq.inflight = none ∧ t.evq.lost = s.evq.lost + 1 ∧ Counted s t RNG_EQ_LOST.COUNT 1)) ∧
    (∀ (x : HostTxn) (e : Event) (n err : Nat), s.txnOf Purpose.isEvent = some x → s.evq.inflight = some (e, n) →
      Answers (.eventWriteResponse err) s fun t =>
        (err = 0 → t.evq.inflight = none ∧ t.rd RNG_EQ_TAIL.INDEX = (s.rd RNG_EQ_TAIL.INDEX + 1) % 2 ^ 32) ∧
        (err ≠ 0 → n = 0 → t.evq.inflight = some (e, 1)) ∧ (err ≠ 0 → n ≠ 0 → t.evq.inflight = none))

/-! ### Tables, templates, noise -/

/-- R102, R127: the write that starts a load of any kind makes the shadow LOADING and the unit busy, or is refused with its code;
a load ends with every byte or after an error, and the shadow is OPEN again. Readings and choices of the model in it: log
entry 66. -/
def Obligations.TableLoads : Prop :=
  (∀ (s : State) (v : Word) (i : Instr) (k : Nat) (c : Ctx), s.busUp 0 = true →
     ((i = .loadHomeTable v ∧ k = 0) ∨ (i = .loadLayerEntries v ∧ k = 1) ∨ (i = .loadRouterRows v ∧ k = 2) ∨
       (i = .copyActiveSet v ∧ k = 3)) →
     RTE_LOAD_CTRL.GO.get v = 1 → RTE_LOAD_CTRL.KIND.get v = k → RTE_LOAD_CTRL.CTX.get v = c.val →
     (s.loadRefusal c k (RTE_LOAD_CTRL.LAYER.get v) (s.rd RTE_LOAD_ARG.LEN) (s.rd RTE_LOAD_ARG.DEST) = 0 →
       Answers i s fun t => t.rd RTE_LOAD_STATUS.BUSY = 1 ∧ t.rd (RTE_SET_STATUS.SHADOW c) = 1 ∧
         (loadBytes k (s.rd RTE_LOAD_ARG.LEN) ≠ 0 → t.busyFor Purpose.isTable = true) ∧
         ∃ l, t.work.load = some l ∧ l.ctx = c ∧ l.kind = k ∧ l.len = loadBytes k (s.rd RTE_LOAD_ARG.LEN)) ∧
     (s.loadRefusal c k (RTE_LOAD_CTRL.LAYER.get v) (s.rd RTE_LOAD_ARG.LEN) (s.rd RTE_LOAD_ARG.DEST) ≠ 0 →
       Answers i s fun t => Reports s 0x0401 t ∧ t.work.load = s.work.load)) ∧
  (∀ (s : State) (l : TableLoad), s.hubUp = true → s.work.load = some l → (l.err ≠ 0 ∨ l.len ≤ gotBytes l.got) →
     Answers .loadEnd s fun t => t.work.load = none ∧ t.rd RTE_LOAD_CTRL.GO = 0 ∧ t.rd RTE_LOAD_STATUS.BUSY = 0 ∧
       t.rd (RTE_SET_STATUS.SHADOW l.ctx) = 0 ∧ (l.err ≠ 0 → Reports s 0x0401 t) ∧
       (s.mch.mstate = .out → t.rd RTE_LOAD_STATUS.DONE = 1))

/-- R101, R104, R119, R130: ARM takes its tick, or is refused with the code of its first failing check; DISARM undoes it; RESEED
reads 1 while the seeding it starts is under way, which ends with the lanes seeded or with the report of its failure. Readings
and choices of the model in it: log entries 24, 102, 103. -/
def Obligations.ArmsAndSeeds : Prop :=
  (∀ (s : State) (c : Ctx), s.busUp 0 = true →
     (s.armFault c = none →
       Answers (.arm c) s fun t => t.rd (RTE_SET_STATUS.SHADOW c) = 2 ∧ t.rd (RTE_SET_STATUS.ERR c) = 0) ∧
     (∀ err d1 d2, s.armFault c = some (err, d1, d2) →
       Answers (.arm c) s fun t => t.rd (RTE_SET_STATUS.ERR c) = err ∧ Reports s 0x0402 t ∧
         t.rd (RTE_SET_STATUS.SHADOW c) = s.rd (RTE_SET_STATUS.SHADOW c)) ∧
     (s.swapTick c ≤ s.tickNow →
       Answers (.arm c) s fun t => t.rd (RTE_SET_STATUS.ERR c) = 8 ∧ Reports s 0x0402 t ∧
         t.rd (RTE_SET_STATUS.SHADOW c) = s.rd (RTE_SET_STATUS.SHADOW c)) ∧
     (s.tickNow < s.swapTick c → s.rd (RTE_SET_STATUS.SHADOW c) ≠ 0 →
       Answers (.arm c) s fun t => t.rd (RTE_SET_STATUS.ERR c) = 9 ∧ Reports s 0x0402 t ∧
         t.rd (RTE_SET_STATUS.SHADOW c) = s.rd (RTE_SET_STATUS.SHADOW c)) ∧
     (s.rd (RTE_SET_STATUS.SHADOW c) = 2 → Answers (.disarm c) s fun t => t.rd (RTE_SET_STATUS.SHADOW c) = 0) ∧
     (s.rd (RTE_SET_STATUS.SHADOW c) ≠ 2 → Answers (.disarm c) s fun t => t = s)) ∧
  (∀ (s : State),
     (∀ (v : Word), s.busUp 0 = true → NSE_CTRL.RESEED.get v = 1 →
       Answers (.reseed v) s fun t => t.rd NSE_CTRL.RESEED = 1 ∧ t.act.seeding = some (NSE_CTRL.SRC.get v == 0)) ∧
     (∀ (ok : Bool) (en : List (BitVec 256)), s.hubUp = true →
       (s.act.seeding = some true →
         Answers (.seedingDone en ok) s fun t => t.act.seeding = none ∧ t.rd NSE_CTRL.RESEED = 0 ∧
           (ok = true → t.rd NSE_STATUS.SEEDED = 1 ∧ t.rd NSE_STATUS.HEALTH_FAIL = 0 ∧
             (s.liveCtxs = [] → t.act.lanes = seedLanes 128 (en.headD 0))) ∧
           (ok = false → t.rd NSE_STATUS.HEALTH_FAIL = 1 ∧ Reports s 0x1001 t)) ∧
       (s.act.seeding = some false →
         Answers (.seedingDone en ok) s fun t => t.act.seeding = none ∧ t.rd NSE_CTRL.RESEED = 0 ∧
           (s.softSeed ≠ 0 → t.rd NSE_STATUS.SEEDED = 1 ∧ (s.liveCtxs = [] → t.act.lanes = seedLanes 128 s.softSeed)) ∧
           (s.softSeed = 0 → Reports s 0x1001 t))))

/-- R164, R280, R281: the Cistern is enabled when its pools are legal, and disabled when every buffer is free; a template load
starts or is refused, and at its end the context has the image when its checks pass. Readings and choices of the model in it:
log entry 60. -/
def Obligations.CisternAndTemplates : Prop :=
  (∀ (s : State) (v : Word), s.busUp 0 = true →
     (CST_CTRL.ENABLE.get v = 1 → s.rd CST_CTRL.ENABLE = 0 → s.cistBadPool = none →
       Answers (.cstEnable v) s fun t => t.rd CST_CTRL.ENABLE = 1 ∧ t.cist.cfgErr = false) ∧
     (∀ p, CST_CTRL.ENABLE.get v = 1 → s.rd CST_CTRL.ENABLE = 0 → s.cistBadPool = some p →
       Answers (.cstEnable v) s fun t => t.rd CST_CTRL.ENABLE = 0 ∧ t.cist.cfgErr = true ∧ Reports s 0x0605 t) ∧
     (CST_CTRL.ENABLE.get v = 0 → s.rd CST_CTRL.ENABLE = 1 →
       Answers (.cstEnable v) s fun t =>
         ((List.range 4).all (fun p => s.poolFree p == s.poolCount p) = true → t.rd CST_CTRL.ENABLE = 0) ∧
         ((List.range 4).all (fun p => s.poolFree p == s.poolCount p) = false → t.rd CST_CTRL.ENABLE = 1 ∧ Reports s 0x0601 t))) ∧
  (∀ (s : State), s.hubUp = true →
     (∀ (v : Word) (c : Ctx), s.busUp 0 = true → CTX_TPL_CTRL.GO.get v = 1 → CTX_TPL_CTRL.CTX.get v = c.val →
       (s.tplRefusal c (CTX_TPL_CTRL.LEN.get v) = 0 →
         Answers (.templateLoad v) s fun t => t.rd CTX_TPL_STATUS.BUSY = 1 ∧ t.rd (CTX_STATUS.TPL_V c) = 0 ∧
           t.busyFor Purpose.isTemplate = true ∧ ∃ l, t.work.tload = some l ∧ l.ctx = c ∧ l.len = 64 * CTX_TPL_CTRL.LEN.get v) ∧
       (s.tplRefusal c (CTX_TPL_CTRL.LEN.get v) ≠ 0 →
         Answers (.templateLoad v) s fun t => Reports s 0x0B02 t ∧ t.work.tload = s.work.tload ∧
           t.rd CTX_TPL_STATUS.ERR = s.tplRefusal c (CTX_TPL_CTRL.LEN.get v))) ∧
     (∀ (l : TplLoad), s.work.tload = some l → (l.err = true ∨ l.len ≤ gotBytes l.got) →
       Answers .templateLoadEnd s fun t => t.work.tload = none ∧ t.rd CTX_TPL_STATUS.BUSY = 0 ∧
         (l.err = false → s.tplOk (imageOf l.len l.got) = true →
           t.rd (CTX_STATUS.TPL_V l.ctx) = 1 ∧ t.act.core.tpl[l.ctx] = imageOf l.len l.got) ∧
         ((l.err = true ∨ s.tplOk (imageOf l.len l.got) = false) → Reports s 0x0B02 t)))

/-! ### Admission, dispatch, tiles, return -/

/-- R154, R166, R195: a decided admission window moves on by its length; a granted buffer makes its requester the last one served;
a flush leaves no queue entry of its context. Readings and choices of the model in it: log entries 22, 95. -/
def Obligations.AdmissionAndGrants : Prop :=
  ∀ (s : State),
    (∀ (c : Ctx) (st : Step) (a : Attempt) (toks : List Token) (d : Vector Int 16), s.busUp 0x9 = true →
      s.liveStep c = some st → s.work.att[c] = some a → s.window c st a = some toks →
      chooseCtx s.work.admDef s.windowReady s.work.admCtx s.visitGain = some (c, d) → s.mapCheck c st = none →
      ((s.mapRead c st).touchSram 2 (tblBase c st.bank) 32768 c).2 = true →
      Answers (.admissionWindow c) s fun t =>
        ∃ b, t.work.att[c] = some b ∧ b.nextWin = a.nextWin + 2 ^ min 11 (s.rd (ADM_CTX_CFG.AWIN c))) ∧
    (∀ (pick : Nat) (r : CstReq) (x : State × Nat), s.busUp 0x9 = true → s.nextGrant = some r → s.takeBuf r.who r.bytes (s.grantCount r.why) pick = some x →
      Answers (.cisternGrant pick) s fun t => t.cist.last = r.who) ∧
    (∀ (v : Word), s.busUp 0 = true → PMP_Q_CTRL.FLUSH.get v = 1 →
      Answers (.queueFlush v) s fun t => t.rd PMP_Q_CTRL.FLUSH = 0 ∧
        ∀ q, q ∈ t.work.queues → q.ctx.val ≠ PMP_Q_CTRL.CTX.get v)

/-- R191, R193, R197-R199, R445: a DISPATCH that lands is stale, malformed, waits for a Cistern buffer of the host path, or is
queued with its expert on its Well; the first good EOD of a source stands with its home, on the host path or on the Well.
Readings and choices of the model in it: log entries 33, 35. -/
def Obligations.DispatchAndEodLand : Prop :=
  (∀ (s : State) (p : Pkt), s.busUp 0xa = true → (ptypeOf p = 1 ∨ ptypeOf p = 2) → s.landCheck p = none → s.heldBack p = false →
     (∀ q, q ∈ s.work.queues → q.entries ≠ []) → (∀ w : WellNo, s.wells[w].rx = [] ∧ ∀ q, q ∈ s.wells[w].queues → q.entries ≠ []) →
     (s.current p = none → Answers (.dispatch p) s fun t => Counted s t PMP_STALE_CNT.COUNT 1) ∧
     (∀ st, s.current p = some st → s.malformed p = true →
       Answers (.dispatch p) s fun t => Counted s t PMP_COUNT_ERR_CNT.COUNT 1 ∧ Reports s 0x0704 t) ∧
     (∀ st, s.current p = some st → s.malformed p = false → homeSlot (dDest p) = 24 →
       (s.hostHome (ctxOf p) (seqOf p) (attOf p)).headerBad (srcOf p) (dExpert p) (dBucket p) (dShared p) = false →
       s.hostRoom p = true → Answers (.dispatch p) s fun t => ∃ r, r ∈ t.cist.waits ∧ r.why = .land p) ∧
     (∀ (st : Step) (w : WellNo) (o : WellOpen), s.current p = some st → s.malformed p = false → homeSlot (dDest p) ≠ 24 →
       s.homeWell (dDest p) = some w → s.wellFrozen w = false → s.wellOpen w (ctxOf p) (seqOf p) (attOf p) = some o →
       (homeRec s.wells[w].homes (mkHome s.chip w.val) (ctxOf p) (seqOf p) (attOf p)).headerBad (srcOf p) (dExpert p) (dBucket p)
         (dShared p) = false → o.opcode ≠ 2 → s.landRoom w (ctxOf p) = true →
       queueRoom s.wells[w].queues 256 (ctxOf p) (seqOf p) (attOf p) (dExpert p) 0 = true →
       Answers (.dispatch p) s fun t => ∃ q x, q ∈ t.wells[w].queues ∧ q.expert = dExpert p ∧ x ∈ q.entries ∧ x.token = dToken p ∧
         x.rank = dRank p ∧ x.weight = dWeight p)) ∧
  (∀ (s : State) (p : Pkt) (st : Step), s.busUp 0xa = true → ptypeOf p = 5 → s.landCheck p = none → s.current p = some st →
     s.malformed p = false →
     (homeSlot (eDest p) = 24 → ((s.hostHome (ctxOf p) (seqOf p) (attOf p)).eod (srcOf p)) = none →
       (s.hostHome (ctxOf p) (seqOf p) (attOf p)).eodBad (eodOf p) (eTotal p) = false →
       Answers (.eod p) s fun t => ∃ r, r ∈ t.work.homes ∧ r.home = hostPath s.chip ∧ eodOf p ∈ r.eods) ∧
     (∀ w, homeSlot (eDest p) ≠ 24 → s.homeWell (eDest p) = some w → s.wellFrozen w = false →
       (homeRec s.wells[w].homes (mkHome s.chip w.val) (ctxOf p) (seqOf p) (attOf p)).eod (srcOf p) = none →
       (homeRec s.wells[w].homes (mkHome s.chip w.val) (ctxOf p) (seqOf p) (attOf p)).eodBad (eodOf p) (eTotal p) = false →
       Answers (.eod p) s fun t => ∃ r, r ∈ t.wells[w].homes ∧ eodOf p ∈ r.eods))

/-- R205, R207, R143: a RETURN whose turn it is is added to its token; one of ranks not expected is counted; a finished row leaves
the Meadow once it is normalised. Readings and choices of the model in it: log entry 34. -/
def Obligations.ReturnAndNormalise : Prop :=
  ∀ (s : State),
    (∀ (p : Pkt), s.busUp 0xb = true → s.heldBack p = false → (ptypeOf p = 3 ∨ ptypeOf p = 4) → s.landCheck p = none → s.current p = none →
      Answers (.returnPacket p) s fun t => Counted s t PMP_STALE_CNT.COUNT 1) ∧
    (∀ (p : Pkt) (st : Step), s.busUp 0xb = true → s.heldBack p = false → (ptypeOf p = 3 ∨ ptypeOf p = 4) → s.landCheck p = none → s.current p = some st →
      s.malformed p = false → s.mead (ctxOf p) (st.localTok (bitsOf p.w1.toNat 0 22)) = none →
      Answers (.returnPacket p) s fun t => Counted s t CMB_DUP_CNT.COUNT 1 ∧ Reports s 0x0803 t) ∧
    (∀ (p : Pkt) (st : Step) (m : MeadTok), s.busUp 0xb = true → s.heldBack p = false → (ptypeOf p = 3 ∨ ptypeOf p = 4) → s.landCheck p = none → s.current p = some st →
      s.malformed p = false → st.tokBase ≤ bitsOf p.w1.toNat 0 22 →
      s.mead (ctxOf p) (st.localTok (bitsOf p.w1.toNat 0 22)) = some m → bitsOf p.w2.toNat 0 36 ≠ 0 →
      bitsOf p.w2.toNat 0 36 &&& m.expected = bitsOf p.w2.toNat 0 36 → bitsOf p.w2.toNat 0 36 &&& m.added = 0 →
      s.work.parked = [] → s.early (ctxOf p) (st.localTok (bitsOf p.w1.toNat 0 22)) = [] → m.turn (bitsOf p.w1.toNat 22 6) = true → s.slotFor m = true →
      m.expected &&& (m.added ||| bitsOf p.w2.toNat 0 36) ≠ m.expected →
      Answers (.returnPacket p) s fun t => ∃ n, t.mead (ctxOf p) (st.localTok (bitsOf p.w1.toNat 0 22)) = some n ∧
        n.added = m.added ||| bitsOf p.w2.toNat 0 36) ∧
    (∀ (c : Ctx) (k : Nat) (m : MeadTok) (st : Step), s.busUp 0x8 = true → nextRow s.work.norm = some (c, k) → s.mead c k = some m →
      s.liveStep c = some st → Answers .rowNormalise s fun t => t.mead c k = none)

/-- R200, R201, R231: a host-path tile of up to 128 entries takes a slot of the tile table; a partial tile of a Well is counted.
Readings and choices of the model in it: log entry 95. -/
def Obligations.TilesIssue : Prop :=
  ∀ (s : State),
    (∀ (home e : Nat) (c : Ctx) (st : Step) (q : Queue), s.busUp 0xb = true → s.liveStep c = some st → homeChip home = s.chip → homeSlot home = 24 →
      (s.work.queues.find? fun x => x.isFor c st.seq (st.replays % 8) e) = some q →
      q.issuable (s.hostHome c st.seq (st.replays % 8)) (s.memberList c) = true → s.freeSlots ≠ [] →
      Answers (.issueTile home c e) s fun t => t.work.issued = s.work.issued + 1 ∧
        ∃ x, x ∈ t.work.tiles ∧ x.slot ∈ s.freeSlots ∧ x.ctx = c ∧ x.expert = e ∧ x.entries = q.entries.take 128) ∧
    (∀ (w : WellNo) (q : Queue) (o : WellOpen), s.hubUp = true → s.wells[w].inService = true → s.wells[w].running = none → s.slotWait w = true →
      s.fullest w = some q → s.wellOpen w q.ctx q.seq q.att = some o →
      Answers (.partialTile w) s fun t => Counted s t (WEL_PARTIAL_CNT.COUNT w.val) 1)

/-- R287-R289: a take hands out the chosen tile with the context's TICKET, or answers an empty word with VALID 0. Readings and
choices of the model in it: log entries 44, 45. -/
def Obligations.TakesAnswer : Prop :=
  ∀ (s : State) (sl src : Nat), s.sliceUp sl = true →
    (∀ (c : Ctx) (x : Tile), s.chooseTile c src = some x →
      Answers (.take sl src c) s fun t =>
        Drives t (.slaveRead (some sl) (toBytes 8 (takeWord x s.work.tickets[x.ctx]).toNat) 0) ∧
        t.work.tickets[x.ctx] = s.work.tickets[x.ctx] + 1 ∧ ∀ y, y ∈ t.work.tiles → y.slot = x.slot → y.taken = true) ∧
    (∀ (c : Ctx), s.chooseTile c src = none →
      Answers (.take sl src c) s fun t => Counted s t CTX_TAKE_EMPTY_CNT.COUNT 1 ∧
        ∃ w : DWord, w.getLsbD 11 = false ∧ w.getLsbD 12 = s.finalTake c ∧ Drives t (.slaveRead (some sl) (toBytes 8 w.toNat) 0)) ∧
    (∀ (c : Ctx) (d : Vector Int 16) (x : Tile),
      chooseCtx s.work.takeDef (fun c => s.readyTiles c != []) s.work.takeCtx (fun c => s.rd (CTX_SHARE.SHARE c)) = some (c, d) →
      s.chooseTile c src = some x →
      Answers (.anyContextTake sl src) s fun t => t.work.takeCtx = some c ∧
        Drives t (.slaveRead (some sl) (toBytes 8 (takeWord x s.work.tickets[x.ctx]).toNat) 0)) ∧
    (chooseCtx s.work.takeDef (fun c => s.readyTiles c != []) s.work.takeCtx (fun c => s.rd (CTX_SHARE.SHARE c)) = none →
      Answers (.anyContextTake sl src) s fun t => Counted s t CTX_TAKE_EMPTY_CNT.COUNT 1 ∧
        ∃ w : DWord, w.getLsbD 11 = false ∧ Drives t (.slaveRead (some sl) (toBytes 8 w.toNat) 0))

/-- R169-R171, R202, R335, R336: what the host writes and reads in the slave window. -/
def Obligations.SlaveWindow : Prop :=
  ∀ (s : State), s.slaveUp = true →
    (∀ (w : Word) (b : Buf), s.badRelease w = false → (s.work.tiles.find? fun t => (t.holds w.toNat).isSome) = none →
      (s.cist.bufs.find? fun b => b.handle == w.toNat) = some b → b.count ≤ 1 →
      Answers (.releaseWord w) s fun t => t.cist.bufs = s.cist.bufs.erase b) ∧
    (∀ (n j : Nat) (dw : Word) (x : Tile), s.weightSlot n j = some x →
      Answers (.tileWeightWrite n j dw) s fun t => Drives t (.slaveWrite none 0) ∧
        ∃ y, y ∈ t.work.tiles ∧ y.slot = n ∧ (y.entries[j]?.map fun e => e.weight) = some dw) ∧
    (∀ (n j : Nat) (dw : Word), s.weightSlot n j = none →
      Answers (.tileWeightWrite n j dw) s fun t => Drives t (.slaveWrite none 2) ∧ t.work = s.work) ∧
    (∀ (off : Nat) (data : List Byte), off + data.length ≤ 0x4000000 →
      (Answers (.cisternDataAccess true off data) s fun t => mread zeroByte t.cist.data off data.length = data ∧
        Drives t (.slaveWrite none 0)) ∧
      (Answers (.cisternDataAccess false off data) s fun t => t.cist = s.cist ∧
        Drives t (.slaveRead none (mread zeroByte s.cist.data off data.length) 0))) ∧
    (∀ (sl op off : Nat), s.sliceUp sl = true → s.unassigned op off = true →
      Answers (.slaveDecodeError sl op off) s fun t => Drives t (.credit sl 1) ∧
        (op = 1 → Drives t (.slaveWrite (some sl) 2)) ∧
        (op ≠ 1 → Drives t (.slaveRead (some sl) (List.replicate (if op = 0 then 64 else 8) 0) 2)))

/-- R58, R331, R332, R338, R350, R352, R404: a slice in reset holds no credit and no request, and released has its initial
credits; beats of read data gather under their tag, what an orphan receives is discarded and its tag is free at the last beat,
and an error of either kind is reported. Readings and choices of the model in it: log entry 84. -/
def Obligations.HostPort : Prop :=
  (∀ (s : State) (sl : Nat) (x : Slice), sl < s.build.hpSlices → s.host.slices[sl]? = some x →
     (Answers (.sliceReset sl) s fun t => t.host.slices[sl]? = some { inReset := true, credits := 0, takes := [] }) ∧
     (x.inReset = true → Answers (.hpRstRelease sl) s fun t =>
       t.host.slices[sl]? = some { x with inReset := false, credits := s.build.crdInit } ∧ Drives t (.credit sl s.build.crdInit))) ∧
  (∀ (s : State) (tag : Fin 1024) (x : HostTxn), s.hubUp = true → s.txnAt tag = some x →
     (x.req.write = false →
       (∀ d, x.orphan = false → Answers (.hostReadData tag d false 0) s fun t => ∃ y, t.txnAt tag = some y ∧ y.req = x.req ∧
         y.got = x.got ++ slice (toBytes 64 d.toNat) ((x.req.addr + x.got.length) % 64)
           (min (64 - (x.req.addr + x.got.length) % 64) (x.req.len - x.got.length))) ∧
       (∀ d err, x.orphan = true → Answers (.hostReadData tag d true err) s fun t => t = s.endTxn x) ∧
       (∀ d last err, x.orphan = false → err ≠ 0 → Answers (.hostReadData tag d last err) s fun t => Reports s 0x0101 t)) ∧
     (x.req.write = true → (∀ c i, x.req.why ≠ .completion c i) → x.req.why ≠ .event →
       (∀ c q att, x.req.why = .output c q att ∨ x.req.why = .aux c q att →
         Answers (.hostWriteResponse tag 0) s fun t => t = s.endTxn x) ∧
       (∀ err, err ≠ 0 → Answers (.hostWriteResponse tag err) s fun t => Reports s 0x0101 t)))

/-! ### Wells -/

/-- R233, R238: STEP_OPEN opens its attempt on the Well; STEP_CLOSE closes it, and on a commit its activation log is valid.
Readings and choices of the model in it: log entry 35. -/
def Obligations.WellOpensAndCloses : Prop :=
  ∀ (s : State) (w : WellNo) (p : Pkt), s.wellUp w = true →
    (ptypeOf p = 0x30 → s.wellFrozen w = false → s.openFor w p = none → s.wells[w].dram = [] →
      Answers (.stepOpen w p) s fun t => ∃ o, o ∈ t.wells[w].opens ∧ o.ctx = ctxOf p ∧ o.seq = seqOf p ∧ o.att = attOf p) ∧
    (∀ o, ptypeOf p = 0x31 → s.openFor w p = some o →
      Answers (.stepClose w p) s fun t => t.wells[w].opens.length + 1 = s.wells[w].opens.length ∧
        (bitsOf p.w1.toNat 0 2 = 0 → ∀ e, e ∈ t.wells[w].actlog[ctxOf p] → e.seq = o.seq → e.valid = true))

/-- R109, R231, R232, R394: a SCORE_ROW joins a scoring tile, or waits for a landing slot; logits that were not asked for freeze
the Well link. Readings and choices of the model in it: log entry 35. -/
def Obligations.WellScoring : Prop :=
  ∀ (s : State) (w : WellNo) (p : Pkt), s.wellUp w = true → s.wellFrozen w = false →
    (∀ o, ptypeOf p = 0x32 → s.openFor w p = some o → s.landRoom w (ctxOf p) = true → s.wells[w].rx = [] →
      Answers (.scoreRow w p) s fun t => ∃ k : ScoreTile, (k ∈ t.wells[w].scoring ∨ .score k ∈ t.wells[w].waiting ∨
        t.wells[w].running = some (.score k)) ∧ ∃ x, x ∈ k.toks ∧ x.1 = bitsOf p.w1.toNat 0 22) ∧
    (∀ o, ptypeOf p = 0x32 → s.openFor w p = some o → s.landRoom w (ctxOf p) = false → s.wells[w].rx = [] →
      Answers (.scoreRow w p) s fun t => t.wells[w].rx = [⟨p, false⟩]) ∧
    (∀ st, s.arbHeld 8 = false → ptypeOf p = 0x33 → s.current p = some st → s.logitsDue w p st = none →
      Answers (.scoreLogits w p) s fun t => t.wellFrozen w = true) ∧
    (∀ (st : Step) (tk : Token) (l : LayerE) (x : Nat × Nat × Nat), s.arbHeld 8 = false → ptypeOf p = 0x33 → s.current p = some st →
      s.liveStep (ctxOf p) = some st → s.logitsDue w p st = some (tk, l) → l.rowsOf w = some x →
      Answers (.scoreLogits w p) s fun t => t.wellFrozen w = false ∧ ∃ y, y ∈ t.steps (ctxOf p) ∧ y.live = true ∧ y.beaconSent = true)

/-- R50, R212, R213, R229, R238, R394: the ledger bytes a Hub writes to a Well and reads from it; a WELL_REPORT of KIND 2 counts
the Well's local finish, and a tile that ends on a Well reports to the Hub. Readings and choices of the model in it: log entry
35. -/
def Obligations.WellLedgerAndReports : Prop :=
  (∀ (s : State) (w : WellNo) (p : Pkt), s.wellUp w = true → s.wellFrozen w = false →
     (∀ o, ptypeOf p = 0x34 → s.openFor w p = some o → p.body.length = bitsOf p.w2.toNat 0 24 →
       s.wellQuiet w = true → s.dramFree w (.ledgerWrite p) = true →
       Flips.within s.wells[w].flips (bitsOf p.w1.toNat 0 37) (bitsOf p.w2.toNat 0 24) = [] →
       Answers (.ledgerWrite w p) s fun t => t.stackRead w (bitsOf p.w1.toNat 0 37) p.body.length = p.body) ∧
     (∀ o, ptypeOf p = 0x35 → s.openFor w p = some o →
       s.wells[w].dram = [] → s.dramFree w (.ledgerRead p) = true →
       Flips.within s.wells[w].flips (bitsOf p.w1.toNat 0 37) (bitsOf p.w2.toNat 0 24) = [] →
       Answers (.ledgerRead w p) s fun t => ∃ l, l ∈ t.landed ∧ ptypeOf l.pkt = 0x36 ∧ ctxOf l.pkt = ctxOf p ∧
         l.pkt.body = s.stackRead w (bitsOf p.w1.toNat 0 37) (bitsOf p.w2.toNat 0 24)) ∧
     (∀ (st : Step) (a : Attempt) (y : Nat × Nat × Nat × Nat), ptypeOf p = 0x36 → s.current p = some st → s.work.att[ctxOf p] = some a →
       (a.ledWait.find? fun y => y.1 == w.val && y.2.1 == bitsOf p.w1.toNat 0 37 && y.2.2.1 == bitsOf p.w2.toNat 0 24) = some y →
       Answers (.ledgerData w p) s fun t => ∃ b, t.work.att[ctxOf p] = some b ∧ b.ledWait = a.ledWait.erase y) ∧
     (∀ (st : Step) (a : Attempt), ptypeOf p = 0x36 → s.current p = some st → s.work.att[ctxOf p] = some a → a.ledWait = [] →
       Answers (.ledgerData w p) s fun t => t.wellFrozen w = true)) ∧
  (∀ (s : State) (w : WellNo), s.wellUp w = true →
     (∀ (p : Pkt) (st : Step) (a : Attempt), ptypeOf p = 0x37 → s.wellFrozen w = false → s.current p = some st →
       s.work.att[ctxOf p] = some a → bitsOf p.w1.toNat 0 4 = 2 →
       Answers (.wellReport w p) s fun t => ∃ b, t.work.att[ctxOf p] = some b ∧ w.val ∈ b.wellDone) ∧
     (∀ (n : Nat) (k : ScoreTile) (o : WellOpen), s.wells[w].running = some (.score k) → s.wellOpen w k.ctx k.seq k.att = some o →
       s.wells[w].dram = [] → s.dramFree w (.tile n) = true →
       Answers (.wellTileComplete w n) s fun t => ∃ l, l ∈ t.landed ∧ ptypeOf l.pkt = 0x37 ∧ ctxOf l.pkt = k.ctx ∧
         seqOf l.pkt = k.seq ∧ bitsOf l.pkt.w1.toNat 0 4 = 0) ∧
     (∀ (n : Nat) (k : WTile) (o : WellOpen), s.wells[w].running = some (.expert k) → s.wellOpen w k.ctx k.seq k.att = some o →
       s.wells[w].dram = [] → s.dramFree w (.tile n) = true →
       Answers (.wellTileComplete w n) s fun t => ∃ l, l ∈ t.landed ∧ ptypeOf l.pkt = 0x37 ∧ ctxOf l.pkt = k.ctx ∧
         seqOf l.pkt = k.seq ∧ bitsOf l.pkt.w1.toNat 0 4 = 0))

/-! ### Collectives -/

/-- R252, R253: the start word of an IDLE channel begins a collective; a READY word raises the count of its channel; another start
word is discarded. -/
def Obligations.CollectiveWords : Prop :=
  ∀ (s : State) (w : DWord) (ch : Fin 16), s.slaveUp = true → bitsOf w.toNat 2 4 = ch.val → bitsOf w.toNat 6 2 = 0 →
    s.rd (COL_CH_CTRL.ENABLE ch) = 1 →
    (w.toNat % 4 = 0 → s.colState ch = 1 →
      Answers (.collectiveStart w) s fun t => t.colState ch = 2 ∧ t.rd (COL_CH_READY.READY ch) = 0 ∧
        t.chan[ch].addr = w.toNat / 256 * 256 ∧ t.busyFor (Purpose.ofChan ch) = true) ∧
    (w.toNat % 4 = 0 → s.colState ch ≠ 1 →
      Answers (.collectiveStart w) s fun t => Reports s 0x0A01 t ∧ t.colState ch = s.colState ch) ∧
    (w.toNat % 4 = 1 → bitsOf w.toNat 8 24 = 0 → s.colState ch ≠ 1 → s.rd (COL_CH_READY.READY ch) ≤ w.toNat / 2 ^ 32 →
      Answers (.collectiveReady w) s fun t => t.rd (COL_CH_READY.READY ch) = w.toNat / 2 ^ 32)

/-- R254, R258, R268: a descriptor that passes its checks waits for its buffers and the channel's sequence number advances; the
first channel in rotation whose buffers are free runs. Readings and choices of the model in it: log entries 58, 59. -/
def Obligations.CollectiveAdmission : Prop :=
  ∀ (s : State) (ch : Fin 16),
    (s.busUp 0xc = true → s.colState ch = 2 → s.chan[ch].fetched = true → s.chan[ch].final = none → s.colCheck ch = none →
      Answers (.colDescriptorCheck ch) s fun t => t.colState ch = 3 ∧
        t.rd (COL_CH_SEQ.SEQ ch) = (s.rd (COL_CH_SEQ.SEQ ch) + 1) % 2 ^ 32 ∧
        t.chan[ch].need = s.chan[ch].reserve (s.chan[ch].algRun (s.rd COL_CFG.THRESH_KIB))) ∧
    (∀ x, s.busUp 0xc = true → s.colState ch = 2 → s.chan[ch].fetched = true → s.chan[ch].final = none → s.colCheck ch = some x →
      Answers (.colDescriptorCheck ch) s fun t => Reports s 0x0A02 t ∧
        t.rd (COL_CH_SEQ.SEQ ch) = s.rd (COL_CH_SEQ.SEQ ch)) ∧
    (∀ (rest : List (Fin 16)) (pick : Nat) (x : State × List Nat), s.busUp 0x9 = true → s.reserving = ch :: rest →
      State.takeMany s.chan[ch].need s.chan[ch].needBytes pick (some (s, [])) = some x →
      Answers (.colReservationGrant pick) s fun t => t.colState ch = 4 ∧ t.chan[ch].bufs = x.2 ∧ t.cist.colLast = ch.val)

/-- R266-R271: the packets of the current attempt of a channel; a COL_ABORT whose cause permits it restarts the collective while
restarts are left, another ends it with COMPLETE 0. Readings and choices of the model in it: log entries 58, 59. -/
def Obligations.CollectivePacketsAndAborts : Prop :=
  (∀ (s : State) (p : Pkt), s.busUp 0xa = true → (s.landed.any fun l => l.pkt == p) = true → s.landCheck p = none →
     (ptypeOf p = 0x11 → s.colCurrent (ctxOf p) p = true →
       Answers (.colStart p) s fun t => srcOf p ∈ t.chan[ctxOf p].starts) ∧
     (ptypeOf p = 0x11 → s.colCurrent (ctxOf p) p = false → s.keepsStart (ctxOf p) p = true →
       Answers (.colStart p) s fun t => p ∈ t.chan[ctxOf p].kept) ∧
     (ptypeOf p = 0x10 → s.colCurrent (ctxOf p) p = true → s.chan[ctxOf p].isRs = false →
       bitsOf p.w1.toNat 8 6 < s.chan[ctxOf p].m → bitsOf p.w1.toNat 20 24 < s.chan[ctxOf p].cps →
       Answers (.colData p) s fun t => ∃ o, o ∈ t.chan[ctxOf p].outs ∧ o.1 = bitsOf p.w1.toNat 8 6 ∧ o.2.1 = bitsOf p.w1.toNat 20 24) ∧
     (ptypeOf p = 0x10 → s.colCurrent (ctxOf p) p = false →
       Answers (.colData p) s fun t => Counted s t COL_STALE_CNT.COUNT 1) ∧
     (ptypeOf p = 0x12 → s.colCurrent (ctxOf p) p = true → s.chan[ctxOf p].outq = [] →
       Answers (.colCredit p) s fun t => t.chan[ctxOf p].credit (srcOf p) (bitsOf p.w1.toNat 0 1) =
         s.chan[ctxOf p].credit (srcOf p) (bitsOf p.w1.toNat 0 1) + bitsOf p.w1.toNat 1 8) ∧
     (ptypeOf p = 0x13 → s.colCurrent (ctxOf p) p = true →
       Answers (.colHold p) s fun t => srcOf p ∈ t.chan[ctxOf p].heldFrom) ∧
     (ptypeOf p = 0x15 → s.colCurrent (ctxOf p) p = true →
       Answers (.colFin p) s fun t => srcOf p ∈ t.chan[ctxOf p].fins)) ∧
  (∀ (s : State) (p : Pkt), s.busUp 0xa = true → (s.landed.any fun l => l.pkt == p) = true → s.landCheck p = none →
     ptypeOf p = 0x14 → s.colCurrent (ctxOf p) p = true → 1 ≤ bitsOf p.w1.toNat 0 4 → bitsOf p.w1.toNat 0 4 ≤ 6 →
     (bitsOf p.w1.toNat 0 4 ≤ 3 → s.chan[ctxOf p].restarts < s.rd COL_CFG.RESTART_MAX →
       Answers (.colAbort p) s fun t => t.colState (ctxOf p) = 6 ∧ Counted s t COL_RESTART_CNT.COUNT 1 ∧
         t.chan[ctxOf p].newAtt = max (bitsOf p.w1.toNat 4 3) (s.rd (COL_CH_STATUS.ATT (ctxOf p)) + 1)) ∧
     (4 ≤ bitsOf p.w1.toNat 0 4 →
       Answers (.colAbort p) s fun t => t.chan[ctxOf p].final =
         some ((colOutcome (bitsOf p.w1.toNat 0 4)).1, (colOutcome (bitsOf p.w1.toNat 0 4)).2, false) ∧ Reports s 0x0A03 t))

/-- R258, R270, R271, R275: the further life of a channel: it restarts once drained, or waits for its buffers when they went with
a failed Hub, finishes once its outputs are written, has its interval counted, and is enabled and disabled. Readings and
choices of the model in it: log entry 59. -/
def Obligations.CollectiveChannels : Prop :=
  ∀ (s : State) (ch : Fin 16), s.hubUp = true →
    (s.colState ch = 6 → s.colDrained ch = true → s.chan[ch].need ≤ s.chan[ch].bufs.length →
      Answers (.colRestartDrained ch) s fun t => t.colState ch = 4 ∧ t.rd (COL_CH_STATUS.ATT ch) = s.chan[ch].newAtt % 8) ∧
    (s.colState ch = 6 → s.colDrained ch = true → s.chan[ch].bufs.length < s.chan[ch].need →
      Answers (.colRestartDrained ch) s fun t => t.colState ch = 3 ∧ t.rd (COL_CH_STATUS.ATT ch) = s.chan[ch].newAtt % 8) ∧
    (s.colState ch = 4 → s.chan[ch].final = none → s.chan[ch].counts.isSome = true → s.chan[ch].outsDone = true →
      Answers (.colOutputsComplete ch) s fun t => t.colState ch = 5 ∧ t.chan[ch].finSent = true) ∧
    (s.colLive ch = true → Answers .colStallCount s fun t => t.chan[ch].moved = false ∧ t.chan[ch].heldFrom = []) ∧
    (∀ v, s.arbHeld 0 = false → s.rd (COL_CH_CTRL.ENABLE ch) = 0 → (COL_CH_CTRL.ENABLE ch).get v = 1 →
      Answers (.colChEnable ch v) s fun t => t.rd (COL_CH_CTRL.ENABLE ch) = 1 ∧ t.colState ch = 1) ∧
    (∀ v, s.arbHeld 0 = false → s.rd (COL_CH_CTRL.ENABLE ch) = 1 → (COL_CH_CTRL.ENABLE ch).get v = 0 → s.colState ch = 1 →
      Answers (.colChEnable ch v) s fun t => t.rd (COL_CH_CTRL.ENABLE ch) = 0 ∧ t.colState ch = 0) ∧
    (∀ v, s.arbHeld 0 = false → s.rd (COL_CH_CTRL.ENABLE ch) = 1 → (COL_CH_CTRL.ENABLE ch).get v = 0 → s.colState ch ≠ 1 →
      Answers (.colChEnable ch v) s fun t => t.rd (COL_CH_CTRL.ENABLE ch) = 1 ∧ Reports s 0x0A06 t)

/-! ### Links -/

/-- R181-R184: what a link sends next: a flit again after a rewind, the flit that the arbiter grants, or an IDLE flit. A sent flit
takes its sequence number, a credit and a place in the replay buffer. -/
def Obligations.LinkSends : Prop :=
  ∀ (s s' : State) (l : LinkId), s.hubUp = true → s.linkOpen l = true → s.arbHeld (linkArb l) = false →
    s' = (if l = .mirror then s.mirPump else s) →
    (∀ (fs : BitVec 12) (f : TxFlit), (s'.link l).again = some (fs, f) →
      Answers (.flitTransmit l) s fun t => Drives t (.flit l (flitHead f.pair f.sop f.eop false fs (s'.link l)) (padTo 264 f.body)
        (flitCrc (flitHead f.pair f.sop f.eop false fs (s'.link l)) (padTo 264 f.body)))) ∧
    (∀ (q : Fin 8) (pr : Fin 4) (n : Nat) (f : TxFlit) (rest : List TxFlit), (s'.link l).again = none →
      (s'.link l).replay.length < 512 → (s'.link l).grant (s'.vcPrios l) (s'.vcWeights l) = some (q, pr, n) →
      (s'.link l).txq[q] = f :: rest →
      Answers (.flitTransmit l) s fun t =>
        Drives t (.flit l (flitHead q f.sop f.eop false (s'.link l).fseq (s'.link l)) (padTo 264 f.body)
          (flitCrc (flitHead q f.sop f.eop false (s'.link l).fseq (s'.link l)) (padTo 264 f.body))) ∧
        (t.link l).replay = (s'.link l).replay ++ [((s'.link l).fseq, f)] ∧ (t.link l).fseq = (s'.link l).fseq + 1 ∧
        (t.link l).credits = (s'.link l).credits.set q ((s'.link l).credits[q] - 1)) ∧
    ((s'.link l).again = none →
      ((s'.link l).grant (s'.vcPrios l) (s'.vcWeights l) = none ∨ 512 ≤ (s'.link l).replay.length) →
      Answers (.flitTransmit l) s fun t => (t.link l).replay = (s'.link l).replay ∧ (t.link l).txq = (s'.link l).txq ∧
        Drives t (.flit l (flitHead 0 false false true 0 (s'.link l)) (padTo 264 [])
          (flitCrc (flitHead 0 false false true 0 (s'.link l)) (padTo 264 []))))

/-- R182, R184, R326: a flit whose CRC is wrong, or which is not the next expected, is discarded, and a NAK is due at the first
discard after an accepted flit; the next expected flit is accepted. An acknowledgement takes the flits it covers out of the
replay buffer and ends a row of rewinds, a credit field adds what was freed since the last, a NAK and the retry timer rewind
the transmitter, and a link that has rewound MAXRETRY times fails. Readings and choices of the model in it: log entries 70,
71, 72, 125. -/
def Obligations.LinkReceives : Prop :=
  ∀ (s : State) (l : LinkId) (f : Flit), s.hubUp = true → s.linkOpen l = true →
    (s.intBypass = true → isPortLink l = false) →
    ((f.bad = true ∨ f.crc ≠ flitCrc f.head f.body) →
      Answers (.flitReceive l f) s fun t => (t.link l).rxNext = (s.link l).rxNext ∧ (t.link l).nakSent = true ∧
        (t.link l).nakDue = ((s.link l).nakDue || !(s.link l).nakSent) ∧
        ∀ p, l = .port p → Counted s t (PMP_CRC_ERR_CNT.COUNT p) 1 ∧ Counted s t (PMP_FEC_COR_CNT.COUNT p) f.fixed) ∧
    (f.bad = false → f.crc = flitCrc f.head f.body → f.head.getLsbD 5 = false →
      BitVec.ofNat 12 (bitsOf f.head.toNat 8 12) ≠ (s.link l).rxNext →
      Answers (.flitReceive l f) s fun t => (t.link l).rxNext = (s.link l).rxNext ∧ (t.link l).nakSent = true ∧
        (t.link l).nakDue = ((s.link l).nakDue || !(s.link l).nakSent)) ∧
    (f.bad = false → f.crc = flitCrc f.head f.body → f.head.getLsbD 5 = false → f.head.getLsbD 32 = false →
      f.head.getLsbD 33 = false → BitVec.ofNat 12 (bitsOf f.head.toNat 8 12) = (s.link l).rxNext →
      Answers (.flitReceive l f) s fun t => (t.link l).rxNext = (s.link l).rxNext + 1 ∧ (t.link l).accepted = true) ∧
    (∀ q : Fin 8, f.bad = false → f.crc = flitCrc f.head f.body → f.head.getLsbD 5 = true → f.head.getLsbD 32 = false →
      f.head.getLsbD 33 = false → q.val = bitsOf f.head.toNat 34 2 * 2 + bitsOf f.head.toNat 36 1 →
      Answers (.flitReceive l f) s fun t => (t.link l).credits[q] = (s.link l).credits[q] +
        (BitVec.ofNat 10 (bitsOf f.head.toNat 37 10) - (s.link l).crSeen[q]).toNat ∧ (t.link l).replay = (s.link l).replay) ∧
    (∀ (n : Nat) (x : BitVec 12 × TxFlit), f.bad = false → f.crc = flitCrc f.head f.body → f.head.getLsbD 5 = true →
      f.head.getLsbD 32 = true → f.head.getLsbD 33 = false → (s.link l).replay[n]? = some x →
      x.1 = BitVec.ofNat 12 (bitsOf f.head.toNat 20 12) → (∀ i y, i < n → (s.link l).replay[i]? = some y → y.1 ≠ x.1) →
      Answers (.flitReceive l f) s fun t => (t.link l).replay = (s.link l).replay.drop (n + 1) ∧ (t.link l).rewinds = 0) ∧
    (f.bad = false → f.crc = flitCrc f.head f.body → f.head.getLsbD 5 = true → f.head.getLsbD 32 = false →
      f.head.getLsbD 33 = true → (s.link l).replay ≠ [] → (s.link l).rewinds + 1 < s.maxRetry l →
      Answers (.flitReceive l f) s fun t => (t.link l).resend = some 0 ∧ (t.link l).replay = (s.link l).replay ∧
        ∀ p, l = .port p → Counted s t (PMP_REWIND_CNT.COUNT p) 1) ∧
    ((s.link l).replay ≠ [] → (s.link l).rewinds + 1 < s.maxRetry l →
      Answers (.retryTimeout l) s fun t => (t.link l).resend = some 0 ∧ (t.link l).replay = (s.link l).replay ∧
        ∀ p, l = .port p → Counted s t (PMP_REWIND_CNT.COUNT p) 1) ∧
    (∀ p, l = .port p → (s.link l).replay ≠ [] → s.maxRetry l ≤ (s.link l).rewinds + 1 →
      Answers (.retryTimeout l) s fun t => t.portState p = 6 ∧ Reports s 0x0703 t) ∧
    (∀ w, l = .well w → (s.link l).replay ≠ [] → s.maxRetry l ≤ (s.link l).rewinds + 1 →
      Answers (.retryTimeout l) s fun t => t.wells[w].inService = false ∧ Reports s 0x090A t) ∧
    (l = .mirror → (s.link l).replay ≠ [] → s.maxRetry l ≤ (s.link l).rewinds + 1 →
      Answers (.retryTimeout l) s fun t => t.mch.mstate = .out) ∧
    ((s.link l).replay = [] → Answers (.retryTimeout l) s fun t => t = s)

/-! ### Ports and the service interface -/

/-- R306, R307: a port without a cable is DOWN, with one it trains; it comes UP again from RETRAIN, retrains when it loses lock,
and fails when training takes too long. Readings and choices of the model in it: log entry 74. -/
def Obligations.PortsTrain : Prop :=
  ∀ (s : State) (p : Port), s.leadUp = true → s.intBypass = false →
    (Answers (.prsntInsert p) s fun t => t.rd (SVC_PORT_STATUS.PRESENT p) = 1 ∧
      (s.portState p = 0 → s.rd (PMP_LNK_CTRL.EN p) = 1 → t.portState p = 1)) ∧
    (Answers (.prsntRemove p) s fun t => t.rd (SVC_PORT_STATUS.PRESENT p) = 0 ∧ t.portState p = 0) ∧
    (s.portState p = 1 → Answers (.phyLock p 0xFF true) s fun t => t.portState p = 2) ∧
    (s.portState p = 4 → Answers (.phyLock p 0xFF true) s fun t => t.portState p = 3 ∧ t.rd (PMP_LNK_STATUS.WIDTH4 p) = 0 ∧
      t.rd (PMP_LNK_STATUS.LANES p) = 0xFF) ∧
    (∀ (lanes : Byte) (far : Bool), lanes &&& 0x0F ≠ 0x0F → lanes &&& 0xF0 ≠ 0xF0 →
      Answers (.phyLock p lanes far) s fun t => t = s) ∧
    (s.portState p = 1 → s.ports[p].trainFails = 2 → Answers (.trainTimeout p) s fun t => t.portState p = 6) ∧
    (s.portState p = 1 → s.ports[p].trainFails < 2 →
      Answers (.trainTimeout p) s fun t => t.portState p = 1 ∧ t.ports[p].trainFails = s.ports[p].trainFails + 1) ∧
    (s.portState p = 4 → Answers (.trainTimeout p) s fun t => t.portState p = 6) ∧
    (s.portState p = 3 → Answers (.lossOfLock p) s fun t => t.portState p = 4 ∧
      (t.link (.port p)).replay = (s.link (.port p)).replay) ∧
    (∀ n, Answers (.uncCodewordLimit p n) s fun t => Counted s t (PMP_FEC_UNC_CNT.COUNT p) n ∧
      (s.portState p = 3 → s.rd (PMP_LNK_UNC.LIMIT p) < n → t.portState p = 4) ∧
      (n ≤ s.rd (PMP_LNK_UNC.LIMIT p) → t.portState p = s.portState p)) ∧
    (∀ v, s.busUp 0 = true → (PMP_LNK_CTRL.RESTART p).get v = 1 → (PMP_LNK_CTRL.EN p).get v = 1 →
      (s.portState p = 5 ∨ s.portState p = 6 ∨ s.portState p = 7 ∨ s.portState p = 8) →
      Answers (.linkRestart p v) s fun t => t.portState p = 1 ∧ t.rd (PMP_LNK_CTRL.RESTART p) = 0)

/-- R319-R321: the removal of a port: the button opens and cancels it, the far end agrees or refuses, both ends drain, and the
port is safe. Readings and choices of the model in it: log entries 51, 74. -/
def Obligations.PortRemoval : Prop :=
  ∀ (s : State) (p far : Port), s.leadUp = true → s.intBypass = false →
    (s.rd (SVC_PORT.BTN_EN p) = 1 → s.portState p = 3 → (s.rphase p = 0 ∨ s.rphase p = 4) →
      Answers (.attnPress p) s fun t => t.rphase p = 1 ∧ Reports s 0x0C01 t ∧
        Drives t (setOut p 5 false (BitVec.ofNat 192 (0 + p.val * 2 ^ 8)))) ∧
    (s.rd (SVC_PORT.BTN_EN p) = 1 → s.rphase p = 1 →
      Answers (.attnPress p) s fun t => t.rphase p = 0 ∧ Reports s 0x0C02 t) ∧
    (s.rphase p = 1 → s.portState p = 3 → s.needed p = true →
      Answers (.removalWindowClose p) s fun t => t.rphase p = 4 ∧ t.rd (SVC_PORT_STATUS.NEEDED p) = 1 ∧ Reports s 0x0C03 t) ∧
    (s.rphase p = 1 → s.portState p = 3 → s.needed p = false →
      Answers (.removalWindowClose p) s fun t => t.rd (SVC_PORT_STATUS.NEEDED p) = 0 ∧
        t.rphase p = (if s.ports[p].agreeRcvd then 3 else 2) ∧
        Drives t (setOut p 5 false (BitVec.ofNat 192 (1 + p.val * 2 ^ 8)))) ∧
    (s.rphase p = 1 → (s.portState p = 1 ∨ s.portState p = 4 ∨ s.portState p = 6 ∨ s.portState p = 7 ∨ s.portState p = 8) →
      Answers (.removalWindowClose p) s fun t => t.portState p = 5) ∧
    (s.portState p = 3 → (s.rphase p = 0 ∨ s.rphase p = 4) →
      (Answers (.removeRequest ⟨p, far⟩) s fun t => t.rphase p = 1 ∧ Reports s 0x0C01 t) ∧
      (Answers (.removeAgree ⟨p, far⟩) s fun t => t.rphase p = 3 ∧ t.ports[p].removed = true)) ∧
    (s.portState p = 3 → s.rphase p = 2 → Answers (.removeAgree ⟨p, far⟩) s fun t => t.rphase p = 3 ∧ t.ports[p].removed = true) ∧
    (s.portState p = 3 → (s.rphase p = 1 ∨ s.rphase p = 2) →
      (Answers (.removeRefuse ⟨p, far⟩) s fun t => t.rphase p = 4 ∧ Reports s 0x0C03 t) ∧
      (Answers (.removeCancel ⟨p, far⟩) s fun t => t.rphase p = 0 ∧ Reports s 0x0C02 t)) ∧
    (s.portState p = 3 → s.rphase p = 3 →
      Answers (.removeDone ⟨p, far⟩) s fun t => t.portState p = (if s.ports[p].doneSent then 5 else 3)) ∧
    (s.rphase p = 2 → Answers (.removeSilence p) s fun t => t.rphase p = 4 ∧ Reports s 0x0C03 t) ∧
    (s.rphase p = 3 → s.ports[p].doneSent = false → s.drained p = true →
      Answers (.removeDrained p) s fun t => Drives t (setOut p 5 false (BitVec.ofNat 192 (4 + p.val * 2 ^ 8))) ∧
        (s.ports[p].doneRcvd = true → t.portState p = 5)) ∧
    (∀ v, s.busUp 0 = true → (SVC_PORT.FORCE_SAFE p).get v = 1 → s.portState p = 3 → s.rphase p ≠ 3 →
      Answers (.forceSafe p v) s fun t => t.rphase p = 3 ∧ t.ports[p].removed = true)

/-- R10, R308, R323, R324: beacons in CHECK and in UP, and how chips become absent and present again; the _LO word of a clearing
is held until its _HI is written. Readings and choices of the model in it: log entries 51, 79. -/
def Obligations.BeaconsAndAbsence : Prop :=
  ∀ (s : State) (p : Port) (x : BitVec 192) (a : Nat), s.leadUp = true → s.hubUp = true → s.intBypass = false →
    (s.portState p = 2 → s.beaconGood p x = true →
      Answers (.beacon p x a) s fun t => t.portState p = (if s.ports[p].good = 1 then 3 else 2) ∧
        t.ports[p].good = s.ports[p].good + 1) ∧
    (s.portState p = 2 → s.beaconGood p x = false →
      Answers (.beacon p x a) s fun t => t.portState p = if bcnChip x = s.chip then 8 else 7) ∧
    (s.portState p = 3 → bcnChip x ≠ s.rd (PMP_LNK_STATUS.FCHIP p) → Answers (.beacon p x a) s fun t => t.portState p = 2) ∧
    ((s.portState p = 2 ∨ s.portState p = 3 ∨ s.portState p = 7 ∨ s.portState p = 8) →
      Answers (.beaconSend p) s fun t => Drives t (setOut p 4 false (s.ownBeacon p))) ∧
    (∀ d : Chip, s.heardOf d = true → s.absent.testBit d.val = false →
      Answers (.beaconAbsence d) s fun t => t.absent.testBit d.val = true ∧ Reports s 0x0C05 t) ∧
    (∀ d : Chip, s.heardOf d = true → s.absent.testBit d.val = true → Answers (.beaconAbsence d) s fun t => t = s) ∧
    (s.portState p = 3 → s.ports[p].removed = false →
      Answers (.absentSet p x) s fun t => ∀ d : Chip, (bitsOf x.toNat 0 64).testBit d.val = true ∨ s.absent.testBit d.val = true →
        t.absent.testBit d.val = true) ∧
    (∀ v : Word, s.arbHeld 0 = false →
      (Answers (.svcAbsentClear false v) s fun t => t.heldLo .config SVC_ABSENT_LO.reg = some v ∧ t.absent = s.absent) ∧
      (Answers (.svcAbsentClear true v) s fun t =>
        t.rd SVC_ABSENT_HI.CHIPS = (s.word SVC_ABSENT_HI.reg &&& ~~~v).toNat ∧
        (s.heldLo .config SVC_ABSENT_LO.reg = none → t.rd SVC_ABSENT_LO.CHIPS = s.rd SVC_ABSENT_LO.CHIPS) ∧
        ∀ l, s.heldLo .config SVC_ABSENT_LO.reg = some l →
          t.rd SVC_ABSENT_LO.CHIPS = (s.word SVC_ABSENT_LO.reg &&& ~~~l).toNat))

/-- R313, R314, R322: leaving drains every port in UP; LOCK, FORCE_INT and HOLD act on the bypass; on a chip in internal bypass
what arrives on a port leaves unchanged on its partner. Readings and choices of the model in it: log entries 27, 87. -/
def Obligations.ServiceAndBypass : Prop :=
  (∀ (s : State) (v : Word), s.busUp 0 = true →
     (SVC_CTRL.LEAVE.get v = 1 → s.rd SVC_CTRL.LEAVE = 0 →
       Answers (.svcLeave v) s fun t => t.rd SVC_CTRL.LEAVE = 1 ∧ ∀ p : Port, s.portState p = 3 → t.rphase p = 3) ∧
     (SVC_ID.LOCK.get v = 1 → s.rd SVC_ID.LOCK = 0 →
       Answers (.svcIdLock v) s fun t => t.rd SVC_ID.LOCK = 1 ∧ t.rd SVC_ID.CHIP = SVC_ID.CHIP.get v ∧
         t.rd SVC_ID.DOMAIN = SVC_ID.DOMAIN.get v ∧ t.intBypass = (s.rd SVC_BYP_CTRL.FORCE_INT == 1)) ∧
     (Answers (.svcBypCtrlWrite v) s fun t => t.rd SVC_BYP_CTRL.HOLD = SVC_BYP_CTRL.HOLD.get v ∧
       t.rd SVC_BYP_CTRL.FORCE_INT = SVC_BYP_CTRL.FORCE_INT.get v ∧
       t.intBypass = (s.rd SVC_ID.LOCK == 0 || SVC_BYP_CTRL.FORCE_INT.get v == 1)) ∧
     (s.leadUp = true → s.rd SVC_BYP_CTRL.HOLD = 1 →
       Answers .bypassHoldRelease s fun t => t.rd SVC_BYP_CTRL.HOLD = 0 ∧ Reports s 0x0C06 t)) ∧
  (∀ (s : State) (p : Port), s.intBypass = true → s.leadUp = true →
     (∀ f : Flit, Answers (.flitReceive (.port p) f) s fun t => Drives t (.flit (.port (bridgePartner p)) f.head f.body f.crc)) ∧
     (∀ x, Answers (.absentSet p x) s fun t => Drives t (setOut (bridgePartner p) 6 false x)) ∧
     (∀ x t2 t3, Answers (.calReq p x t2 t3) s fun t => Drives t (setOut (bridgePartner p) 2 false x)) ∧
     (∀ x t4, Answers (.calRsp p x t4) s fun t => Drives t (setOut (bridgePartner p) 3 false x)) ∧
     (∀ x a, bcnViaV x = true → Answers (.beacon p x a) s fun t => Drives t (setOut (bridgePartner p) 4 false x)) ∧
     (∀ (i : Instr) (far : Port) (kind : Nat), (i = .removeRequest ⟨p, far⟩ ∧ kind = 0) ∨ (i = .removeAgree ⟨p, far⟩ ∧ kind = 1) ∨
         (i = .removeRefuse ⟨p, far⟩ ∧ kind = 2) ∨ (i = .removeCancel ⟨p, far⟩ ∧ kind = 3) ∨ (i = .removeDone ⟨p, far⟩ ∧ kind = 4) →
       Answers i s fun t => Drives t (setOut (bridgePartner p) 5 false (BitVec.ofNat 192 (kind + far.val * 2 ^ 8)))))

/-- R46, R305, R367, R368: calibration and adaptation in the background. Readings and choices of the model in it: log entries 75,
76, 97. -/
def Obligations.BackgroundCalibration : Prop :=
  ∀ (s : State) (p : Port), s.leadUp = true → s.intBypass = false →
    (∀ a, s.portState p = 3 → s.ports[p].removed = false →
      (Answers (.calStart p a) s fun t => t.ports[p].cal = some (s.ports[p].calSeq % 2 ^ 16, a % 2 ^ 48) ∧
        Drives t (setOut p 2 false (BitVec.ofNat 192 (a % 2 ^ 48 + s.ports[p].calSeq % 2 ^ 16 * 2 ^ 48)))) ∧
      (∀ x t3, Answers (.calReq p x a t3) s fun t => Drives t (setOut p 3 false (BitVec.ofNat 192
        (bitsOf x.toNat 0 48 + a % 2 ^ 48 * 2 ^ 48 + t3 % 2 ^ 48 * 2 ^ 96 + bitsOf x.toNat 48 16 * 2 ^ 144))))) ∧
    (∀ (x : BitVec 192) (t4 : Nat), s.ports[p].cal = some (bitsOf x.toNat 144 16, bitsOf x.toNat 0 48) →
      Answers (.calRsp p x t4) s fun t => t.ports[p].cal = none ∧ t.ports[p].lat = some (t.rd (PMP_LNK_LAT.PS p)) ∧
        ∀ ps, ps = ((t4 + 2 ^ 48 - bitsOf x.toNat 0 48) % 2 ^ 48 -
            (bitsOf x.toNat 96 48 + 2 ^ 48 - bitsOf x.toNat 48 48) % 2 ^ 48) * 625 / 2 → ps < 2 ^ 20 →
          t.rd (PMP_LNK_LAT.PS p) = ps ∧ (s.parentPort = some p → ∀ old, s.ports[p].lat = some old →
            t.rd TCK_STATUS.ALIGNED = if ps ≤ old + 750 ∧ old ≤ ps + 750 then 1 else 0)) ∧
    (Answers (.calLost p) s fun t => t.ports[p].cal = none ∧ t.ports[p].lat = s.ports[p].lat) ∧
    (s.rd HTH_CAL.EQ_PERIOD_MS ≠ 0 → s.build.portsWired.getLsbD (s.eqTurn % 16) = true →
      Answers .eqAdaptation s fun t => t.eqTurn = s.eqTurn % 16 + 1 ∧
        Drives t (.phyAdapt ⟨s.eqTurn % 16, Nat.mod_lt _ (by decide)⟩)) ∧
    (∀ w : WellNo, s.hubUp = true → s.rd HTH_CAL.WL_RECAL_MS ≠ 0 → s.wells[w].inService = true → s.wlTurn % 24 = w.val →
      Answers .wellLinkRecal s fun t => t.wlTurn = w.val + 1 ∧ Drives t (.wellRecal w))

/-! ### Housekeeping and the Host Port's master half -/

/-- R273, R295: at its tick a member's record leaves, and the leader opens the collective; records of open collectives and of
ticks to come are stored, others counted as stale; a collective closes with every record in or after WAIT ticks, each missing
member counted. Readings and choices of the model in it: log entry 57. -/
def Obligations.HousekeepingRounds : Prop :=
  ∀ (s : State), s.hubUp = true →
    (s.rd COL_HK_CFG.ENABLE = 1 → 0 < s.tickNow → s.tickNow % s.rd COL_HK_CFG.PERIOD = 0 →
      (s.hkLeader = some s.chip →
        Answers .hkStart s fun t => ∃ k, k ∈ t.hk.opened ∧ k.tick = s.tickNow ∧ k.startAt = s.tick.lastFire) ∧
      (s.hkLeader ≠ some s.chip → Answers .hkStart s fun t => t.hk = s.hk)) ∧
    (∀ p : Pkt, s.arbHeld 10 = false → ptypeOf p = 0x16 → (s.landed.any fun l => l.pkt == p) = true → s.landCheck p = none →
      (s.hkLeader ≠ some s.chip → Answers (.hkData p) s fun t => Counted s t COL_STALE_CNT.COUNT 1) ∧
      (s.hkLeader = some s.chip → bitsOf p.w1.toNat 0 8 = 1 →
        ((s.hk.opened.any fun k => k.tick == bitsOf p.w2.toNat 0 48) = true ∨
          s.hk.closed < bitsOf p.w2.toNat 0 48 ∧ s.tickNow ≤ bitsOf p.w2.toNat 0 48 →
          Answers (.hkData p) s fun t => ∃ k, k ∈ t.hk.opened ∧ k.tick = bitsOf p.w2.toNat 0 48 ∧
            (srcOf p, s.now, slice p.body 0 (min 1024 (bitsOf p.w1.toNat 8 11))) ∈ k.recs) ∧
        ((s.hk.opened.any fun k => k.tick == bitsOf p.w2.toNat 0 48) = false →
          bitsOf p.w2.toNat 0 48 ≤ s.hk.closed ∨ bitsOf p.w2.toNat 0 48 < s.tickNow →
          Answers (.hkData p) s fun t => Counted s t COL_STALE_CNT.COUNT 1 ∧ t.hk = s.hk)) ∧
      (s.hkLeader = some s.chip → bitsOf p.w1.toNat 0 8 = 2 →
        Answers (.hkData p) s fun t => (srcOf p, slice p.body 0 (min 1024 (bitsOf p.w1.toNat 8 11))) ∈ t.hk.tele)) ∧
    (∀ k, k ∈ s.hk.opened → (s.hkMissing k = [] ∨ k.tick + s.rd COL_HK_CFG.WAIT ≤ s.tickNow) →
      Answers .hkClose s fun t => (∀ x, x ∈ t.hk.opened → x.tick ≠ k.tick) ∧
        (s.hk.opened = [k] → ∀ d, d ∈ s.hkMissing k → Counted s t (COL_HK_MISS.COUNT d) 1))

/-! ### The host side of a Well, patrol -/

/-- R239-R244, R373, R374, R383: host commands and refreshes reach the bank and take refresh back from the Well; the power cap
holds the Well's requesters until its window ends; targeted refreshes, and one that waits for the host's precharge. The
commands that try the channels again are taken with nothing waiting there. Readings and choices of the model in it: log
entries 62, 63, 124. -/
def Obligations.WellHostSide : Prop :=
  ∀ (s : State) (w : WellNo),
    (s.wellQuiet w = true →
      (∀ cmd, Answers (.hostCommand w cmd) s fun t => Drives t (.dram w cmd) ∧ t.wells[w].hostMasked = false) ∧
      (∀ a bs, a + bs.length ≤ stackMib * 2 ^ 20 → Flips.within s.wells[w].flips a bs.length = [] →
        Answers (.hostCommand w (.write a bs)) s fun t => t.stackRead w a bs.length = bs) ∧
      (∀ ch bank row, Answers (.hostCommand w (.activate ch bank row)) s fun t =>
        (ch, bank, row) ∈ t.wells[w].hostRows ∧ t.hostHolds w (ch, bank) = true) ∧
      (∀ ch bank, Answers (.hostCommand w (.precharge ch bank)) s fun t => t.hostHolds w (ch, bank) = false)) ∧
    (∀ ch bank, Answers (.hostRefresh w ch bank) s fun t => Drives t (.refresh w ch bank none) ∧ t.rd (WEL_ARB_STATUS.REF_MODE w) = 0) ∧
    (∀ late, s.wells[w].supplyOk = true → s.wells[w].inReset = false → s.rd (WEL_ARB_STATUS.REF_MODE w) = 0 →
      Answers (.refreshTakeover w late) s fun t => t.rd (WEL_ARB_STATUS.REF_MODE w) = 1 ∧
        Counted s t (WEL_REF_TAKEOVER_CNT.COUNT w) 1 ∧ Reports s 0x0908 t) ∧
    (s.wellUp w = true → s.effCap w ≠ 0 → s.rd (WEL_PCAP_STATUS.THROTTLING w) = 0 → s.budgetFJ w ≤ s.windowFJ w →
      Answers (.pcapReached w) s fun t => t.rd (WEL_PCAP_STATUS.THROTTLING w) = 1 ∧ Counted s t (WEL_THR_CNT.COUNT w) 1) ∧
    (s.wells[w].supplyOk = true → s.wells[w].inReset = false → s.wellQuiet w = true →
      Answers (.pcapWindowEnd w) s fun t => t.rd (WEL_PCAP_STATUS.THROTTLING w) = 0 ∧ t.wells[w].hostFJ = 0 ∧ t.wells[w].wellFJ = 0 ∧
        t.rd (WEL_PCAP_STATUS.HOST_OVER w) = bitNat (decide (s.effCap w ≠ 0 ∧ s.budgetFJ w ≤ s.staticFJ w + s.wells[w].hostFJ))) ∧
    (∀ ch bank row, s.wellUp w = true → s.wellQuiet w = true → s.rdmOf w HTH_RDM.EN = 1 →
      s.rdmOf w HTH_RDM.TH ≤ rowCount s.wells[w].rows ch bank row →
      (s.hostHolds w (ch, bank) = false → s.rdmBudget w ≤ (bankOf s.wells[w].rows ch bank).targeted →
        Answers (.rdmTrigger w ch bank row) s fun t => Counted s t HTH_RDM_OVF_CNT.COUNT 1 ∧
          ((bankOf s.wells[w].rows ch bank).reported = false → Reports s 0x0D31 t)) ∧
      (s.hostHolds w (ch, bank) = false → (bankOf s.wells[w].rows ch bank).targeted < s.rdmBudget w →
        Answers (.rdmTrigger w ch bank row) s fun t =>
          Counted s t HTH_RDM_CNT.COUNT (neighbours row (s.rdmOf w HTH_RDM.DIST)).length ∧
          ∀ r, r ∈ neighbours row (s.rdmOf w HTH_RDM.DIST) → Drives t (.refresh w ch bank (some r))) ∧
      (s.hostHolds w (ch, bank) = true →
        Answers (.rdmTrigger w ch bank row) s fun t => t.wells[w].dram = [⟨.refresh ch bank row, true⟩] ∧
          Counted s t (WEL_OPENROW_WAIT_CNT.COUNT w) 1)) ∧
    (s.wellQuiet w = true → Answers (.rdmWindowEnd w) s fun t => t.wells[w].rows = [] ∧
      t.wells[w].rdm = s.word HTH_RDM.reg ∧ t.wells[w].rdmMax = s.word HTH_RDM_MAX.reg)

/-- R369-R371, R377, R380-R382: how a stored word reads clean, of another address, and with one bit turned; a scrub burst that the
channel's arbiter grants, and a scrub read of an SRAM word, count and write back what is corrected and count and report what
cannot be; temperatures and supplies go to their registers, and a Well that cannot be read three times has VALID 0 and the
lowest cap. Readings and choices of the model in it: log entries 61, 63, 124. -/
def Obligations.PatrolAndSamples : Prop :=
  (∀ (d : BitVec 64) (a : Nat),
     readWord (encodeWord d a) a = .clean ∧ deliverWord (encodeWord d a) a = d ∧
     (∀ b, parity 64 b ≠ parity 64 a → readWord (encodeWord d a) b = .mismatch) ∧
     (∀ i, i < 80 → readWord (encodeWord d a ^^^ BitVec.twoPow 80 i) a = .corrected (encodeWord d a))) ∧
  (∀ (s : State), s.hubUp = true →
     (∀ (w : WellNo) (addr : Nat) (found : List (Nat × BitVec 80)), s.wellUp w = true → s.rd HTH_SCRUB.DRAM_EN = 1 →
       s.scrubbed w.val addr = true → s.wellQuiet w = true → s.dramFree w (.scrub addr found) = true →
       (Answers (.dramScrub w addr found) s fun t =>
         t.wells[w].wellFJ = s.scrubCharge w ∨ t.wells[w].wellFJ = s.scrubCharge w + 64 * s.rd (WEL_COEF_WR.FJ w)) ∧
       (Flips.within s.wells[w].flips (addr / 64 * 64) 64 = [] →
         (found = [] → Answers (.dramScrub w addr found) s fun t => t.wells[w].wellFJ = s.scrubCharge w ∧
           t.rd HTH_SCRUB_COR_CNT.COUNT = s.rd HTH_SCRUB_COR_CNT.COUNT ∧
           t.rd HTH_SCRUB_UNC_CNT.COUNT = s.rd HTH_SCRUB_UNC_CNT.COUNT ∧ t.wells[w].stack = s.wells[w].stack) ∧
         (∀ x v, found = [(8 * x, v)] → addr / 64 = x / 8 →
           (∀ u, readWord v x = .corrected u → Answers (.dramScrub w addr found) s fun t =>
             Counted s t HTH_SCRUB_COR_CNT.COUNT 1 ∧ Counted s t RAS_COR_CNT.COUNT 1 ∧
             t.stackRead w (8 * x) 8 = toBytes 8 (u.truncate 64).toNat ∧ Flips.within t.wells[w].flips (8 * x) 8 = [] ∧
             t.wells[w].wellFJ = s.scrubCharge w + 64 * s.rd (WEL_COEF_WR.FJ w)) ∧
           ((readWord v x).bad = true → Answers (.dramScrub w addr found) s fun t =>
             Counted s t HTH_SCRUB_UNC_CNT.COUNT 1 ∧ Counted s t RAS_UNC_CNT.COUNT 1 ∧ Reports s 0x0D30 t ∧
             t.stackWord w (8 * x) = v ∧ t.wells[w].wellFJ = s.scrubCharge w)))) ∧
     (∀ u : WordRead, s.partRuns u.part = true → u.mem ≠ .stack → s.rd HTH_SCRUB.SRAM_EN = 1 →
       (∀ v, wordVerdict u = .corrected v → Answers (.sramScrub u.part u.addr (u.mem, u.word)) s fun t =>
         Counted s t HTH_SCRUB_COR_CNT.COUNT 1 ∧ Counted s t RAS_COR_CNT.COUNT 1) ∧
       ((wordVerdict u).bad = true → u.mem ≠ .core → Answers (.sramScrub u.part u.addr (u.mem, u.word)) s fun t =>
         Counted s t HTH_SCRUB_UNC_CNT.COUNT 1 ∧ Counted s t RAS_UNC_CNT.COUNT 1 ∧ Reports s 0x0D30 t) ∧
       (wordVerdict u = .clean → u.mem ≠ .table → u.mem ≠ .router → Answers (.sramScrub u.part u.addr (u.mem, u.word)) s fun t => t = s)) ∧
     (∀ (l : List (Option Int)) (w : WellNo), s.leadUp = true → s.wells[w].inService = true →
       (∀ x, l.getD w.val none = some x →
         Answers (.tempSample l) s fun t => t.rd (HTH_TEMP.VALID w) = 1 ∧ t.rd (HTH_TEMP.TEMP w) = tempWord 8 x) ∧
       (l.getD w.val none = none → s.wells[w].tempFails = 2 →
         Answers (.tempSample l) s fun t => t.rd (HTH_TEMP.VALID w) = 0 ∧ t.rd (WEL_PCAP_HEATH.CAP w) = 1)) ∧
     (∀ main bkup a b l, s.leadUp = true → main < 2 ^ 16 → bkup < 2 ^ 16 →
       Answers (.telemetrySample main bkup a b l) s fun t => t.rd HTH_SUPPLY_MV.MAIN = main ∧ t.rd HTH_SUPPLY_MV.BKUP = bkup ∧
         t.heathA.hubMv = a ∧ t.heathB.hubMv = b ∧
         ∀ (w : WellNo) (x : Int), l.getD w.val none = some x → t.rd (HTH_TEMP.VALID w) = 1 ∧ t.rd (HTH_TEMP.TEMP w) = tempWord 8 x))

/-! ### The event recorder -/

/-- R375, R376, R418, R419, R422: the recorder's flushes, page programs and erases. Readings and choices of the model in it: log
entry 82. -/
def Obligations.RecorderDevice : Prop :=
  ∀ (s : State), s.leadUp = true →
    (∀ a, (s.at a).trickles = true → s.evr.page = [] → 4 ≤ s.evr.unflushed.length →
      Answers (.trickleFlush a) s fun t => t.evr.flush = some .trickle ∧ t.evr.page = s.evr.unflushed.take 4) ∧
    (s.busUp 0 = true → s.evr.nv = true → s.evr.flush ≠ some .powerFail → s.evr.page = [] → s.evr.unflushed ≠ [] →
      Answers .evrFlush s fun t => t.evr.flush = some .fault ∧ t.evr.page = s.evr.unflushed.take 4) ∧
    (∀ x, s.evr.eraseOf = none → s.evr.page ≠ [] → s.openSector = some x →
      (Answers (.pageProgramDone true) s fun t => ∀ e, e ∈ t.evr.ring → e.rseq ∈ s.evr.page.map (·.rseq) → e.flushed = true) ∧
      (Answers (.pageProgramDone false) s fun t => t.evr.nvErr = min (2 ^ 32 - 1) (s.evr.nvErr + 1) ∧ Reports s 0x0E04 t)) ∧
    (∀ i, s.evr.eraseOf = some i → Answers (.pageProgramDone true) s fun t => t.evr.eraseOf = none ∧
      ∀ c, c ∈ t.nvm → c.1 < s.sectorAddr i ∨ s.sectorAddr i + s.evr.sectorKib * 1024 ≤ c.1) ∧
    (∀ i, s.evr.nv = true → s.evr.eraseOf = none → s.evr.flush ≠ some .powerFail → s.evr.page = [] → s.eraseTarget = some i →
      ((s.evr.flush = some .fault ∨ s.recentErases.length < s.rd HTH_NVM.ERASE_PER_H) →
        Answers .nvmErase s fun t => t.evr.eraseOf = some i ∧ Drives t (.xspi 1 (s.sectorAddr i) [])) ∧
      (s.evr.flush ≠ some .fault → s.rd HTH_NVM.ERASE_PER_H ≤ s.recentErases.length → s.erasePaused = false →
        Answers .nvmErase s fun t => t.evr.eraseOf = none ∧ t.erasePaused = true ∧ Reports s 0x0C15 t)) ∧
    (s.busUp 0 = true → s.evr.erasing = false → s.evr.sectors ≠ [] →
      Answers .nvErase s fun t => t.evr.erasing = true ∧ t.evr.nvErase = s.evr.sectors.map (·.idx))

/-- R412, R415, R419, R420, R422: clearing and triggering the recorder, its rate limit, its read window, and its start. Readings
and choices of the model in it: log entry 83. -/
def Obligations.RecorderWindow : Prop :=
  ∀ (s : State), s.leadUp = true →
    (s.busUp 0 = true → s.evr.erasing = false →
      Answers .evrClear s fun t => ∃ e, t.evr.ring = [e] ∧ e.ev.code = 0x0E03 ∧ e.rseq = s.evr.rseq) ∧
    (Answers .tokenRefill s fun t => ∀ b, b ∈ s.evr.buckets →
      { b with tokens := if b.tokens < s.rd EVR_RATE.BURST then b.tokens + 1 else b.tokens } ∈ t.evr.buckets) ∧
    (∀ v, s.busUp 0 = true → Answers (.evrTrig v) s fun t => Reports s (0x0E80 + EVR_TRIG.NUM.get v) t) ∧
    (∀ v e, s.busUp 0 = true → s.rd EVR_RCTL.SRC = 0 → (s.evr.ring.find? fun e => e.rseq == v) = some e →
      Answers (.evrCursorLoad v) s fun t => t.rd EVR_CURSOR.POS = v.toNat ∧ t.evr.hit = true ∧ t.evr.buf = words16 (recBytes e)) ∧
    (∀ v, s.busUp 0 = true → s.rd EVR_RCTL.SRC = 1 → s.evr.nv = true → v.toNat < s.evr.sectors.length * s.evr.slots →
      Answers (.evrCursorLoad v) s fun t => t.evr.busy = true ∧ Drives t (.xspi 2 (s.sectorAddr 0 + 64 * v.toNat) [])) ∧
    (s.hubUp = true → s.rd EVR_RCTL.AUTOINC = 1 →
      Answers .win15Autoinc s fun t => t.rd EVR_CURSOR.POS = (s.rd EVR_CURSOR.POS + 1) % 2 ^ 32) ∧
    (∀ bs, s.evr.busy = true → Answers (.nvReadDone bs) s fun t => t.evr.busy = false ∧
      t.evr.buf = if s.rd EVR_CURSOR.POS % max 1 s.evr.slots = 0 then List.replicate 16 0xFFFFFFFF else words16 (padTo 64 bs)) ∧
    (s.evr.started = false → s.evr.ring.length < 4095 →
      Answers (.recorderStart none) s fun t => t.evr.started = true ∧ t.evr.nv = false ∧ Reports s 0x0E01 t ∧
        ∃ e rest, t.evr.ring = e :: rest ∧ e.ev.code = 0x0E01 ∧ e.rseq = 0)

/-! ### Power, resets, roles -/

/-- R16, R350, R402, R406: a Hub in reset starts afresh, and its loss is a failover or the loss of the mirror; self-test gives the
roles; CFG_RST_N ends the accesses of its port. Readings and choices of the model in it: log entries 84, 85, 93. -/
def Obligations.HubsResetAndStart : Prop :=
  ∀ (s : State), s.Inv →
    (∀ side, (s.heath side).inReset = false → side ≠ s.act.side →
      Answers (.hubReset side) s fun t => t.mir = HubCore.fresh side (t.mch.mstate == .held) ∧ t.mch.serves = false) ∧
    (∀ side, (s.heath side).inReset = false → side = s.act.side → s.active = true → s.failover = none → s.mch.mstate = .inSync →
      Answers (.hubReset side) s fun t => t.active = false ∧ t.failover = some { cause := 3, at_ := s.now, swap := false }) ∧
    (∀ side, (s.heath side).inReset = false → side = s.act.side → s.failover = none → s.mch.mstate ≠ .inSync →
      Answers (.hubReset side) s fun t => t.active = false ∧ t.act.side = side ∧ t.act.bistDone = false) ∧
    (s.active = false → s.failover = none → (s.hub .a).inReset = false → (s.hub .a).bistDone = false →
      Answers (.selfTestDone .a true) s fun t => t.active = true ∧ t.act.side = .a) ∧
    (∀ side, s.active = true → side ≠ s.act.side → s.mir.inReset = false → s.mir.bistDone = false →
      Answers (.selfTestDone side false) s fun t => t.mir.inReset = true ∧ t.mch.mstate = .held ∧ Reports s 0x0F05 t) ∧
    (∀ side, Answers (.cfgReset side) s fun t => (∀ x, x ∈ t.cfgWait → x.1 ≠ side) ∧
      ∀ x, x ∈ (t.hub side).loHeld → x.1 ≠ .config)

/-- R18, R350, R359-R361: the Heaths and their supplies. Readings and choices of the model in it: log entry 86. -/
def Obligations.HeathSupplies : Prop :=
  ∀ (s : State) (side : Side),
    (Answers (.aonReset side) s fun t => (t.heath side).inReset = false ∧ (side = .a → t.lead = .a) ∧
      (side = s.lead → t.evr.ring = [])) ∧
    (∀ mv a, (s.heath side).inReset = false → (s.heath side).onBkup = false → (s.heath side).bkupGood = true →
      Answers (.vaonSourceChange side true mv a) s fun t => (t.heath side).onBkup = true ∧ Counted s t HTH_SW_CNT.COUNT 1 ∧
        Reports s 0x0C10 t ∧ (side = s.lead → t.pfail = true)) ∧
    (∀ mv a, (s.heath side).inReset = false → (s.heath side).onBkup = true →
      Answers (.vaonSourceChange side false mv a) s fun t => (t.heath side).onBkup = false ∧ Counted s t HTH_SW_CNT.COUNT 1 ∧
        (side = s.lead → s.evr.flush ≠ some .powerFail → t.pfail = false)) ∧
    ((s.heath side).inReset = false →
      Answers (.vaonLoss side) s fun t => (t.heath side).inReset = true ∧ (t.hub side).inReset = true ∧
        ∀ other, other ≠ side → s.lead = side → (s.heath other).inReset = false → t.lead = other) ∧
    (∀ other, other ≠ s.lead → (s.heath other).inReset = false → Answers .leadHeathLoss s fun t => t = { s with lead := other }) ∧
    (∀ mv, (s.heath side).inReset = false → (s.heath side).hubGood = true →
      Answers (.vddHubLoss side mv) s fun t => (t.heath side).hubGood = false ∧ (t.heath side).hubMv = mv ∧
        (t.hub side).inReset = true ∧ Reports s 0x0C12 t)

/-- R4, R19, R345, R350: Wells come into service over a trained link and leave it; flits wait while a link retrains; a Well's
reset keeps its DRAM contents. Readings and choices of the model in it: log entries 84, 124. -/
def Obligations.WellsComeAndGo : Prop :=
  ∀ (s : State) (w : WellNo),
    (Answers (.vddWelLoss w) s fun t => t.wells[w].supplyOk = false ∧ t.wells[w].inService = false ∧ t.wells[w].linkUp = false) ∧
    (Answers (.welReset w) s fun t => t.wells[w].inService = false ∧ t.wells[w].linkUp = false ∧ t.wells[w].stack = s.wells[w].stack ∧
      ∀ off, 0x080000 + w.val * 0x2000 ≤ off → off < 0x080000 + (w.val + 1) * 0x2000 → t.word off = resetWord s.build off) ∧
    (s.hubUp = true → s.build.slots.getLsbD w.val = true → s.wells[w].supplyOk = true → s.wells[w].inReset = false →
      s.wells[w].linkUp = false → Answers (.wellLinkTrained w) s fun t => t.wells[w].linkUp = true ∧
        (majorMinor s.wells[w].version = majorMinor (s.view HUB_VERSION.reg) → s.rd (WEL_FENCE.FENCED w) ≠ 0xFFFF →
          t.wells[w].inService = true) ∧
        (majorMinor s.wells[w].version ≠ majorMinor (s.view HUB_VERSION.reg) →
          Reports s 0x0902 t ∧ t.wells[w].inService = s.wells[w].inService)) ∧
    (s.hubUp = true → s.wells[w].linkUp = true →
      (∀ n, Answers (.wellLinkRetrain w n) s fun t => Reports s 0x0909 t ∧ t.wells[w].inService = s.wells[w].inService ∧
        t.link (.well w) = s.link (.well w) ∧ t.linkOpen (.well w) = false) ∧
      (s.wells[w].retraining = true → Answers (.wellLinkTrained w) s fun t => t.linkOpen (.well w) = true ∧
        t.wells[w].inService = s.wells[w].inService ∧ (t.link (.well w)).replay = (s.link (.well w)).replay ∧
        (t.link (.well w)).txq = (s.link (.well w)).txq ∧ (t.link (.well w)).fseq = (s.link (.well w)).fseq ∧
        (t.link (.well w)).credits = (s.link (.well w)).credits) ∧
      (∀ b, Answers (.wellLinkDown w b) s fun t => Reports s 0x090A t ∧ t.wells[w].inService = false ∧ t.wells[w].linkUp = false))

/-! ### Reliability -/

/-- R33, R385-R387, R390, R394, R396, R402: residue failures, fences, uncorrectable words, released masters, control-core faults.
Readings and choices of the model in it: log entries 40, 78, 88. -/
def Obligations.Containment : Prop :=
  ∀ (s : State), s.hubUp = true →
    (∀ part engine cell, s.tileRuns part = true → engine < partEngines part → (s.rd (fenceFld part)).testBit engine = false →
      Answers (.residueFailure part engine cell) s fun t => Counted s t RAS_RESIDUE_CNT.COUNT 1 ∧ Reports s 0x0D04 t ∧
        (s.failedOnce part = false → t.failedOnce part = true) ∧
        (s.failedOnce part = true → (t.rd (fenceFld part)).testBit engine = true)) ∧
    (∀ part (v : Word) (pass : BitVec 16) i, s.arbHeld 0 = false → (part < 24 ∨ part = s.hubPart) → i < partEngines part → v.getLsbD i = true →
      pass.getLsbD i = true → Answers (.engineRelease part v pass) s fun t => (t.rd (fenceFld part)).testBit i = false) ∧
    (∀ (u : WordRead) (w : WellNo), u.part = w.val → u.mem = .stack →
      ((wordVerdict u).bad = true → Answers (.uncorrectableWord u) s fun t => Counted s t RAS_UNC_CNT.COUNT 1 ∧ Reports s 0x0D02 t ∧
        t.stackWord w (u.addr / 8 * 8) = u.word) ∧
      (∀ v, wordVerdict u = .corrected v → Answers (.uncorrectableWord u) s fun t => Counted s t RAS_COR_CNT.COUNT 1)) ∧
    (∀ (u : WordRead) v, u.part = s.hubPart → wordVerdict u = .corrected v →
      (u.mem = .queues → Answers (.uncorrectableWord u) s fun t => Counted s t PMP_Q_COR_CNT.COUNT 1 ∧ Counted s t RAS_COR_CNT.COUNT 1) ∧
      (∀ p : Port, u.mem = .receive p → Answers (.uncorrectableWord u) s fun t =>
        Counted s t (PMP_RBUF_COR_CNT.COUNT p.val) 1 ∧ Counted s t RAS_COR_CNT.COUNT 1) ∧
      (u.mem = .park → Answers (.uncorrectableWord u) s fun t => Counted s t CMB_PARK_COR_CNT.COUNT 1 ∧ Counted s t RAS_COR_CNT.COUNT 1)) ∧
    (∀ (u : WordRead), u.part = s.hubPart → (wordVerdict u).bad = true →
      (u.mem = .table → Answers (.uncorrectableWord u) s fun t => Reports s 0x0D02 t ∧
        (s.mch.mstate = .inSync → (s.act.side, 2, u.addr / 64 * 64) ∈ t.mch.fetch)) ∧
      (u.mem = .core → s.failover = none → s.mch.mstate = .inSync →
        Answers (.uncorrectableWord u) s fun t => t.failover = some { cause := 4, at_ := s.now, swap := false })) ∧
    (∀ (u : WordRead), u.part < 26 → wordVerdict u = .clean → u.mem ≠ .stack → u.mem ≠ .table → u.mem ≠ .router →
      Answers (.uncorrectableWord u) s fun t => t = s) ∧
    (∀ m, s.arbHeld 0 = false → s.isFrozen m = true → Answers (.masterRelease m) s fun t => t.isFrozen m = false ∧ Reports s 0x0D08 t) ∧
    (s.failover = none → s.mch.mstate = .inSync →
      (Answers (.coreWatchdogExpiry s.act.side) s fun t => t.failover = some { cause := 1, at_ := s.now, swap := false }) ∧
      (∀ off, Answers (.controlCoreAccessViolation s.act.side off) s fun t =>
        t.failover = some { cause := 5, at_ := s.now, swap := false } ∧ Reports s 0x0D07 t))

/-! ### The mirrored pair -/

/-- R391, R399, R400, R402, R407: updates in order and their acknowledgement, heartbeat, synchronisation, and repaired lines.
Readings and choices of the model in it: log entries 47, 80. -/
def Obligations.MirrorChannel : Prop :=
  ∀ (s : State), s.Inv → s.hubUp = true →
    (s.arbHeld 3 = true → Answers .mirUpdate s fun t => t = s) ∧
    (∀ n u rest, s.arbHeld 3 = false → s.mch.serves = true → s.mir.inReset = false → s.mch.sent = (n, u) :: rest →
      Answers .mirUpdate s fun t => t.mir = s.mir.apply s.build u ∧ t.mch.sent = rest ∧ Drives t (.mirPacket 0x21 n.toNat 0 [])) ∧
    (∀ n, s.mch.serves = true → seqLater n s.mch.acked = true → seqLater n s.mch.applied = false →
      Answers (.mirAck n) s fun t => t.mch.acked = n ∧ t.mch.effects = s.mch.effects.filter fun x => seqLater x.1 n) ∧
    (s.arbHeld 3 = false → Answers (.mirBeatSend s.act.side) s fun t => Drives t (.mirBeat s.act.side s.mch.useq true)) ∧
    (s.mir.inReset = false → Answers (.mirBeatSend s.mir.side) s fun t => Drives t (.mirBeat s.mir.side s.mch.applied false)) ∧
    ((s.heath s.act.side).hubGood = true → s.failover = none → s.mch.mstate = .inSync →
      Answers (.mirBeatLoss s.act.side) s fun t => t.failover = some { cause := 6, at_ := s.now, swap := false }) ∧
    (s.mch.serves = true → Answers (.mirBeatLoss s.mir.side) s fun t => t.mch.mstate = .out ∧ t.mch.cause = 13) ∧
    (∀ a, s.canSync = true →
      (s.arbHeld 0 = false → Answers (.sync a) s fun t => t.mch.mstate = .syncing ∧ t.mir = copyHub s.build s.act s.cwin s.mir) ∧
      (s.arbHeld 3 = false → s.rd MIR_CTRL.AUTO_SYNC = 1 → Answers (.mirSync false a) s fun t => t.mch.mstate = .syncing ∧
        t.mir = copyHub s.build s.act s.cwin s.mir)) ∧
    (∀ a, s.arbHeld 3 = false → s.mch.mstate = .syncing → s.mch.sent = [] →
      Answers (.mirSync true a) s fun t => t.mch.mstate = .inSync ∧ Reports s 0x0F04 t) ∧
    (s.arbHeld 0 = false → Answers .mirrorDisable s fun t => t.rd MIR_CTRL.DISABLE = 1 ∧ t.mch.serves = false) ∧
    (∀ side space off, s.mch.mstate = .inSync → (s.hub side).inReset = false → space < 4 →
      (side = s.act.side → s.arbHeld 3 = false) →
      Answers (.mirFetch side space off) s fun t => Drives t (.mirPacket 0x25
        (64 + bitNat ((space == 1 || space == 2) && (s.hub side).sramBad space off 64 != []) * 2 ^ 20) (off + space * 2 ^ 56) (s.lineOf side space off))) ∧
    (∀ side off bs, (s.hub side).inReset = false →
      (s.mch.fetch.contains (side, 1, off) = true →
        Answers (.mirData side 1 off false bs) s fun t => mread zeroByte (t.hub side).router off 64 = padTo 64 bs) ∧
      (s.mch.fetch.contains (side, 2, off) = true →
        Answers (.mirData side 2 off false bs) s fun t => mread tblDefault (t.hub side).table off 64 = padTo 64 bs))

/-- R17, R402-R407: a swap starts and waits for an idle point of the Hub that is left; a takeover changes the roles; a held Hub
rejoins. Readings and choices of the model in it: log entries 80, 87, 116. -/
def Obligations.RolesChange : Prop :=
  ∀ (s : State),
    (∀ a, s.busUp 0 = true → s.failover = none →
      (s.mch.mstate = .inSync →
        Answers (.swap a) s fun t => t.active = true ∧ t.failover = some { cause := 7, at_ := a, swap := true }) ∧
      (s.mch.mstate ≠ .inSync → Answers (.swap a) s fun t => t.active = true ∧ t.failover = none ∧ Reports s 0x0F06 t)) ∧
    (∀ a fo, s.failover = some fo → Answers (.swap a) s fun t => t = s) ∧
    (s.busUp 0 = true → s.mch.mstate = .held →
      Answers .rejoin s fun t => t.mch.mstate = .out ∧ t.mir = HubCore.fresh s.mir.side false) ∧
    (∀ a fo, s.failover = some fo → fo.swap = true → s.atIdle = false → Answers (.mirrorTakeover a) s fun t => t = s) ∧
    (∀ a fo, s.failover = some fo → s.mir.inReset = false → (fo.swap = true → s.atIdle = true) →
      Answers (.mirrorTakeover a) s fun t => t.active = true ∧ t.failover = none ∧ t.act.side = s.mir.side ∧
        t.mir.side = s.act.side ∧ t.mch.mstate = if fo.swap then .inSync else .held)

/-! ### Register accesses and the debug ports -/

/-- R7, R8, R340, R341, R346: what a Config Port access answers, a write that its update holds back, a sideband that does not
answer, and writes of a plain and of a locked register. Readings and choices of the model in it: log entries 37, 53, 92. -/
def Obligations.RegisterAccesses : Prop :=
  ∀ (s : State) (side : Side) (off : Nat) (v : Word),
    (s.cfgTakes side = false → ∀ wr, Answers (.configAccess side wr off v) s fun t => t = s) ∧
    (s.cfgTakes side = true → decodes (wordOff off) = true →
      (Answers (.configAccess side false off v) s fun t => Drives t (.cfgReady side (s.readWord .config side (wordOff off)) false)) ∧
      (s.isActive side = false → heldByMirror (wordOff off) = true →
        Answers (.configAccess side true off v) s fun t => t = s.emit (.cfgReady side 0 true)) ∧
      (s.isActive side = true → ((pageWell (wordOff off)).any fun w => !s.reachable w) = false →
        Answers (.configAccess side true off v) s fun t => Drives t (.cfgReady side 0 false) ∨
          ∃ x, x ∈ t.mch.effects ∧ x.2 = .cfgReady side) ∧
      (s.isActive side = true → ((pageWell (wordOff off)).any fun w => !s.reachable w) = true →
        Answers (.configAccess side true off v) s fun t => (side, true, wordOff off, v) ∈ t.cfgWait)) ∧
    ((s.cfgWait.any fun x => x.1 == side) = true →
      Answers (.sidebandTimeout side) s fun t => Drives t (.cfgReady side 0 true) ∧ ∀ x, x ∈ t.cfgWait → x.1 ≠ side) ∧
    (s.hubUp = true → s.arbHeld 0 = false →
      (∀ p : Port, Answers (.registerWrite (PMP_VC_WT.reg p) v) s fun t => ∀ i, i < 4 →
        bitsOf (t.rd (PMP_VC_WT.WT p)) (8 * i) 8 = max 1 (bitsOf v.toNat (8 * i) 8)) ∧
      (s.rd HTH_LOCK.LOCK = 1 → HTH_RDM.EN.get v ≠ s.rd HTH_RDM.EN →
        Answers (.registerWrite HTH_RDM.reg v) s fun t => t.rd HTH_RDM.EN = s.rd HTH_RDM.EN ∧
          Counted s t RAS_LOCKED_WR_CNT.COUNT 1))

/-- R26, R351, R355, R394, R439: the instructions of the debug ports, and the ends of an arbiter hold. Readings and choices of the
model in it: log entries 52, 84. -/
def Obligations.DebugPorts : Prop :=
  ∀ (s : State) (side : Side),
    ((s.tap side).trst = false → Answers (.idcode side) s fun t =>
      (t.tap side).ir = 0x01 ∧ Drives t (.tdo (s.viewOf side DBG_IDCODE.reg))) ∧
    (∀ code, (s.tap side).trst = false → Answers (.tapBypass side code) s fun t => (t.tap side).ir = code) ∧
    (∀ off v, s.debugActs side = true → decodes (wordOff off) = true → Answers (.regacc side false off v) s fun t =>
      Drives t (.tdo ((s.setIr side 0x20).readWord .debug side (wordOff off)))) ∧
    (∀ wr off v, s.debugActs side = false → (s.tap side).trst = false →
      Answers (.regacc side wr off v) s fun t => t = s.setIr side 0x20) ∧
    (∀ a, s.debugActs s.act.side = true → s.dbg.hold = none →
      Answers (.arbholdTake a) s fun t => t.dbg.hold = some (s.rd DBG_ARBSEL.ARB, max s.now a) ∧ Reports s 0x0111 t) ∧
    (∀ a x, s.debugActs s.act.side = true → s.dbg.hold = some x →
      Answers (.arbholdRelease a) s fun t => t.dbg.hold = none ∧ Reports s 0x0112 t) ∧
    (∀ x, s.dbg.hold = some x →
      Answers .debugHoldTimeout s fun t => t.dbg.hold = none ∧ t.rd RAS_FREEZE.DEBUG = 1 ∧ Reports s 0x0D07 t) ∧
    (∀ rst en a, Answers (.dbgTrst side rst en a) s fun t => (t.tap side).en = en ∧ (t.tap side).trst = rst ∧
      (rst = true → (t.tap side).ir = 0xFF) ∧ (side = s.act.side → rst = true ∨ en = false → t.dbg.hold = none))

/-! ### Rules of one sentence -/

/-- R72. -/
def Obligations.DoorbellOfDisabledContext : Prop :=
  ∀ (s : State) (c : Ctx) (v : Word), s.busUp 0 = true → s.rd (RNG_CTX_CTRL.ENABLE c) = 0 →
    Answers (.doorbell c v) s fun t => Reports s 0x0302 t ∧ (∀ off, off ≠ RNG_EQ_LOST.reg → t.word off = s.word off) ∧
      { t with evq := s.evq, evr := s.evr, mch := s.mch, act := { t.act with win := s.act.win } } = s

/-- R389. -/
def Obligations.NoticeAfterCommit : Prop :=
  ∀ (s : State) (p : Pkt) (st : Step), s.hubUp = true → ptypeOf p = 0x0B → s.landCheck p = none → ctlBad p = false →
    (s.isMaster = true → (s.ctxSet (ctxOf p)).testBit (srcOf p).val = true) → s.current p = none →
    (∀ l, s.landedOf p = some l → l.release = []) → st ∈ s.steps (ctxOf p) → st.state = .committed → st.seq = seqOf p → st.replays % 8 = attOf p →
    Answers (.abortNotice p) s fun t => t.steps (ctxOf p) = s.steps (ctxOf p) ∧ Counted s t RAS_LATE_NOTICE_CNT.COUNT 1 ∧
      t.evq = s.evq ∧ t.evr = s.evr ∧ ∀ off, off ≠ RAS_LATE_NOTICE_CNT.reg → t.word off = s.word off

/-- R170. -/
def Obligations.ReleaseDecoding : Prop :=
  ∀ (s : State) (w : Word), s.slaveUp = true →
    (bitsOf w.toNat 19 13 ≠ 0 ∨ bitsOf w.toNat 18 1 ≠ (if s.act.side = .b then 1 else 0) ∨
      s.rd (CST_POOL_COUNT.COUNT (bitsOf w.toNat 16 2)) ≤ bitsOf w.toNat 0 16) →
    Answers (.releaseWord w) s fun t => Counted s t CST_BADREL_CNT.COUNT 1 ∧ Reports s 0x0604 t ∧ t.cist = s.cist ∧ t.work = s.work ∧
      t.host = s.host ∧ ∀ off, off ≠ CST_BADREL_CNT.reg → off ≠ RNG_EQ_LOST.reg → t.word off = s.word off

/-- R426, R427. -/
def Obligations.UndecodedOffsets : Prop :=
  ∀ (s : State) (side : Side) (off : Nat) (v : Word),
    (0x1000 ≤ wordOff off → findReg (wordOff off) = none →
      (s.cfgTakes side = true → ∀ wr, Answers (.configAccess side wr off v) s fun t => t = s.emit (.cfgReady side 0 true)) ∧
      (s.debugActs side = true → ∀ wr, Answers (.regacc side wr off v) s fun t => Drives t (.tdo 0) ∧
        DBG_STATUS.DEC_ERR.get (t.sideWord side DBG_STATUS.reg) = 1 ∧
        ∀ x, x ≠ DBG_STATUS.reg → t.word x = s.word x ∧ t.mirWord x = s.mirWord x)) ∧
    (wordOff off < 0x1000 → findReg (wordOff off) = none → s.cfgTakes side = true →
      (Answers (.configAccess side false off v) s fun t => Drives t (.cfgReady side (s.readWord .config side (wordOff off)) false)) ∧
      (Answers (.configAccess side true off v) s fun t => Drives t (.cfgReady side 0 false) ∧
        ∀ x, t.word x = s.word x ∧ t.mirWord x = s.mirWord x))

/-! ### The block as a whole -/

/-- The step takes the command at the front of the queue and runs it on the state with the queue's rest; with none waiting the
block idles (log entry 1). -/
def Obligations.StepTakesFront : Prop :=
  (∀ (c : Instr) (s : State), step { s with pending := c :: s.pending } = exec c s) ∧
  (∀ (s : State), s.pending = [] → step s = .next s)

/-- The state after reset meets the invariants, with no command waiting, no Hub active, internal bypass engaged, every Well out of
service and every port DOWN (R16, R313, R326, R350; the build parameters are those of log entry 2). -/
def Obligations.ResetMeetsInvariants : Prop :=
  State.reset.Inv ∧ State.reset.memWf = true ∧ State.reset.pending = [] ∧ State.reset.active = false ∧ State.reset.act.side = .a ∧
    State.reset.intBypass = true ∧ (∀ w : WellNo, State.reset.wells[w].inService = false) ∧
    ∀ p : Port, State.reset.portState p = 0

/-- R15, R356: every step keeps the invariant: the build parameters stay legal, and the two macros stay on their two sides. -/
def Obligations.StepsKeepInvariant : Prop := ∀ (s t : State), s.Inv → step s = .next t → t.Inv

/-- Every step keeps the canonical form of every memory and register window. -/
def Obligations.StepsKeepCanonicalMemories : Prop := ∀ (s t : State), s.memWf = true → step s = .next t → t.memWf = true

/-! ### Frames -/

/-- R375, R419: only the end of a page program or of an erase changes the nonvolatile area; no command changes the build
parameters, or the queue behind it. -/
def Obligations.NonvolatileFrame : Prop :=
  ∀ (s t : State) (i : Instr), exec i s = .next t →
    t.build = s.build ∧ t.pending = s.pending ∧ ((∀ ok, i ≠ .pageProgramDone ok) → t.nvm = s.nvm)

/-- R7, R60, R93, R242, R243, R314, R324, R420: what the commands that write one or two registers leave as it is. Readings and
choices of the model in it: log entry 47. -/
def Obligations.RegisterCommandFrame : Prop :=
  ∀ (s t : State) (i : Instr) (l : List Nat),
    ((∃ c v, i = .cqHeadWrite c v ∧ l = [RNG_CQ_HEAD.reg c, RNG_CTX_STATUS.reg c]) ∨ (∃ v, i = .eqHeadWrite v ∧ l = [RNG_EQ_HEAD.reg]) ∨
      (∃ v, i = .tckPeriodWrite v ∧ l = [TCK_PERIOD.reg]) ∨
      (∃ w, i = .pcapReached w ∧ l = [WEL_PCAP_STATUS.reg w.val, WEL_THR_CNT.reg w.val]) ∨
      (∃ w ch b, i = .hostRefresh w ch b ∧ l = [WEL_ARB_STATUS.reg w.val]) ∨
      (∃ w late, i = .refreshTakeover w late ∧ l = [WEL_ARB_STATUS.reg w.val, WEL_REF_TAKEOVER_CNT.reg w.val]) ∨
      (i = .bypassHoldRelease ∧ l = [SVC_BYP_CTRL.reg]) ∨
      (∃ hi v, i = .svcAbsentClear hi v ∧ l = [SVC_ABSENT_LO.reg, SVC_ABSENT_HI.reg]) ∨
      (∃ v, i = .evrTrig v ∧ l = [EVR_TRIG.reg]) ∨ (∃ v, i = .evrCursorLoad v ∧ l = [EVR_CURSOR.reg]) ∨
      (i = .win15Autoinc ∧ l = [EVR_CURSOR.reg])) →
    exec i s = .next t →
    (∀ off, off ∉ l → off ≠ RNG_EQ_LOST.reg → t.word off = s.word off) ∧ t.act.core = s.act.core ∧ t.act.table = s.act.table ∧
      t.act.router = s.act.router ∧ t.act.lanes = s.act.lanes ∧ t.mir = s.mir ∧ t.work = s.work ∧ t.cist = s.cist ∧ t.chan = s.chan ∧
      t.host = s.host ∧ t.tick = s.tick ∧ t.landed = s.landed ∧ t.tapA = s.tapA ∧ t.tapB = s.tapB ∧
      (∀ w : WellNo, t.wells[w].stack = s.wells[w].stack) ∧ (∀ p : Port, t.link (.port p) = s.link (.port p))

/-- What the commands leave as it is that write no register: heartbeats, beacons, calibration requests, test-port codes, the
recorder's flushes and window, and the rotations of the background work. -/
def Obligations.QuietCommandFrame : Prop :=
  ∀ (s t : State) (i : Instr),
    ((∃ side, i = .mirBeatSend side) ∨ (∃ p, i = .beaconSend p) ∨ (∃ p a, i = .calStart p a) ∨ (∃ p x a b, i = .calReq p x a b) ∨
      (∃ p, i = .calLost p) ∨ (∃ side, i = .idcode side) ∨ (∃ side c, i = .tapBypass side c) ∨ i = .eqAdaptation ∨ i = .wellLinkRecal ∨
      i = .tokenRefill ∨ (∃ w, i = .rdmWindowEnd w ∧ s.wellQuiet w = true) ∨ i = .leadHeathLoss ∨ (∃ bs, i = .nvReadDone bs) ∨ (∃ a, i = .trickleFlush a) ∨
      i = .evrFlush ∨ i = .nvErase ∨ (∃ side sp off, i = .mirFetch side sp off) ∨ (∃ side, i = .cfgReset side)) →
    exec i s = .next t →
    (∀ off, t.word off = s.word off ∧ t.mirWord off = s.mirWord off) ∧ t.act.core = s.act.core ∧ t.act.table = s.act.table ∧
      t.act.router = s.act.router ∧ t.act.lanes = s.act.lanes ∧ t.mir.core = s.mir.core ∧ t.work = s.work ∧ t.cist = s.cist ∧
      t.chan = s.chan ∧ t.host = s.host ∧ t.tick = s.tick ∧ t.landed = s.landed ∧ t.nvm = s.nvm ∧
      (∀ w : WellNo, t.wells[w].stack = s.wells[w].stack ∧ t.wells[w].actlog = s.wells[w].actlog) ∧
      (∀ p : Port, t.link (.port p) = s.link (.port p))

/-- R169, R238-R240, R335, R383, R391, R418: the bytes that a store does not name keep their values: of a host command and a
ledger write, taken by a Well at whose channels nothing waits and over words none of which is in error, in the stack of that
Well and in every other, of a host write in the Cistern, of a repaired line in the SRAM of its Hub, of a page program in the
nonvolatile area. Readings and choices of the model in it: log entry 82. -/
def Obligations.StoreFrame : Prop :=
  ∀ (s t : State),
    (∀ w cmd, s.wellQuiet w = true → (∀ a bs, cmd = .write a bs → Flips.within s.wells[w].flips a bs.length = []) →
      exec (.hostCommand w cmd) s = .next t → ∀ (x : WellNo) (b : Nat),
      (x = w → ∀ a bs, cmd = .write a bs → b < a ∨ a + bs.length ≤ b) →
      t.stackRead x b 1 = s.stackRead x b 1) ∧
    (∀ w p, s.wellQuiet w = true →
      Flips.within s.wells[w].flips (bitsOf p.w1.toNat 0 37) (bitsOf p.w2.toNat 0 24) = [] → exec (.ledgerWrite w p) s = .next t → ∀ (x : WellNo) (b : Nat),
      (x = w → b < bitsOf p.w1.toNat 0 37 ∨ bitsOf p.w1.toNat 0 37 + bitsOf p.w2.toNat 0 24 ≤ b) →
      t.stackRead x b 1 = s.stackRead x b 1) ∧
    (∀ off data, off + data.length ≤ 0x4000000 → exec (.cisternDataAccess true off data) s = .next t → ∀ b,
      b < off ∨ off + data.length ≤ b → mread zeroByte t.cist.data b 1 = mread zeroByte s.cist.data b 1) ∧
    (∀ side sp off bad bs, exec (.mirData side sp off bad bs) s = .next t → ∀ b, b < off ∨ off + 64 ≤ b →
      mread zeroByte (t.hub side).router b 1 = mread zeroByte (s.hub side).router b 1 ∧
      mread tblDefault (t.hub side).table b 1 = mread tblDefault (s.hub side).table b 1) ∧
    (∀ y x, s.openSector = some (y, x) → s.evr.eraseOf = none → s.evr.page.length ≤ 4 → exec (.pageProgramDone true) s = .next t →
      ∀ b, b < y.sectorAddr x.idx + 64 * x.next ∨ y.sectorAddr x.idx + 64 * x.next + 256 ≤ b →
        mread nvByte t.nvm b 1 = mread nvByte s.nvm b 1 ∨ (s.sectorAddr x.idx ≤ b ∧ b < s.sectorAddr x.idx + 8))
end

