-- ==== Sys2Proof/Laws/State.lean ====
section
/-!
SUPPORT. What each plain update of the state leaves as it is: one lemma for each field and update, so that no proof unfolds a
record update.
-/

namespace Sys2Proof.Machine

open Sys2Proof

/-! ### `State.at` -/

@[simp] theorem State.at_build (s : State) (t : Nat) : (s.at t).build = s.build := rfl
@[simp] theorem State.at_pending (s : State) (t : Nat) : (s.at t).pending = s.pending := rfl
@[simp] theorem State.at_out (s : State) (t : Nat) : (s.at t).out = s.out := rfl
@[simp] theorem State.at_free (s : State) (t : Nat) : (s.at t).free = s.free := rfl
@[simp] theorem State.at_active (s : State) (t : Nat) : (s.at t).active = s.active := rfl
@[simp] theorem State.at_act (s : State) (t : Nat) : (s.at t).act = s.act := rfl
@[simp] theorem State.at_mir (s : State) (t : Nat) : (s.at t).mir = s.mir := rfl
@[simp] theorem State.at_cwin (s : State) (t : Nat) : (s.at t).cwin = s.cwin := rfl
@[simp] theorem State.at_mch (s : State) (t : Nat) : (s.at t).mch = s.mch := rfl
@[simp] theorem State.at_failover (s : State) (t : Nat) : (s.at t).failover = s.failover := rfl
@[simp] theorem State.at_tick (s : State) (t : Nat) : (s.at t).tick = s.tick := rfl
@[simp] theorem State.at_commits (s : State) (t : Nat) : (s.at t).commits = s.commits := rfl
@[simp] theorem State.at_evq (s : State) (t : Nat) : (s.at t).evq = s.evq := rfl
@[simp] theorem State.at_evr (s : State) (t : Nat) : (s.at t).evr = s.evr := rfl
@[simp] theorem State.at_host (s : State) (t : Nat) : (s.at t).host = s.host := rfl
@[simp] theorem State.at_cfgWait (s : State) (t : Nat) : (s.at t).cfgWait = s.cfgWait := rfl
@[simp] theorem State.at_ports (s : State) (t : Nat) : (s.at t).ports = s.ports := rfl
@[simp] theorem State.at_landed (s : State) (t : Nat) : (s.at t).landed = s.landed := rfl
@[simp] theorem State.at_routeWait (s : State) (t : Nat) : (s.at t).routeWait = s.routeWait := rfl
@[simp] theorem State.at_wells (s : State) (t : Nat) : (s.at t).wells = s.wells := rfl
@[simp] theorem State.at_work (s : State) (t : Nat) : (s.at t).work = s.work := rfl
@[simp] theorem State.at_cist (s : State) (t : Nat) : (s.at t).cist = s.cist := rfl
@[simp] theorem State.at_chan (s : State) (t : Nat) : (s.at t).chan = s.chan := rfl
@[simp] theorem State.at_hk (s : State) (t : Nat) : (s.at t).hk = s.hk := rfl
@[simp] theorem State.at_heathA (s : State) (t : Nat) : (s.at t).heathA = s.heathA := rfl
@[simp] theorem State.at_heathB (s : State) (t : Nat) : (s.at t).heathB = s.heathB := rfl
@[simp] theorem State.at_lead (s : State) (t : Nat) : (s.at t).lead = s.lead := rfl
@[simp] theorem State.at_pfail (s : State) (t : Nat) : (s.at t).pfail = s.pfail := rfl
@[simp] theorem State.at_intBypass (s : State) (t : Nat) : (s.at t).intBypass = s.intBypass := rfl
@[simp] theorem State.at_tapA (s : State) (t : Nat) : (s.at t).tapA = s.tapA := rfl
@[simp] theorem State.at_tapB (s : State) (t : Nat) : (s.at t).tapB = s.tapB := rfl
@[simp] theorem State.at_nvm (s : State) (t : Nat) : (s.at t).nvm = s.nvm := rfl
@[simp] theorem State.at_erases (s : State) (t : Nat) : (s.at t).erases = s.erases := rfl
@[simp] theorem State.at_erasePaused (s : State) (t : Nat) : (s.at t).erasePaused = s.erasePaused := rfl
@[simp] theorem State.at_corrected (s : State) (t : Nat) : (s.at t).corrected = s.corrected := rfl
@[simp] theorem State.at_eqTurn (s : State) (t : Nat) : (s.at t).eqTurn = s.eqTurn := rfl
@[simp] theorem State.at_wlTurn (s : State) (t : Nat) : (s.at t).wlTurn = s.wlTurn := rfl

/-! ### `State.emit` -/

@[simp] theorem State.emit_build (s : State) (e : Emission) : (s.emit e).build = s.build := rfl
@[simp] theorem State.emit_pending (s : State) (e : Emission) : (s.emit e).pending = s.pending := rfl
@[simp] theorem State.emit_now (s : State) (e : Emission) : (s.emit e).now = s.now := rfl
@[simp] theorem State.emit_free (s : State) (e : Emission) : (s.emit e).free = s.free := rfl
@[simp] theorem State.emit_active (s : State) (e : Emission) : (s.emit e).active = s.active := rfl
@[simp] theorem State.emit_act (s : State) (e : Emission) : (s.emit e).act = s.act := rfl
@[simp] theorem State.emit_mir (s : State) (e : Emission) : (s.emit e).mir = s.mir := rfl
@[simp] theorem State.emit_cwin (s : State) (e : Emission) : (s.emit e).cwin = s.cwin := rfl
@[simp] theorem State.emit_mch (s : State) (e : Emission) : (s.emit e).mch = s.mch := rfl
@[simp] theorem State.emit_failover (s : State) (e : Emission) : (s.emit e).failover = s.failover := rfl
@[simp] theorem State.emit_tick (s : State) (e : Emission) : (s.emit e).tick = s.tick := rfl
@[simp] theorem State.emit_commits (s : State) (e : Emission) : (s.emit e).commits = s.commits := rfl
@[simp] theorem State.emit_evq (s : State) (e : Emission) : (s.emit e).evq = s.evq := rfl
@[simp] theorem State.emit_evr (s : State) (e : Emission) : (s.emit e).evr = s.evr := rfl
@[simp] theorem State.emit_host (s : State) (e : Emission) : (s.emit e).host = s.host := rfl
@[simp] theorem State.emit_cfgWait (s : State) (e : Emission) : (s.emit e).cfgWait = s.cfgWait := rfl
@[simp] theorem State.emit_ports (s : State) (e : Emission) : (s.emit e).ports = s.ports := rfl
@[simp] theorem State.emit_landed (s : State) (e : Emission) : (s.emit e).landed = s.landed := rfl
@[simp] theorem State.emit_routeWait (s : State) (e : Emission) : (s.emit e).routeWait = s.routeWait := rfl
@[simp] theorem State.emit_wells (s : State) (e : Emission) : (s.emit e).wells = s.wells := rfl
@[simp] theorem State.emit_work (s : State) (e : Emission) : (s.emit e).work = s.work := rfl
@[simp] theorem State.emit_cist (s : State) (e : Emission) : (s.emit e).cist = s.cist := rfl
@[simp] theorem State.emit_chan (s : State) (e : Emission) : (s.emit e).chan = s.chan := rfl
@[simp] theorem State.emit_hk (s : State) (e : Emission) : (s.emit e).hk = s.hk := rfl
@[simp] theorem State.emit_heathA (s : State) (e : Emission) : (s.emit e).heathA = s.heathA := rfl
@[simp] theorem State.emit_heathB (s : State) (e : Emission) : (s.emit e).heathB = s.heathB := rfl
@[simp] theorem State.emit_lead (s : State) (e : Emission) : (s.emit e).lead = s.lead := rfl
@[simp] theorem State.emit_pfail (s : State) (e : Emission) : (s.emit e).pfail = s.pfail := rfl
@[simp] theorem State.emit_intBypass (s : State) (e : Emission) : (s.emit e).intBypass = s.intBypass := rfl
@[simp] theorem State.emit_tapA (s : State) (e : Emission) : (s.emit e).tapA = s.tapA := rfl
@[simp] theorem State.emit_tapB (s : State) (e : Emission) : (s.emit e).tapB = s.tapB := rfl
@[simp] theorem State.emit_nvm (s : State) (e : Emission) : (s.emit e).nvm = s.nvm := rfl
@[simp] theorem State.emit_erases (s : State) (e : Emission) : (s.emit e).erases = s.erases := rfl
@[simp] theorem State.emit_erasePaused (s : State) (e : Emission) : (s.emit e).erasePaused = s.erasePaused := rfl
@[simp] theorem State.emit_corrected (s : State) (e : Emission) : (s.emit e).corrected = s.corrected := rfl
@[simp] theorem State.emit_eqTurn (s : State) (e : Emission) : (s.emit e).eqTurn = s.eqTurn := rfl
@[simp] theorem State.emit_wlTurn (s : State) (e : Emission) : (s.emit e).wlTurn = s.wlTurn := rfl

/-! ### `State.modPort` -/

@[simp] theorem State.modPort_build (s : State) (p : Port) (f : PortState → PortState) : (s.modPort p f).build = s.build := rfl
@[simp] theorem State.modPort_pending (s : State) (p : Port) (f : PortState → PortState) : (s.modPort p f).pending = s.pending := rfl
@[simp] theorem State.modPort_now (s : State) (p : Port) (f : PortState → PortState) : (s.modPort p f).now = s.now := rfl
@[simp] theorem State.modPort_out (s : State) (p : Port) (f : PortState → PortState) : (s.modPort p f).out = s.out := rfl
@[simp] theorem State.modPort_free (s : State) (p : Port) (f : PortState → PortState) : (s.modPort p f).free = s.free := rfl
@[simp] theorem State.modPort_active (s : State) (p : Port) (f : PortState → PortState) : (s.modPort p f).active = s.active := rfl
@[simp] theorem State.modPort_act (s : State) (p : Port) (f : PortState → PortState) : (s.modPort p f).act = s.act := rfl
@[simp] theorem State.modPort_mir (s : State) (p : Port) (f : PortState → PortState) : (s.modPort p f).mir = s.mir := rfl
@[simp] theorem State.modPort_cwin (s : State) (p : Port) (f : PortState → PortState) : (s.modPort p f).cwin = s.cwin := rfl
@[simp] theorem State.modPort_mch (s : State) (p : Port) (f : PortState → PortState) : (s.modPort p f).mch = s.mch := rfl
@[simp] theorem State.modPort_failover (s : State) (p : Port) (f : PortState → PortState) : (s.modPort p f).failover = s.failover := rfl
@[simp] theorem State.modPort_tick (s : State) (p : Port) (f : PortState → PortState) : (s.modPort p f).tick = s.tick := rfl
@[simp] theorem State.modPort_commits (s : State) (p : Port) (f : PortState → PortState) : (s.modPort p f).commits = s.commits := rfl
@[simp] theorem State.modPort_evq (s : State) (p : Port) (f : PortState → PortState) : (s.modPort p f).evq = s.evq := rfl
@[simp] theorem State.modPort_evr (s : State) (p : Port) (f : PortState → PortState) : (s.modPort p f).evr = s.evr := rfl
@[simp] theorem State.modPort_host (s : State) (p : Port) (f : PortState → PortState) : (s.modPort p f).host = s.host := rfl
@[simp] theorem State.modPort_cfgWait (s : State) (p : Port) (f : PortState → PortState) : (s.modPort p f).cfgWait = s.cfgWait := rfl
@[simp] theorem State.modPort_landed (s : State) (p : Port) (f : PortState → PortState) : (s.modPort p f).landed = s.landed := rfl
@[simp] theorem State.modPort_routeWait (s : State) (p : Port) (f : PortState → PortState) : (s.modPort p f).routeWait = s.routeWait := rfl
@[simp] theorem State.modPort_wells (s : State) (p : Port) (f : PortState → PortState) : (s.modPort p f).wells = s.wells := rfl
@[simp] theorem State.modPort_work (s : State) (p : Port) (f : PortState → PortState) : (s.modPort p f).work = s.work := rfl
@[simp] theorem State.modPort_cist (s : State) (p : Port) (f : PortState → PortState) : (s.modPort p f).cist = s.cist := rfl
@[simp] theorem State.modPort_chan (s : State) (p : Port) (f : PortState → PortState) : (s.modPort p f).chan = s.chan := rfl
@[simp] theorem State.modPort_hk (s : State) (p : Port) (f : PortState → PortState) : (s.modPort p f).hk = s.hk := rfl
@[simp] theorem State.modPort_heathA (s : State) (p : Port) (f : PortState → PortState) : (s.modPort p f).heathA = s.heathA := rfl
@[simp] theorem State.modPort_heathB (s : State) (p : Port) (f : PortState → PortState) : (s.modPort p f).heathB = s.heathB := rfl
@[simp] theorem State.modPort_lead (s : State) (p : Port) (f : PortState → PortState) : (s.modPort p f).lead = s.lead := rfl
@[simp] theorem State.modPort_pfail (s : State) (p : Port) (f : PortState → PortState) : (s.modPort p f).pfail = s.pfail := rfl
@[simp] theorem State.modPort_intBypass (s : State) (p : Port) (f : PortState → PortState) : (s.modPort p f).intBypass = s.intBypass := rfl
@[simp] theorem State.modPort_tapA (s : State) (p : Port) (f : PortState → PortState) : (s.modPort p f).tapA = s.tapA := rfl
@[simp] theorem State.modPort_tapB (s : State) (p : Port) (f : PortState → PortState) : (s.modPort p f).tapB = s.tapB := rfl
@[simp] theorem State.modPort_nvm (s : State) (p : Port) (f : PortState → PortState) : (s.modPort p f).nvm = s.nvm := rfl
@[simp] theorem State.modPort_erases (s : State) (p : Port) (f : PortState → PortState) : (s.modPort p f).erases = s.erases := rfl
@[simp] theorem State.modPort_erasePaused (s : State) (p : Port) (f : PortState → PortState) : (s.modPort p f).erasePaused = s.erasePaused := rfl
@[simp] theorem State.modPort_corrected (s : State) (p : Port) (f : PortState → PortState) : (s.modPort p f).corrected = s.corrected := rfl
@[simp] theorem State.modPort_eqTurn (s : State) (p : Port) (f : PortState → PortState) : (s.modPort p f).eqTurn = s.eqTurn := rfl
@[simp] theorem State.modPort_wlTurn (s : State) (p : Port) (f : PortState → PortState) : (s.modPort p f).wlTurn = s.wlTurn := rfl

/-! ### `State.modWell` -/

@[simp] theorem State.modWell_build (s : State) (w : WellNo) (f : Well → Well) : (s.modWell w f).build = s.build := rfl
@[simp] theorem State.modWell_pending (s : State) (w : WellNo) (f : Well → Well) : (s.modWell w f).pending = s.pending := rfl
@[simp] theorem State.modWell_now (s : State) (w : WellNo) (f : Well → Well) : (s.modWell w f).now = s.now := rfl
@[simp] theorem State.modWell_out (s : State) (w : WellNo) (f : Well → Well) : (s.modWell w f).out = s.out := rfl
@[simp] theorem State.modWell_free (s : State) (w : WellNo) (f : Well → Well) : (s.modWell w f).free = s.free := rfl
@[simp] theorem State.modWell_active (s : State) (w : WellNo) (f : Well → Well) : (s.modWell w f).active = s.active := rfl
@[simp] theorem State.modWell_act (s : State) (w : WellNo) (f : Well → Well) : (s.modWell w f).act = s.act := rfl
@[simp] theorem State.modWell_mir (s : State) (w : WellNo) (f : Well → Well) : (s.modWell w f).mir = s.mir := rfl
@[simp] theorem State.modWell_cwin (s : State) (w : WellNo) (f : Well → Well) : (s.modWell w f).cwin = s.cwin := rfl
@[simp] theorem State.modWell_mch (s : State) (w : WellNo) (f : Well → Well) : (s.modWell w f).mch = s.mch := rfl
@[simp] theorem State.modWell_failover (s : State) (w : WellNo) (f : Well → Well) : (s.modWell w f).failover = s.failover := rfl
@[simp] theorem State.modWell_tick (s : State) (w : WellNo) (f : Well → Well) : (s.modWell w f).tick = s.tick := rfl
@[simp] theorem State.modWell_commits (s : State) (w : WellNo) (f : Well → Well) : (s.modWell w f).commits = s.commits := rfl
@[simp] theorem State.modWell_evq (s : State) (w : WellNo) (f : Well → Well) : (s.modWell w f).evq = s.evq := rfl
@[simp] theorem State.modWell_evr (s : State) (w : WellNo) (f : Well → Well) : (s.modWell w f).evr = s.evr := rfl
@[simp] theorem State.modWell_host (s : State) (w : WellNo) (f : Well → Well) : (s.modWell w f).host = s.host := rfl
@[simp] theorem State.modWell_cfgWait (s : State) (w : WellNo) (f : Well → Well) : (s.modWell w f).cfgWait = s.cfgWait := rfl
@[simp] theorem State.modWell_ports (s : State) (w : WellNo) (f : Well → Well) : (s.modWell w f).ports = s.ports := rfl
@[simp] theorem State.modWell_landed (s : State) (w : WellNo) (f : Well → Well) : (s.modWell w f).landed = s.landed := rfl
@[simp] theorem State.modWell_routeWait (s : State) (w : WellNo) (f : Well → Well) : (s.modWell w f).routeWait = s.routeWait := rfl
@[simp] theorem State.modWell_work (s : State) (w : WellNo) (f : Well → Well) : (s.modWell w f).work = s.work := rfl
@[simp] theorem State.modWell_cist (s : State) (w : WellNo) (f : Well → Well) : (s.modWell w f).cist = s.cist := rfl
@[simp] theorem State.modWell_chan (s : State) (w : WellNo) (f : Well → Well) : (s.modWell w f).chan = s.chan := rfl
@[simp] theorem State.modWell_hk (s : State) (w : WellNo) (f : Well → Well) : (s.modWell w f).hk = s.hk := rfl
@[simp] theorem State.modWell_heathA (s : State) (w : WellNo) (f : Well → Well) : (s.modWell w f).heathA = s.heathA := rfl
@[simp] theorem State.modWell_heathB (s : State) (w : WellNo) (f : Well → Well) : (s.modWell w f).heathB = s.heathB := rfl
@[simp] theorem State.modWell_lead (s : State) (w : WellNo) (f : Well → Well) : (s.modWell w f).lead = s.lead := rfl
@[simp] theorem State.modWell_pfail (s : State) (w : WellNo) (f : Well → Well) : (s.modWell w f).pfail = s.pfail := rfl
@[simp] theorem State.modWell_intBypass (s : State) (w : WellNo) (f : Well → Well) : (s.modWell w f).intBypass = s.intBypass := rfl
@[simp] theorem State.modWell_tapA (s : State) (w : WellNo) (f : Well → Well) : (s.modWell w f).tapA = s.tapA := rfl
@[simp] theorem State.modWell_tapB (s : State) (w : WellNo) (f : Well → Well) : (s.modWell w f).tapB = s.tapB := rfl
@[simp] theorem State.modWell_nvm (s : State) (w : WellNo) (f : Well → Well) : (s.modWell w f).nvm = s.nvm := rfl
@[simp] theorem State.modWell_erases (s : State) (w : WellNo) (f : Well → Well) : (s.modWell w f).erases = s.erases := rfl
@[simp] theorem State.modWell_erasePaused (s : State) (w : WellNo) (f : Well → Well) : (s.modWell w f).erasePaused = s.erasePaused := rfl
@[simp] theorem State.modWell_corrected (s : State) (w : WellNo) (f : Well → Well) : (s.modWell w f).corrected = s.corrected := rfl
@[simp] theorem State.modWell_eqTurn (s : State) (w : WellNo) (f : Well → Well) : (s.modWell w f).eqTurn = s.eqTurn := rfl
@[simp] theorem State.modWell_wlTurn (s : State) (w : WellNo) (f : Well → Well) : (s.modWell w f).wlTurn = s.wlTurn := rfl

/-! ### `State.modChan` -/

@[simp] theorem State.modChan_build (s : State) (ch : Fin 16) (f : Channel → Channel) : (s.modChan ch f).build = s.build := rfl
@[simp] theorem State.modChan_pending (s : State) (ch : Fin 16) (f : Channel → Channel) : (s.modChan ch f).pending = s.pending := rfl
@[simp] theorem State.modChan_now (s : State) (ch : Fin 16) (f : Channel → Channel) : (s.modChan ch f).now = s.now := rfl
@[simp] theorem State.modChan_out (s : State) (ch : Fin 16) (f : Channel → Channel) : (s.modChan ch f).out = s.out := rfl
@[simp] theorem State.modChan_free (s : State) (ch : Fin 16) (f : Channel → Channel) : (s.modChan ch f).free = s.free := rfl
@[simp] theorem State.modChan_active (s : State) (ch : Fin 16) (f : Channel → Channel) : (s.modChan ch f).active = s.active := rfl
@[simp] theorem State.modChan_act (s : State) (ch : Fin 16) (f : Channel → Channel) : (s.modChan ch f).act = s.act := rfl
@[simp] theorem State.modChan_mir (s : State) (ch : Fin 16) (f : Channel → Channel) : (s.modChan ch f).mir = s.mir := rfl
@[simp] theorem State.modChan_cwin (s : State) (ch : Fin 16) (f : Channel → Channel) : (s.modChan ch f).cwin = s.cwin := rfl
@[simp] theorem State.modChan_mch (s : State) (ch : Fin 16) (f : Channel → Channel) : (s.modChan ch f).mch = s.mch := rfl
@[simp] theorem State.modChan_failover (s : State) (ch : Fin 16) (f : Channel → Channel) : (s.modChan ch f).failover = s.failover := rfl
@[simp] theorem State.modChan_tick (s : State) (ch : Fin 16) (f : Channel → Channel) : (s.modChan ch f).tick = s.tick := rfl
@[simp] theorem State.modChan_commits (s : State) (ch : Fin 16) (f : Channel → Channel) : (s.modChan ch f).commits = s.commits := rfl
@[simp] theorem State.modChan_evq (s : State) (ch : Fin 16) (f : Channel → Channel) : (s.modChan ch f).evq = s.evq := rfl
@[simp] theorem State.modChan_evr (s : State) (ch : Fin 16) (f : Channel → Channel) : (s.modChan ch f).evr = s.evr := rfl
@[simp] theorem State.modChan_host (s : State) (ch : Fin 16) (f : Channel → Channel) : (s.modChan ch f).host = s.host := rfl
@[simp] theorem State.modChan_cfgWait (s : State) (ch : Fin 16) (f : Channel → Channel) : (s.modChan ch f).cfgWait = s.cfgWait := rfl
@[simp] theorem State.modChan_ports (s : State) (ch : Fin 16) (f : Channel → Channel) : (s.modChan ch f).ports = s.ports := rfl
@[simp] theorem State.modChan_landed (s : State) (ch : Fin 16) (f : Channel → Channel) : (s.modChan ch f).landed = s.landed := rfl
@[simp] theorem State.modChan_routeWait (s : State) (ch : Fin 16) (f : Channel → Channel) : (s.modChan ch f).routeWait = s.routeWait := rfl
@[simp] theorem State.modChan_wells (s : State) (ch : Fin 16) (f : Channel → Channel) : (s.modChan ch f).wells = s.wells := rfl
@[simp] theorem State.modChan_work (s : State) (ch : Fin 16) (f : Channel → Channel) : (s.modChan ch f).work = s.work := rfl
@[simp] theorem State.modChan_cist (s : State) (ch : Fin 16) (f : Channel → Channel) : (s.modChan ch f).cist = s.cist := rfl
@[simp] theorem State.modChan_hk (s : State) (ch : Fin 16) (f : Channel → Channel) : (s.modChan ch f).hk = s.hk := rfl
@[simp] theorem State.modChan_heathA (s : State) (ch : Fin 16) (f : Channel → Channel) : (s.modChan ch f).heathA = s.heathA := rfl
@[simp] theorem State.modChan_heathB (s : State) (ch : Fin 16) (f : Channel → Channel) : (s.modChan ch f).heathB = s.heathB := rfl
@[simp] theorem State.modChan_lead (s : State) (ch : Fin 16) (f : Channel → Channel) : (s.modChan ch f).lead = s.lead := rfl
@[simp] theorem State.modChan_pfail (s : State) (ch : Fin 16) (f : Channel → Channel) : (s.modChan ch f).pfail = s.pfail := rfl
@[simp] theorem State.modChan_intBypass (s : State) (ch : Fin 16) (f : Channel → Channel) : (s.modChan ch f).intBypass = s.intBypass := rfl
@[simp] theorem State.modChan_tapA (s : State) (ch : Fin 16) (f : Channel → Channel) : (s.modChan ch f).tapA = s.tapA := rfl
@[simp] theorem State.modChan_tapB (s : State) (ch : Fin 16) (f : Channel → Channel) : (s.modChan ch f).tapB = s.tapB := rfl
@[simp] theorem State.modChan_nvm (s : State) (ch : Fin 16) (f : Channel → Channel) : (s.modChan ch f).nvm = s.nvm := rfl
@[simp] theorem State.modChan_erases (s : State) (ch : Fin 16) (f : Channel → Channel) : (s.modChan ch f).erases = s.erases := rfl
@[simp] theorem State.modChan_erasePaused (s : State) (ch : Fin 16) (f : Channel → Channel) : (s.modChan ch f).erasePaused = s.erasePaused := rfl
@[simp] theorem State.modChan_corrected (s : State) (ch : Fin 16) (f : Channel → Channel) : (s.modChan ch f).corrected = s.corrected := rfl
@[simp] theorem State.modChan_eqTurn (s : State) (ch : Fin 16) (f : Channel → Channel) : (s.modChan ch f).eqTurn = s.eqTurn := rfl
@[simp] theorem State.modChan_wlTurn (s : State) (ch : Fin 16) (f : Channel → Channel) : (s.modChan ch f).wlTurn = s.wlTurn := rfl

/-! ### `State.setCore` -/

@[simp] theorem State.setCore_build (s : State) (m : CoreMem) : (s.setCore m).build = s.build := rfl
@[simp] theorem State.setCore_pending (s : State) (m : CoreMem) : (s.setCore m).pending = s.pending := rfl
@[simp] theorem State.setCore_now (s : State) (m : CoreMem) : (s.setCore m).now = s.now := rfl
@[simp] theorem State.setCore_out (s : State) (m : CoreMem) : (s.setCore m).out = s.out := rfl
@[simp] theorem State.setCore_free (s : State) (m : CoreMem) : (s.setCore m).free = s.free := rfl
@[simp] theorem State.setCore_active (s : State) (m : CoreMem) : (s.setCore m).active = s.active := rfl
@[simp] theorem State.setCore_mir (s : State) (m : CoreMem) : (s.setCore m).mir = s.mir := rfl
@[simp] theorem State.setCore_cwin (s : State) (m : CoreMem) : (s.setCore m).cwin = s.cwin := rfl
@[simp] theorem State.setCore_failover (s : State) (m : CoreMem) : (s.setCore m).failover = s.failover := rfl
@[simp] theorem State.setCore_tick (s : State) (m : CoreMem) : (s.setCore m).tick = s.tick := rfl
@[simp] theorem State.setCore_commits (s : State) (m : CoreMem) : (s.setCore m).commits = s.commits := rfl
@[simp] theorem State.setCore_evq (s : State) (m : CoreMem) : (s.setCore m).evq = s.evq := rfl
@[simp] theorem State.setCore_evr (s : State) (m : CoreMem) : (s.setCore m).evr = s.evr := rfl
@[simp] theorem State.setCore_host (s : State) (m : CoreMem) : (s.setCore m).host = s.host := rfl
@[simp] theorem State.setCore_cfgWait (s : State) (m : CoreMem) : (s.setCore m).cfgWait = s.cfgWait := rfl
@[simp] theorem State.setCore_ports (s : State) (m : CoreMem) : (s.setCore m).ports = s.ports := rfl
@[simp] theorem State.setCore_landed (s : State) (m : CoreMem) : (s.setCore m).landed = s.landed := rfl
@[simp] theorem State.setCore_routeWait (s : State) (m : CoreMem) : (s.setCore m).routeWait = s.routeWait := rfl
@[simp] theorem State.setCore_wells (s : State) (m : CoreMem) : (s.setCore m).wells = s.wells := rfl
@[simp] theorem State.setCore_work (s : State) (m : CoreMem) : (s.setCore m).work = s.work := rfl
@[simp] theorem State.setCore_cist (s : State) (m : CoreMem) : (s.setCore m).cist = s.cist := rfl
@[simp] theorem State.setCore_chan (s : State) (m : CoreMem) : (s.setCore m).chan = s.chan := rfl
@[simp] theorem State.setCore_hk (s : State) (m : CoreMem) : (s.setCore m).hk = s.hk := rfl
@[simp] theorem State.setCore_heathA (s : State) (m : CoreMem) : (s.setCore m).heathA = s.heathA := rfl
@[simp] theorem State.setCore_heathB (s : State) (m : CoreMem) : (s.setCore m).heathB = s.heathB := rfl
@[simp] theorem State.setCore_lead (s : State) (m : CoreMem) : (s.setCore m).lead = s.lead := rfl
@[simp] theorem State.setCore_pfail (s : State) (m : CoreMem) : (s.setCore m).pfail = s.pfail := rfl
@[simp] theorem State.setCore_intBypass (s : State) (m : CoreMem) : (s.setCore m).intBypass = s.intBypass := rfl
@[simp] theorem State.setCore_tapA (s : State) (m : CoreMem) : (s.setCore m).tapA = s.tapA := rfl
@[simp] theorem State.setCore_tapB (s : State) (m : CoreMem) : (s.setCore m).tapB = s.tapB := rfl
@[simp] theorem State.setCore_nvm (s : State) (m : CoreMem) : (s.setCore m).nvm = s.nvm := rfl
@[simp] theorem State.setCore_erases (s : State) (m : CoreMem) : (s.setCore m).erases = s.erases := rfl
@[simp] theorem State.setCore_erasePaused (s : State) (m : CoreMem) : (s.setCore m).erasePaused = s.erasePaused := rfl
@[simp] theorem State.setCore_corrected (s : State) (m : CoreMem) : (s.setCore m).corrected = s.corrected := rfl
@[simp] theorem State.setCore_eqTurn (s : State) (m : CoreMem) : (s.setCore m).eqTurn = s.eqTurn := rfl
@[simp] theorem State.setCore_wlTurn (s : State) (m : CoreMem) : (s.setCore m).wlTurn = s.wlTurn := rfl

/-! ### `State.setSteps` -/

@[simp] theorem State.setSteps_build (s : State) (c : Ctx) (l : List Step) : (s.setSteps c l).build = s.build := rfl
@[simp] theorem State.setSteps_pending (s : State) (c : Ctx) (l : List Step) : (s.setSteps c l).pending = s.pending := rfl
@[simp] theorem State.setSteps_now (s : State) (c : Ctx) (l : List Step) : (s.setSteps c l).now = s.now := rfl
@[simp] theorem State.setSteps_out (s : State) (c : Ctx) (l : List Step) : (s.setSteps c l).out = s.out := rfl
@[simp] theorem State.setSteps_free (s : State) (c : Ctx) (l : List Step) : (s.setSteps c l).free = s.free := rfl
@[simp] theorem State.setSteps_active (s : State) (c : Ctx) (l : List Step) : (s.setSteps c l).active = s.active := rfl
@[simp] theorem State.setSteps_mir (s : State) (c : Ctx) (l : List Step) : (s.setSteps c l).mir = s.mir := rfl
@[simp] theorem State.setSteps_cwin (s : State) (c : Ctx) (l : List Step) : (s.setSteps c l).cwin = s.cwin := rfl
@[simp] theorem State.setSteps_failover (s : State) (c : Ctx) (l : List Step) : (s.setSteps c l).failover = s.failover := rfl
@[simp] theorem State.setSteps_tick (s : State) (c : Ctx) (l : List Step) : (s.setSteps c l).tick = s.tick := rfl
@[simp] theorem State.setSteps_commits (s : State) (c : Ctx) (l : List Step) : (s.setSteps c l).commits = s.commits := rfl
@[simp] theorem State.setSteps_evq (s : State) (c : Ctx) (l : List Step) : (s.setSteps c l).evq = s.evq := rfl
@[simp] theorem State.setSteps_evr (s : State) (c : Ctx) (l : List Step) : (s.setSteps c l).evr = s.evr := rfl
@[simp] theorem State.setSteps_host (s : State) (c : Ctx) (l : List Step) : (s.setSteps c l).host = s.host := rfl
@[simp] theorem State.setSteps_cfgWait (s : State) (c : Ctx) (l : List Step) : (s.setSteps c l).cfgWait = s.cfgWait := rfl
@[simp] theorem State.setSteps_ports (s : State) (c : Ctx) (l : List Step) : (s.setSteps c l).ports = s.ports := rfl
@[simp] theorem State.setSteps_landed (s : State) (c : Ctx) (l : List Step) : (s.setSteps c l).landed = s.landed := rfl
@[simp] theorem State.setSteps_routeWait (s : State) (c : Ctx) (l : List Step) : (s.setSteps c l).routeWait = s.routeWait := rfl
@[simp] theorem State.setSteps_wells (s : State) (c : Ctx) (l : List Step) : (s.setSteps c l).wells = s.wells := rfl
@[simp] theorem State.setSteps_work (s : State) (c : Ctx) (l : List Step) : (s.setSteps c l).work = s.work := rfl
@[simp] theorem State.setSteps_cist (s : State) (c : Ctx) (l : List Step) : (s.setSteps c l).cist = s.cist := rfl
@[simp] theorem State.setSteps_chan (s : State) (c : Ctx) (l : List Step) : (s.setSteps c l).chan = s.chan := rfl
@[simp] theorem State.setSteps_hk (s : State) (c : Ctx) (l : List Step) : (s.setSteps c l).hk = s.hk := rfl
@[simp] theorem State.setSteps_heathA (s : State) (c : Ctx) (l : List Step) : (s.setSteps c l).heathA = s.heathA := rfl
@[simp] theorem State.setSteps_heathB (s : State) (c : Ctx) (l : List Step) : (s.setSteps c l).heathB = s.heathB := rfl
@[simp] theorem State.setSteps_lead (s : State) (c : Ctx) (l : List Step) : (s.setSteps c l).lead = s.lead := rfl
@[simp] theorem State.setSteps_pfail (s : State) (c : Ctx) (l : List Step) : (s.setSteps c l).pfail = s.pfail := rfl
@[simp] theorem State.setSteps_intBypass (s : State) (c : Ctx) (l : List Step) : (s.setSteps c l).intBypass = s.intBypass := rfl
@[simp] theorem State.setSteps_tapA (s : State) (c : Ctx) (l : List Step) : (s.setSteps c l).tapA = s.tapA := rfl
@[simp] theorem State.setSteps_tapB (s : State) (c : Ctx) (l : List Step) : (s.setSteps c l).tapB = s.tapB := rfl
@[simp] theorem State.setSteps_nvm (s : State) (c : Ctx) (l : List Step) : (s.setSteps c l).nvm = s.nvm := rfl
@[simp] theorem State.setSteps_erases (s : State) (c : Ctx) (l : List Step) : (s.setSteps c l).erases = s.erases := rfl
@[simp] theorem State.setSteps_erasePaused (s : State) (c : Ctx) (l : List Step) : (s.setSteps c l).erasePaused = s.erasePaused := rfl
@[simp] theorem State.setSteps_corrected (s : State) (c : Ctx) (l : List Step) : (s.setSteps c l).corrected = s.corrected := rfl
@[simp] theorem State.setSteps_eqTurn (s : State) (c : Ctx) (l : List Step) : (s.setSteps c l).eqTurn = s.eqTurn := rfl
@[simp] theorem State.setSteps_wlTurn (s : State) (c : Ctx) (l : List Step) : (s.setSteps c l).wlTurn = s.wlTurn := rfl

/-! ### `State.modStep` -/

@[simp] theorem State.modStep_build (s : State) (c : Ctx) (p : Step → Bool) (f : Step → Step) : (s.modStep c p f).build = s.build := rfl
@[simp] theorem State.modStep_pending (s : State) (c : Ctx) (p : Step → Bool) (f : Step → Step) : (s.modStep c p f).pending = s.pending := rfl
@[simp] theorem State.modStep_now (s : State) (c : Ctx) (p : Step → Bool) (f : Step → Step) : (s.modStep c p f).now = s.now := rfl
@[simp] theorem State.modStep_out (s : State) (c : Ctx) (p : Step → Bool) (f : Step → Step) : (s.modStep c p f).out = s.out := rfl
@[simp] theorem State.modStep_free (s : State) (c : Ctx) (p : Step → Bool) (f : Step → Step) : (s.modStep c p f).free = s.free := rfl
@[simp] theorem State.modStep_active (s : State) (c : Ctx) (p : Step → Bool) (f : Step → Step) : (s.modStep c p f).active = s.active := rfl
@[simp] theorem State.modStep_mir (s : State) (c : Ctx) (p : Step → Bool) (f : Step → Step) : (s.modStep c p f).mir = s.mir := rfl
@[simp] theorem State.modStep_cwin (s : State) (c : Ctx) (p : Step → Bool) (f : Step → Step) : (s.modStep c p f).cwin = s.cwin := rfl
@[simp] theorem State.modStep_failover (s : State) (c : Ctx) (p : Step → Bool) (f : Step → Step) : (s.modStep c p f).failover = s.failover := rfl
@[simp] theorem State.modStep_tick (s : State) (c : Ctx) (p : Step → Bool) (f : Step → Step) : (s.modStep c p f).tick = s.tick := rfl
@[simp] theorem State.modStep_commits (s : State) (c : Ctx) (p : Step → Bool) (f : Step → Step) : (s.modStep c p f).commits = s.commits := rfl
@[simp] theorem State.modStep_evq (s : State) (c : Ctx) (p : Step → Bool) (f : Step → Step) : (s.modStep c p f).evq = s.evq := rfl
@[simp] theorem State.modStep_evr (s : State) (c : Ctx) (p : Step → Bool) (f : Step → Step) : (s.modStep c p f).evr = s.evr := rfl
@[simp] theorem State.modStep_host (s : State) (c : Ctx) (p : Step → Bool) (f : Step → Step) : (s.modStep c p f).host = s.host := rfl
@[simp] theorem State.modStep_cfgWait (s : State) (c : Ctx) (p : Step → Bool) (f : Step → Step) : (s.modStep c p f).cfgWait = s.cfgWait := rfl
@[simp] theorem State.modStep_ports (s : State) (c : Ctx) (p : Step → Bool) (f : Step → Step) : (s.modStep c p f).ports = s.ports := rfl
@[simp] theorem State.modStep_landed (s : State) (c : Ctx) (p : Step → Bool) (f : Step → Step) : (s.modStep c p f).landed = s.landed := rfl
@[simp] theorem State.modStep_routeWait (s : State) (c : Ctx) (p : Step → Bool) (f : Step → Step) : (s.modStep c p f).routeWait = s.routeWait := rfl
@[simp] theorem State.modStep_wells (s : State) (c : Ctx) (p : Step → Bool) (f : Step → Step) : (s.modStep c p f).wells = s.wells := rfl
@[simp] theorem State.modStep_work (s : State) (c : Ctx) (p : Step → Bool) (f : Step → Step) : (s.modStep c p f).work = s.work := rfl
@[simp] theorem State.modStep_cist (s : State) (c : Ctx) (p : Step → Bool) (f : Step → Step) : (s.modStep c p f).cist = s.cist := rfl
@[simp] theorem State.modStep_chan (s : State) (c : Ctx) (p : Step → Bool) (f : Step → Step) : (s.modStep c p f).chan = s.chan := rfl
@[simp] theorem State.modStep_hk (s : State) (c : Ctx) (p : Step → Bool) (f : Step → Step) : (s.modStep c p f).hk = s.hk := rfl
@[simp] theorem State.modStep_heathA (s : State) (c : Ctx) (p : Step → Bool) (f : Step → Step) : (s.modStep c p f).heathA = s.heathA := rfl
@[simp] theorem State.modStep_heathB (s : State) (c : Ctx) (p : Step → Bool) (f : Step → Step) : (s.modStep c p f).heathB = s.heathB := rfl
@[simp] theorem State.modStep_lead (s : State) (c : Ctx) (p : Step → Bool) (f : Step → Step) : (s.modStep c p f).lead = s.lead := rfl
@[simp] theorem State.modStep_pfail (s : State) (c : Ctx) (p : Step → Bool) (f : Step → Step) : (s.modStep c p f).pfail = s.pfail := rfl
@[simp] theorem State.modStep_intBypass (s : State) (c : Ctx) (p : Step → Bool) (f : Step → Step) : (s.modStep c p f).intBypass = s.intBypass := rfl
@[simp] theorem State.modStep_tapA (s : State) (c : Ctx) (p : Step → Bool) (f : Step → Step) : (s.modStep c p f).tapA = s.tapA := rfl
@[simp] theorem State.modStep_tapB (s : State) (c : Ctx) (p : Step → Bool) (f : Step → Step) : (s.modStep c p f).tapB = s.tapB := rfl
@[simp] theorem State.modStep_nvm (s : State) (c : Ctx) (p : Step → Bool) (f : Step → Step) : (s.modStep c p f).nvm = s.nvm := rfl
@[simp] theorem State.modStep_erases (s : State) (c : Ctx) (p : Step → Bool) (f : Step → Step) : (s.modStep c p f).erases = s.erases := rfl
@[simp] theorem State.modStep_erasePaused (s : State) (c : Ctx) (p : Step → Bool) (f : Step → Step) : (s.modStep c p f).erasePaused = s.erasePaused := rfl
@[simp] theorem State.modStep_corrected (s : State) (c : Ctx) (p : Step → Bool) (f : Step → Step) : (s.modStep c p f).corrected = s.corrected := rfl
@[simp] theorem State.modStep_eqTurn (s : State) (c : Ctx) (p : Step → Bool) (f : Step → Step) : (s.modStep c p f).eqTurn = s.eqTurn := rfl
@[simp] theorem State.modStep_wlTurn (s : State) (c : Ctx) (p : Step → Bool) (f : Step → Step) : (s.modStep c p f).wlTurn = s.wlTurn := rfl

/-! ### `State.modTap` -/

@[simp] theorem State.modTap_build (s : State) (side : Side) (f : DebugPort → DebugPort) : (s.modTap side f).build = s.build := by cases side <;> rfl
@[simp] theorem State.modTap_pending (s : State) (side : Side) (f : DebugPort → DebugPort) : (s.modTap side f).pending = s.pending := by cases side <;> rfl
@[simp] theorem State.modTap_now (s : State) (side : Side) (f : DebugPort → DebugPort) : (s.modTap side f).now = s.now := by cases side <;> rfl
@[simp] theorem State.modTap_out (s : State) (side : Side) (f : DebugPort → DebugPort) : (s.modTap side f).out = s.out := by cases side <;> rfl
@[simp] theorem State.modTap_free (s : State) (side : Side) (f : DebugPort → DebugPort) : (s.modTap side f).free = s.free := by cases side <;> rfl
@[simp] theorem State.modTap_active (s : State) (side : Side) (f : DebugPort → DebugPort) : (s.modTap side f).active = s.active := by cases side <;> rfl
@[simp] theorem State.modTap_act (s : State) (side : Side) (f : DebugPort → DebugPort) : (s.modTap side f).act = s.act := by cases side <;> rfl
@[simp] theorem State.modTap_mir (s : State) (side : Side) (f : DebugPort → DebugPort) : (s.modTap side f).mir = s.mir := by cases side <;> rfl
@[simp] theorem State.modTap_cwin (s : State) (side : Side) (f : DebugPort → DebugPort) : (s.modTap side f).cwin = s.cwin := by cases side <;> rfl
@[simp] theorem State.modTap_mch (s : State) (side : Side) (f : DebugPort → DebugPort) : (s.modTap side f).mch = s.mch := by cases side <;> rfl
@[simp] theorem State.modTap_failover (s : State) (side : Side) (f : DebugPort → DebugPort) : (s.modTap side f).failover = s.failover := by cases side <;> rfl
@[simp] theorem State.modTap_tick (s : State) (side : Side) (f : DebugPort → DebugPort) : (s.modTap side f).tick = s.tick := by cases side <;> rfl
@[simp] theorem State.modTap_commits (s : State) (side : Side) (f : DebugPort → DebugPort) : (s.modTap side f).commits = s.commits := by cases side <;> rfl
@[simp] theorem State.modTap_evq (s : State) (side : Side) (f : DebugPort → DebugPort) : (s.modTap side f).evq = s.evq := by cases side <;> rfl
@[simp] theorem State.modTap_evr (s : State) (side : Side) (f : DebugPort → DebugPort) : (s.modTap side f).evr = s.evr := by cases side <;> rfl
@[simp] theorem State.modTap_host (s : State) (side : Side) (f : DebugPort → DebugPort) : (s.modTap side f).host = s.host := by cases side <;> rfl
@[simp] theorem State.modTap_cfgWait (s : State) (side : Side) (f : DebugPort → DebugPort) : (s.modTap side f).cfgWait = s.cfgWait := by cases side <;> rfl
@[simp] theorem State.modTap_ports (s : State) (side : Side) (f : DebugPort → DebugPort) : (s.modTap side f).ports = s.ports := by cases side <;> rfl
@[simp] theorem State.modTap_landed (s : State) (side : Side) (f : DebugPort → DebugPort) : (s.modTap side f).landed = s.landed := by cases side <;> rfl
@[simp] theorem State.modTap_routeWait (s : State) (side : Side) (f : DebugPort → DebugPort) : (s.modTap side f).routeWait = s.routeWait := by cases side <;> rfl
@[simp] theorem State.modTap_wells (s : State) (side : Side) (f : DebugPort → DebugPort) : (s.modTap side f).wells = s.wells := by cases side <;> rfl
@[simp] theorem State.modTap_work (s : State) (side : Side) (f : DebugPort → DebugPort) : (s.modTap side f).work = s.work := by cases side <;> rfl
@[simp] theorem State.modTap_cist (s : State) (side : Side) (f : DebugPort → DebugPort) : (s.modTap side f).cist = s.cist := by cases side <;> rfl
@[simp] theorem State.modTap_chan (s : State) (side : Side) (f : DebugPort → DebugPort) : (s.modTap side f).chan = s.chan := by cases side <;> rfl
@[simp] theorem State.modTap_hk (s : State) (side : Side) (f : DebugPort → DebugPort) : (s.modTap side f).hk = s.hk := by cases side <;> rfl
@[simp] theorem State.modTap_heathA (s : State) (side : Side) (f : DebugPort → DebugPort) : (s.modTap side f).heathA = s.heathA := by cases side <;> rfl
@[simp] theorem State.modTap_heathB (s : State) (side : Side) (f : DebugPort → DebugPort) : (s.modTap side f).heathB = s.heathB := by cases side <;> rfl
@[simp] theorem State.modTap_lead (s : State) (side : Side) (f : DebugPort → DebugPort) : (s.modTap side f).lead = s.lead := by cases side <;> rfl
@[simp] theorem State.modTap_pfail (s : State) (side : Side) (f : DebugPort → DebugPort) : (s.modTap side f).pfail = s.pfail := by cases side <;> rfl
@[simp] theorem State.modTap_intBypass (s : State) (side : Side) (f : DebugPort → DebugPort) : (s.modTap side f).intBypass = s.intBypass := by cases side <;> rfl
@[simp] theorem State.modTap_nvm (s : State) (side : Side) (f : DebugPort → DebugPort) : (s.modTap side f).nvm = s.nvm := by cases side <;> rfl
@[simp] theorem State.modTap_erases (s : State) (side : Side) (f : DebugPort → DebugPort) : (s.modTap side f).erases = s.erases := by cases side <;> rfl
@[simp] theorem State.modTap_erasePaused (s : State) (side : Side) (f : DebugPort → DebugPort) : (s.modTap side f).erasePaused = s.erasePaused := by cases side <;> rfl
@[simp] theorem State.modTap_corrected (s : State) (side : Side) (f : DebugPort → DebugPort) : (s.modTap side f).corrected = s.corrected := by cases side <;> rfl
@[simp] theorem State.modTap_eqTurn (s : State) (side : Side) (f : DebugPort → DebugPort) : (s.modTap side f).eqTurn = s.eqTurn := by cases side <;> rfl
@[simp] theorem State.modTap_wlTurn (s : State) (side : Side) (f : DebugPort → DebugPort) : (s.modTap side f).wlTurn = s.wlTurn := by cases side <;> rfl

/-! ### `State.setWord` -/

@[simp] theorem State.setWord_build (s : State) (off : Nat) (v : Word) : (s.setWord off v).build = s.build := by by_cases h : chipOff off = true <;> simp [State.setWord, h]
@[simp] theorem State.setWord_pending (s : State) (off : Nat) (v : Word) : (s.setWord off v).pending = s.pending := by by_cases h : chipOff off = true <;> simp [State.setWord, h]
@[simp] theorem State.setWord_now (s : State) (off : Nat) (v : Word) : (s.setWord off v).now = s.now := by by_cases h : chipOff off = true <;> simp [State.setWord, h]
@[simp] theorem State.setWord_out (s : State) (off : Nat) (v : Word) : (s.setWord off v).out = s.out := by by_cases h : chipOff off = true <;> simp [State.setWord, h]
@[simp] theorem State.setWord_free (s : State) (off : Nat) (v : Word) : (s.setWord off v).free = s.free := by by_cases h : chipOff off = true <;> simp [State.setWord, h]
@[simp] theorem State.setWord_active (s : State) (off : Nat) (v : Word) : (s.setWord off v).active = s.active := by by_cases h : chipOff off = true <;> simp [State.setWord, h]
@[simp] theorem State.setWord_mir (s : State) (off : Nat) (v : Word) : (s.setWord off v).mir = s.mir := by by_cases h : chipOff off = true <;> simp [State.setWord, h]
@[simp] theorem State.setWord_failover (s : State) (off : Nat) (v : Word) : (s.setWord off v).failover = s.failover := by by_cases h : chipOff off = true <;> simp [State.setWord, h]
@[simp] theorem State.setWord_tick (s : State) (off : Nat) (v : Word) : (s.setWord off v).tick = s.tick := by by_cases h : chipOff off = true <;> simp [State.setWord, h]
@[simp] theorem State.setWord_commits (s : State) (off : Nat) (v : Word) : (s.setWord off v).commits = s.commits := by by_cases h : chipOff off = true <;> simp [State.setWord, h]
@[simp] theorem State.setWord_evq (s : State) (off : Nat) (v : Word) : (s.setWord off v).evq = s.evq := by by_cases h : chipOff off = true <;> simp [State.setWord, h]
@[simp] theorem State.setWord_evr (s : State) (off : Nat) (v : Word) : (s.setWord off v).evr = s.evr := by by_cases h : chipOff off = true <;> simp [State.setWord, h]
@[simp] theorem State.setWord_host (s : State) (off : Nat) (v : Word) : (s.setWord off v).host = s.host := by by_cases h : chipOff off = true <;> simp [State.setWord, h]
@[simp] theorem State.setWord_cfgWait (s : State) (off : Nat) (v : Word) : (s.setWord off v).cfgWait = s.cfgWait := by by_cases h : chipOff off = true <;> simp [State.setWord, h]
@[simp] theorem State.setWord_ports (s : State) (off : Nat) (v : Word) : (s.setWord off v).ports = s.ports := by by_cases h : chipOff off = true <;> simp [State.setWord, h]
@[simp] theorem State.setWord_landed (s : State) (off : Nat) (v : Word) : (s.setWord off v).landed = s.landed := by by_cases h : chipOff off = true <;> simp [State.setWord, h]
@[simp] theorem State.setWord_routeWait (s : State) (off : Nat) (v : Word) : (s.setWord off v).routeWait = s.routeWait := by by_cases h : chipOff off = true <;> simp [State.setWord, h]
@[simp] theorem State.setWord_wells (s : State) (off : Nat) (v : Word) : (s.setWord off v).wells = s.wells := by by_cases h : chipOff off = true <;> simp [State.setWord, h]
@[simp] theorem State.setWord_work (s : State) (off : Nat) (v : Word) : (s.setWord off v).work = s.work := by by_cases h : chipOff off = true <;> simp [State.setWord, h]
@[simp] theorem State.setWord_cist (s : State) (off : Nat) (v : Word) : (s.setWord off v).cist = s.cist := by by_cases h : chipOff off = true <;> simp [State.setWord, h]
@[simp] theorem State.setWord_chan (s : State) (off : Nat) (v : Word) : (s.setWord off v).chan = s.chan := by by_cases h : chipOff off = true <;> simp [State.setWord, h]
@[simp] theorem State.setWord_hk (s : State) (off : Nat) (v : Word) : (s.setWord off v).hk = s.hk := by by_cases h : chipOff off = true <;> simp [State.setWord, h]
@[simp] theorem State.setWord_heathA (s : State) (off : Nat) (v : Word) : (s.setWord off v).heathA = s.heathA := by by_cases h : chipOff off = true <;> simp [State.setWord, h]
@[simp] theorem State.setWord_heathB (s : State) (off : Nat) (v : Word) : (s.setWord off v).heathB = s.heathB := by by_cases h : chipOff off = true <;> simp [State.setWord, h]
@[simp] theorem State.setWord_lead (s : State) (off : Nat) (v : Word) : (s.setWord off v).lead = s.lead := by by_cases h : chipOff off = true <;> simp [State.setWord, h]
@[simp] theorem State.setWord_pfail (s : State) (off : Nat) (v : Word) : (s.setWord off v).pfail = s.pfail := by by_cases h : chipOff off = true <;> simp [State.setWord, h]
@[simp] theorem State.setWord_intBypass (s : State) (off : Nat) (v : Word) : (s.setWord off v).intBypass = s.intBypass := by by_cases h : chipOff off = true <;> simp [State.setWord, h]
@[simp] theorem State.setWord_tapA (s : State) (off : Nat) (v : Word) : (s.setWord off v).tapA = s.tapA := by by_cases h : chipOff off = true <;> simp [State.setWord, h]
@[simp] theorem State.setWord_tapB (s : State) (off : Nat) (v : Word) : (s.setWord off v).tapB = s.tapB := by by_cases h : chipOff off = true <;> simp [State.setWord, h]
@[simp] theorem State.setWord_nvm (s : State) (off : Nat) (v : Word) : (s.setWord off v).nvm = s.nvm := by by_cases h : chipOff off = true <;> simp [State.setWord, h]
@[simp] theorem State.setWord_erases (s : State) (off : Nat) (v : Word) : (s.setWord off v).erases = s.erases := by by_cases h : chipOff off = true <;> simp [State.setWord, h]
@[simp] theorem State.setWord_erasePaused (s : State) (off : Nat) (v : Word) : (s.setWord off v).erasePaused = s.erasePaused := by by_cases h : chipOff off = true <;> simp [State.setWord, h]
@[simp] theorem State.setWord_corrected (s : State) (off : Nat) (v : Word) : (s.setWord off v).corrected = s.corrected := by by_cases h : chipOff off = true <;> simp [State.setWord, h]
@[simp] theorem State.setWord_eqTurn (s : State) (off : Nat) (v : Word) : (s.setWord off v).eqTurn = s.eqTurn := by by_cases h : chipOff off = true <;> simp [State.setWord, h]
@[simp] theorem State.setWord_wlTurn (s : State) (off : Nat) (v : Word) : (s.setWord off v).wlTurn = s.wlTurn := by by_cases h : chipOff off = true <;> simp [State.setWord, h]

/-! ### `State.wr` -/

@[simp] theorem State.wr_build (s : State) (f : Fld) (v : Nat) : (s.wr f v).build = s.build := State.setWord_build _ _ _
@[simp] theorem State.wr_pending (s : State) (f : Fld) (v : Nat) : (s.wr f v).pending = s.pending := State.setWord_pending _ _ _
@[simp] theorem State.wr_now (s : State) (f : Fld) (v : Nat) : (s.wr f v).now = s.now := State.setWord_now _ _ _
@[simp] theorem State.wr_out (s : State) (f : Fld) (v : Nat) : (s.wr f v).out = s.out := State.setWord_out _ _ _
@[simp] theorem State.wr_free (s : State) (f : Fld) (v : Nat) : (s.wr f v).free = s.free := State.setWord_free _ _ _
@[simp] theorem State.wr_active (s : State) (f : Fld) (v : Nat) : (s.wr f v).active = s.active := State.setWord_active _ _ _
@[simp] theorem State.wr_mir (s : State) (f : Fld) (v : Nat) : (s.wr f v).mir = s.mir := State.setWord_mir _ _ _
@[simp] theorem State.wr_failover (s : State) (f : Fld) (v : Nat) : (s.wr f v).failover = s.failover := State.setWord_failover _ _ _
@[simp] theorem State.wr_tick (s : State) (f : Fld) (v : Nat) : (s.wr f v).tick = s.tick := State.setWord_tick _ _ _
@[simp] theorem State.wr_commits (s : State) (f : Fld) (v : Nat) : (s.wr f v).commits = s.commits := State.setWord_commits _ _ _
@[simp] theorem State.wr_evq (s : State) (f : Fld) (v : Nat) : (s.wr f v).evq = s.evq := State.setWord_evq _ _ _
@[simp] theorem State.wr_evr (s : State) (f : Fld) (v : Nat) : (s.wr f v).evr = s.evr := State.setWord_evr _ _ _
@[simp] theorem State.wr_host (s : State) (f : Fld) (v : Nat) : (s.wr f v).host = s.host := State.setWord_host _ _ _
@[simp] theorem State.wr_cfgWait (s : State) (f : Fld) (v : Nat) : (s.wr f v).cfgWait = s.cfgWait := State.setWord_cfgWait _ _ _
@[simp] theorem State.wr_ports (s : State) (f : Fld) (v : Nat) : (s.wr f v).ports = s.ports := State.setWord_ports _ _ _
@[simp] theorem State.wr_landed (s : State) (f : Fld) (v : Nat) : (s.wr f v).landed = s.landed := State.setWord_landed _ _ _
@[simp] theorem State.wr_routeWait (s : State) (f : Fld) (v : Nat) : (s.wr f v).routeWait = s.routeWait := State.setWord_routeWait _ _ _
@[simp] theorem State.wr_wells (s : State) (f : Fld) (v : Nat) : (s.wr f v).wells = s.wells := State.setWord_wells _ _ _
@[simp] theorem State.wr_work (s : State) (f : Fld) (v : Nat) : (s.wr f v).work = s.work := State.setWord_work _ _ _
@[simp] theorem State.wr_cist (s : State) (f : Fld) (v : Nat) : (s.wr f v).cist = s.cist := State.setWord_cist _ _ _
@[simp] theorem State.wr_chan (s : State) (f : Fld) (v : Nat) : (s.wr f v).chan = s.chan := State.setWord_chan _ _ _
@[simp] theorem State.wr_hk (s : State) (f : Fld) (v : Nat) : (s.wr f v).hk = s.hk := State.setWord_hk _ _ _
@[simp] theorem State.wr_heathA (s : State) (f : Fld) (v : Nat) : (s.wr f v).heathA = s.heathA := State.setWord_heathA _ _ _
@[simp] theorem State.wr_heathB (s : State) (f : Fld) (v : Nat) : (s.wr f v).heathB = s.heathB := State.setWord_heathB _ _ _
@[simp] theorem State.wr_lead (s : State) (f : Fld) (v : Nat) : (s.wr f v).lead = s.lead := State.setWord_lead _ _ _
@[simp] theorem State.wr_pfail (s : State) (f : Fld) (v : Nat) : (s.wr f v).pfail = s.pfail := State.setWord_pfail _ _ _
@[simp] theorem State.wr_intBypass (s : State) (f : Fld) (v : Nat) : (s.wr f v).intBypass = s.intBypass := State.setWord_intBypass _ _ _
@[simp] theorem State.wr_tapA (s : State) (f : Fld) (v : Nat) : (s.wr f v).tapA = s.tapA := State.setWord_tapA _ _ _
@[simp] theorem State.wr_tapB (s : State) (f : Fld) (v : Nat) : (s.wr f v).tapB = s.tapB := State.setWord_tapB _ _ _
@[simp] theorem State.wr_nvm (s : State) (f : Fld) (v : Nat) : (s.wr f v).nvm = s.nvm := State.setWord_nvm _ _ _
@[simp] theorem State.wr_erases (s : State) (f : Fld) (v : Nat) : (s.wr f v).erases = s.erases := State.setWord_erases _ _ _
@[simp] theorem State.wr_erasePaused (s : State) (f : Fld) (v : Nat) : (s.wr f v).erasePaused = s.erasePaused := State.setWord_erasePaused _ _ _
@[simp] theorem State.wr_corrected (s : State) (f : Fld) (v : Nat) : (s.wr f v).corrected = s.corrected := State.setWord_corrected _ _ _
@[simp] theorem State.wr_eqTurn (s : State) (f : Fld) (v : Nat) : (s.wr f v).eqTurn = s.eqTurn := State.setWord_eqTurn _ _ _
@[simp] theorem State.wr_wlTurn (s : State) (f : Fld) (v : Nat) : (s.wr f v).wlTurn = s.wlTurn := State.setWord_wlTurn _ _ _

/-! ### `State.bumpBy` -/

@[simp] theorem State.bumpBy_build (s : State) (f : Fld) (n : Nat) : (s.bumpBy f n).build = s.build := State.wr_build _ _ _
@[simp] theorem State.bumpBy_pending (s : State) (f : Fld) (n : Nat) : (s.bumpBy f n).pending = s.pending := State.wr_pending _ _ _
@[simp] theorem State.bumpBy_now (s : State) (f : Fld) (n : Nat) : (s.bumpBy f n).now = s.now := State.wr_now _ _ _
@[simp] theorem State.bumpBy_out (s : State) (f : Fld) (n : Nat) : (s.bumpBy f n).out = s.out := State.wr_out _ _ _
@[simp] theorem State.bumpBy_free (s : State) (f : Fld) (n : Nat) : (s.bumpBy f n).free = s.free := State.wr_free _ _ _
@[simp] theorem State.bumpBy_active (s : State) (f : Fld) (n : Nat) : (s.bumpBy f n).active = s.active := State.wr_active _ _ _
@[simp] theorem State.bumpBy_mir (s : State) (f : Fld) (n : Nat) : (s.bumpBy f n).mir = s.mir := State.wr_mir _ _ _
@[simp] theorem State.bumpBy_failover (s : State) (f : Fld) (n : Nat) : (s.bumpBy f n).failover = s.failover := State.wr_failover _ _ _
@[simp] theorem State.bumpBy_tick (s : State) (f : Fld) (n : Nat) : (s.bumpBy f n).tick = s.tick := State.wr_tick _ _ _
@[simp] theorem State.bumpBy_commits (s : State) (f : Fld) (n : Nat) : (s.bumpBy f n).commits = s.commits := State.wr_commits _ _ _
@[simp] theorem State.bumpBy_evq (s : State) (f : Fld) (n : Nat) : (s.bumpBy f n).evq = s.evq := State.wr_evq _ _ _
@[simp] theorem State.bumpBy_evr (s : State) (f : Fld) (n : Nat) : (s.bumpBy f n).evr = s.evr := State.wr_evr _ _ _
@[simp] theorem State.bumpBy_host (s : State) (f : Fld) (n : Nat) : (s.bumpBy f n).host = s.host := State.wr_host _ _ _
@[simp] theorem State.bumpBy_cfgWait (s : State) (f : Fld) (n : Nat) : (s.bumpBy f n).cfgWait = s.cfgWait := State.wr_cfgWait _ _ _
@[simp] theorem State.bumpBy_ports (s : State) (f : Fld) (n : Nat) : (s.bumpBy f n).ports = s.ports := State.wr_ports _ _ _
@[simp] theorem State.bumpBy_landed (s : State) (f : Fld) (n : Nat) : (s.bumpBy f n).landed = s.landed := State.wr_landed _ _ _
@[simp] theorem State.bumpBy_routeWait (s : State) (f : Fld) (n : Nat) : (s.bumpBy f n).routeWait = s.routeWait := State.wr_routeWait _ _ _
@[simp] theorem State.bumpBy_wells (s : State) (f : Fld) (n : Nat) : (s.bumpBy f n).wells = s.wells := State.wr_wells _ _ _
@[simp] theorem State.bumpBy_work (s : State) (f : Fld) (n : Nat) : (s.bumpBy f n).work = s.work := State.wr_work _ _ _
@[simp] theorem State.bumpBy_cist (s : State) (f : Fld) (n : Nat) : (s.bumpBy f n).cist = s.cist := State.wr_cist _ _ _
@[simp] theorem State.bumpBy_chan (s : State) (f : Fld) (n : Nat) : (s.bumpBy f n).chan = s.chan := State.wr_chan _ _ _
@[simp] theorem State.bumpBy_hk (s : State) (f : Fld) (n : Nat) : (s.bumpBy f n).hk = s.hk := State.wr_hk _ _ _
@[simp] theorem State.bumpBy_heathA (s : State) (f : Fld) (n : Nat) : (s.bumpBy f n).heathA = s.heathA := State.wr_heathA _ _ _
@[simp] theorem State.bumpBy_heathB (s : State) (f : Fld) (n : Nat) : (s.bumpBy f n).heathB = s.heathB := State.wr_heathB _ _ _
@[simp] theorem State.bumpBy_lead (s : State) (f : Fld) (n : Nat) : (s.bumpBy f n).lead = s.lead := State.wr_lead _ _ _
@[simp] theorem State.bumpBy_pfail (s : State) (f : Fld) (n : Nat) : (s.bumpBy f n).pfail = s.pfail := State.wr_pfail _ _ _
@[simp] theorem State.bumpBy_intBypass (s : State) (f : Fld) (n : Nat) : (s.bumpBy f n).intBypass = s.intBypass := State.wr_intBypass _ _ _
@[simp] theorem State.bumpBy_tapA (s : State) (f : Fld) (n : Nat) : (s.bumpBy f n).tapA = s.tapA := State.wr_tapA _ _ _
@[simp] theorem State.bumpBy_tapB (s : State) (f : Fld) (n : Nat) : (s.bumpBy f n).tapB = s.tapB := State.wr_tapB _ _ _
@[simp] theorem State.bumpBy_nvm (s : State) (f : Fld) (n : Nat) : (s.bumpBy f n).nvm = s.nvm := State.wr_nvm _ _ _
@[simp] theorem State.bumpBy_erases (s : State) (f : Fld) (n : Nat) : (s.bumpBy f n).erases = s.erases := State.wr_erases _ _ _
@[simp] theorem State.bumpBy_erasePaused (s : State) (f : Fld) (n : Nat) : (s.bumpBy f n).erasePaused = s.erasePaused := State.wr_erasePaused _ _ _
@[simp] theorem State.bumpBy_corrected (s : State) (f : Fld) (n : Nat) : (s.bumpBy f n).corrected = s.corrected := State.wr_corrected _ _ _
@[simp] theorem State.bumpBy_eqTurn (s : State) (f : Fld) (n : Nat) : (s.bumpBy f n).eqTurn = s.eqTurn := State.wr_eqTurn _ _ _
@[simp] theorem State.bumpBy_wlTurn (s : State) (f : Fld) (n : Nat) : (s.bumpBy f n).wlTurn = s.wlTurn := State.wr_wlTurn _ _ _

/-! ### `State.bump` -/

@[simp] theorem State.bump_build (s : State) (f : Fld) : (s.bump f).build = s.build := State.wr_build _ _ _
@[simp] theorem State.bump_pending (s : State) (f : Fld) : (s.bump f).pending = s.pending := State.wr_pending _ _ _
@[simp] theorem State.bump_now (s : State) (f : Fld) : (s.bump f).now = s.now := State.wr_now _ _ _
@[simp] theorem State.bump_out (s : State) (f : Fld) : (s.bump f).out = s.out := State.wr_out _ _ _
@[simp] theorem State.bump_free (s : State) (f : Fld) : (s.bump f).free = s.free := State.wr_free _ _ _
@[simp] theorem State.bump_active (s : State) (f : Fld) : (s.bump f).active = s.active := State.wr_active _ _ _
@[simp] theorem State.bump_mir (s : State) (f : Fld) : (s.bump f).mir = s.mir := State.wr_mir _ _ _
@[simp] theorem State.bump_failover (s : State) (f : Fld) : (s.bump f).failover = s.failover := State.wr_failover _ _ _
@[simp] theorem State.bump_tick (s : State) (f : Fld) : (s.bump f).tick = s.tick := State.wr_tick _ _ _
@[simp] theorem State.bump_commits (s : State) (f : Fld) : (s.bump f).commits = s.commits := State.wr_commits _ _ _
@[simp] theorem State.bump_evq (s : State) (f : Fld) : (s.bump f).evq = s.evq := State.wr_evq _ _ _
@[simp] theorem State.bump_evr (s : State) (f : Fld) : (s.bump f).evr = s.evr := State.wr_evr _ _ _
@[simp] theorem State.bump_host (s : State) (f : Fld) : (s.bump f).host = s.host := State.wr_host _ _ _
@[simp] theorem State.bump_cfgWait (s : State) (f : Fld) : (s.bump f).cfgWait = s.cfgWait := State.wr_cfgWait _ _ _
@[simp] theorem State.bump_ports (s : State) (f : Fld) : (s.bump f).ports = s.ports := State.wr_ports _ _ _
@[simp] theorem State.bump_landed (s : State) (f : Fld) : (s.bump f).landed = s.landed := State.wr_landed _ _ _
@[simp] theorem State.bump_routeWait (s : State) (f : Fld) : (s.bump f).routeWait = s.routeWait := State.wr_routeWait _ _ _
@[simp] theorem State.bump_wells (s : State) (f : Fld) : (s.bump f).wells = s.wells := State.wr_wells _ _ _
@[simp] theorem State.bump_work (s : State) (f : Fld) : (s.bump f).work = s.work := State.wr_work _ _ _
@[simp] theorem State.bump_cist (s : State) (f : Fld) : (s.bump f).cist = s.cist := State.wr_cist _ _ _
@[simp] theorem State.bump_chan (s : State) (f : Fld) : (s.bump f).chan = s.chan := State.wr_chan _ _ _
@[simp] theorem State.bump_hk (s : State) (f : Fld) : (s.bump f).hk = s.hk := State.wr_hk _ _ _
@[simp] theorem State.bump_heathA (s : State) (f : Fld) : (s.bump f).heathA = s.heathA := State.wr_heathA _ _ _
@[simp] theorem State.bump_heathB (s : State) (f : Fld) : (s.bump f).heathB = s.heathB := State.wr_heathB _ _ _
@[simp] theorem State.bump_lead (s : State) (f : Fld) : (s.bump f).lead = s.lead := State.wr_lead _ _ _
@[simp] theorem State.bump_pfail (s : State) (f : Fld) : (s.bump f).pfail = s.pfail := State.wr_pfail _ _ _
@[simp] theorem State.bump_intBypass (s : State) (f : Fld) : (s.bump f).intBypass = s.intBypass := State.wr_intBypass _ _ _
@[simp] theorem State.bump_tapA (s : State) (f : Fld) : (s.bump f).tapA = s.tapA := State.wr_tapA _ _ _
@[simp] theorem State.bump_tapB (s : State) (f : Fld) : (s.bump f).tapB = s.tapB := State.wr_tapB _ _ _
@[simp] theorem State.bump_nvm (s : State) (f : Fld) : (s.bump f).nvm = s.nvm := State.wr_nvm _ _ _
@[simp] theorem State.bump_erases (s : State) (f : Fld) : (s.bump f).erases = s.erases := State.wr_erases _ _ _
@[simp] theorem State.bump_erasePaused (s : State) (f : Fld) : (s.bump f).erasePaused = s.erasePaused := State.wr_erasePaused _ _ _
@[simp] theorem State.bump_corrected (s : State) (f : Fld) : (s.bump f).corrected = s.corrected := State.wr_corrected _ _ _
@[simp] theorem State.bump_eqTurn (s : State) (f : Fld) : (s.bump f).eqTurn = s.eqTurn := State.wr_eqTurn _ _ _
@[simp] theorem State.bump_wlTurn (s : State) (f : Fld) : (s.bump f).wlTurn = s.wlTurn := State.wr_wlTurn _ _ _

/-! ### `State.wr2` -/

@[simp] theorem State.wr2_build (s : State) (lo hi : Fld) (v : Nat) : (s.wr2 lo hi v).build = s.build := (State.wr_build _ _ _).trans (State.wr_build _ _ _)
@[simp] theorem State.wr2_pending (s : State) (lo hi : Fld) (v : Nat) : (s.wr2 lo hi v).pending = s.pending := (State.wr_pending _ _ _).trans (State.wr_pending _ _ _)
@[simp] theorem State.wr2_now (s : State) (lo hi : Fld) (v : Nat) : (s.wr2 lo hi v).now = s.now := (State.wr_now _ _ _).trans (State.wr_now _ _ _)
@[simp] theorem State.wr2_out (s : State) (lo hi : Fld) (v : Nat) : (s.wr2 lo hi v).out = s.out := (State.wr_out _ _ _).trans (State.wr_out _ _ _)
@[simp] theorem State.wr2_free (s : State) (lo hi : Fld) (v : Nat) : (s.wr2 lo hi v).free = s.free := (State.wr_free _ _ _).trans (State.wr_free _ _ _)
@[simp] theorem State.wr2_active (s : State) (lo hi : Fld) (v : Nat) : (s.wr2 lo hi v).active = s.active := (State.wr_active _ _ _).trans (State.wr_active _ _ _)
@[simp] theorem State.wr2_mir (s : State) (lo hi : Fld) (v : Nat) : (s.wr2 lo hi v).mir = s.mir := (State.wr_mir _ _ _).trans (State.wr_mir _ _ _)
@[simp] theorem State.wr2_failover (s : State) (lo hi : Fld) (v : Nat) : (s.wr2 lo hi v).failover = s.failover := (State.wr_failover _ _ _).trans (State.wr_failover _ _ _)
@[simp] theorem State.wr2_tick (s : State) (lo hi : Fld) (v : Nat) : (s.wr2 lo hi v).tick = s.tick := (State.wr_tick _ _ _).trans (State.wr_tick _ _ _)
@[simp] theorem State.wr2_commits (s : State) (lo hi : Fld) (v : Nat) : (s.wr2 lo hi v).commits = s.commits := (State.wr_commits _ _ _).trans (State.wr_commits _ _ _)
@[simp] theorem State.wr2_evq (s : State) (lo hi : Fld) (v : Nat) : (s.wr2 lo hi v).evq = s.evq := (State.wr_evq _ _ _).trans (State.wr_evq _ _ _)
@[simp] theorem State.wr2_evr (s : State) (lo hi : Fld) (v : Nat) : (s.wr2 lo hi v).evr = s.evr := (State.wr_evr _ _ _).trans (State.wr_evr _ _ _)
@[simp] theorem State.wr2_host (s : State) (lo hi : Fld) (v : Nat) : (s.wr2 lo hi v).host = s.host := (State.wr_host _ _ _).trans (State.wr_host _ _ _)
@[simp] theorem State.wr2_cfgWait (s : State) (lo hi : Fld) (v : Nat) : (s.wr2 lo hi v).cfgWait = s.cfgWait := (State.wr_cfgWait _ _ _).trans (State.wr_cfgWait _ _ _)
@[simp] theorem State.wr2_ports (s : State) (lo hi : Fld) (v : Nat) : (s.wr2 lo hi v).ports = s.ports := (State.wr_ports _ _ _).trans (State.wr_ports _ _ _)
@[simp] theorem State.wr2_landed (s : State) (lo hi : Fld) (v : Nat) : (s.wr2 lo hi v).landed = s.landed := (State.wr_landed _ _ _).trans (State.wr_landed _ _ _)
@[simp] theorem State.wr2_routeWait (s : State) (lo hi : Fld) (v : Nat) : (s.wr2 lo hi v).routeWait = s.routeWait := (State.wr_routeWait _ _ _).trans (State.wr_routeWait _ _ _)
@[simp] theorem State.wr2_wells (s : State) (lo hi : Fld) (v : Nat) : (s.wr2 lo hi v).wells = s.wells := (State.wr_wells _ _ _).trans (State.wr_wells _ _ _)
@[simp] theorem State.wr2_work (s : State) (lo hi : Fld) (v : Nat) : (s.wr2 lo hi v).work = s.work := (State.wr_work _ _ _).trans (State.wr_work _ _ _)
@[simp] theorem State.wr2_cist (s : State) (lo hi : Fld) (v : Nat) : (s.wr2 lo hi v).cist = s.cist := (State.wr_cist _ _ _).trans (State.wr_cist _ _ _)
@[simp] theorem State.wr2_chan (s : State) (lo hi : Fld) (v : Nat) : (s.wr2 lo hi v).chan = s.chan := (State.wr_chan _ _ _).trans (State.wr_chan _ _ _)
@[simp] theorem State.wr2_hk (s : State) (lo hi : Fld) (v : Nat) : (s.wr2 lo hi v).hk = s.hk := (State.wr_hk _ _ _).trans (State.wr_hk _ _ _)
@[simp] theorem State.wr2_heathA (s : State) (lo hi : Fld) (v : Nat) : (s.wr2 lo hi v).heathA = s.heathA := (State.wr_heathA _ _ _).trans (State.wr_heathA _ _ _)
@[simp] theorem State.wr2_heathB (s : State) (lo hi : Fld) (v : Nat) : (s.wr2 lo hi v).heathB = s.heathB := (State.wr_heathB _ _ _).trans (State.wr_heathB _ _ _)
@[simp] theorem State.wr2_lead (s : State) (lo hi : Fld) (v : Nat) : (s.wr2 lo hi v).lead = s.lead := (State.wr_lead _ _ _).trans (State.wr_lead _ _ _)
@[simp] theorem State.wr2_pfail (s : State) (lo hi : Fld) (v : Nat) : (s.wr2 lo hi v).pfail = s.pfail := (State.wr_pfail _ _ _).trans (State.wr_pfail _ _ _)
@[simp] theorem State.wr2_intBypass (s : State) (lo hi : Fld) (v : Nat) : (s.wr2 lo hi v).intBypass = s.intBypass := (State.wr_intBypass _ _ _).trans (State.wr_intBypass _ _ _)
@[simp] theorem State.wr2_tapA (s : State) (lo hi : Fld) (v : Nat) : (s.wr2 lo hi v).tapA = s.tapA := (State.wr_tapA _ _ _).trans (State.wr_tapA _ _ _)
@[simp] theorem State.wr2_tapB (s : State) (lo hi : Fld) (v : Nat) : (s.wr2 lo hi v).tapB = s.tapB := (State.wr_tapB _ _ _).trans (State.wr_tapB _ _ _)
@[simp] theorem State.wr2_nvm (s : State) (lo hi : Fld) (v : Nat) : (s.wr2 lo hi v).nvm = s.nvm := (State.wr_nvm _ _ _).trans (State.wr_nvm _ _ _)
@[simp] theorem State.wr2_erases (s : State) (lo hi : Fld) (v : Nat) : (s.wr2 lo hi v).erases = s.erases := (State.wr_erases _ _ _).trans (State.wr_erases _ _ _)
@[simp] theorem State.wr2_erasePaused (s : State) (lo hi : Fld) (v : Nat) : (s.wr2 lo hi v).erasePaused = s.erasePaused := (State.wr_erasePaused _ _ _).trans (State.wr_erasePaused _ _ _)
@[simp] theorem State.wr2_corrected (s : State) (lo hi : Fld) (v : Nat) : (s.wr2 lo hi v).corrected = s.corrected := (State.wr_corrected _ _ _).trans (State.wr_corrected _ _ _)
@[simp] theorem State.wr2_eqTurn (s : State) (lo hi : Fld) (v : Nat) : (s.wr2 lo hi v).eqTurn = s.eqTurn := (State.wr_eqTurn _ _ _).trans (State.wr_eqTurn _ _ _)
@[simp] theorem State.wr2_wlTurn (s : State) (lo hi : Fld) (v : Nat) : (s.wr2 lo hi v).wlTurn = s.wlTurn := (State.wr_wlTurn _ _ _).trans (State.wr_wlTurn _ _ _)

/-! ### `State.wrIf` -/

@[simp] theorem State.wrIf_build (s : State) (f : Fld) (v : Nat) : (s.wrIf f v).build = s.build := by unfold State.wrIf; split <;> simp
@[simp] theorem State.wrIf_pending (s : State) (f : Fld) (v : Nat) : (s.wrIf f v).pending = s.pending := by unfold State.wrIf; split <;> simp
@[simp] theorem State.wrIf_now (s : State) (f : Fld) (v : Nat) : (s.wrIf f v).now = s.now := by unfold State.wrIf; split <;> simp
@[simp] theorem State.wrIf_out (s : State) (f : Fld) (v : Nat) : (s.wrIf f v).out = s.out := by unfold State.wrIf; split <;> simp
@[simp] theorem State.wrIf_free (s : State) (f : Fld) (v : Nat) : (s.wrIf f v).free = s.free := by unfold State.wrIf; split <;> simp
@[simp] theorem State.wrIf_active (s : State) (f : Fld) (v : Nat) : (s.wrIf f v).active = s.active := by unfold State.wrIf; split <;> simp
@[simp] theorem State.wrIf_mir (s : State) (f : Fld) (v : Nat) : (s.wrIf f v).mir = s.mir := by unfold State.wrIf; split <;> simp
@[simp] theorem State.wrIf_failover (s : State) (f : Fld) (v : Nat) : (s.wrIf f v).failover = s.failover := by unfold State.wrIf; split <;> simp
@[simp] theorem State.wrIf_tick (s : State) (f : Fld) (v : Nat) : (s.wrIf f v).tick = s.tick := by unfold State.wrIf; split <;> simp
@[simp] theorem State.wrIf_commits (s : State) (f : Fld) (v : Nat) : (s.wrIf f v).commits = s.commits := by unfold State.wrIf; split <;> simp
@[simp] theorem State.wrIf_evq (s : State) (f : Fld) (v : Nat) : (s.wrIf f v).evq = s.evq := by unfold State.wrIf; split <;> simp
@[simp] theorem State.wrIf_evr (s : State) (f : Fld) (v : Nat) : (s.wrIf f v).evr = s.evr := by unfold State.wrIf; split <;> simp
@[simp] theorem State.wrIf_host (s : State) (f : Fld) (v : Nat) : (s.wrIf f v).host = s.host := by unfold State.wrIf; split <;> simp
@[simp] theorem State.wrIf_cfgWait (s : State) (f : Fld) (v : Nat) : (s.wrIf f v).cfgWait = s.cfgWait := by unfold State.wrIf; split <;> simp
@[simp] theorem State.wrIf_ports (s : State) (f : Fld) (v : Nat) : (s.wrIf f v).ports = s.ports := by unfold State.wrIf; split <;> simp
@[simp] theorem State.wrIf_landed (s : State) (f : Fld) (v : Nat) : (s.wrIf f v).landed = s.landed := by unfold State.wrIf; split <;> simp
@[simp] theorem State.wrIf_routeWait (s : State) (f : Fld) (v : Nat) : (s.wrIf f v).routeWait = s.routeWait := by unfold State.wrIf; split <;> simp
@[simp] theorem State.wrIf_wells (s : State) (f : Fld) (v : Nat) : (s.wrIf f v).wells = s.wells := by unfold State.wrIf; split <;> simp
@[simp] theorem State.wrIf_work (s : State) (f : Fld) (v : Nat) : (s.wrIf f v).work = s.work := by unfold State.wrIf; split <;> simp
@[simp] theorem State.wrIf_cist (s : State) (f : Fld) (v : Nat) : (s.wrIf f v).cist = s.cist := by unfold State.wrIf; split <;> simp
@[simp] theorem State.wrIf_chan (s : State) (f : Fld) (v : Nat) : (s.wrIf f v).chan = s.chan := by unfold State.wrIf; split <;> simp
@[simp] theorem State.wrIf_hk (s : State) (f : Fld) (v : Nat) : (s.wrIf f v).hk = s.hk := by unfold State.wrIf; split <;> simp
@[simp] theorem State.wrIf_heathA (s : State) (f : Fld) (v : Nat) : (s.wrIf f v).heathA = s.heathA := by unfold State.wrIf; split <;> simp
@[simp] theorem State.wrIf_heathB (s : State) (f : Fld) (v : Nat) : (s.wrIf f v).heathB = s.heathB := by unfold State.wrIf; split <;> simp
@[simp] theorem State.wrIf_lead (s : State) (f : Fld) (v : Nat) : (s.wrIf f v).lead = s.lead := by unfold State.wrIf; split <;> simp
@[simp] theorem State.wrIf_pfail (s : State) (f : Fld) (v : Nat) : (s.wrIf f v).pfail = s.pfail := by unfold State.wrIf; split <;> simp
@[simp] theorem State.wrIf_intBypass (s : State) (f : Fld) (v : Nat) : (s.wrIf f v).intBypass = s.intBypass := by unfold State.wrIf; split <;> simp
@[simp] theorem State.wrIf_tapA (s : State) (f : Fld) (v : Nat) : (s.wrIf f v).tapA = s.tapA := by unfold State.wrIf; split <;> simp
@[simp] theorem State.wrIf_tapB (s : State) (f : Fld) (v : Nat) : (s.wrIf f v).tapB = s.tapB := by unfold State.wrIf; split <;> simp
@[simp] theorem State.wrIf_nvm (s : State) (f : Fld) (v : Nat) : (s.wrIf f v).nvm = s.nvm := by unfold State.wrIf; split <;> simp
@[simp] theorem State.wrIf_erases (s : State) (f : Fld) (v : Nat) : (s.wrIf f v).erases = s.erases := by unfold State.wrIf; split <;> simp
@[simp] theorem State.wrIf_erasePaused (s : State) (f : Fld) (v : Nat) : (s.wrIf f v).erasePaused = s.erasePaused := by unfold State.wrIf; split <;> simp
@[simp] theorem State.wrIf_corrected (s : State) (f : Fld) (v : Nat) : (s.wrIf f v).corrected = s.corrected := by unfold State.wrIf; split <;> simp
@[simp] theorem State.wrIf_eqTurn (s : State) (f : Fld) (v : Nat) : (s.wrIf f v).eqTurn = s.eqTurn := by unfold State.wrIf; split <;> simp
@[simp] theorem State.wrIf_wlTurn (s : State) (f : Fld) (v : Nat) : (s.wrIf f v).wlTurn = s.wlTurn := by unfold State.wrIf; split <;> simp

/-! ### What the updates change -/

@[simp] theorem State.at_now (s : State) (t : Nat) : (s.at t).now = max s.now t := rfl
@[simp] theorem State.emit_out (s : State) (e : Emission) : (s.emit e).out = e :: s.out := rfl
@[simp] theorem State.modPort_ports (s : State) (p : Port) (f : PortState → PortState) :
    (s.modPort p f).ports = s.ports.set p (f s.ports[p]) := rfl
@[simp] theorem State.modWell_wells (s : State) (w : WellNo) (f : Well → Well) :
    (s.modWell w f).wells = s.wells.set w (f s.wells[w]) := rfl
@[simp] theorem State.modChan_chan (s : State) (ch : Fin 16) (f : Channel → Channel) :
    (s.modChan ch f).chan = s.chan.set ch (f s.chan[ch]) := rfl
@[simp] theorem State.setCore_core (s : State) (m : CoreMem) : (s.setCore m).act.core = m := rfl
@[simp] theorem State.setCore_win (s : State) (m : CoreMem) : (s.setCore m).act.win = s.act.win := rfl
@[simp] theorem State.setCore_side (s : State) (m : CoreMem) : (s.setCore m).act.side = s.act.side := rfl
@[simp] theorem State.setCore_steps (s : State) (m : CoreMem) (c : Ctx) : (s.setCore m).steps c = m.steps[c] := rfl
@[simp] theorem State.setCore_word (s : State) (m : CoreMem) (off : Nat) : (s.setCore m).word off = s.word off := rfl
@[simp] theorem State.setWord_act_side (s : State) (off : Nat) (v : Word) : (s.setWord off v).act.side = s.act.side := by
  by_cases h : chipOff off = true <;> simp [State.setWord, h]
@[simp] theorem State.wr_act_side (s : State) (f : Fld) (v : Nat) : (s.wr f v).act.side = s.act.side := State.setWord_act_side _ _ _
@[simp] theorem State.bumpBy_act_side (s : State) (f : Fld) (n : Nat) : (s.bumpBy f n).act.side = s.act.side := State.setWord_act_side _ _ _
@[simp] theorem State.bump_act_side (s : State) (f : Fld) : (s.bump f).act.side = s.act.side := State.setWord_act_side _ _ _
@[simp] theorem State.setWord_act_inReset (s : State) (off : Nat) (v : Word) : (s.setWord off v).act.inReset = s.act.inReset := by
  by_cases h : chipOff off = true <;> simp [State.setWord, h]
@[simp] theorem State.wr_act_inReset (s : State) (f : Fld) (v : Nat) : (s.wr f v).act.inReset = s.act.inReset := State.setWord_act_inReset _ _ _
@[simp] theorem State.bumpBy_act_inReset (s : State) (f : Fld) (n : Nat) : (s.bumpBy f n).act.inReset = s.act.inReset := State.setWord_act_inReset _ _ _
@[simp] theorem State.bump_act_inReset (s : State) (f : Fld) : (s.bump f).act.inReset = s.act.inReset := State.setWord_act_inReset _ _ _
@[simp] theorem State.setWord_act_bistDone (s : State) (off : Nat) (v : Word) : (s.setWord off v).act.bistDone = s.act.bistDone := by
  by_cases h : chipOff off = true <;> simp [State.setWord, h]
@[simp] theorem State.wr_act_bistDone (s : State) (f : Fld) (v : Nat) : (s.wr f v).act.bistDone = s.act.bistDone := State.setWord_act_bistDone _ _ _
@[simp] theorem State.bumpBy_act_bistDone (s : State) (f : Fld) (n : Nat) : (s.bumpBy f n).act.bistDone = s.act.bistDone := State.setWord_act_bistDone _ _ _
@[simp] theorem State.bump_act_bistDone (s : State) (f : Fld) : (s.bump f).act.bistDone = s.act.bistDone := State.setWord_act_bistDone _ _ _
@[simp] theorem State.setWord_act_bistPass (s : State) (off : Nat) (v : Word) : (s.setWord off v).act.bistPass = s.act.bistPass := by
  by_cases h : chipOff off = true <;> simp [State.setWord, h]
@[simp] theorem State.wr_act_bistPass (s : State) (f : Fld) (v : Nat) : (s.wr f v).act.bistPass = s.act.bistPass := State.setWord_act_bistPass _ _ _
@[simp] theorem State.bumpBy_act_bistPass (s : State) (f : Fld) (n : Nat) : (s.bumpBy f n).act.bistPass = s.act.bistPass := State.setWord_act_bistPass _ _ _
@[simp] theorem State.bump_act_bistPass (s : State) (f : Fld) : (s.bump f).act.bistPass = s.act.bistPass := State.setWord_act_bistPass _ _ _
@[simp] theorem State.setWord_act_loHeld (s : State) (off : Nat) (v : Word) : (s.setWord off v).act.loHeld = s.act.loHeld := by
  by_cases h : chipOff off = true <;> simp [State.setWord, h]
@[simp] theorem State.wr_act_loHeld (s : State) (f : Fld) (v : Nat) : (s.wr f v).act.loHeld = s.act.loHeld := State.setWord_act_loHeld _ _ _
@[simp] theorem State.bumpBy_act_loHeld (s : State) (f : Fld) (n : Nat) : (s.bumpBy f n).act.loHeld = s.act.loHeld := State.setWord_act_loHeld _ _ _
@[simp] theorem State.bump_act_loHeld (s : State) (f : Fld) : (s.bump f).act.loHeld = s.act.loHeld := State.setWord_act_loHeld _ _ _
@[simp] theorem State.setWord_act_shadow (s : State) (off : Nat) (v : Word) : (s.setWord off v).act.shadow = s.act.shadow := by
  by_cases h : chipOff off = true <;> simp [State.setWord, h]
@[simp] theorem State.wr_act_shadow (s : State) (f : Fld) (v : Nat) : (s.wr f v).act.shadow = s.act.shadow := State.setWord_act_shadow _ _ _
@[simp] theorem State.bumpBy_act_shadow (s : State) (f : Fld) (n : Nat) : (s.bumpBy f n).act.shadow = s.act.shadow := State.setWord_act_shadow _ _ _
@[simp] theorem State.bump_act_shadow (s : State) (f : Fld) : (s.bump f).act.shadow = s.act.shadow := State.setWord_act_shadow _ _ _
@[simp] theorem State.setWord_act_core (s : State) (off : Nat) (v : Word) : (s.setWord off v).act.core = s.act.core := by
  by_cases h : chipOff off = true <;> simp [State.setWord, h]
@[simp] theorem State.wr_act_core (s : State) (f : Fld) (v : Nat) : (s.wr f v).act.core = s.act.core := State.setWord_act_core _ _ _
@[simp] theorem State.bumpBy_act_core (s : State) (f : Fld) (n : Nat) : (s.bumpBy f n).act.core = s.act.core := State.setWord_act_core _ _ _
@[simp] theorem State.bump_act_core (s : State) (f : Fld) : (s.bump f).act.core = s.act.core := State.setWord_act_core _ _ _
@[simp] theorem State.setWord_act_table (s : State) (off : Nat) (v : Word) : (s.setWord off v).act.table = s.act.table := by
  by_cases h : chipOff off = true <;> simp [State.setWord, h]
@[simp] theorem State.wr_act_table (s : State) (f : Fld) (v : Nat) : (s.wr f v).act.table = s.act.table := State.setWord_act_table _ _ _
@[simp] theorem State.bumpBy_act_table (s : State) (f : Fld) (n : Nat) : (s.bumpBy f n).act.table = s.act.table := State.setWord_act_table _ _ _
@[simp] theorem State.bump_act_table (s : State) (f : Fld) : (s.bump f).act.table = s.act.table := State.setWord_act_table _ _ _
@[simp] theorem State.setWord_act_router (s : State) (off : Nat) (v : Word) : (s.setWord off v).act.router = s.act.router := by
  by_cases h : chipOff off = true <;> simp [State.setWord, h]
@[simp] theorem State.wr_act_router (s : State) (f : Fld) (v : Nat) : (s.wr f v).act.router = s.act.router := State.setWord_act_router _ _ _
@[simp] theorem State.bumpBy_act_router (s : State) (f : Fld) (n : Nat) : (s.bumpBy f n).act.router = s.act.router := State.setWord_act_router _ _ _
@[simp] theorem State.bump_act_router (s : State) (f : Fld) : (s.bump f).act.router = s.act.router := State.setWord_act_router _ _ _
@[simp] theorem State.setWord_act_lanes (s : State) (off : Nat) (v : Word) : (s.setWord off v).act.lanes = s.act.lanes := by
  by_cases h : chipOff off = true <;> simp [State.setWord, h]
@[simp] theorem State.wr_act_lanes (s : State) (f : Fld) (v : Nat) : (s.wr f v).act.lanes = s.act.lanes := State.setWord_act_lanes _ _ _
@[simp] theorem State.bumpBy_act_lanes (s : State) (f : Fld) (n : Nat) : (s.bumpBy f n).act.lanes = s.act.lanes := State.setWord_act_lanes _ _ _
@[simp] theorem State.bump_act_lanes (s : State) (f : Fld) : (s.bump f).act.lanes = s.act.lanes := State.setWord_act_lanes _ _ _
@[simp] theorem State.setWord_act_seeding (s : State) (off : Nat) (v : Word) : (s.setWord off v).act.seeding = s.act.seeding := by
  by_cases h : chipOff off = true <;> simp [State.setWord, h]
@[simp] theorem State.wr_act_seeding (s : State) (f : Fld) (v : Nat) : (s.wr f v).act.seeding = s.act.seeding := State.setWord_act_seeding _ _ _
@[simp] theorem State.bumpBy_act_seeding (s : State) (f : Fld) (n : Nat) : (s.bumpBy f n).act.seeding = s.act.seeding := State.setWord_act_seeding _ _ _
@[simp] theorem State.bump_act_seeding (s : State) (f : Fld) : (s.bump f).act.seeding = s.act.seeding := State.setWord_act_seeding _ _ _
@[simp] theorem State.setWord_act_tableFlips (s : State) (off : Nat) (v : Word) : (s.setWord off v).act.tableFlips = s.act.tableFlips := by
  by_cases h : chipOff off = true <;> simp [State.setWord, h]
@[simp] theorem State.wr_act_tableFlips (s : State) (f : Fld) (v : Nat) : (s.wr f v).act.tableFlips = s.act.tableFlips := State.setWord_act_tableFlips _ _ _
@[simp] theorem State.bumpBy_act_tableFlips (s : State) (f : Fld) (n : Nat) : (s.bumpBy f n).act.tableFlips = s.act.tableFlips := State.setWord_act_tableFlips _ _ _
@[simp] theorem State.bump_act_tableFlips (s : State) (f : Fld) : (s.bump f).act.tableFlips = s.act.tableFlips := State.setWord_act_tableFlips _ _ _
@[simp] theorem State.setWord_act_routerFlips (s : State) (off : Nat) (v : Word) : (s.setWord off v).act.routerFlips = s.act.routerFlips := by
  by_cases h : chipOff off = true <;> simp [State.setWord, h]
@[simp] theorem State.wr_act_routerFlips (s : State) (f : Fld) (v : Nat) : (s.wr f v).act.routerFlips = s.act.routerFlips := State.setWord_act_routerFlips _ _ _
@[simp] theorem State.bumpBy_act_routerFlips (s : State) (f : Fld) (n : Nat) : (s.bumpBy f n).act.routerFlips = s.act.routerFlips := State.setWord_act_routerFlips _ _ _
@[simp] theorem State.bump_act_routerFlips (s : State) (f : Fld) : (s.bump f).act.routerFlips = s.act.routerFlips := State.setWord_act_routerFlips _ _ _
@[simp] theorem State.at_word (s : State) (t : Nat) (off : Nat) : (s.at t).word off = s.word off := rfl
@[simp] theorem State.at_rd (s : State) (t : Nat) (g : Fld) : (s.at t).rd g = s.rd g := rfl
@[simp] theorem State.at_mirWord (s : State) (t : Nat) (off : Nat) : (s.at t).mirWord off = s.mirWord off := rfl
@[simp] theorem State.at_hubUp (s : State) (t : Nat) : (s.at t).hubUp = s.hubUp := rfl
@[simp] theorem State.emit_word (s : State) (e : Emission) (off : Nat) : (s.emit e).word off = s.word off := rfl
@[simp] theorem State.emit_rd (s : State) (e : Emission) (g : Fld) : (s.emit e).rd g = s.rd g := rfl
@[simp] theorem State.emit_mirWord (s : State) (e : Emission) (off : Nat) : (s.emit e).mirWord off = s.mirWord off := rfl
@[simp] theorem State.emit_hubUp (s : State) (e : Emission) : (s.emit e).hubUp = s.hubUp := rfl
@[simp] theorem State.modPort_word (s : State) (p : Port) (f : PortState → PortState) (off : Nat) : (s.modPort p f).word off = s.word off := rfl
@[simp] theorem State.modPort_rd (s : State) (p : Port) (f : PortState → PortState) (g : Fld) : (s.modPort p f).rd g = s.rd g := rfl
@[simp] theorem State.modPort_mirWord (s : State) (p : Port) (f : PortState → PortState) (off : Nat) : (s.modPort p f).mirWord off = s.mirWord off := rfl
@[simp] theorem State.modPort_hubUp (s : State) (p : Port) (f : PortState → PortState) : (s.modPort p f).hubUp = s.hubUp := rfl
@[simp] theorem State.modWell_word (s : State) (w : WellNo) (f : Well → Well) (off : Nat) : (s.modWell w f).word off = s.word off := rfl
@[simp] theorem State.modWell_rd (s : State) (w : WellNo) (f : Well → Well) (g : Fld) : (s.modWell w f).rd g = s.rd g := rfl
@[simp] theorem State.modWell_mirWord (s : State) (w : WellNo) (f : Well → Well) (off : Nat) : (s.modWell w f).mirWord off = s.mirWord off := rfl
@[simp] theorem State.modWell_hubUp (s : State) (w : WellNo) (f : Well → Well) : (s.modWell w f).hubUp = s.hubUp := rfl
@[simp] theorem State.modChan_word (s : State) (ch : Fin 16) (f : Channel → Channel) (off : Nat) : (s.modChan ch f).word off = s.word off := rfl
@[simp] theorem State.modChan_rd (s : State) (ch : Fin 16) (f : Channel → Channel) (g : Fld) : (s.modChan ch f).rd g = s.rd g := rfl
@[simp] theorem State.modChan_mirWord (s : State) (ch : Fin 16) (f : Channel → Channel) (off : Nat) : (s.modChan ch f).mirWord off = s.mirWord off := rfl
@[simp] theorem State.modChan_hubUp (s : State) (ch : Fin 16) (f : Channel → Channel) : (s.modChan ch f).hubUp = s.hubUp := rfl
@[simp] theorem State.setCore_rd (s : State) (m : CoreMem) (g : Fld) : (s.setCore m).rd g = s.rd g := rfl
@[simp] theorem State.setCore_hubUp (s : State) (m : CoreMem) : (s.setCore m).hubUp = s.hubUp := rfl
@[simp] theorem State.setWord_hubUp (s : State) (off : Nat) (v : Word) : (s.setWord off v).hubUp = s.hubUp := by
  unfold State.hubUp; simp
@[simp] theorem State.wr_hubUp (s : State) (f : Fld) (v : Nat) : (s.wr f v).hubUp = s.hubUp := State.setWord_hubUp _ _ _
@[simp] theorem State.bump_hubUp (s : State) (f : Fld) : (s.bump f).hubUp = s.hubUp := State.setWord_hubUp _ _ _
@[simp] theorem State.setWord_steps (s : State) (off : Nat) (v : Word) (c : Ctx) : (s.setWord off v).steps c = s.steps c := by
  unfold State.steps; rw [State.setWord_act_core]
@[simp] theorem State.wr_steps (s : State) (f : Fld) (v : Nat) (c : Ctx) : (s.wr f v).steps c = s.steps c := State.setWord_steps _ _ _ _
@[simp] theorem State.bump_steps (s : State) (f : Fld) (c : Ctx) : (s.bump f).steps c = s.steps c := State.setWord_steps _ _ _ _

end Sys2Proof.Machine
end

