-- ==== Sys2Proof/Laws/Window.lean ====
section
/-!
SUPPORT. Read after write for the sparse maps, their canonical form, and the fields of a register word.
-/

namespace Sys2Proof.Machine

open Sys2Proof

/-! ### One entry -/

theorem sget_filter_ne {α : Type} (d : Nat → α) (m : List (Nat × α)) {k j : Nat} (h : j ≠ k) :
    sget d (m.filter fun e => decide (e.1 ≠ k)) j = sget d m j := by
  induction m with
  | nil => rfl
  | cons e t ih =>
    obtain ⟨a, v⟩ := e
    by_cases ha : a = k
    · subst ha
      simp [sget, List.filter, Ne.symm h]
      simpa using ih
    · simp [sget, List.filter, ha]
      split
      · rfl
      · simpa using ih

theorem sget_filter_same {α : Type} (d : Nat → α) (m : List (Nat × α)) (k : Nat) :
    sget d (m.filter fun e => decide (e.1 ≠ k)) k = d k := by
  induction m with
  | nil => rfl
  | cons e t ih =>
    obtain ⟨a, v⟩ := e
    by_cases ha : a = k
    · simpa [List.filter, ha] using ih
    · simpa [List.filter, ha, sget] using ih

theorem sget_sins_ne {α : Type} (d : Nat → α) (m : List (Nat × α)) (v : α) {k j : Nat} (h : j ≠ k) :
    sget d (sins k v m) j = sget d m j := by
  induction m with
  | nil => simp [sins, sget, Ne.symm h]
  | cons e t ih =>
    obtain ⟨a, x⟩ := e
    simp only [sins]
    split
    · simp [sget, Ne.symm h]
    · simp only [sget, ih]

theorem sget_sins_same {α : Type} (d : Nat → α) (m : List (Nat × α)) (k : Nat) (v : α) (h : ∀ e ∈ m, e.1 ≠ k) :
    sget d (sins k v m) k = v := by
  induction m with
  | nil => simp [sins, sget]
  | cons e t ih =>
    obtain ⟨a, x⟩ := e
    have ha : a ≠ k := h (a, x) (by simp)
    simp only [sins]
    split
    · simp [sget]
    · simpa [sget, ha] using ih fun e he => h e (by simp [he])

/-- A read of the key that a write named gives the value written. -/
@[simp] theorem sget_sput_same {α : Type} [DecidableEq α] (d : Nat → α) (m : List (Nat × α)) (k : Nat) (v : α) :
    sget d (sput d m k v) k = v := by
  unfold sput
  split
  · next h => exact (sget_filter_same d m k).trans h.symm
  · exact sget_sins_same d _ k v fun e he => by simpa using (List.mem_filter.mp he).2

/-- A write leaves every other key as it was. -/
theorem sget_sput_ne {α : Type} [DecidableEq α] (d : Nat → α) (m : List (Nat × α)) (v : α) {k j : Nat} (h : j ≠ k) :
    sget d (sput d m k v) j = sget d m j := by
  unfold sput
  split
  · exact sget_filter_ne d m h
  · exact (sget_sins_ne d _ v h).trans (sget_filter_ne d m h)

/-! ### The canonical form -/

theorem swf_nil {α : Type} [DecidableEq α] (d : Nat → α) : swf d ([] : List (Nat × α)) = true := by simp [swf]

theorem mem_sins {α : Type} {k : Nat} {v : α} {m : List (Nat × α)} {e : Nat × α} : e ∈ sins k v m ↔ e = (k, v) ∨ e ∈ m := by
  induction m with
  | nil => simp [sins]
  | cons x t ih =>
    obtain ⟨a, y⟩ := x
    simp only [sins]
    split
    · simp
    · simp only [List.mem_cons, ih]; tauto

theorem pairwise_sins {α : Type} {k : Nat} {v : α} {m : List (Nat × α)} (h : m.Pairwise fun a b => a.1 < b.1)
    (hk : ∀ e ∈ m, e.1 ≠ k) : (sins k v m).Pairwise fun a b => a.1 < b.1 := by
  induction m with
  | nil => simp [sins]
  | cons x t ih =>
    obtain ⟨a, y⟩ := x
    obtain ⟨h1, h2⟩ := List.pairwise_cons.mp h
    have ha : a ≠ k := hk (a, y) (by simp)
    simp only [sins]
    split
    · next hlt =>
      refine List.pairwise_cons.mpr ⟨fun e he => ?_, h⟩
      rcases List.mem_cons.mp he with rfl | he
      · exact hlt
      · exact Nat.lt_trans hlt (h1 e he)
    · next hge =>
      refine List.pairwise_cons.mpr ⟨fun e he => ?_, ih h2 fun e he => hk e (by simp [he])⟩
      rcases mem_sins.mp he with rfl | he
      · simp only; omega
      · exact h1 e he

/-- A write keeps the canonical form. -/
theorem swf_sput {α : Type} [DecidableEq α] {d : Nat → α} {m : List (Nat × α)} (k : Nat) (v : α) (h : swf d m = true) :
    swf d (sput d m k v) = true := by
  simp only [swf, Bool.and_eq_true, decide_eq_true_eq, List.all_eq_true] at h ⊢
  obtain ⟨hp, ha⟩ := h
  have hp' := hp.filter fun e => decide (e.1 ≠ k)
  have ha' : ∀ e ∈ m.filter fun e => decide (e.1 ≠ k), e.2 ≠ d e.1 := fun e he => ha e (List.mem_filter.mp he).1
  unfold sput
  split
  · exact ⟨hp', ha'⟩
  · next hv =>
    refine ⟨pairwise_sins hp' fun e he => by simpa using (List.mem_filter.mp he).2, fun e he => ?_⟩
    rcases mem_sins.mp he with rfl | he
    · exact hv
    · exact ha' e he

/-! ### Bytes -/

/-- Every memory operation keeps the canonical form. -/
theorem swf_mwrite {d : Nat → Byte} {m : List (Nat × Byte)} (a : Nat) (bs : List Byte) (h : swf d m = true) :
    swf d (mwrite d m a bs) = true := by
  induction bs generalizing m a with
  | nil => exact h
  | cons b t ih => exact ih (a + 1) (swf_sput a b h)

/-- A byte outside those written keeps its value. -/
theorem sget_mwrite_outside {d : Nat → Byte} (m : List (Nat × Byte)) (a : Nat) (bs : List Byte) {x : Nat}
    (h : x < a ∨ a + bs.length ≤ x) : sget d (mwrite d m a bs) x = sget d m x := by
  induction bs generalizing m a with
  | nil => rfl
  | cons b t ih =>
    simp only [List.length_cons] at h
    exact (ih _ (a + 1) (by omega)).trans (sget_sput_ne d m b (by omega))

/-- A byte among those written has the value written. -/
theorem sget_mwrite_inside {d : Nat → Byte} (m : List (Nat × Byte)) (a : Nat) (bs : List Byte) {i : Nat} (h : i < bs.length) :
    sget d (mwrite d m a bs) (a + i) = bs[i] := by
  induction bs generalizing m a i with
  | nil => simp at h
  | cons b t ih =>
    cases i with
    | zero => exact (sget_mwrite_outside _ (a + 1) t (by omega)).trans (sget_sput_same d m a b)
    | succ j =>
      have hj : j < t.length := by simpa using h
      have := ih (sput d m a b) (a + 1) hj
      simpa [mwrite, Nat.add_assoc, Nat.add_comm 1 j] using this

@[simp] theorem mread_length (d : Nat → Byte) (m : List (Nat × Byte)) (a n : Nat) : (mread d m a n).length = n := by
  induction n generalizing a with
  | zero => rfl
  | succ n ih => simp [mread, ih]

theorem mread_one (d : Nat → Byte) (m : List (Nat × Byte)) (a : Nat) : mread d m a 1 = [sget d m a] := rfl

theorem mread_congr {d : Nat → Byte} {m m' : List (Nat × Byte)} {a n : Nat} (h : ∀ x, a ≤ x → x < a + n → sget d m x = sget d m' x) :
    mread d m a n = mread d m' a n := by
  induction n generalizing a with
  | zero => rfl
  | succ n ih =>
    simp only [mread]
    rw [h a (Nat.le_refl a) (by omega), ih fun x h1 h2 => h x (by omega) (by omega)]

/-- A read that meets none of the bytes written is not changed by the write. -/
theorem mread_mwrite_outside {d : Nat → Byte} (m : List (Nat × Byte)) (a : Nat) (bs : List Byte) {x n : Nat}
    (h : x + n ≤ a ∨ a + bs.length ≤ x) : mread d (mwrite d m a bs) x n = mread d m x n :=
  mread_congr fun y h1 h2 => sget_mwrite_outside m a bs (by omega)

/-- A read of the bytes written gives them. -/
theorem mread_mwrite_same (d : Nat → Byte) (m : List (Nat × Byte)) (a : Nat) (bs : List Byte) :
    mread d (mwrite d m a bs) a bs.length = bs := by
  apply List.ext_getElem (by simp)
  intro i h1 h2
  have key : ∀ (m' : List (Nat × Byte)) (n x j : Nat) (hj : j < (mread d m' x n).length), (mread d m' x n)[j] = sget d m' (x + j) := by
    intro m' n
    induction n with
    | zero => intro x j hj; simp [mread] at hj
    | succ n ih =>
      intro x j hj
      cases j with
      | zero => rfl
      | succ j =>
        simp only [mread, List.getElem_cons_succ]
        rw [ih]; congr 1; omega
  rw [key, sget_mwrite_inside m a bs h2]

/-! ### Fields of a word -/

theorem Fld.ones_getLsbD (f : Fld) (i : Nat) :
    f.ones.getLsbD i = (decide (i < 32) && decide (f.lo ≤ i) && decide (i < f.lo + f.len)) := by
  unfold Fld.ones
  rw [BitVec.getLsbD_shiftLeft, BitVec.getLsbD_ofNat, Nat.testBit_two_pow_sub_one]
  by_cases h1 : i < 32 <;> by_cases h2 : f.lo ≤ i <;> by_cases h3 : i < f.lo + f.len <;> simp [h1, h2, h3] <;> omega

theorem Fld.put_getLsbD (f : Fld) (w : Word) (v i : Nat) :
    (f.put w v).getLsbD i =
      (decide (i < 32) && if f.lo ≤ i ∧ i < f.lo + f.len then v.testBit (i - f.lo) else w.getLsbD i) := by
  unfold Fld.put
  rw [BitVec.getLsbD_or, BitVec.getLsbD_and, BitVec.getLsbD_not, Fld.ones_getLsbD, BitVec.getLsbD_shiftLeft, BitVec.getLsbD_ofNat,
    Nat.testBit_mod_two_pow]
  by_cases h1 : i < 32 <;> by_cases h2 : f.lo ≤ i <;> by_cases h3 : i < f.lo + f.len <;> simp [h1, h2, h3]
  · have h4 : i - f.lo < f.len := by omega
    have h5 : i - f.lo < 32 := by omega
    simp [h4, h5, Nat.not_lt.mpr h2]
  · intro _ h4; omega

theorem Fld.get_testBit (f : Fld) (w : Word) (i : Nat) :
    (f.get w).testBit i = (decide (i < f.len) && w.getLsbD (f.lo + i)) := by
  unfold Fld.get
  rw [Nat.testBit_mod_two_pow, BitVec.testBit_toNat, BitVec.getLsbD_ushiftRight]

/-- A field that was stored reads the value stored. -/
theorem Fld.get_put (f : Fld) (w : Word) (v : Nat) (h : f.lo + f.len ≤ 32) : f.get (f.put w v) = v % 2 ^ f.len := by
  apply Nat.eq_of_testBit_eq
  intro i
  rw [Fld.get_testBit, Fld.put_getLsbD, Nat.testBit_mod_two_pow]
  by_cases hi : i < f.len
  · have h1 : f.lo + i < 32 := by omega
    have h2 : f.lo + i < f.lo + f.len := by omega
    simp [hi, h1]
  · simp [hi]

/-- Storing a field leaves the other fields of its word. -/
theorem Fld.get_put_other (f g : Fld) (w : Word) (v : Nat) (h : f.lo + f.len ≤ g.lo ∨ g.lo + g.len ≤ f.lo) (hg : g.lo + g.len ≤ 32) :
    g.get (f.put w v) = g.get w := by
  apply Nat.eq_of_testBit_eq
  intro i
  rw [Fld.get_testBit, Fld.get_testBit, Fld.put_getLsbD]
  by_cases hi : i < g.len
  · have h1 : g.lo + i < 32 := by omega
    have h2 : ¬(f.lo ≤ g.lo + i ∧ g.lo + i < f.lo + f.len) := by omega
    simp [hi, h1, h2]
  · simp [hi]

/-! ### Register words -/

@[simp] theorem State.setWord_word_same (s : State) (off : Nat) (v : Word) : (s.setWord off v).word off = v := by
  unfold State.word State.setWord
  by_cases h : chipOff off = true <;> simp [h]

theorem State.setWord_word_ne (s : State) (v : Word) {off x : Nat} (h : x ≠ off) : (s.setWord off v).word x = s.word x := by
  unfold State.word State.setWord
  by_cases h1 : chipOff off = true <;> by_cases h2 : chipOff x = true <;> simp [h1, h2, sget_sput_ne _ _ _ h]

/-- Storing a field leaves the words of the other registers. -/
theorem State.wr_word_ne (s : State) (f : Fld) (v : Nat) {x : Nat} (h : x ≠ f.off) : (s.wr f v).word x = s.word x :=
  State.setWord_word_ne s _ h

/-- A field that was stored reads the value stored. -/
theorem State.wr_rd (s : State) (f : Fld) (v : Nat) (h : f.lo + f.len ≤ 32) : (s.wr f v).rd f = v % 2 ^ f.len := by
  unfold State.rd State.wr
  rw [State.setWord_word_same, Fld.get_put f _ v h]

/-- Storing a field leaves the fields of other registers. -/
theorem State.wr_rd_ne (s : State) (f g : Fld) (v : Nat) (h : g.off ≠ f.off) : (s.wr f v).rd g = s.rd g := by
  unfold State.rd
  rw [State.wr_word_ne s f v h]

/-- Storing a field leaves the other fields of its register. -/
theorem State.wr_rd_other (s : State) (f g : Fld) (v : Nat) (h0 : g.off = f.off) (h : f.lo + f.len ≤ g.lo ∨ g.lo + g.len ≤ f.lo)
    (hg : g.lo + g.len ≤ 32) : (s.wr f v).rd g = s.rd g := by
  unfold State.rd State.wr
  rw [h0, State.setWord_word_same, Fld.get_put_other f g _ v h hg]

theorem State.bump_word_ne (s : State) (f : Fld) {x : Nat} (h : x ≠ f.off) : (s.bump f).word x = s.word x := State.wr_word_ne s f _ h

/-- A counter counts one, and stays at its largest value. -/
theorem State.bump_rd (s : State) (f : Fld) (h : f.lo + f.len ≤ 32) : (s.bump f).rd f = min (2 ^ f.len - 1) (s.rd f + 1) := by
  unfold State.bump State.bumpBy
  rw [State.wr_rd s f _ h, Nat.mod_eq_of_lt]
  have := Nat.two_pow_pos f.len
  omega

end Sys2Proof.Machine
end

