-- ==== Sys2Proof/Laws/Events.lean ====
section
/-!
SUPPORT. What raising an event can change, and that its record waits for the event ring.
-/

namespace Sys2Proof.Machine

open Sys2Proof

/-! ### The recorder -/

theorem State.ringPut_eq (s : State) (e : RecEntry) : ∃ r, s.ringPut e = { s with evr := r } := by
  unfold State.ringPut
  dsimp only
  split
  · split <;> exact ⟨_, rfl⟩
  · exact ⟨_, rfl⟩

/-- The recorder's part of an event changes the recorder alone. -/
theorem State.record_eq (s : State) (e : Event) : ∃ r, s.record e = { s with evr := r } := by
  have key : ∀ (p : Prop) [Decidable p] (t : State), (∃ r, t = { s with evr := r }) →
      ∃ r, (if p then { t with evr := t.evr.faultFlush } else t) = { s with evr := r } := by
    rintro p _ t ⟨r, rfl⟩
    split <;> exact ⟨_, rfl⟩
  unfold State.record
  cases s.leadUp
  · exact ⟨s.evr, rfl⟩
  · simp only [Bool.not_true, Bool.false_eq_true, if_false]
    split
    all_goals
      split
      · exact ⟨s.evr, rfl⟩
      · refine key _ _ ?_
        split
        · exact ⟨_, rfl⟩
        · exact State.ringPut_eq { s with evr := _ } _

/-! ### The event ring -/

theorem chipOff_eqLost : chipOff RNG_EQ_LOST.COUNT.off = false := by decide

/-- A record that finds room waits behind the others; without room it is lost and counted. -/
theorem State.enqueue_eq (s : State) (e : Event) :
    ∃ q w m, s.enqueue e = { s with evq := q, act := { s.act with win := w }, mch := m } := by
  unfold State.enqueue
  split
  · exact ⟨s.evq, s.act.win, s.mch, rfl⟩
  · split
    · exact ⟨_, s.act.win, s.mch, rfl⟩
    · unfold State.bump State.bumpBy State.wr State.setWord
      rw [chipOff_eqLost]
      exact ⟨_, _, _, rfl⟩

theorem State.enqueue_word_ne (s : State) (e : Event) {off : Nat} (h : off ≠ RNG_EQ_LOST.reg) :
    (s.enqueue e).word off = s.word off := by
  unfold State.enqueue
  split
  · rfl
  · split
    · rfl
    · exact State.bump_word_ne s RNG_EQ_LOST.COUNT h

theorem State.enqueue_room (s : State) (e : Event) (h1 : s.hubUp = true) (h2 : s.evq.waiting.length < 64) :
    s.enqueue e = { s with evq := { s.evq with waiting := s.evq.waiting ++ [e] } } := by
  unfold State.enqueue
  rw [if_neg (by simp [h1]), if_pos h2]

/-! ### Raising -/

/-- Everything that raising an event can change: the event ring's records, the recorder, the counter of lost records, and the
update of that counter to the mirror. -/
theorem State.raiseEv_eq (s : State) (e : Event) :
    ∃ q r w m, s.raiseEv e = { s with evq := q, evr := r, act := { s.act with win := w }, mch := m } := by
  obtain ⟨q, w, m, h⟩ := State.enqueue_eq s e
  obtain ⟨r, hr⟩ := State.record_eq (s.enqueue e) e
  exact ⟨q, r, w, m, by unfold State.raiseEv; rw [hr, h]⟩

/-- Raising an event leaves every register but the counter of lost records. -/
theorem State.raiseEv_word_ne (s : State) (e : Event) {off : Nat} (h : off ≠ RNG_EQ_LOST.reg) :
    (s.raiseEv e).word off = s.word off := by
  obtain ⟨r, hr⟩ := State.record_eq (s.enqueue e) e
  unfold State.raiseEv
  rw [hr]
  exact State.enqueue_word_ne s e h

/-- The record of a raised event waits for the event ring. -/
theorem State.raiseEv_reports (s : State) (e : Event) : Reports s e.code (s.raiseEv e) := by
  intro h1 h2
  obtain ⟨r, hr⟩ := State.record_eq (s.enqueue e) e
  refine ⟨[e], e, ?_, by simp, rfl⟩
  unfold State.raiseEv
  rw [hr, State.enqueue_room s e h1 h2]

theorem State.raiseFrom_eq (s : State) (part num code sev : Nat) (data : List Nat) (c : Option Ctx) (seq : Word) (addr : Nat) :
    ∃ q r w m, s.raiseFrom part num code sev data c seq addr =
      { s with evq := q, evr := r, act := { s.act with win := w }, mch := m } := State.raiseEv_eq s _

theorem State.raise_eq (s : State) (code sev : Nat) (data : List Nat) (c : Option Ctx) (seq : Word) (addr : Nat) :
    ∃ q r w m, s.raise code sev data c seq addr = { s with evq := q, evr := r, act := { s.act with win := w }, mch := m } :=
  State.raiseEv_eq s _

theorem State.raiseHeath_eq (s : State) (code sev : Nat) (data : List Nat) (addr : Nat) :
    ∃ q r w m, s.raiseHeath code sev data addr = { s with evq := q, evr := r, act := { s.act with win := w }, mch := m } :=
  State.raiseEv_eq s _

theorem State.raise_word_ne (s : State) (code sev : Nat) (data : List Nat) (c : Option Ctx) (seq : Word) (addr : Nat) {off : Nat}
    (h : off ≠ RNG_EQ_LOST.reg) : (s.raise code sev data c seq addr).word off = s.word off := State.raiseEv_word_ne s _ h

theorem State.raise_reports (s : State) (code sev : Nat) (data : List Nat) (c : Option Ctx) (seq : Word) (addr : Nat) :
    Reports s code (s.raise code sev data c seq addr) := State.raiseEv_reports s _

theorem State.raiseFrom_word_ne (s : State) (part num code sev : Nat) (data : List Nat) (c : Option Ctx) (seq : Word) (addr : Nat)
    {off : Nat} (h : off ≠ RNG_EQ_LOST.reg) : (s.raiseFrom part num code sev data c seq addr).word off = s.word off :=
  State.raiseEv_word_ne s _ h

theorem State.raiseFrom_reports (s : State) (part num code sev : Nat) (data : List Nat) (c : Option Ctx) (seq : Word) (addr : Nat) :
    Reports s code (s.raiseFrom part num code sev data c seq addr) := State.raiseEv_reports s _

theorem State.raiseHeath_word_ne (s : State) (code sev : Nat) (data : List Nat) (addr : Nat) {off : Nat} (h : off ≠ RNG_EQ_LOST.reg) :
    (s.raiseHeath code sev data addr).word off = s.word off := State.raiseEv_word_ne s _ h

theorem State.raiseHeath_reports (s : State) (code sev : Nat) (data : List Nat) (addr : Nat) :
    Reports s code (s.raiseHeath code sev data addr) := State.raiseEv_reports s _

end Sys2Proof.Machine
end

