-- ==== Sys2Proof/Laws/FnUnits.lean ====
section
/-!
SUPPORT. The free functions behind the function units (R118, R136) stay in their range and never fall; a value brought into a window of
places lies in it.
-/

namespace Sys2Proof.Laws

open Sys2Proof Sys2Proof.Machine

theorem within_mono {lo hi p q : Nat} (h : p ≤ q) : within lo hi p ≤ within lo hi q := by
  unfold within; omega

theorem within_window {lo hi : Nat} (p : Nat) (h : lo ≤ hi) : lo ≤ within lo hi p ∧ within lo hi p ≤ hi := by
  unfold within; omega

/-- Windows that rise with the operand give values that rise. -/
theorem within_rising {lo lo' hi hi' p q : Nat} (h : lo ≤ lo') (k : hi ≤ hi') (e : p ≤ q) : within lo hi p ≤ within lo' hi' q := by
  unfold within; omega

/-- A free function of n binary places answers one of the 2^n values from its base. -/
theorem climb_range (id n base lo hi key : Nat) : base ≤ climb id n base lo hi key ∧ climb id n base lo hi key < base + 2 ^ n := by
  induction n generalizing base lo hi with
  | zero => simp [climb]
  | succ n ih =>
    unfold climb
    simp only
    split
    · have := ih base lo (lo + Config.split id (base + 2 ^ n) % (hi + 2 - lo) - 1)
      rw [Nat.pow_succ]; omega
    · have := ih (base + 2 ^ n) (lo + Config.split id (base + 2 ^ n) % (hi + 2 - lo)) hi
      rw [Nat.pow_succ]; omega

/-- A free function never falls. -/
theorem climb_mono (id n base lo hi : Nat) {k l : Nat} (h : k ≤ l) : climb id n base lo hi k ≤ climb id n base lo hi l := by
  induction n generalizing base lo hi with
  | zero => simp [climb]
  | succ n ih =>
    unfold climb
    simp only
    split <;> split
    · exact ih ..
    · have := climb_range id n base lo (lo + Config.split id (base + 2 ^ n) % (hi + 2 - lo) - 1) k
      have := climb_range id n (base + 2 ^ n) (lo + Config.split id (base + 2 ^ n) % (hi + 2 - lo)) hi l
      omega
    · omega
    · exact ih ..

end Sys2Proof.Laws
end

