-- ==== Sys2Proof/Laws/Ops.lean ====
section
/-!
SUPPORT. What the shared operations can change: each lemma gives the result as the state with the named fields replaced.
-/

namespace Sys2Proof.Machine

open Sys2Proof

/-- What every step of a fold keeps, the fold keeps. -/
theorem foldl_keeps {α β : Type} {P : α → Prop} {f : α → β → α} (l : List β) {s : α} (h0 : P s) (h : ∀ s x, P s → P (f s x)) :
    P (l.foldl f s) := by
  induction l generalizing s with
  | nil => exact h0
  | cons x t ih => exact ih (h s x h0)

/-! ### Register words and accounting (R293) -/

/-- A stored word changes a window and what is sent to the mirror. -/
theorem State.setWord_eq (s : State) (off : Nat) (v : Word) :
    ∃ a x m, s.setWord off v = { s with act := { s.act with win := a }, cwin := x, mch := m } := by
  by_cases h : chipOff off = true
  · exact ⟨s.act.win, _, _, by simp only [State.setWord, h, if_true]; rfl⟩
  · exact ⟨_, s.cwin, _, by simp only [State.setWord, h, Bool.false_eq_true, if_false]; rfl⟩

theorem State.wr2_eq (s : State) (lo hi : Fld) (v : Nat) :
    ∃ a x m, s.wr2 lo hi v = { s with act := { s.act with win := a }, cwin := x, mch := m } := by
  unfold State.wr2 State.wr
  obtain ⟨a, x, m, h⟩ := State.setWord_eq s lo.off (lo.put (s.word lo.off) v)
  rw [h]
  exact State.setWord_eq _ _ _

/-- Charging energy changes the windows, the channel to the mirror, and the part of the energy that is not yet a microjoule. -/
theorem State.accEnergy_eq (s : State) (c : Ctx) (fj : Nat) :
    ∃ a x m k, s.accEnergy c fj = { s with act := { s.act with win := a }, cwin := x, mch := m, work := k } := by
  obtain ⟨a, x, m, h⟩ := State.wr2_eq { s with work := { s.work with accFJ := s.work.accFJ.set c ((s.work.accFJ[c] + fj) % 10 ^ 9) } }
    (CTX_ACC_UJ_LO.VAL c) (CTX_ACC_UJ_HI.VAL c) _
  exact ⟨a, x, m, _, h⟩

theorem State.accHost_eq (s : State) (c : Ctx) (n : Nat) :
    ∃ a x m k, s.accHost c n = { s with act := { s.act with win := a }, cwin := x, mch := m, work := k } := by
  unfold State.accHost State.addPair
  obtain ⟨a, x, m, h⟩ := State.wr2_eq s (CTX_ACC_HOSTB_LO.VAL c) (CTX_ACC_HOSTB_HI.VAL c)
    ((s.rd2 (CTX_ACC_HOSTB_LO.VAL c) (CTX_ACC_HOSTB_HI.VAL c) + 64 * n) % 2 ^ 64)
  rw [h]
  exact State.accEnergy_eq _ _ _

theorem State.accIssue_eq (s : State) (r : HostReq) :
    ∃ a x m k, s.accIssue r = { s with act := { s.act with win := a }, cwin := x, mch := m, work := k } := by
  unfold State.accIssue
  split
  · exact State.accHost_eq _ _ _
  · exact ⟨s.act.win, s.cwin, s.mch, s.work, rfl⟩

/-! ### Host Port master (R330-R334) -/

theorem State.issueOne_eq (s : State) (r : HostReq) : ∃ h o a x m k,
    s.issueOne r = { s with host := h, out := o, act := { s.act with win := a }, cwin := x, mch := m, work := k } := by
  unfold State.issueOne
  dsimp only
  split
  · split
    · exact ⟨_, s.out, s.act.win, s.cwin, s.mch, s.work, rfl⟩
    · next t _ _ =>
      obtain ⟨a, x, m, k, h⟩ := State.accIssue_eq { s with host := { s.host with
        txns := s.host.txns ++ [{ tag := t, req := r, got := [], orphan := false }] } } r
      exact ⟨_, _, a, x, m, k, by rw [h]; rfl⟩
  · exact ⟨_, s.out, s.act.win, s.cwin, s.mch, s.work, rfl⟩

/-- Issuing changes the Host Port, what the block drives, and the accounts. -/
theorem State.issue_fold {β : Type} (g : β → HostReq) (l : List β) (s : State) : ∃ h o a x m k,
    l.foldl (fun (s : State) (x : β) => s.issueOne (g x)) s =
      { s with host := h, out := o, act := { s.act with win := a }, cwin := x, mch := m, work := k } := by
  refine foldl_keeps (P := fun t => ∃ h o a x m k,
    t = { s with host := h, out := o, act := { s.act with win := a }, cwin := x, mch := m, work := k }) l
    ⟨s.host, s.out, s.act.win, s.cwin, s.mch, s.work, rfl⟩ ?_
  rintro _ y ⟨h, o, a, x, m, k, rfl⟩
  exact State.issueOne_eq _ _

theorem State.issueAll_eq (s : State) : ∃ h o a x m k,
    s.issueAll = { s with host := h, out := o, act := { s.act with win := a }, cwin := x, mch := m, work := k } :=
  State.issue_fold id _ { s with host := { s.host with queue := [] } }

theorem State.hostRead_eq (s : State) (why : Purpose) (addr len : Nat) : ∃ h o a x m k,
    s.hostRead why addr len = { s with host := h, out := o, act := { s.act with win := a }, cwin := x, mch := m, work := k } :=
  State.issue_fold (fun x : Nat × Nat => ⟨why, false, x.1, x.2, []⟩) _ s

theorem State.hostWrite_eq (s : State) (why : Purpose) (addr : Nat) (bytes : List Byte) : ∃ h o a x m k,
    s.hostWrite why addr bytes = { s with host := h, out := o, act := { s.act with win := a }, cwin := x, mch := m, work := k } :=
  State.issue_fold (fun x : Nat × Nat => ⟨why, true, x.1, x.2, slice bytes (x.1 - addr) x.2⟩) _ s

/-! ### References to Cistern buffers (R169-R171) -/

/-- Releasing a reference changes the lists of the Cistern, not its bytes. -/
theorem State.release_eq (s : State) (h : Nat) :
    ∃ b d f, s.release h = { s with cist := { s.cist with bufs := b, dup := d, freed := f } } := by
  unfold State.release
  split
  · exact ⟨s.cist.bufs, _, s.cist.freed, rfl⟩
  · split
    · exact ⟨_, s.cist.dup, _, rfl⟩
    · exact ⟨_, s.cist.dup, s.cist.freed, rfl⟩

theorem State.releaseAll_eq (s : State) (hs : List Nat) :
    ∃ b d f, s.releaseAll hs = { s with cist := { s.cist with bufs := b, dup := d, freed := f } } := by
  refine foldl_keeps (P := fun t => ∃ b d f, t = { s with cist := { s.cist with bufs := b, dup := d, freed := f } }) hs
    ⟨s.cist.bufs, s.cist.dup, s.cist.freed, rfl⟩ ?_
  rintro _ x ⟨b, d, f, rfl⟩
  exact State.release_eq _ _

@[simp] theorem State.releaseAll_word (s : State) (hs : List Nat) (off : Nat) : (s.releaseAll hs).word off = s.word off := by
  obtain ⟨b, d, f, h⟩ := State.releaseAll_eq s hs
  rw [h]; rfl

/-! ### Links and routes (R184-R187, R310) -/

theorem State.modLink_eq (s : State) (l : LinkId) (f : Link → Link) :
    ∃ p w m, s.modLink l f = { s with ports := p, wells := w, mch := m } := by
  cases l
  · exact ⟨_, s.wells, s.mch, rfl⟩
  · exact ⟨s.ports, _, s.mch, rfl⟩
  · exact ⟨s.ports, s.wells, _, rfl⟩

theorem State.enqueueOn_port_eq (s : State) (p : Port) (pkt : Pkt) (sub : Nat) (release : List Nat) (mask : Nat) :
    ∃ q, s.enqueueOn (.port p) pkt sub release mask = { s with ports := q } := ⟨_, rfl⟩

theorem State.enqueueOn_well_eq (s : State) (w : WellNo) (pkt : Pkt) (sub : Nat) (release : List Nat) (mask : Nat) :
    ∃ q, s.enqueueOn (.well w) pkt sub release mask = { s with wells := q } := ⟨_, rfl⟩

/-- A packet given to the routes lands here, joins the queue of a port, or waits for a change of route. -/
theorem State.sendRaw_eq (s : State) (t : TxPkt) :
    ∃ l p r, (s.sendRaw t).1 = { s with landed := l, ports := p, routeWait := r } := by
  unfold State.sendRaw
  dsimp only
  split
  · exact ⟨_, s.ports, s.routeWait, rfl⟩
  · split
    · exact ⟨s.landed, s.ports, s.routeWait, rfl⟩
    · split
      · exact ⟨s.landed, s.ports, _, rfl⟩
      · exact ⟨s.landed, _, s.routeWait, rfl⟩

/-- A copy of an abort notice lands, joins a queue, waits, or is discarded with event 0x0705 (R186). -/
theorem State.sendNotice_eq (s : State) (p : Pkt) : ∃ l q r v e a m,
    s.sendNotice p = { s with landed := l, ports := q, routeWait := r, evq := v, evr := e, act := { s.act with win := a }, mch := m } := by
  unfold State.sendNotice
  obtain ⟨l, q, r, h⟩ := State.sendRaw_eq s ⟨p, 0, []⟩
  generalize s.sendRaw ⟨p, 0, []⟩ = x at h
  obtain ⟨x1, x2⟩ := x
  simp only at h
  subst h
  split
  · next s1 heq =>
    cases heq
    obtain ⟨v, e, a, m, hr⟩ := State.raise_eq { s with landed := l, ports := q, routeWait := r } 0x0705 2 [(dstOf p).val, ptypeOf p] none 0 0
    exact ⟨l, q, r, v, e, a, m, hr⟩
  · next heq =>
    cases heq
    exact ⟨l, q, r, s.evq, s.evr, s.act.win, s.mch, rfl⟩

/-- An abort notice changes the landed packets, the ports, the packets that wait for a route and those held for a master; without a route,
what an event changes. -/
theorem State.abortTo_eq (s : State) (src dsts : Nat) (c : Ctx) (seq : Word) (att cause detail : Nat) : ∃ l q r v e a m k,
    s.abortTo src dsts c seq att cause detail =
      { s with landed := l, ports := q, routeWait := r, evq := v, evr := e, act := { s.act with win := a }, mch := m, tick := k } := by
  unfold State.abortTo
  dsimp only
  generalize hl : bitsSet 64 _ = ds
  have key : ∀ f : Nat → Pkt, ∃ l q r v e a m, ds.foldl (fun (s : State) (d : Nat) => s.sendNotice (f d)) s =
      { s with landed := l, ports := q, routeWait := r, evq := v, evr := e, act := { s.act with win := a }, mch := m } := by
    intro f
    refine foldl_keeps (P := fun t => ∃ l q r v e a m,
      t = { s with landed := l, ports := q, routeWait := r, evq := v, evr := e, act := { s.act with win := a }, mch := m }) _
      ⟨s.landed, s.ports, s.routeWait, s.evq, s.evr, s.act.win, s.mch, rfl⟩ ?_
    rintro _ d ⟨l, q, r, v, e, a, m, rfl⟩
    exact State.sendNotice_eq _ _
  split
  · obtain ⟨l, q, r, v, e, a, m, h⟩ := key _
    exact ⟨l, q, r, v, e, a, m, s.tick, h⟩
  · obtain ⟨l, q, r, v, e, a, m, h⟩ := key _
    exact ⟨l, q, r, v, e, a, m, _, by rw [h]⟩

theorem State.sendAbort_eq (s : State) (c : Ctx) (seq : Word) (att cause detail : Nat) : ∃ l q r v e a m k,
    s.sendAbort c seq att cause detail =
      { s with landed := l, ports := q, routeWait := r, evq := v, evr := e, act := { s.act with win := a }, mch := m, tick := k } := by
  unfold State.sendAbort
  dsimp only
  split
  · exact ⟨s.landed, s.ports, s.routeWait, s.evq, s.evr, s.act.win, s.mch, s.tick, rfl⟩
  · exact State.abortTo_eq _ _ _ _ _ _ _ _

theorem State.noticeAs_eq (s : State) (n : Option (Chip × Chip)) (c : Ctx) (seq : Word) (att cause detail : Nat) : ∃ l q r v e a m k,
    s.noticeAs n c seq att cause detail =
      { s with landed := l, ports := q, routeWait := r, evq := v, evr := e, act := { s.act with win := a }, mch := m, tick := k } := by
  unfold State.noticeAs
  split
  · exact State.sendAbort_eq _ _ _ _ _ _
  · exact State.abortTo_eq _ _ _ _ _ _ _ _

theorem State.routeAbort_eq (s : State) (p : Pkt) : ∃ l q r v e a m k,
    s.routeAbort p =
      { s with landed := l, ports := q, routeWait := r, evq := v, evr := e, act := { s.act with win := a }, mch := m, tick := k } :=
  State.noticeAs_eq s _ _ _ _ _ _

/-- Sending a packet changes the landed packets, the ports and the packets that wait for a route; without a route, what event 0x0705, the
abort notices and the released references change too. -/
theorem State.send_eq (s : State) (pkt : Pkt) (release : List Nat) (sub : Nat) : ∃ l q r v e a m k b d f,
    s.send pkt release sub =
      { s with landed := l, ports := q, routeWait := r, evq := v, evr := e, act := { s.act with win := a }, mch := m, tick := k
               cist := { s.cist with bufs := b, dup := d, freed := f } } := by
  unfold State.send
  obtain ⟨l, q, r, h⟩ := State.sendRaw_eq s ⟨pkt, sub, release⟩
  generalize s.sendRaw ⟨pkt, sub, release⟩ = x at h
  obtain ⟨x1, x2⟩ := x
  simp only at h
  subst h
  split
  · next s1 heq =>
    cases heq
    dsimp only
    obtain ⟨b, d, f, hc⟩ := State.releaseAll_eq { s with landed := l, ports := q, routeWait := r } release
    rw [hc]
    obtain ⟨v, e, a, m, hr⟩ := State.raise_eq
      { s with landed := l, ports := q, routeWait := r, cist := { s.cist with bufs := b, dup := d, freed := f } }
      0x0705 2 [(dstOf pkt).val, ptypeOf pkt] none 0 0
    rw [hr]
    split
    · obtain ⟨l', q', r', v', e', a', m', k', ha⟩ := State.routeAbort_eq { s with
          landed := l, ports := q, routeWait := r, cist := { s.cist with bufs := b, dup := d, freed := f }
          evq := v, evr := e, act := { s.act with win := a }, mch := m } pkt
      exact ⟨l', q', r', v', e', a', m', k', b, d, f, ha⟩
    · exact ⟨l, q, r, v, e, a, m, s.tick, b, d, f, rfl⟩
  · next heq =>
    cases heq
    exact ⟨l, q, r, s.evq, s.evr, s.act.win, s.mch, s.tick, s.cist.bufs, s.cist.dup, s.cist.freed, rfl⟩

theorem State.sendWell_eq (s : State) (w : WellNo) (pkt : Pkt) (release : List Nat) : ∃ x b d f,
    s.sendWell w pkt release = { s with wells := x, cist := { s.cist with bufs := b, dup := d, freed := f } } := by
  unfold State.sendWell
  split
  · obtain ⟨b, d, f, h⟩ := State.releaseAll_eq s release
    exact ⟨s.wells, b, d, f, h⟩
  · exact ⟨_, s.cist.bufs, s.cist.dup, s.cist.freed, rfl⟩

/-- A control message reaches the master by the routes, or is held until the master is known (R443). -/
theorem State.sendMaster_eq (s : State) (ptype : Nat) (c : Ctx) (seq : Word) (att w1 : Nat) : ∃ l q r v e a m k b d f,
    s.sendMaster ptype c seq att w1 =
      { s with landed := l, ports := q, routeWait := r, evq := v, evr := e, act := { s.act with win := a }, mch := m, tick := k
               cist := { s.cist with bufs := b, dup := d, freed := f } } := by
  unfold State.sendMaster
  dsimp only
  split
  · exact ⟨_, s.ports, s.routeWait, s.evq, s.evr, s.act.win, s.mch, s.tick, s.cist.bufs, s.cist.dup, s.cist.freed, rfl⟩
  · split
    · exact State.send_eq _ _ _ _
    · exact ⟨s.landed, s.ports, s.routeWait, s.evq, s.evr, s.act.win, s.mch, _, s.cist.bufs, s.cist.dup, s.cist.freed, rfl⟩

/-! ### Landed packets (R184) -/

theorem State.freeHold_eq (s : State) (h : Option (LinkId × Fin 8 × Nat)) :
    ∃ p w m, s.freeHold h = { s with ports := p, wells := w, mch := m } := by
  unfold State.freeHold
  split
  · split <;> exact State.modLink_eq _ _ _
  · exact ⟨s.ports, s.wells, s.mch, rfl⟩

/-- Taking a landed packet changes the landed packets, the credits of the link it came by, and the references it brought. -/
theorem State.takeLanded_eq (s : State) (pkt : Pkt) : ∃ l p w m b d f, s.takeLanded pkt =
    { s with landed := l, ports := p, wells := w, mch := m, cist := { s.cist with bufs := b, dup := d, freed := f } } := by
  have key : ∃ l, (s.takeRaw pkt).1 = { s with landed := l } := by
    unfold State.takeRaw
    split
    · exact ⟨_, rfl⟩
    · exact ⟨s.landed, rfl⟩
  obtain ⟨l, hl⟩ := key
  unfold State.takeLanded State.takeWith
  dsimp only
  rw [hl]
  obtain ⟨p, w, m, h⟩ := State.freeHold_eq { s with landed := l } (s.holdOf pkt)
  rw [h]
  obtain ⟨b, d, f, hr⟩ := State.releaseAll_eq { s with landed := l, ports := p, wells := w, mch := m } (s.takeRaw pkt).2
  exact ⟨l, p, w, m, b, d, f, hr⟩

@[simp] theorem State.takeLanded_word (s : State) (pkt : Pkt) (off : Nat) : (s.takeLanded pkt).word off = s.word off := by
  obtain ⟨l, p, w, m, b, d, f, h⟩ := State.takeLanded_eq s pkt
  rw [h]; rfl

end Sys2Proof.Machine
end

