-- ==== Sys2Proof/Laws/Memory.lean ====
section
/-!
SUPPORT. Every operation over memory and registers keeps the canonical form, and the memories of the state after reset have it.
-/

namespace Sys2Proof.Machine

open Sys2Proof

theorem State.memWf_iff (s : State) :
    s.memWf = true ↔ swf (resetWord s.build) s.act.win = true ∧ swf (resetWord s.build) s.mir.win = true ∧
      swf (resetWord s.build) s.cwin = true ∧ swf tblDefault s.act.table = true ∧ swf tblDefault s.mir.table = true ∧
      swf zeroByte s.act.router = true ∧ swf zeroByte s.mir.router = true ∧ swf zeroByte s.cist.data = true ∧
      swf nvByte s.nvm = true ∧ swf noFlip s.act.tableFlips = true ∧ swf noFlip s.mir.tableFlips = true ∧
      swf noFlip s.act.routerFlips = true ∧ swf noFlip s.mir.routerFlips = true ∧
      ∀ w : WellNo, swf zeroByte s.wells[w].stack = true ∧ swf noFlip s.wells[w].flips = true := by
  have key : (s.wells.toList.all fun k => Memory.wf zeroByte k.stack && swf noFlip k.flips) = true ↔
      ∀ w : WellNo, swf zeroByte s.wells[w].stack = true ∧ swf noFlip s.wells[w].flips = true := by
    simp only [List.all_eq_true, Bool.and_eq_true, Memory.wf]
    refine ⟨fun h w => h _ (by simp [Vector.mem_toList_iff]), fun h k hk => ?_⟩
    obtain ⟨i, hi, rfl⟩ := Vector.mem_iff_getElem.mp (Vector.mem_toList_iff.mp hk)
    exact h ⟨i, hi⟩
  unfold State.memWf
  rw [Bool.and_eq_true, key]
  simp only [Win.wf, Memory.wf, Bool.and_eq_true, and_assoc]

/-- After reset no memory and no register window lists an entry. -/
theorem State.reset_memories_empty :
    State.reset.act.win = [] ∧ State.reset.mir.win = [] ∧ State.reset.cwin = [] ∧ State.reset.act.table = [] ∧
      State.reset.mir.table = [] ∧ State.reset.act.router = [] ∧ State.reset.mir.router = [] ∧ State.reset.cist.data = [] ∧
      State.reset.nvm = [] ∧ State.reset.act.tableFlips = [] ∧ State.reset.mir.tableFlips = [] ∧ State.reset.act.routerFlips = [] ∧
      State.reset.mir.routerFlips = [] := ⟨rfl, rfl, rfl, rfl, rfl, rfl, rfl, rfl, rfl, rfl, rfl, rfl, rfl⟩

/-- The stacks of the state after reset have the canonical form. -/
theorem State.reset_stacks_wf : ∀ w : WellNo, swf zeroByte State.reset.wells[w].stack = true ∧ swf noFlip State.reset.wells[w].flips = true := by
  intro w
  have h : State.reset.wells[w] = Well.fresh := by
    have : State.reset.wells = Vector.replicate 24 Well.fresh := rfl
    simp [this]
  rw [h]; exact ⟨swf_nil _, swf_nil _⟩

/-! ### Registers -/

theorem State.setWord_memWf {s : State} (off : Nat) (v : Word) (h : s.memWf = true) : (s.setWord off v).memWf = true := by
  rw [State.memWf_iff] at h ⊢
  obtain ⟨h1, h2, h3, h4⟩ := h
  by_cases hc : chipOff off = true
  · simp only [State.setWord, hc, if_true]
    exact ⟨h1, h2, swf_sput _ _ h3, h4⟩
  · simp only [State.setWord, hc, Bool.false_eq_true, if_false]
    exact ⟨swf_sput _ _ h1, h2, h3, h4⟩

theorem State.wr_memWf {s : State} (f : Fld) (v : Nat) (h : s.memWf = true) : (s.wr f v).memWf = true := State.setWord_memWf _ _ h
theorem State.bumpBy_memWf {s : State} (f : Fld) (n : Nat) (h : s.memWf = true) : (s.bumpBy f n).memWf = true := State.wr_memWf _ _ h
theorem State.bump_memWf {s : State} (f : Fld) (h : s.memWf = true) : (s.bump f).memWf = true := State.wr_memWf _ _ h
theorem State.wr2_memWf {s : State} (lo hi : Fld) (v : Nat) (h : s.memWf = true) : (s.wr2 lo hi v).memWf = true :=
  State.wr_memWf _ _ (State.wr_memWf _ _ h)
theorem State.wrIf_memWf {s : State} (f : Fld) (v : Nat) (h : s.memWf = true) : (s.wrIf f v).memWf = true := by
  unfold State.wrIf; split
  · exact h
  · exact State.wr_memWf _ _ h

/-! ### Memories and words in error -/

/-- Filtering keeps the canonical form. -/
theorem swf_filter {α : Type} [DecidableEq α] {d : Nat → α} {m : List (Nat × α)} (p : Nat × α → Bool) (h : swf d m = true) :
    swf d (m.filter p) = true := by
  simp only [swf, Bool.and_eq_true, decide_eq_true_eq, List.all_eq_true] at h ⊢
  exact ⟨h.1.filter p, fun e he => h.2 e (List.mem_filter.mp he).1⟩

theorem Flips.written_wf {fl : Flips} (a n : Nat) (h : swf noFlip fl = true) : swf noFlip (Flips.written fl a n) = true := swf_filter _ h

theorem Flips.put_wf {fl : Flips} (m : List (Nat × Byte)) (dflt : Nat → Byte) (a : Nat) (w : BitVec 80) (h : swf noFlip fl = true) :
    swf noFlip (Flips.put fl m dflt a w) = true := swf_sput _ _ h

theorem State.modWell_memWf {s : State} (w : WellNo) (f : Well → Well)
    (hf : swf zeroByte (f s.wells[w]).stack = true ∧ swf noFlip (f s.wells[w]).flips = true) (h : s.memWf = true) :
    (s.modWell w f).memWf = true := by
  rw [State.memWf_iff] at h ⊢
  obtain ⟨h1, h2, h3, h4, h5, h6, h7, h8, h9, h10, h11, h12, h13, h14⟩ := h
  refine ⟨h1, h2, h3, h4, h5, h6, h7, h8, h9, h10, h11, h12, h13, fun x => ?_⟩
  by_cases hx : x = w
  · subst hx; simpa using hf
  · have : (s.modWell w f).wells[x] = s.wells[x] := by
      simp [Fin.val_ne_of_ne (Ne.symm hx)]
    rw [this]; exact h14 x

theorem State.well_wf {s : State} (h : s.memWf = true) (w : WellNo) :
    swf zeroByte s.wells[w].stack = true ∧ swf noFlip s.wells[w].flips = true :=
  ((State.memWf_iff s).mp h).2.2.2.2.2.2.2.2.2.2.2.2.2 w

theorem State.stackWrite_memWf {s : State} (w : WellNo) (a : Nat) (bs : List Byte) (h : s.memWf = true) :
    (s.stackWrite w a bs).memWf = true :=
  State.modWell_memWf w _ ⟨swf_mwrite a bs (State.well_wf h w).1, Flips.written_wf _ _ (State.well_wf h w).2⟩ h

theorem State.stackZero_memWf {s : State} (w : WellNo) (a n : Nat) (h : s.memWf = true) : (s.stackZero w a n).memWf = true :=
  State.modWell_memWf w _ ⟨swf_filter _ (State.well_wf h w).1, Flips.written_wf _ _ (State.well_wf h w).2⟩ h

theorem State.stackSet_memWf {s : State} (w : WellNo) (a : Nat) (v : BitVec 80) (h : s.memWf = true) :
    (s.stackSet w a v).memWf = true :=
  State.modWell_memWf w _ ⟨(State.well_wf h w).1, Flips.put_wf _ _ _ _ (State.well_wf h w).2⟩ h

theorem State.writeTable_memWf {s : State} (a : Nat) (bs : List Byte) (h : s.memWf = true) : (s.writeTable a bs).memWf = true := by
  rw [State.memWf_iff] at h ⊢
  obtain ⟨h1, h2, h3, h4, h5, h6, h7, h8, h9, h10, h11⟩ := h
  exact ⟨h1, h2, h3, swf_mwrite a bs h4, h5, h6, h7, h8, h9, Flips.written_wf _ _ h10, h11⟩

theorem State.writeRouter_memWf {s : State} (a : Nat) (bs : List Byte) (h : s.memWf = true) : (s.writeRouter a bs).memWf = true := by
  rw [State.memWf_iff] at h ⊢
  obtain ⟨h1, h2, h3, h4, h5, h6, h7, h8, h9, h10, h11, h12, h13⟩ := h
  exact ⟨h1, h2, h3, h4, h5, swf_mwrite a bs h6, h7, h8, h9, h10, h11, Flips.written_wf _ _ h12, h13⟩

theorem State.bufWrite_memWf {s : State} (k : Nat) (bs : List Byte) (h : s.memWf = true) : (s.bufWrite k bs).memWf = true := by
  rw [State.memWf_iff] at h ⊢
  obtain ⟨h1, h2, h3, h4, h5, h6, h7, h8, h9⟩ := h
  exact ⟨h1, h2, h3, h4, h5, h6, h7, swf_mwrite _ bs h8, h9⟩

/-! ### Shared operations -/

theorem State.modLink_memWf {s : State} (l : LinkId) (f : Link → Link) (h : s.memWf = true) : (s.modLink l f).memWf = true := by
  cases l with
  | port p => exact h
  | well w => exact State.modWell_memWf w (fun k => { k with link := f k.link }) (State.well_wf h w) h
  | mirror => exact h

theorem State.enqueue_memWf {s : State} (e : Event) (h : s.memWf = true) : (s.enqueue e).memWf = true := by
  unfold State.enqueue
  split
  · exact h
  · split
    · exact h
    · exact State.bump_memWf RNG_EQ_LOST.COUNT h

/-- Raising an event keeps the canonical form. -/
theorem State.raiseEv_memWf {s : State} (e : Event) (h : s.memWf = true) : (s.raiseEv e).memWf = true := by
  obtain ⟨r, hr⟩ := State.record_eq (s.enqueue e) e
  unfold State.raiseEv
  rw [hr]
  exact State.enqueue_memWf e h

theorem State.raise_memWf {s : State} (code sev : Nat) (data : List Nat) (c : Option Ctx) (seq : Word) (addr : Nat)
    (h : s.memWf = true) : (s.raise code sev data c seq addr).memWf = true := State.raiseEv_memWf _ h

theorem State.raiseFrom_memWf {s : State} (part num code sev : Nat) (data : List Nat) (c : Option Ctx) (seq : Word) (addr : Nat)
    (h : s.memWf = true) : (s.raiseFrom part num code sev data c seq addr).memWf = true := State.raiseEv_memWf _ h

theorem State.raiseHeath_memWf {s : State} (code sev : Nat) (data : List Nat) (addr : Nat) (h : s.memWf = true) :
    (s.raiseHeath code sev data addr).memWf = true := State.raiseEv_memWf _ h

theorem State.accEnergy_memWf {s : State} (c : Ctx) (fj : Nat) (h : s.memWf = true) : (s.accEnergy c fj).memWf = true :=
  State.wr2_memWf (s := { s with work := { s.work with accFJ := s.work.accFJ.set c ((s.work.accFJ[c] + fj) % 10 ^ 9) } }) _ _ _ h

theorem State.accIssue_memWf {s : State} (r : HostReq) (h : s.memWf = true) : (s.accIssue r).memWf = true := by
  unfold State.accIssue
  split
  · exact State.accEnergy_memWf _ _ (State.wr2_memWf _ _ _ h)
  · exact h

theorem State.issueOne_memWf {s : State} (r : HostReq) (h : s.memWf = true) : (s.issueOne r).memWf = true := by
  unfold State.issueOne
  dsimp only
  split
  · split
    · exact h
    · next t _ _ =>
      exact State.accIssue_memWf (s := { s with host := { s.host with
        txns := s.host.txns ++ [{ tag := t, req := r, got := [], orphan := false }] } }) r h
  · exact h

theorem State.hostRead_memWf {s : State} (why : Purpose) (addr len : Nat) (h : s.memWf = true) :
    (s.hostRead why addr len).memWf = true :=
  foldl_keeps (P := fun t : State => t.memWf = true) _ h fun _ _ ht => State.issueOne_memWf _ ht

theorem State.hostWrite_memWf {s : State} (why : Purpose) (addr : Nat) (bytes : List Byte) (h : s.memWf = true) :
    (s.hostWrite why addr bytes).memWf = true :=
  foldl_keeps (P := fun t : State => t.memWf = true) _ h fun _ _ ht => State.issueOne_memWf _ ht

theorem State.releaseAll_memWf {s : State} (hs : List Nat) (h : s.memWf = true) : (s.releaseAll hs).memWf = true := by
  obtain ⟨b, d, f, e⟩ := State.releaseAll_eq s hs
  rw [e]; exact h

theorem State.sendNotice_memWf {s : State} (p : Pkt) (h : s.memWf = true) : (s.sendNotice p).memWf = true := by
  unfold State.sendNotice
  obtain ⟨l, q, r, h1⟩ := State.sendRaw_eq s ⟨p, 0, []⟩
  generalize s.sendRaw ⟨p, 0, []⟩ = x at h1
  obtain ⟨x1, x2⟩ := x
  simp only at h1
  subst h1
  split
  · next heq => cases heq; exact State.raise_memWf _ _ _ _ _ _ h
  · next heq => cases heq; exact h

theorem State.abortTo_memWf {s : State} (src dsts : Nat) (c : Ctx) (seq : Word) (att cause detail : Nat) (h : s.memWf = true) :
    (s.abortTo src dsts c seq att cause detail).memWf = true := by
  unfold State.abortTo
  dsimp only
  split
  all_goals exact foldl_keeps (P := fun t : State => t.memWf = true) _ h fun _ _ ht => State.sendNotice_memWf _ ht

theorem State.sendAbort_memWf {s : State} (c : Ctx) (seq : Word) (att cause detail : Nat) (h : s.memWf = true) :
    (s.sendAbort c seq att cause detail).memWf = true := by
  unfold State.sendAbort
  dsimp only
  split
  · exact h
  · exact State.abortTo_memWf _ _ _ _ _ _ _ h

/-- Sending a packet keeps the canonical form. -/
theorem State.send_memWf {s : State} (pkt : Pkt) (release : List Nat) (sub : Nat) (h : s.memWf = true) :
    (s.send pkt release sub).memWf = true := by
  unfold State.send
  obtain ⟨l, p, r, h1⟩ := State.sendRaw_eq s ⟨pkt, sub, release⟩
  generalize s.sendRaw ⟨pkt, sub, release⟩ = x at h1
  obtain ⟨x1, x2⟩ := x
  simp only at h1
  subst h1
  have h' : ({ s with landed := l, ports := p, routeWait := r } : State).memWf = true := h
  split
  · next s1 heq =>
    cases heq
    dsimp only
    have h2 := State.raise_memWf 0x0705 2 [(dstOf pkt).val, ptypeOf pkt] none 0 0 (State.releaseAll_memWf release h')
    split
    · unfold State.routeAbort State.noticeAs
      split
      · exact State.sendAbort_memWf _ _ _ _ _ h2
      · exact State.abortTo_memWf _ _ _ _ _ _ _ h2
    · exact h2
  · next heq => cases heq; exact h'

theorem State.sendWell_memWf {s : State} (w : WellNo) (pkt : Pkt) (release : List Nat) (h : s.memWf = true) :
    (s.sendWell w pkt release).memWf = true := by
  unfold State.sendWell
  split
  · exact State.releaseAll_memWf _ h
  · exact State.modLink_memWf _ _ h

theorem State.sendMaster_memWf {s : State} (ptype : Nat) (c : Ctx) (seq : Word) (att w1 : Nat) (h : s.memWf = true) :
    (s.sendMaster ptype c seq att w1).memWf = true := by
  unfold State.sendMaster
  dsimp only
  split
  · exact h
  · split
    · exact State.send_memWf _ _ _ h
    · exact h

theorem State.freeHold_memWf {s : State} (x : Option (LinkId × Fin 8 × Nat)) (h : s.memWf = true) : (s.freeHold x).memWf = true := by
  unfold State.freeHold
  split
  · split <;> exact State.modLink_memWf _ _ h
  · exact h

theorem State.takeLanded_memWf {s : State} (pkt : Pkt) (h : s.memWf = true) : (s.takeLanded pkt).memWf = true := by
  unfold State.takeLanded State.takeWith
  dsimp only
  refine State.releaseAll_memWf _ (State.freeHold_memWf _ ?_)
  unfold State.takeRaw
  split <;> exact h

end Sys2Proof.Machine
end

