-- ==== Sys2Proof/Tests/Slice0.lean ====
section
/-!
SUPPORT. Tests: ill-formed commands that the check refuses, and for every statement states and operands that meet its hypotheses,
with what the command then does. The expected values are read from the rules of the spec.
-/

namespace Sys2Proof.Tests

open Sys2Proof Sys2Proof.Machine

set_option Elab.async false

/-! ### Helpers -/

/-- A chip with an active Hub and no bypass. -/
def up : State := { State.reset with active := true, intBypass := false, out := [] }

/-- The hypotheses hold, and the command answers a next state with the property. -/
def run (i : Instr) (s : State) (hyp : Bool) (post : State → Bool) : Bool :=
  hyp && match exec i s with
    | .next t => post t
    | _ => false

/-- An event of the code waits. -/
def ev (code : Nat) (t : State) : Bool := t.evq.waiting.any fun e => e.code == code

/-- `Counted`, as a test. -/
def cnt (s t : State) (f : Fld) (n : Nat) : Bool := decide (t.rd f = min (2 ^ f.len - 1) (s.rd f + n))

/-- A step control packet (R192) or another packet: PTYPE, context, ATT, source, destination, SEQ, words 1 to 3, body. -/
def pk (t : Nat) (c : Ctx) (att src dst : Nat) (seq : Word) (w1 w2 w3 : Nat) (body : List Byte) : Pkt :=
  { w0 := mkW0 t c att false src dst seq, w1 := BitVec.ofNat 64 w1, w2 := BitVec.ofNat 64 w2, w3 := BitVec.ofNat 64 w3, body := body }

/-- A packet that has landed. -/
def lands (p : Pkt) (s : State) : State := s.landHere p

/-- A step: SEQ, OPCODE, NTOK, state. -/
def stp (seq op ntok : Nat) (x : StepState) : Step :=
  { desc := BitVec.ofNat 1024 (op + seq * 2 ^ 32 + ntok * 2 ^ 96), index := 0, state := x, checked := true, finished := false, replays := 0,
    launched := true, firstLaunch := 0, launch := 0, bank := 0, fetchE := 0, swapped := false, slot := 0, hostPlaced := [], shares := [], mapSkip := 0, beaconSent := false,
    errAborted := false, status := 0, detail := 0, complete := false, endTick := 0, dropped := 0, spilled := 0, echo := [],
    nanTokens := 0, unseeded := 0, renormSkip := 0, renormFirst := 0, rmsNf := 0, rmsFirst := 0, noRouter := false, gainUnit := none,
    recTick := none, recOut := false, recErrs := 0 }

/-- An attempt with nothing done yet. -/
def attm (seq : Word) : Attempt :=
  { seq := seq, att := 0, toks := [], nextWin := 0, used := [], shUsed := [], wused := [], hused := [], drops := 0, spills := 0, sendq := [],
    filled := [], eodSent := [], nanTokens := 0, unseeded := 0, renormSkip := 0, renormFirst := 0, ledgerPend := 0,
    ledWait := [], wellDone := [], absentSent := false, rmsNf := [], ledHead := [] }

/-- Steps of a context put in place. -/
def withSteps (c : Ctx) (l : List Step) (s : State) : State := s.setSteps c l

/-- An attempt of a context put in place. -/
def withAtt (c : Ctx) (a : Attempt) (s : State) : State := { s with work := { s.work with att := s.work.att.set c (some a) } }

/-- A Well in service with its link up. -/
def withWell (w : WellNo) (s : State) : State := s.modWell w fun k => { k with linkUp := true, inService := true }

/-- A port in a state. -/
def withPort (p : Port) (st : Nat) (s : State) : State := s.wr (PMP_LNK_STATUS.STATE p) st

/-! ### Tick -/

theorem test_tck_run_set : run (.tckRunSet 0x1) up (decide (up.hubUp = true ∧ up.rd TCK_CTRL.RUN = 0 ∧ TCK_CTRL.RUN.get (0x1 : Word) = 1))
    (fun t => decide (t.rd TCK_CTRL.RUN = 1 ∧ t.tick.first = true ∧ t.tick.set = none ∧ t.tick.master = none ∧
      t.tick.due = if t.rd TCK_CTRL.SRC = 0 then some (up.now + t.rd TCK_PERIOD.PERIOD_US * usUnits) else none)) = true := by
  decide +kernel

/-- A running follower (SRC = 1). -/
def follower : State := (up.wr TCK_CTRL.RUN 1).wr TCK_CTRL.SRC 1

/-- A running master by its own time base (SRC = 0). -/
def master : State := (up.wr TCK_CTRL.RUN 1).wr TCK_CTRL.SRC 0

theorem test_tck_run_clear : run (.tckRunClear (TCK_CTRL.RUN.put (follower.word TCK_CTRL.reg) 0)) follower
    (decide (follower.hubUp = true ∧ follower.rd TCK_CTRL.RUN = 1)) (fun t => decide (t.rd TCK_CTRL.RUN = 0 ∧ t.tick.set = none)) = true := by
  decide +kernel

theorem test_tck_run_clear_master : run (.tckRunClear (TCK_CTRL.RUN.put (master.word TCK_CTRL.reg) 0)) master
    (decide (master.hubUp = true ∧ master.rd TCK_CTRL.RUN = 1)) (fun t => decide (t.rd TCK_CTRL.RUN = 0 ∧ t.tick.stop = true)) = true := by
  decide +kernel

theorem test_tck_period : run (.tckPeriodWrite 1) up (up.busUp 0) (fun t => decide (t.rd TCK_PERIOD.PERIOD_US = 2)) = true := by decide +kernel

/-- A master of a context whose set has chip 0. -/
def asked : State := master.wr (TCK_CTXSET_LO.CHIPS 2) 1

/-- A master by TICK_IN (SRC = 2), which has seen an edge at 1,000,000. -/
def edged : State :=
  let s : State := (up.wr TCK_CTRL.RUN 1).wr TCK_CTRL.SRC 2
  { (s.wr TCK_PERIOD.CUR_US 16) with tick := { s.tick with edge := some 1000000 } }

theorem test_tick_in_first : run (.tickInEdge 5) { edged with tick := { edged.tick with edge := none } } edged.tickInMaster
    (fun t => decide (t.tick.edge = some 5 ∧ t.tick.due = some (5 + edged.effLead) ∧ t.tick.holdover = false)) = true := by decide +kernel

theorem test_tick_in_window : run (.tickInEdge 1027200) edged
    (decide (edged.tickInMaster = true ∧ 1000000 + edged.rd TCK_PERIOD.CUR_US * 1600 ≤ 1027200 + edged.rd TCK_PERIOD.CUR_US * 100 ∧
      1027200 ≤ 1000000 + edged.rd TCK_PERIOD.CUR_US * 1600 + edged.rd TCK_PERIOD.CUR_US * 100))
    (fun t => decide (t.tick.edge = some 1027200 ∧ t.tick.due = some (1027200 + edged.effLead))) = true := by decide +kernel

theorem test_tick_in_outside : run (.tickInEdge 1027201) edged edged.tickInMaster (fun t => decide (t.tick = edged.tick)) = true := by
  decide +kernel

theorem test_tick_in_holdover : run .tickInHoldover edged (decide (edged.tick.due = none ∧ edged.tick.set = none))
    (fun t => decide (t.tick.edge = some (1000000 + 16 * 1600) ∧ t.tick.holdover = true) && cnt edged t TCK_HOLD_CNT.COUNT 1) = true := by
  decide +kernel

/-- A master whose set for a tick is due. -/
def dueNow : State := { master with tick := { master.tick with due := some 25600 } }

theorem test_master_emission : run .masterEmission dueNow (dueNow.emissionDue == some 25600)
    (fun t => match t.tick.set with
      | some (x, d) => decide (d = 25600 ∧ setTick x = (dueNow.tickNow + 1) % 2 ^ 48 ∧ setStop x = dueNow.tick.stop ∧ setHops x = 0 ∧
          setPath x = 0 ∧ t.tick.beats = [] ∧ t.tick.wdAbort = [])
      | none => false) = true := by decide +kernel

/-- A master with a running step from which no beat has come. -/
def silent : State :=
  let s : State := dueNow.wr TCK_WD.ENABLE 1
  { s with tick := { s.tick with running := s.tick.running.set 3 (some { seq := 7, launch := 1, atts := [(0, 0)], late := false }) } }

theorem test_tick_watchdog : run .tickWatchdog silent
    (decide (silent.emissionDue = some 25600 ∧ silent.rd TCK_WD.ENABLE = 1) &&
      !silent.allDone 3 { seq := 7, launch := 1, atts := [(0, 0)], late := false })
    (fun t => t.tick.wdAbort.contains 3) = true := by decide +kernel

theorem test_tick_watchdog_off : run .tickWatchdog (silent.wr TCK_WD.ENABLE 0)
    (decide ((silent.wr TCK_WD.ENABLE 0).emissionDue = some 25600 ∧ (silent.wr TCK_WD.ENABLE 0).rd TCK_WD.ENABLE = 0))
    (fun t => decide (t = silent.wr TCK_WD.ENABLE 0)) = true := by decide +kernel

/-- A follower with a set accepted for instant 30,000. -/
def accepted : State := { follower with tick := { follower.tick with set := some (0x1, 30000) } }

theorem test_local_tick : run .localTick accepted (accepted.hubUp)
    (fun t => decide (t.tick.set = none ∧ t.tick.first = false ∧ t.tick.lastFire = 30000)) = true := by decide +kernel

/-- A follower past its expected tick. -/
def late : State := { follower.wr TCK_PERIOD.CUR_US 16 with tick := { follower.tick with first := false, lastFire := 10 }, now := 10 }

theorem test_follower_holdover : run .followerHoldover late late.holdoverDue.isSome
    (fun t => decide (some t.tick.lastFire = late.holdoverDue ∧ late.now ≤ t.now)) = true := by decide +kernel

theorem test_starved_test : run .starvedTest { up with cist := { up.cist with starved := [2] } } up.hubUp (fun t => decide (t.cist.starved = [])) = true := by
  decide +kernel

/-- A follower whose parent port is port 1, in UP. -/
def child : State := withPort 1 3 ((follower.wr TCK_TREE.PARENT_V 1).wr TCK_TREE.PARENT 1)

theorem test_tick_set_twice : run (.tickOrderedSet 1 false 0x5 99) { child with tick := { child.tick with seen := some (setTick 0x5) } }
    (decide (child.leadUp = true ∧ child.hubUp = true ∧ child.intBypass = false ∧ child.portState 1 = 3 ∧ child.isMaster = false ∧
      child.rd TCK_TREE.PARENT_V = 1 ∧ child.rd TCK_TREE.PARENT = 1))
    (fun t => decide (t.now = 99 ∧ t.tick.set = none)) = true := by decide +kernel

theorem test_tick_set_accepted : run (.tickOrderedSet 1 false 0x5 99) child
    (decide (child.tick.seen ≠ some (setTick 0x5) ∧ child.rd TCK_CTRL.RUN = 1 ∧ child.tick.set = none ∧ child.hop 1 ≤ setFire 0x5))
    (fun t => decide (t.tick.seen = some (setTick 0x5) ∧ t.tick.set = some (0x5, 99 + setFire 0x5 - child.hop 1) ∧
      t.tick.master = some ⟨setMaster 0x5 % 64, Nat.mod_lt _ (by decide)⟩)) = true := by decide +kernel

theorem test_tick_set_not_running : run (.tickOrderedSet 1 false 0x5 99) (child.wr TCK_CTRL.RUN 0)
    (decide ((child.wr TCK_CTRL.RUN 0).rd TCK_CTRL.RUN = 0))
    (fun t => decide (t.tick.seen = some (setTick 0x5) ∧ t.tick.set = none ∧ t.rd TCK_STATUS.PATH = min 0xFFF ((setPath 0x5 * 625 + child.rd (PMP_LNK_LAT.PS 1) + 9999) / 10000) ∧
      t.rd TCK_STATUS.HOPS = setHops 0x5)) = true := by decide +kernel

theorem test_tick_set_at_master : run (.tickSetAtMaster 0 0x5) master (decide (master.isMaster = true ∧ master.leadUp = true))
    (fun t => ev 0x0201 t && decide (t.tick = master.tick)) = true := by decide +kernel

/-- Its parent port has been calibrated. -/
def calibrated : State := (child.wr TCK_STATUS.ALIGNED 1).modPort 1 fun x => { x with lat := some 5000, calAt := 7 }

theorem test_calibration_stale : run .calibrationStale calibrated (decide (calibrated.parentPort = some 1 ∧ calibrated.staleNews 1 = true))
    (fun t => ev 0x0203 t && decide (t.rd TCK_STATUS.ALIGNED = 0)) = true := by decide +kernel

theorem test_calibration_stale_told : run .calibrationStale { calibrated with tick := { calibrated.tick with staleCal := some (1, 7) } }
    (decide (({ calibrated with tick := { calibrated.tick with staleCal := some (1, 7) } } : State).staleNews 1 = false))
    (fun t => decide (t = { calibrated with tick := { calibrated.tick with staleCal := some (1, 7) } })) = true := by decide +kernel

theorem test_ready_report : run (.readyReport (pk 8 2 0 0 0 5 0 0 0 [])) asked
    (decide (asked.landCheck (pk 8 2 0 0 0 5 0 0 0 []) = none ∧ ctlBad (pk 8 2 0 0 0 5 0 0 0 []) = false ∧
      (asked.ctxSet 2).testBit 0 = true))
    (fun t => decide (t.tick.reports = [{ chip := 0, ctx := 2, seq := 5, att := 0 }])) = true := by decide +kernel

theorem test_progress_beacon : run (.progressBeacon (pk 9 2 0 0 0 5 0 0 0 [])) asked (decide (ctlBad (pk 9 2 0 0 0 5 0 0 0 []) = false))
    (fun t => decide (t.tick.beats = [{ chip := 0, ctx := 2, seq := 5, att := 0 }])) = true := by decide +kernel

theorem test_local_done : run (.localDone (pk 10 2 0 0 0 5 0 0 0 [])) asked (decide (ctlBad (pk 10 2 0 0 0 5 0 0 0 []) = false))
    (fun t => decide (t.tick.dones = [{ chip := 0, ctx := 2, seq := 5, att := 0 }] ∧ t.tick.beats = t.tick.dones)) = true := by decide +kernel

/-- A follower with a running step of context 2. -/
def running : State := withAtt 2 (attm 5) (withSteps 2 [stp 5 0 0 .running] follower)

/-- Its local conditions hold: its homes are complete and told so. -/
def ended : State :=
  { withAtt 2 { attm 5 with eodSent := running.homesOf 2 } running with
    work := { (withAtt 2 { attm 5 with eodSent := running.homesOf 2 } running).work with
      homes := [{ home := hostPath 0, ctx := 2, seq := 5, att := 0, eods := [], landed := [], tops := [], complete := true }] } }

theorem test_abort_notice : run (.abortNotice (pk 11 2 0 0 0 5 0x21 0 0 [])) running
    (decide (running.landCheck (pk 11 2 0 0 0 5 0x21 0 0 []) = none ∧ ctlBad (pk 11 2 0 0 0 5 0x21 0 0 []) = false ∧ running.isMaster = false) &&
      (running.liveStep 2).isSome && running.current (pk 11 2 0 0 0 5 0x21 0 0 []) == running.liveStep 2)
    (fun t => (t.steps 2).all fun x => x.seq != 5 || !x.live) = true := by decide +kernel

theorem test_local_finish : run (.localFinish 2) ended
    (ended.finishes 2 (stp 5 0 0 .running) { attm 5 with eodSent := running.homesOf 2 } && decide (ended.liveStep 2 = some (stp 5 0 0 .running)))
    (fun t => (t.steps 2).any fun x => x.seq == 5 && x.finished) = true := by decide +kernel

theorem test_notice_after_commit : run (.abortNotice (pk 11 2 0 0 0 5 0x21 0 0 [])) (withSteps 2 [stp 5 0 0 .committed] follower)
    (decide ((withSteps 2 [stp 5 0 0 .committed] follower).current (pk 11 2 0 0 0 5 0x21 0 0 []) = none))
    (fun t => cnt follower t RAS_LATE_NOTICE_CNT.COUNT 1 && decide (t.evq = follower.evq ∧ t.steps 2 = [stp 5 0 0 .committed])) = true := by
  decide +kernel

/-! ### Rings -/

/-- Context 3 with its ring enabled, tail and head at 0. -/
def ringed : State := up.wr (RNG_CTX_CTRL.ENABLE 3) 1

theorem test_doorbell_disabled : run (.doorbell 3 5) up (decide (up.rd (RNG_CTX_CTRL.ENABLE 3) = 0))
    (fun t => ev 0x0302 t && decide (t.rd (RNG_DOORBELL.TAIL 3) = 0)) = true := by decide +kernel

theorem test_doorbell_accepted : run (.doorbell 3 64) ringed
    (decide (dist32 64 (ringed.rd (RNG_DOORBELL.TAIL 3)) < 2 ^ 31 ∧
      dist32 64 (ringed.rd (RNG_SQ_HEAD.INDEX 3)) ≤ 2 ^ ringed.rd (RNG_CTX_CTRL.SQ_LOG2 3)))
    (fun t => decide (t.rd (RNG_DOORBELL.TAIL 3) = 64)) = true := by decide +kernel

theorem test_doorbell_frozen : run (.doorbell 3 65) ringed
    (decide (2 ^ ringed.rd (RNG_CTX_CTRL.SQ_LOG2 3) < dist32 65 (ringed.rd (RNG_SQ_HEAD.INDEX 3))))
    (fun t => decide (t.ringFrozen 3 = true ∧ t.rd (RNG_DOORBELL.TAIL 3) = 0)) = true := by decide +kernel

/-- Producers ahead of their consumers: the completion ring of context 3 by 2, the event ring by 3. -/
def produced : State := (ringed.wr (RNG_CQ_TAIL.INDEX 3) 2).wr RNG_EQ_TAIL.INDEX 3

theorem test_cq_head : run (.cqHeadWrite 3 2) produced (headOk 2 (produced.rd (RNG_CQ_HEAD.INDEX 3)) (produced.rd (RNG_CQ_TAIL.INDEX 3)))
    (fun t => decide (t.rd (RNG_CQ_HEAD.INDEX 3) = 2)) = true := by decide +kernel

theorem test_cq_head_bad : run (.cqHeadWrite 3 3) produced (!headOk 3 (produced.rd (RNG_CQ_HEAD.INDEX 3)) (produced.rd (RNG_CQ_TAIL.INDEX 3)))
    (fun t => ev 0x0303 t && decide (t.rd (RNG_CQ_HEAD.INDEX 3) = 0)) = true := by decide +kernel

theorem test_eq_head : run (.eqHeadWrite 3) produced (headOk 3 (produced.rd RNG_EQ_HEAD.INDEX) (produced.rd RNG_EQ_TAIL.INDEX))
    (fun t => decide (t.rd RNG_EQ_HEAD.INDEX = 3)) = true := by decide +kernel

theorem test_eq_head_bad : run (.eqHeadWrite 4) produced (!headOk 4 (produced.rd RNG_EQ_HEAD.INDEX) (produced.rd RNG_EQ_TAIL.INDEX))
    (fun t => ev 0x0303 t && decide (t.rd RNG_EQ_HEAD.INDEX = 0)) = true := by decide +kernel

theorem test_ctx_ring_enable : run (.ctxRingEnable 3 ((RNG_CTX_CTRL.ENABLE 3).put (up.word (RNG_CTX_CTRL.reg 3)) 1)) (up.wr (RNG_SQ_HEAD.INDEX 3) 9)
    (decide ((RNG_CTX_CTRL.ENABLE 3).get ((RNG_CTX_CTRL.ENABLE 3).put (up.word (RNG_CTX_CTRL.reg 3)) 1) = 1))
    (fun t => decide (t.rd (RNG_CTX_CTRL.ENABLE 3) = 1 ∧ t.rd (RNG_DOORBELL.TAIL 3) = 0 ∧ t.rd (RNG_SQ_HEAD.INDEX 3) = 0 ∧
      t.rd (RNG_CQ_TAIL.INDEX 3) = 0 ∧ t.rd (RNG_CQ_HEAD.INDEX 3) = 0)) = true := by decide +kernel

theorem test_ctx_ring_disable : run (.ctxRingDisable 3 0) ringed (decide (ringed.steps 3 = []))
    (fun t => decide (t.rd (RNG_CTX_CTRL.ENABLE 3) = 0)) = true := by decide +kernel

theorem test_ctx_ring_disable_busy : run (.ctxRingDisable 3 0) (withSteps 3 [stp 0 0 0 .ready] ringed) true
    (fun t => ev 0x0304 t && decide (t.rd (RNG_CTX_CTRL.ENABLE 3) = 1)) = true := by decide +kernel

theorem test_eq_enable : run (.eqEnable (RNG_EQ_CTRL.ENABLE.put (up.word RNG_EQ_CTRL.reg) 1)) (up.wr RNG_EQ_TAIL.INDEX 3)
    (decide (up.rd RNG_EQ_CTRL.ENABLE = 0))
    (fun t => decide (t.rd RNG_EQ_CTRL.ENABLE = 1 ∧ t.rd RNG_EQ_TAIL.INDEX = 0 ∧ t.rd RNG_EQ_HEAD.INDEX = 0)) = true := by decide +kernel

theorem test_descriptor_fetch : run (.descriptorFetch 3) (ringed.wr (RNG_DOORBELL.TAIL 3) 1) ((ringed.wr (RNG_DOORBELL.TAIL 3) 1).mayFetch 3)
    (fun t => t.busyFor (Purpose.isDescriptor 3)) = true := by decide +kernel

/-- A fetched descriptor that has not been checked. -/
def fetchedStep : Step := { stp 0 3 0 .fetched with checked := false, desc := BitVec.ofNat 1024 3 }

theorem test_descriptor_rejected : run (.descriptorCheck 3) (withSteps 3 [fetchedStep] ringed)
    (decide ((withSteps 3 [fetchedStep] ringed).unchecked 3 = some fetchedStep ∧
      (withSteps 3 [fetchedStep] ringed).checkStep 3 fetchedStep ≠ none))
    (fun t => (t.unchecked 3).isNone && (t.steps 3).any fun x => x.seq == 0 && x.state == .fetched && x.checked &&
      ((withSteps 3 [fetchedStep] ringed).checkStep 3 fetchedStep == some (x.detail, x.status))) = true := by decide +kernel

/-- A SAMPLE descriptor without tokens that passes its checks: INMODE 2, NVOC 1, TEMP 1.0. -/
def sampleStep : Step :=
  { stp 0 3 0 .fetched with checked := false, desc := BitVec.ofNat 1024 (0x203 + 2 ^ 512 + 0x3F80 * 2 ^ 544) }

/-- Context 3 with a template, one layer and a vocabulary of one entry, and the descriptor fetched. -/
def sampled : State :=
  withSteps 3 [sampleStep] (((ringed.wr (CTX_STATUS.TPL_V 3) 1).wr (CTX_PLAN1.LAYERS 3) 1).wr (CTX_PLAN1.MAX_VOCAB 3) 1)

theorem test_descriptor_accepted : run (.descriptorCheck 3) sampled
    (decide (sampled.unchecked 3 = some sampleStep ∧ sampled.checkStep 3 sampleStep = none ∧
      ((sampled.steps 3).any fun x => x.state == .ready) = false))
    (fun t => (t.unchecked 3).isNone && decide (t.rd (RNG_NEXT_SEQ.SEQ 3) = 1) &&
      (t.steps 3).any fun x => x.seq == 0 && x.state == .ready) = true := by decide +kernel

theorem test_reject_retire : run (.rejectRetire 3) (withSteps 3 [{ stp 0 0 0 .fetched with status := 2 }] ringed)
    (decide (ringed.writesDone 3 0 = true ∧ ringed.eventsPending 3 0 = false ∧ ringed.cqRoom 3 0 = true))
    (fun t => t.busyFor (Purpose.isCompletion 3) && (t.steps 3).any fun x => x.recOut) = true := by decide +kernel

theorem test_completion_record : run (.completionRecordWrite 3) (withSteps 3 [stp 0 0 0 .committed] ringed)
    (decide (ringed.writesDone 3 0 = true ∧ ringed.eventsPending 3 0 = false ∧ ringed.cqRoom 3 0 = true))
    (fun t => t.busyFor (Purpose.isCompletion 3) && (t.steps 3).any fun x => x.recOut) = true := by decide +kernel

/-- The record of a completion is out, under tag 0. -/
def recordOut : State :=
  let s : State := withSteps 3 [{ stp 0 0 0 .committed with recOut := true }] ringed
  { s with host := { s.host with txns := [{ tag := 0, req := ⟨.completion 3 0, true, 0, 32, []⟩, got := [], orphan := false }] } }

theorem test_completion_response : run (.completionWriteResponse 3 0) recordOut (recordOut.txnOf (Purpose.isCompletion 3)).isSome
    (fun t => decide (t.rd (RNG_CQ_TAIL.INDEX 3) = 1 ∧ t.steps 3 = [])) = true := by decide +kernel

/-- An event that waits. -/
def evt : Event := { code := 0x0302, sev := 1, ctx := none, seq := 0, tick := 0, source := 0, addr := 0, data := [] }

/-- One event waits; the event ring is enabled. -/
def evWaits : State := { up.wr RNG_EQ_CTRL.ENABLE 1 with evq := { waiting := [evt], inflight := none, lost := 0 } }

theorem test_event_record : run .eventRecordWrite evWaits
    (decide (dist32 (evWaits.rd RNG_EQ_TAIL.INDEX) (evWaits.rd RNG_EQ_HEAD.INDEX) < 2 ^ evWaits.rd RNG_EQ_CTRL.LOG2))
    (fun t => decide (t.evq.waiting = [] ∧ t.evq.inflight = some (evt, 0) ∧ t.busyFor Purpose.isEvent = true)) = true := by decide +kernel

theorem test_event_lost : run .eventRecordWrite (evWaits.wr RNG_EQ_CTRL.ENABLE 0) (decide ((evWaits.wr RNG_EQ_CTRL.ENABLE 0).rd RNG_EQ_CTRL.ENABLE = 0))
    (fun t => decide (t.evq = { waiting := [], inflight := none, lost := 1 }) && cnt evWaits t RNG_EQ_LOST.COUNT 1) = true := by decide +kernel

/-- An event record is out, under tag 0. -/
def evOut (n : Nat) : State :=
  { evWaits with
    evq := { waiting := [], inflight := some (evt, n), lost := 0 }
    host := { evWaits.host with txns := [{ tag := 0, req := ⟨.event, true, 0, 64, []⟩, got := [], orphan := false }] } }

theorem test_event_response : run (.eventWriteResponse 0) (evOut 0) ((evOut 0).txnOf Purpose.isEvent).isSome
    (fun t => decide (t.evq.inflight = none ∧ t.rd RNG_EQ_TAIL.INDEX = 1)) = true := by decide +kernel

theorem test_event_response_bad : run (.eventWriteResponse 1) (evOut 0) ((evOut 0).txnOf Purpose.isEvent).isSome
    (fun t => decide (t.evq.inflight = some (evt, 1))) = true := by decide +kernel

theorem test_event_response_twice : run (.eventWriteResponse 1) (evOut 1) ((evOut 1).txnOf Purpose.isEvent).isSome
    (fun t => decide (t.evq.inflight = none)) = true := by decide +kernel

/-! ### Tables, templates, noise -/

/-- A load word: GO, KIND, context 3, LAYER 0. -/
def loadWord (k : Nat) : Word := RTE_LOAD_CTRL.GO.put (RTE_LOAD_CTRL.KIND.put (RTE_LOAD_CTRL.CTX.put 0 3) k) 1

/-- LEN is 1. -/
def len1 : State := up.wr RTE_LOAD_ARG.LEN 1

theorem test_load_home : run (.loadHomeTable (loadWord 0)) len1
    (decide (RTE_LOAD_CTRL.GO.get (loadWord 0) = 1 ∧ RTE_LOAD_CTRL.KIND.get (loadWord 0) = 0 ∧ RTE_LOAD_CTRL.CTX.get (loadWord 0) = 3 ∧
      len1.loadRefusal 3 0 0 1 (len1.rd RTE_LOAD_ARG.DEST) = 0))
    (fun t => decide (t.rd RTE_LOAD_STATUS.BUSY = 1 ∧ t.rd (RTE_SET_STATUS.SHADOW 3) = 1 ∧ t.busyFor Purpose.isTable = true) &&
      t.work.load.any fun l => l.ctx == 3 && l.kind == 0 && l.len == 32768) = true := by decide +kernel

theorem test_load_layer : run (.loadLayerEntries (loadWord 1)) len1 (decide (len1.loadRefusal 3 1 0 1 0 = 0))
    (fun t => decide (t.rd RTE_LOAD_STATUS.BUSY = 1 ∧ t.busyFor Purpose.isTable = true) && t.work.load.any fun l => l.kind == 1 && l.len == 64) =
      true := by decide +kernel

theorem test_load_rows_refused : run (.loadRouterRows (loadWord 2)) len1 (decide (len1.loadRefusal 3 2 0 1 0 = 2))
    (fun t => ev 0x0401 t && decide (t.work.load = none)) = true := by decide +kernel

theorem test_load_rows : run (.loadRouterRows (loadWord 2)) (len1.wr (RTE_CTX_CFG.ALLOT_SIZE 3) 1)
    (decide ((len1.wr (RTE_CTX_CFG.ALLOT_SIZE 3) 1).loadRefusal 3 2 0 1 0 = 0))
    (fun t => t.work.load.any fun l => l.kind == 2 && l.len == 64) = true := by decide +kernel

theorem test_load_copy : run (.copyActiveSet (loadWord 3)) len1 (decide (len1.loadRefusal 3 3 0 1 0 = 0))
    (fun t => decide (t.rd (RTE_SET_STATUS.SHADOW 3) = 1) && t.work.load.any fun l => l.kind == 3 && l.len == 0) = true := by decide +kernel

/-- A load of layer entries with all its bytes, or with an error. -/
def loaded (err : Nat) : State :=
  { (up.wr (RTE_SET_STATUS.SHADOW 3) 1).wr RTE_LOAD_STATUS.BUSY 1 with
    work := { up.work with load := some { ctx := 3, kind := 1, dest := 0, len := 64, got := [(0, List.replicate 64 0)], err := err } } }

theorem test_load_end : run .loadEnd (loaded 0) (decide ((loaded 0).mch.mstate = .out))
    (fun t => decide (t.work.load = none ∧ t.rd RTE_LOAD_CTRL.GO = 0 ∧ t.rd RTE_LOAD_STATUS.BUSY = 0 ∧ t.rd (RTE_SET_STATUS.SHADOW 3) = 0 ∧
      t.rd RTE_LOAD_STATUS.DONE = 1)) = true := by decide +kernel

theorem test_load_end_error : run .loadEnd (loaded 4) true
    (fun t => ev 0x0401 t && decide (t.work.load = none ∧ t.rd (RTE_SET_STATUS.SHADOW 3) = 0)) = true := by decide +kernel

theorem test_arm_late : run (.arm 3) up (decide (up.swapTick 3 ≤ up.tickNow))
    (fun t => ev 0x0402 t && decide (t.rd (RTE_SET_STATUS.ERR 3) = 8 ∧ t.rd (RTE_SET_STATUS.SHADOW 3) = 0)) = true := by decide +kernel

/-- A shadow that loads, with a swap tick to come. -/
def armBusy : State := (up.wr2 (RTE_SWAP_TICK_LO.TICK 3) (RTE_SWAP_TICK_HI.TICK 3) 5).wr (RTE_SET_STATUS.SHADOW 3) 1

theorem test_arm_busy : run (.arm 3) armBusy (decide (armBusy.tickNow < armBusy.swapTick 3 ∧ armBusy.rd (RTE_SET_STATUS.SHADOW 3) ≠ 0))
    (fun t => ev 0x0402 t && decide (t.rd (RTE_SET_STATUS.ERR 3) = 9 ∧ t.rd (RTE_SET_STATUS.SHADOW 3) = 1)) = true := by decide +kernel

theorem test_disarm : run (.disarm 3) (up.wr (RTE_SET_STATUS.SHADOW 3) 2) true (fun t => decide (t.rd (RTE_SET_STATUS.SHADOW 3) = 0)) = true := by
  decide +kernel

theorem test_disarm_open : run (.disarm 3) up (decide (up.rd (RTE_SET_STATUS.SHADOW 3) ≠ 2)) (fun t => decide (t = up)) = true := by decide +kernel

theorem test_reseed : run (.reseed (NSE_CTRL.RESEED.put 0 1)) up (decide (NSE_CTRL.RESEED.get (NSE_CTRL.RESEED.put (0 : Word) 1) = 1))
    (fun t => decide (t.rd NSE_CTRL.RESEED = 1 ∧ t.act.seeding = some (NSE_CTRL.SRC.get (0 : Word) == 0))) = true := by decide +kernel

theorem test_seeding_done : run (.seedingDone (List.replicate 128 7) true) up (up.act.seeding == some true)
    (fun t => decide (t.act.seeding = none ∧ t.rd NSE_CTRL.RESEED = 0 ∧ t.rd NSE_STATUS.SEEDED = 1 ∧ t.rd NSE_STATUS.HEALTH_FAIL = 0 ∧
      t.act.lanes.head? = some 7)) = true := by decide +kernel

theorem test_seeding_fails : run (.seedingDone [] false) up (up.act.seeding == some true)
    (fun t => ev 0x1001 t && decide (t.act.seeding = none ∧ t.rd NSE_STATUS.HEALTH_FAIL = 1)) = true := by decide +kernel

/-- A reseed from software. -/
def softSeeding : State := { up with act := { up.act with seeding := some false } }

theorem test_soft_seed_zero : run (.seedingDone [] true) softSeeding (decide (softSeeding.softSeed = 0))
    (fun t => ev 0x1001 t && decide (t.act.seeding = none)) = true := by decide +kernel

theorem test_soft_seed : run (.seedingDone [] true) (softSeeding.wr (NSE_SEED.SEED 0) 9) (decide ((softSeeding.wr (NSE_SEED.SEED 0) 9).softSeed = 9))
    (fun t => decide (t.rd NSE_STATUS.SEEDED = 1 ∧ t.act.lanes.head? = some 9)) = true := by decide +kernel

theorem test_cst_enable : run (.cstEnable (CST_CTRL.ENABLE.put 0 1)) ((up.wr CST_CTRL.ENABLE 0).wr (CST_POOL_COUNT.COUNT 0) 2)
    (decide (((up.wr CST_CTRL.ENABLE 0).wr (CST_POOL_COUNT.COUNT 0) 2).cistBadPool = none))
    (fun t => decide (t.rd CST_CTRL.ENABLE = 1 ∧ t.cist.cfgErr = false)) = true := by decide +kernel

/-- Pools 0 and 1 of one size (R164). -/
def samePools : State := (((up.wr CST_CTRL.ENABLE 0).wr (CST_POOL_COUNT.COUNT 0) 2).wr (CST_POOL_COUNT.COUNT 1) 2).wr (CST_POOL_CFG.SIZE_KIB 1) 2

theorem test_cst_enable_bad : run (.cstEnable (CST_CTRL.ENABLE.put 0 1)) samePools (samePools.cistBadPool == some 1)
    (fun t => ev 0x0605 t && decide (t.rd CST_CTRL.ENABLE = 0 ∧ t.cist.cfgErr = true)) = true := by decide +kernel

theorem test_cst_disable : run (.cstEnable 0) (up.wr CST_CTRL.ENABLE 1) true (fun t => decide (t.rd CST_CTRL.ENABLE = 0)) = true := by
  decide +kernel

/-- The Cistern enabled with a pool of two buffers, one of them in use. -/
def cist1 : State :=
  { ((up.wr CST_CTRL.ENABLE 0).wr (CST_POOL_COUNT.COUNT 0) 2).wr CST_CTRL.ENABLE 1 with cist := { up.cist with bufs := [{ handle := 1, who := 3, count := 1, kib := 4 }] } }

theorem test_cst_disable_busy : run (.cstEnable 0) cist1 (!(List.range 4).all fun p => cist1.poolFree p == cist1.poolCount p)
    (fun t => ev 0x0601 t && decide (t.rd CST_CTRL.ENABLE = 1)) = true := by decide +kernel

/-- A template word: GO, context 3, LEN 1. -/
def tplWord (n : Nat) : Word := CTX_TPL_CTRL.GO.put (CTX_TPL_CTRL.CTX.put (CTX_TPL_CTRL.LEN.put 0 n) 3) 1

theorem test_template_load : run (.templateLoad (tplWord 1)) up
    (decide (CTX_TPL_CTRL.GO.get (tplWord 1) = 1 ∧ CTX_TPL_CTRL.CTX.get (tplWord 1) = 3 ∧ up.tplRefusal 3 1 = 0))
    (fun t => decide (t.rd CTX_TPL_STATUS.BUSY = 1 ∧ t.rd (CTX_STATUS.TPL_V 3) = 0 ∧ t.busyFor Purpose.isTemplate = true) &&
      t.work.tload.any fun l => l.ctx == 3 && l.len == 64) = true := by decide +kernel

theorem test_template_refused : run (.templateLoad (tplWord 257)) up (decide (up.tplRefusal 3 257 = 2))
    (fun t => ev 0x0B02 t && decide (t.work.tload = none ∧ t.rd CTX_TPL_STATUS.ERR = 2)) = true := by decide +kernel

/-- The image of R280 with 48 bytes of zeros behind its header: MAJOR 3, LEN 1, CRC. -/
def image : List Byte := toBytes 4 (3 + 1 * 65536) ++ toBytes 4 (crc32c (List.replicate 48 0)).toNat ++ List.replicate 56 0

/-- A template load of context 3 with all its bytes. -/
def tplGot (l : List Byte) (err : Bool) : State :=
  { up with work := { up.work with tload := some { ctx := 3, len := 64, got := [(0, l)], err := err } } }

theorem test_template_end : run .templateLoadEnd (tplGot image false) ((tplGot image false).tplOk (imageOf 64 [(0, image)]))
    (fun t => decide (t.work.tload = none ∧ t.rd (CTX_STATUS.TPL_V 3) = 1 ∧ t.act.core.tpl[3] = image)) = true := by decide +kernel

theorem test_template_end_bad : run .templateLoadEnd (tplGot (image.set 0 2) false) (!(tplGot image false).tplOk (image.set 0 2))
    (fun t => ev 0x0B02 t && decide (t.work.tload = none ∧ t.rd (CTX_STATUS.TPL_V 3) = 0)) = true := by decide +kernel

theorem blank_home (s : State) (ht : s.act.table = []) (hf : s.act.tableFlips = []) (x : Nat) (hx : x < 16384) : s.home 3 1 x = 0xFFFF := by
  have h1 : (688128 + 2 * x) % 98304 < 32768 := by omega
  have h2 : (688128 + 2 * x + 1) % 98304 < 32768 := by omega
  simp [State.home, eccRead, Flips.within, ht, hf, mread, sget, tblDefault, tblBase, ofBytes, h1, h2]

theorem blank_armFault (s : State) (ht : s.act.table = []) (hg : s.act.tableFlips = []) (hb : 1 - s.activeBank 3 = 1) (hl : s.rd (CTX_PLAN1.LAYERS (3 : Ctx).val) = 0)
    (h8 : ¬ s.swapTick 3 ≤ s.tickNow) (h9 : s.rd (RTE_SET_STATUS.SHADOW 3) = 0) : s.armFault 3 = none := by
  have hu : ∀ x, x < 16384 → (s.home 3 1 x != 65535) = false := fun x hx => by simp [blank_home s ht hg x hx]
  have hf : ∀ (n : Nat) (p : Nat → Bool), n ≤ 16384 →
      (List.range n).filter (fun x => (s.home 3 1 x != 65535) && p x) = [] := fun n p hn =>
    List.filter_eq_nil_iff.2 fun x hx => by simp [hu x (Nat.lt_of_lt_of_le (List.mem_range.1 hx) hn)]
  have hn : ∀ (n : Nat) (p : Nat → Bool), n ≤ 16384 →
      (List.range n).find? (fun x => (s.home 3 1 x != 65535) && p x) = none := fun n p hn =>
    List.find?_eq_none.2 fun x hx => by simp [hu x (Nat.lt_of_lt_of_le (List.mem_range.1 hx) hn)]
  have hd : (List.range 64).find? (fun d => decide
      (2048 < ((List.range 16384).filter fun x => (s.home 3 1 x != 65535) && homeChip (s.home 3 1 x) == d).length)) = none :=
    List.find?_eq_none.2 fun d _ => by rw [hf 16384 _ (Nat.le_refl _)]; decide
  have hz : (List.range (s.rd (CTX_PLAN1.LAYERS (3 : Ctx).val))).find? (fun l => (s.layerFault 3 1 l).isSome) = none := by rw [hl]; rfl
  unfold State.armFault
  rw [if_neg h8, if_neg (fun h => h h9), hb]
  unfold State.shadowFault
  dsimp only
  rw [hn 16384 _ (Nat.le_refl _)]
  dsimp only
  rw [hd]
  dsimp only
  rw [hz]

/-- Context 3 with the swap tick 5 and blank tables. -/
def armUp : State := up.wr2 (RTE_SWAP_TICK_LO.TICK 3) (RTE_SWAP_TICK_HI.TICK 3) 5

theorem test_arm : armUp.hubUp = true ∧ armUp.armFault 3 = none :=
  ⟨by decide +kernel, blank_armFault armUp (by decide +kernel) (by decide +kernel) (by decide +kernel) (by decide +kernel) (by decide +kernel)
    (by decide +kernel)⟩
/-! ### Admission, dispatch, tiles, return -/

/-- A token that has its row and its selection. -/
def tok0 : Token :=
  { t := 0, row := [(0, List.replicate 512 0)], noise := [], logits := [], mcast := false, selected := true, copies := [], gmax := 0, gsum := 0, rfact := 0,
    handle := none, emitted := false }

/-- Context 3 with a width of 256, a step of sequence number 7 RUNNING and its attempt. -/
def live (op ntok : Nat) : State :=
  withAtt 3 { attm 7 with toks := [tok0] } (withSteps 3 [stp 7 op ntok .running] (up.wr (RTE_CTX_CFG.HIDW 3) 1))

/-- A step of one token whose opcode is not a forward one: its row needs no noise and no placement. -/
def win : State := live 2 1

theorem test_window : run (.admissionWindow 3) win
    (((win.liveStep 3).any fun st => (win.window 3 st { attm 7 with toks := [tok0] }).isSome && (win.mapCheck 3 st).isNone &&
      ((win.mapRead 3 st).touchSram 2 (tblBase 3 st.bank) 32768 3).2) &&
      (chooseCtx win.work.admDef win.windowReady win.work.admCtx win.visitGain).any fun x => x.1 == 3)
    (fun t => (t.work.att[(3 : Ctx)]).any fun b => b.nextWin == 2 ^ min 11 (win.rd (ADM_CTX_CFG.AWIN 3))) = true := by decide +kernel

/-- Stage asks for the buffer of a token. -/
def landReq : CstReq := { who := 3, bytes := 512, why := .stage 3 0, waited := false, counted := false }

/-- The Cistern enabled, with a waiting request. -/
def granting : State :=
  let s : State := up.wr CST_CTRL.ENABLE 1
  { s with cist := { s.cist with waits := [landReq] } }

theorem test_grant : run (.cisternGrant 0) granting
    (granting.nextGrant == some landReq && (granting.takeBuf 3 512 (granting.grantCount landReq.why) 0).isSome)
    (fun t => decide (t.cist.last = 3)) = true := by decide +kernel

/-- Two queues, one of context 3. -/
def queued : State :=
  { up with work := { up.work with queues := [⟨3, 7, 0, 5, [], 0⟩, ⟨4, 7, 0, 5, [], 0⟩] } }

theorem test_flush : run (.queueFlush (PMP_Q_CTRL.FLUSH.put (PMP_Q_CTRL.CTX.put 0 3) 1)) queued true
    (fun t => decide (t.rd PMP_Q_CTRL.FLUSH = 0) && t.work.queues.length == 1) = true := by decide +kernel

/-- A copy for a slot of chip 0: expert 5, rank 1, token 0, bucket 0, weight 1. -/
def copyTo (slot : Nat) (body : List Byte) : Pkt :=
  pk 1 3 0 0 0 7 (slot * 32 + 5 * 2 ^ 16 + 2 ^ 30) (2 ^ 32) 0 body

/-- A full payload. -/
def full (s : State) (p : Pkt) : List Byte := List.replicate (payloadLen (fmtOf p) (s.hid 3)) 0

theorem test_dispatch_stale : run (.dispatch (copyTo 24 [])) (lands (copyTo 24 []) up)
    (decide ((lands (copyTo 24 []) up).landCheck (copyTo 24 []) = none ∧ (lands (copyTo 24 []) up).current (copyTo 24 []) = none))
    (fun t => cnt up t PMP_STALE_CNT.COUNT 1) = true := by decide +kernel

theorem test_dispatch_malformed : run (.dispatch (copyTo 24 [])) (lands (copyTo 24 []) (live 1 1))
    ((live 1 1).malformed (copyTo 24 []) && decide ((live 1 1).landCheck (copyTo 24 []) = none))
    (fun t => ev 0x0704 t && cnt up t PMP_COUNT_ERR_CNT.COUNT 1) = true := by decide +kernel

/-- The copy for the host path, whole. -/
def hostCopy : Pkt := copyTo 24 (full (live 1 1) (copyTo 24 []))

theorem test_dispatch_host : run (.dispatch hostCopy) (lands hostCopy (live 1 1))
    (!(live 1 1).malformed hostCopy && homeSlot (dDest hostCopy) == 24 &&
      !((live 1 1).hostHome 3 7 0).headerBad 0 5 0 false && (live 1 1).hostRoom hostCopy && !(lands hostCopy (live 1 1)).heldBack hostCopy)
    (fun t => t.cist.waits.any fun r => r.why == .land hostCopy) = true := by decide +kernel

/-- An attempt open at a Well. -/
def openAt (op : Nat) : WellOpen :=
  { ctx := 3, seq := 7, att := 0, opcode := op, bank := 0, layer := 0, fwdSeq := 0, recs := [], grads := 0, gover := 0, gnext := 0,
    index := none, homeSent := false, finSent := false }

/-- Well 2 in service, with the attempt open. -/
def wellUp : State := withWell 2 (({ live 1 1 with wells := (live 1 1).wells.set 2 { (live 1 1).wells[2] with opens := [openAt 1] } }))

/-- The copy for Well 2, whole. -/
def wellCopy : Pkt := copyTo 2 (full (live 1 1) (copyTo 2 []))

theorem test_dispatch_well : run (.dispatch wellCopy) (lands wellCopy wellUp)
    (!wellUp.malformed wellCopy && wellUp.homeWell (dDest wellCopy) == some 2 && !wellUp.wellFrozen 2 &&
      (wellUp.wellOpen 2 3 7 0).isSome && wellUp.landRoom 2 3 && queueRoom wellUp.wells[2].queues 256 3 7 0 5 0)
    (fun t => t.wells[2].queues.any fun q => q.expert == 5 && q.entries.any fun x => x.token == 0 && x.rank == 1 && x.weight == 1) =
      true := by decide +kernel

theorem test_dispatch_ready : ((lands wellCopy wellUp).wells.toList.all fun k => k.rx == [] && k.queues.all fun q => q.entries != []) = true ∧
    ((lands wellCopy wellUp).work.queues.all fun q => q.entries != []) = true ∧ (lands wellCopy wellUp).heldBack wellCopy = false := by
  decide +kernel

/-- An EOD with no expert for a slot of chip 0. -/
def eodTo (slot : Nat) : Pkt := pk 5 3 0 0 0 7 (slot * 32 * 2 ^ 20) 0 0 []

theorem test_eod_host : run (.eod (eodTo 24)) (lands (eodTo 24) (live 1 1))
    (!(live 1 1).malformed (eodTo 24) && decide (homeSlot (eDest (eodTo 24)) = 24) && ((live 1 1).hostHome 3 7 0).eod 0 == none &&
      !((live 1 1).hostHome 3 7 0).eodBad (eodOf (eodTo 24)) 0)
    (fun t => t.work.homes.any fun r => r.home == hostPath up.chip && r.eods.contains (eodOf (eodTo 24))) = true := by decide +kernel

theorem test_eod_well : run (.eod (eodTo 2)) (lands (eodTo 2) wellUp)
    (!wellUp.malformed (eodTo 2) && wellUp.homeWell (eDest (eodTo 2)) == some 2 && !wellUp.wellFrozen 2)
    (fun t => t.wells[2].homes.any fun r => r.eods.contains (eodOf (eodTo 2))) = true := by decide +kernel

/-- A returned row of ranks, with its body. -/
def backPkt (ranks : Nat) (body : List Byte) : Pkt := pk 3 3 0 0 0 7 (0 * 2 ^ 22) ranks 0x3F800000 body

theorem test_return_stale : run (.returnPacket (backPkt 1 [])) (lands (backPkt 1 []) up) true (fun t => cnt up t PMP_STALE_CNT.COUNT 1) = true := by
  decide +kernel

/-- A whole returned row. -/
def wholeBack (ranks : Nat) : Pkt := backPkt ranks (full (live 1 1) (backPkt ranks []))

theorem test_return_dup : run (.returnPacket (wholeBack 1)) (lands (wholeBack 1) (live 1 1))
    (!(live 1 1).malformed (wholeBack 1) && ((live 1 1).mead 3 0).isNone)
    (fun t => ev 0x0803 t && cnt up t CMB_DUP_CNT.COUNT 1) = true := by decide +kernel

/-- A token that expects ranks 0 and 1. -/
def meadow : State :=
  let s : State := live 1 1
  { s with work := { s.work with meadow := [{ ctx := 3, t := 0, expected := 3, added := 0, acc := List.replicate 256 0, slot := false, dws := [] }] } }

theorem test_return_adds : run (.returnPacket (wholeBack 1)) (lands (wholeBack 1) meadow)
    (!meadow.malformed (wholeBack 1) && ((meadow.mead 3 0).any fun m => m.turn 0 && meadow.slotFor m))
    (fun t => (t.mead 3 0).any fun m => m.added == 1) = true := by decide +kernel

theorem test_return_ready : (lands (wholeBack 1) meadow).heldBack (wholeBack 1) = false ∧ meadow.work.parked = [] ∧ meadow.early 3 0 = [] ∧
    meadow.arbHeld 11 = false := by decide +kernel

/-- A finished row, for normalisation. -/
def normed : State := { meadow with work := { meadow.work with norm := [(3, 0)] } }

theorem test_row_ready : normed.hubUp = true ∧ nextRow normed.work.norm = some (3, 0) ∧ (normed.mead 3 0).isSome = true ∧
    (normed.liveStep 3).isSome = true := by decide +kernel

/-- A queue entry. -/
def entry (tok : Nat) : QEntry := { handle := 1, src := 0, rank := 0, token := tok, weight := 0, layer := 0, fast := false, row := [] }

/-- A host-path queue of 128 entries, and no free choice of the slot but the first. -/
def tileQ : State :=
  let s : State := live 1 1
  { s with work := { s.work with queues := [⟨3, 7, 0, 5, List.replicate 128 (entry 0), 0⟩] } }

theorem test_issue_ready : tileQ.hubUp = true ∧ tileQ.freeSlots ≠ [] ∧ homeChip 768 = tileQ.chip ∧ homeSlot 768 = 24 ∧
    ((tileQ.liveStep 3).any fun st => (tileQ.work.queues.find? fun x => x.isFor 3 st.seq (st.replays % 8) 5).any fun q =>
      q.issuable (tileQ.hostHome 3 st.seq (st.replays % 8)) (tileQ.memberList 3)) = true := by decide +kernel

/-- Well 2 with a queue and a row that waits for a landing slot: an index fills the landing buffer. -/
def partialUp : State :=
  { wellUp with wells := wellUp.wells.set 2 { wellUp.wells[2] with
      queues := [⟨3, 7, 0, 5, [entry 0], 0⟩], rx := [⟨wellCopy, false⟩]
      opens := [openAt 1, { openAt 2 with seq := 8, index := some (2 ^ 21) }] } }

theorem test_partial : run (.partialTile 2) partialUp
    (partialUp.slotWait 2 && (partialUp.fullest 2).any fun q => (partialUp.wellOpen 2 q.ctx q.seq q.att).isSome)
    (fun t => cnt up t (WEL_PARTIAL_CNT.COUNT 2) 1) = true := by decide +kernel

/-- A tile of the tile table. -/
def tile0 (taken bwd : Bool) : Tile :=
  { slot := 0, ctx := 3, seq := 7, att := 0, expert := 5, layer := 0, bwd := bwd, bf16 := false, entries := [entry 0], released := [],
    taken := taken, dead := false, issue := 0 }

/-- A ready tile, and slice 0 running. -/
def ready (taken bwd : Bool) : State :=
  let s : State := live 1 1
  { s with work := { s.work with tiles := [tile0 taken bwd] }, host := { s.host with slices := [{ inReset := false, credits := 1, takes := [] }] } }

theorem test_take : run (.take 0 1 3) (ready false false)
    ((ready false false).sliceUp 0 && (ready false false).chooseTile 3 1 == some (tile0 false false))
    (fun t => (t.out.contains (.slaveRead (some 0) (toBytes 8 (takeWord (tile0 false false) 0).toNat) 0)) && t.work.tickets[(3 : Ctx)] == 1 &&
      t.work.tiles.all fun y => y.taken) = true := by decide +kernel

theorem test_take_empty : run (.take 0 1 4) (ready false false) (((ready false false).chooseTile 4 1).isNone)
    (fun t => cnt up t CTX_TAKE_EMPTY_CNT.COUNT 1) = true := by decide +kernel

theorem test_take_any : run (.anyContextTake 0 1) (ready false false)
    ((chooseCtx (ready false false).work.takeDef (fun c => (ready false false).readyTiles c != []) (ready false false).work.takeCtx
      (fun c => (ready false false).rd (CTX_SHARE.SHARE c))).any fun x => x.1 == 3)
    (fun t => t.work.takeCtx == some 3) = true := by decide +kernel

theorem test_take_any_empty : run (.anyContextTake 0 1) (ready true false)
    ((chooseCtx (ready true false).work.takeDef (fun c => (ready true false).readyTiles c != []) (ready true false).work.takeCtx
      (fun c => (ready true false).rd (CTX_SHARE.SHARE c))).isNone)
    (fun t => cnt up t CTX_TAKE_EMPTY_CNT.COUNT 1) = true := by decide +kernel

/-- A buffer with one reference and no tile that holds it. -/
def held : State := { up with cist := { up.cist with bufs := [{ handle := 1, who := 3, count := 1, kib := 2 }] } }

theorem test_release : run (.releaseWord 1) held (held.slaveUp && !held.badRelease 1)
    (fun t => t.cist.bufs == []) = true := by decide +kernel

theorem test_tile_weight : run (.tileWeightWrite 0 0 9) (ready true true) (((ready true true).weightSlot 0 0).isSome)
    (fun t => t.out.contains (.slaveWrite none 0) && t.work.tiles.any fun y => (y.entries[0]?.map fun e => e.weight) == some 9) = true := by
  decide +kernel

theorem test_tile_weight_none : run (.tileWeightWrite 0 1 9) (ready true true) (((ready true true).weightSlot 0 1).isNone)
    (fun t => t.out.contains (.slaveWrite none 2)) = true := by decide +kernel

theorem test_cistern_write : run (.cisternDataAccess true 0x3FFFFFE [1, 2]) up (decide (0x3FFFFFE + 2 ≤ 0x4000000))
    (fun t => mread zeroByte t.cist.data 0x3FFFFFE 2 == [1, 2] && t.out.contains (.slaveWrite none 0)) = true := by decide +kernel

theorem test_take_read : (up.slaveReadOf 0x4400080 64, (up.slaveReadOf 0x4400088 8).2) = ((List.replicate 64 0, 0), 2) := by decide +kernel

theorem test_cistern_read : run (.cisternDataAccess false 0 [0]) up true (fun t => t.out.contains (.slaveRead none [0] 0)) = true := by
  decide +kernel

theorem test_slave_error_write : run (.slaveDecodeError 0 1 0x4400000) (ready false false) ((ready false false).unassigned 1 0x4400000)
    (fun t => t.out.contains (.slaveWrite (some 0) 2) && t.out.contains (.credit 0 1)) = true := by decide +kernel

theorem test_slave_error_read : run (.slaveDecodeError 0 2 0x4400001) (ready false false) ((ready false false).unassigned 2 0x4400001)
    (fun t => t.out.contains (.slaveRead (some 0) (List.replicate 8 0) 2)) = true := by decide +kernel

theorem test_slice_ready : 0 < (ready false false).build.hpSlices ∧ ((ready false false).host.slices[0]?).isSome = true := by
  decide +kernel

theorem test_slice_release : run (.hpRstRelease 0)
    ({ up with host := { up.host with slices := [{ inReset := true, credits := 0, takes := [] }] } }) true
    (fun t => (t.host.slices[0]?.any fun x => !x.inReset && x.credits == up.build.crdInit) &&
      t.out.contains (.credit 0 up.build.crdInit)) = true := by decide +kernel

/-! ### Wells -/

/-- A packet of the Well link for the attempt of context 3. -/
def wpk (t w1 w2 : Nat) (body : List Byte) : Pkt := pk t 3 0 0 0 7 w1 w2 0 body

theorem test_step_open : run (.stepOpen 2 (wpk 0x30 1 0 [])) (withWell 2 (live 1 1))
    ((withWell 2 (live 1 1)).wellUp 2 && !(withWell 2 (live 1 1)).wellFrozen 2 && ((withWell 2 (live 1 1)).openFor 2 (wpk 0x30 1 0 [])).isNone)
    (fun t => t.wells[2].opens.any fun o => o.ctx == 3 && o.seq == 7 && o.att == 0 && o.opcode == 1) = true := by decide +kernel

/-- A Well that holds the attempt open and an entry of its activation log. -/
def logged : State :=
  { wellUp with wells := wellUp.wells.set 2 { wellUp.wells[2] with
      actlog := wellUp.wells[2].actlog.set 3 [{ seq := 7, start := 0, bytes := 64, valid := false }] } }

theorem test_step_close : run (.stepClose 2 (wpk 0x31 0 0 [])) logged ((logged.openFor 2 (wpk 0x31 0 0 [])).isSome)
    (fun t => t.wells[2].opens.isEmpty && t.wells[2].actlog[3].all fun e => e.valid) = true := by decide +kernel

/-- A row of a scoring tile that is not the last. -/
def rowPkt : Pkt := wpk 0x32 0 0 (List.replicate 512 0)

theorem test_score_row : run (.scoreRow 2 rowPkt) wellUp ((wellUp.openFor 2 rowPkt).isSome && wellUp.landRoom 2 3 && wellUp.wells[2].rx.isEmpty)
    (fun t => t.wells[2].scoring.any fun k => k.toks.any fun x => x.1 == 0) = true := by decide +kernel

/-- The landing buffer of Well 2 is full. -/
def fullWell : State :=
  { (wellUp.wr (RTE_CTX_CFG.HIDW 3) 32) with wells := wellUp.wells.set 2 { wellUp.wells[2] with
      queues := [⟨3, 7, 0, 5, List.replicate 1024 (entry 0), 0⟩] } }

theorem test_score_row_waits : run (.scoreRow 2 rowPkt) fullWell (!fullWell.landRoom 2 3 && (fullWell.openFor 2 rowPkt).isSome)
    (fun t => t.wells[2].rx == [⟨rowPkt, false⟩]) = true := by decide +kernel

theorem test_score_logits_unasked : run (.scoreLogits 2 (wpk 0x33 0 0 [])) (lands (wpk 0x33 0 0 []) wellUp)
    (wellUp.wellUp 2 && ((wellUp.liveStep 3).any fun st => (wellUp.logitsDue 2 (wpk 0x33 0 0 []) st).isNone))
    (fun t => t.wellFrozen 2) = true := by decide +kernel

/-- A layer whose router rows lie with Well 2: LOC 2, 1 expert; its token has been multicast. -/
def scoring : State :=
  let s : State := wellUp.writeTable (tblBase 3 0 + 32768)
    (toBytes 4 (2 + 1 * 65536) ++ List.replicate 24 0 ++ toBytes 4 4)
  withAtt 3 { attm 7 with toks := [{ tok0 with mcast := true, selected := false }] } s

theorem test_score_logits : run (.scoreLogits 2 (wpk 0x33 0 0 (List.replicate 4 0))) scoring
    ((scoring.liveStep 3).any fun st => (scoring.logitsDue 2 (wpk 0x33 0 0 []) st).any fun x => (x.2.rowsOf 2).isSome)
    (fun t => !t.wellFrozen 2 && (t.steps 3).any fun y => y.live && y.beaconSent) = true := by decide +kernel

theorem test_ledger_write : run (.ledgerWrite 2 (wpk 0x34 64 4 [1, 2, 3, 4])) wellUp ((wellUp.openFor 2 (wpk 0x34 64 4 [])).isSome && wellUp.wellQuiet 2 && wellUp.dramFree 2 (.ledgerWrite (wpk 0x34 64 4 [1, 2, 3, 4])) &&
      decide (Flips.within wellUp.wells[2].flips 64 4 = []))
    (fun t => t.stackRead 2 64 4 == [1, 2, 3, 4]) = true := by decide +kernel

theorem test_ledger_read : run (.ledgerRead 2 (wpk 0x35 64 4 [])) wellUp
    ((wellUp.openFor 2 (wpk 0x35 64 4 [])).isSome && wellUp.dramFree 2 (.ledgerRead (wpk 0x35 64 4 [])) && decide (Flips.within wellUp.wells[2].flips 64 4 = [] ∧ wellUp.wells[2].dram = []))
    (fun t => t.landed.any fun l => ptypeOf l.pkt == 0x36 && ctxOf l.pkt == 3 && l.pkt.body == [0, 0, 0, 0]) = true := by decide +kernel

/-- The Hub waits for 64 ledger bytes of token 0. -/
def ledWaits : State := withAtt 3 { attm 7 with toks := [tok0], ledWait := [(2, 64, 64, 0)] } wellUp

theorem test_ledger_data : run (.ledgerData 2 (wpk 0x36 64 64 (List.replicate 64 0))) ledWaits
    ((ledWaits.liveStep 3).isSome && (ledWaits.work.att[(3 : Ctx)]).any fun a => (a.ledWait.find? fun y => y.1 == 2 && y.2.1 == 64 && y.2.2.1 == 64).isSome)
    (fun t => (t.work.att[(3 : Ctx)]).any fun b => b.ledWait == []) = true := by decide +kernel

theorem test_ledger_data_unasked : run (.ledgerData 2 (wpk 0x36 64 64 [])) wellUp
    ((wellUp.work.att[(3 : Ctx)]).any fun a => a.ledWait == []) (fun t => t.wellFrozen 2) = true := by decide +kernel

theorem test_well_report : run (.wellReport 2 (wpk 0x37 2 2 [])) wellUp (wellUp.wellUp 2 && !wellUp.wellFrozen 2)
    (fun t => (t.work.att[(3 : Ctx)]).any fun b => b.wellDone.contains 2) = true := by decide +kernel

/-- Well 2 runs a tile. -/
def tileOn (x : WellWork) : State := { wellUp with wells := wellUp.wells.set 2 { wellUp.wells[2] with running := some x } }

theorem test_score_tile : run (.wellTileComplete 2 10) (tileOn (.score { ctx := 3, seq := 7, att := 0, layer := 0, toks := [] }))
    ((tileOn (.score { ctx := 3, seq := 7, att := 0, layer := 0, toks := [] })).wellUp 2 &&
      (tileOn (.score { ctx := 3, seq := 7, att := 0, layer := 0, toks := [] })).dramFree 2 (.tile 10))
    (fun t => t.landed.any fun l => ptypeOf l.pkt == 0x37 && bitsOf l.pkt.w1.toNat 0 4 == 0) = true := by decide +kernel

theorem test_expert_tile : run (.wellTileComplete 2 10)
    (tileOn (.expert { ctx := 3, seq := 7, att := 0, expert := 5, layer := 0, bwd := false, entries := [] }))
    ((tileOn (.expert { ctx := 3, seq := 7, att := 0, expert := 5, layer := 0, bwd := false, entries := [] })).dramFree 2 (.tile 10))
    (fun t => t.landed.any fun l => ptypeOf l.pkt == 0x37 && ctxOf l.pkt == 3 && bitsOf l.pkt.w1.toNat 0 4 == 0) = true := by decide +kernel

/-! ### Collectives -/

/-- Channel 2 enabled, in a state. -/
def colIn (st : Nat) : State :=
  { ((up.wr (COL_CH_CTRL.ENABLE 2) 1).wr (COL_CH_STATUS.STATE 2) st).wr (COL_CH_SEQ.SEQ 2) 9 with
    host := { up.host with slices := [{ inReset := false, credits := 1, takes := [] }] } }

/-- The start word of channel 2 with a descriptor address. -/
def startWord : DWord := BitVec.ofNat 64 (0x1000 + 2 * 4)

theorem test_col_start_word : run (.collectiveStart startWord) (colIn 1) (decide ((colIn 1).slaveUp = true ∧ (colIn 1).colState 2 = 1))
    (fun t => decide (t.colState 2 = 2 ∧ t.chan[2].addr = 0x1000 ∧ t.busyFor (Purpose.ofChan 2) = true)) = true := by decide +kernel

theorem test_col_start_busy : run (.collectiveStart startWord) (colIn 4) (decide ((colIn 4).colState 2 ≠ 1))
    (fun t => ev 0x0A01 t && decide (t.colState 2 = 4)) = true := by decide +kernel

theorem test_col_ready : run (.collectiveReady (BitVec.ofNat 64 (3 * 2 ^ 32 + 2 * 4 + 1))) (colIn 3) true
    (fun t => decide (t.rd (COL_CH_READY.READY 2) = 3)) = true := by decide +kernel

/-- A collective descriptor (R253): OP, ALG, SEQ 9, CAP 256 of 256-element chunks, member chip 0, and its four addresses. -/
def colDescW (op alg : Nat) : BitVec 512 :=
  BitVec.ofNat 512 (op + alg * 2 ^ 6 + 8 * 2 ^ 16 + 9 * 2 ^ 32 + 1 * 2 ^ 64 + 256 * 2 ^ 128 + 0x1000 * 2 ^ 192 + 0x2000 * 2 ^ 256 +
    0x3000 * 2 ^ 320 + 0x4000 * 2 ^ 384)

/-- Channel 2 with a fetched descriptor. -/
def colHas (st op alg : Nat) (f : Channel → Channel) : State :=
  (colIn st).modChan 2 fun k => f { k with desc := colDescW op alg, fetched := true }

theorem test_col_check : run (.colDescriptorCheck 2) (colHas 2 1 1 id) (((colHas 2 1 1 id).colCheck 2).isNone)
    (fun t => decide (t.colState 2 = 3 ∧ t.rd (COL_CH_SEQ.SEQ 2) = 10)) = true := by decide +kernel

theorem test_col_check_fails : run (.colDescriptorCheck 2) (colHas 2 3 1 id) ((colHas 2 3 1 id).colCheck 2 == some (2, 1))
    (fun t => ev 0x0A02 t && decide (t.rd (COL_CH_SEQ.SEQ 2) = 9)) = true := by decide +kernel

/-- A channel that waits for one buffer of 2 KiB. -/
def colWaits : State := (colHas 3 1 1 fun k => { k with need := 1, needBytes := 2048 }).wr CST_CTRL.ENABLE 1

theorem test_col_grant : run (.colReservationGrant 0) colWaits
    (colWaits.reserving == [2] && (State.takeMany 1 2048 0 (some (colWaits, []))).isSome)
    (fun t => decide (t.colState 2 = 4 ∧ t.cist.colLast = 2 ∧ t.chan[2].bufs.length = 1)) = true := by decide +kernel

/-- A channel that runs a collective, with the start word, and a packet of its attempt. -/
def colRuns (op : Nat) (f : Channel → Channel) : State := (colHas 4 op 1 f).wr (COL_CH_STATUS.ALG_USED 2) 1

/-- A packet of the collective from chip 0. -/
def colP (t : Nat) (seq : Word) (w1 : Nat) (body : List Byte) : Pkt := pk t 2 0 0 0 seq w1 0 0 body

theorem test_col_start : run (.colStart (colP 0x11 9 0 [])) (lands (colP 0x11 9 0 []) (colRuns 1 id))
    ((colRuns 1 id).colCurrent 2 (colP 0x11 9 0 []) && ((colRuns 1 id).landCheck (colP 0x11 9 0 [])).isNone)
    (fun t => t.chan[2].starts.contains 0) = true := by decide +kernel

theorem test_col_start_kept : run (.colStart (colP 0x11 9 0 [])) (lands (colP 0x11 9 0 []) (colIn 1))
    (!(colIn 1).colCurrent 2 (colP 0x11 9 0 []) && (colIn 1).keepsStart 2 (colP 0x11 9 0 []))
    (fun t => t.chan[2].kept == [colP 0x11 9 0 []]) = true := by decide +kernel

theorem test_col_data : run (.colData (colP 0x10 9 0 [])) (lands (colP 0x10 9 0 []) (colRuns 2 id))
    ((colRuns 2 id).colCurrent 2 (colP 0x10 9 0 []) && !(colRuns 2 id).chan[2].isRs && decide (0 < (colRuns 2 id).chan[2].m) &&
      decide (0 < (colRuns 2 id).chan[2].cps))
    (fun t => t.chan[2].outs.any fun o => o.1 == 0 && o.2.1 == 0) = true := by decide +kernel

theorem test_col_data_stale : run (.colData (colP 0x10 8 0 [])) (lands (colP 0x10 8 0 []) (colRuns 2 id))
    (!(colRuns 2 id).colCurrent 2 (colP 0x10 8 0 [])) (fun t => cnt up t COL_STALE_CNT.COUNT 1) = true := by decide +kernel

theorem test_col_credit : run (.colCredit (colP 0x12 9 (2 * 2 + 1) [])) (lands (colP 0x12 9 (2 * 2 + 1) []) (colRuns 2 id))
    ((colRuns 2 id).chan[2].outq.isEmpty)
    (fun t => t.chan[2].credit 0 1 == (colRuns 2 id).chan[2].credit 0 1 + 2) = true := by decide +kernel

theorem test_col_hold : run (.colHold (colP 0x13 9 0 [])) (lands (colP 0x13 9 0 []) (colRuns 2 id)) true
    (fun t => t.chan[2].heldFrom == [0]) = true := by decide +kernel

theorem test_col_fin : run (.colFin (colP 0x15 9 0 [])) (lands (colP 0x15 9 0 []) (colRuns 2 id)) true
    (fun t => t.chan[2].fins == [0]) = true := by decide +kernel

theorem test_col_abort_restart : run (.colAbort (colP 0x14 9 (2 + 1 * 16) [])) (lands (colP 0x14 9 (2 + 1 * 16) []) (colRuns 2 id))
    (decide ((colRuns 2 id).chan[2].restarts < (colRuns 2 id).rd COL_CFG.RESTART_MAX))
    (fun t => cnt up t COL_RESTART_CNT.COUNT 1 && decide (t.colState 2 = 6 ∧ t.chan[2].newAtt = 1)) = true := by decide +kernel

theorem test_col_abort_end : run (.colAbort (colP 0x14 9 4 [])) (lands (colP 0x14 9 4 []) (colRuns 2 id)) true
    (fun t => ev 0x0A03 t && t.chan[2].final == some (7, 0x20, false)) = true := by decide +kernel

theorem test_col_restart : run (.colRestartDrained 2) (colHas 6 1 1 fun k => { k with newAtt := 9 }) ((colHas 6 1 1 id).colDrained 2)
    (fun t => decide (t.colState 2 = 4 ∧ t.rd (COL_CH_STATUS.ATT 2) = 1)) = true := by decide +kernel

theorem test_col_restart_waits : run (.colRestartDrained 2) (colHas 6 1 1 fun k => { k with newAtt := 9, need := 1 })
    ((colHas 6 1 1 fun k => { k with newAtt := 9, need := 1 }).colDrained 2)
    (fun t => decide (t.colState 2 = 3 ∧ t.rd (COL_CH_STATUS.ATT 2) = 1)) = true := by decide +kernel

/-- Every output chunk is written. -/
def outsIn (k : Channel) : Channel := { k with counts := some [256], acked := [(0, 0)] }

theorem test_col_outputs : run (.colOutputsComplete 2) (colRuns 1 outsIn) ((colRuns 1 outsIn).chan[2].outsDone)
    (fun t => decide (t.colState 2 = 5 ∧ t.chan[2].finSent = true)) = true := by decide +kernel

theorem test_col_stall : run .colStallCount (colRuns 1 fun k => { k with moved := true, heldFrom := [0] }) ((colRuns 1 id).colLive 2)
    (fun t => decide (t.chan[2].moved = false ∧ t.chan[2].heldFrom = [])) = true := by decide +kernel

theorem test_col_enable : run (.colChEnable 2 1) up (decide (up.rd (COL_CH_CTRL.ENABLE 2) = 0 ∧ (COL_CH_CTRL.ENABLE 2).get 1 = 1))
    (fun t => decide (t.rd (COL_CH_CTRL.ENABLE 2) = 1 ∧ t.colState 2 = 1)) = true := by decide +kernel

theorem test_col_disable : run (.colChEnable 2 0) (colIn 1) true
    (fun t => decide (t.rd (COL_CH_CTRL.ENABLE 2) = 0 ∧ t.colState 2 = 0)) = true := by decide +kernel

theorem test_col_disable_busy : run (.colChEnable 2 0) (colIn 4) true
    (fun t => ev 0x0A06 t && decide (t.rd (COL_CH_CTRL.ENABLE 2) = 1)) = true := by decide +kernel

/-! ### Links -/

/-- Port 1 in a state. -/
def inSt (n : Nat) : State := withPort 1 n up

/-- A flit that waits on pair 2. -/
def txFlit : TxFlit :=
  { pair := 2, sop := true, eop := true, body := [7], release := [], ctx := 3, seq := 7, att := 0, ptype := 0x37, src := 0, dst := 1, mask := 2 }

/-- Port 1 UP with a link. -/
def upLink (f : Link → Link) : State := (inSt 3).modLink (.port 1) f

/-- A flit was driven on port 1 with a header. -/
def drove (h : DWord) (body : List Byte) (t : State) : Bool :=
  t.out.any fun o => match o with
    | .flit l h' b _ => l == .port 1 && h' == h && b == padTo 264 body
    | _ => false

theorem test_flit_again : run (.flitTransmit (.port 1)) (upLink fun k => { k with replay := [(5, txFlit)], resend := some 0 })
    (decide (((upLink fun k => { k with replay := [(5, txFlit)], resend := some 0 }).link (.port 1)).again = some (5, txFlit)) &&
      (inSt 3).linkOpen (.port 1) && !(inSt 3).arbHeld (linkArb (.port 1)))
    (drove (flitHead 2 true true false 5 ((inSt 3).link (.port 1))) [7]) = true := by decide +kernel

/-- A flit and a credit. -/
def offering : State := upLink fun k => { k with txq := k.txq.set 2 [txFlit], credits := k.credits.set 2 1 }

theorem test_flit_grant : run (.flitTransmit (.port 1)) offering
    (((offering.link (.port 1)).grant (offering.vcPrios (.port 1)) (offering.vcWeights (.port 1))).any fun x => x.1 == 2)
    (fun t => drove (flitHead 2 true true false 0 (offering.link (.port 1))) [7] t && (t.link (.port 1)).replay == [(0, txFlit)] &&
      (t.link (.port 1)).fseq == 1 && (t.link (.port 1)).credits[2] == 0) = true := by decide +kernel

theorem test_flit_idle : run (.flitTransmit (.port 1)) (inSt 3)
    (decide (((inSt 3).link (.port 1)).grant ((inSt 3).vcPrios (.port 1)) ((inSt 3).vcWeights (.port 1)) = none))
    (drove (flitHead 0 false false true 0 ((inSt 3).link (.port 1))) []) = true := by decide +kernel

/-- A received flit with its CRC. -/
def rxFlit (h : DWord) : Flit := { head := h, body := [], crc := flitCrc h [], bad := false, fixed := 0 }

theorem test_flit_bad : run (.flitReceive (.port 1) { rxFlit 0 with bad := true, fixed := 3 }) (inSt 3) (decide (((inSt 3).link (.port 1)).nakSent = false))
    (fun t => (t.link (.port 1)).nakDue && cnt up t (PMP_CRC_ERR_CNT.COUNT 1) 1 && cnt up t (PMP_FEC_COR_CNT.COUNT 1) 3) = true := by decide +kernel

theorem rxFlit_crc (h : DWord) : (rxFlit h).crc = flitCrc (rxFlit h).head (rxFlit h).body := by simp only [rxFlit]

/-- The hypotheses of the clauses about a flit with a good CRC. -/
theorem test_flit_later : (rxFlit 0x500).bad = false ∧ (rxFlit 0x500).crc = flitCrc (rxFlit 0x500).head (rxFlit 0x500).body ∧
    (rxFlit 0x500).head.getLsbD 5 = false ∧ BitVec.ofNat 12 (bitsOf (rxFlit 0x500).head.toNat 8 12) ≠ ((inSt 3).link (.port 1)).rxNext ∧
    ((inSt 3).link (.port 1)).nakSent = false :=
  ⟨rfl, rxFlit_crc _, by decide +kernel, by decide +kernel, by decide +kernel⟩

theorem test_flit_accept : (rxFlit 8).bad = false ∧ (rxFlit 8).crc = flitCrc (rxFlit 8).head (rxFlit 8).body ∧
    (rxFlit 8).head.getLsbD 5 = false ∧ (rxFlit 8).head.getLsbD 32 = false ∧ (rxFlit 8).head.getLsbD 33 = false ∧
    BitVec.ofNat 12 (bitsOf (rxFlit 8).head.toNat 8 12) = ((inSt 3).link (.port 1)).rxNext :=
  ⟨rfl, rxFlit_crc _, by decide +kernel, by decide +kernel, by decide +kernel, by decide +kernel⟩

theorem test_flit_credit : (rxFlit (0x20 + 2 ^ 34 + 3 * 2 ^ 37)).bad = false ∧
    (rxFlit (0x20 + 2 ^ 34 + 3 * 2 ^ 37)).crc = flitCrc (rxFlit (0x20 + 2 ^ 34 + 3 * 2 ^ 37)).head (rxFlit (0x20 + 2 ^ 34 + 3 * 2 ^ 37)).body ∧
    (rxFlit (0x20 + 2 ^ 34 + 3 * 2 ^ 37)).head.getLsbD 5 = true ∧ (rxFlit (0x20 + 2 ^ 34 + 3 * 2 ^ 37)).head.getLsbD 32 = false ∧
    (rxFlit (0x20 + 2 ^ 34 + 3 * 2 ^ 37)).head.getLsbD 33 = false ∧
    (2 : Fin 8).val = bitsOf (rxFlit (0x20 + 2 ^ 34 + 3 * 2 ^ 37)).head.toNat 34 2 * 2 + bitsOf (rxFlit (0x20 + 2 ^ 34 + 3 * 2 ^ 37)).head.toNat 36 1 :=
  ⟨rfl, rxFlit_crc _, by decide +kernel, by decide +kernel, by decide +kernel, by decide +kernel⟩

/-- Port 1 UP with one flit to be acknowledged. -/
def unacked : State := upLink fun k => { k with replay := [(5, txFlit)] }

theorem test_flit_ack : (rxFlit (0x20 + 5 * 2 ^ 20 + 2 ^ 32)).head.getLsbD 5 = true ∧ (rxFlit (0x20 + 5 * 2 ^ 20 + 2 ^ 32)).head.getLsbD 32 = true ∧
    (rxFlit (0x20 + 5 * 2 ^ 20 + 2 ^ 32)).head.getLsbD 33 = false ∧ (unacked.link (.port 1)).replay[0]? = some (5, txFlit) ∧
    5 = BitVec.ofNat 12 (bitsOf (rxFlit (0x20 + 5 * 2 ^ 20 + 2 ^ 32)).head.toNat 20 12) := by decide +kernel

theorem test_flit_nak : (rxFlit (0x20 + 2 ^ 33)).head.getLsbD 5 = true ∧ (rxFlit (0x20 + 2 ^ 33)).head.getLsbD 32 = false ∧
    (rxFlit (0x20 + 2 ^ 33)).head.getLsbD 33 = true ∧ (unacked.link (.port 1)).replay ≠ [] ∧
    (unacked.link (.port 1)).rewinds + 1 < unacked.maxRetry (.port 1) := by decide +kernel

/-- A link that has rewound 15 times, with a flit to be acknowledged. -/
def tired (k : Link) : Link := { k with replay := [(5, txFlit)], rewinds := 15 }

theorem test_retry_fails_well : run (.retryTimeout (.well 2)) ((withWell 2 up).modLink (.well 2) tired)
    ((withWell 2 up).linkOpen (.well 2) && decide ((withWell 2 up).maxRetry (.well 2) ≤ 16))
    (fun t => ev 0x090A t && !t.wells[2].inService) = true := by decide +kernel

theorem test_retry_fails_mirror : run (.retryTimeout .mirror) (({ up with mch := { up.mch with mstate := .inSync } } : State).modLink .mirror tired)
    (({ up with mch := { up.mch with mstate := .inSync } } : State).linkOpen .mirror && decide (up.maxRetry .mirror ≤ 16))
    (fun t => decide (t.mch.mstate = .out)) = true := by decide +kernel

theorem test_retry : run (.retryTimeout (.port 1)) (upLink fun k => { k with replay := [(5, txFlit)] })
    (decide (1 < (inSt 3).maxRetry (.port 1)))
    (fun t => (t.link (.port 1)).resend == some 0 && cnt up t (PMP_REWIND_CNT.COUNT 1) 1) = true := by decide +kernel

theorem test_retry_fails : run (.retryTimeout (.port 1)) (upLink fun k => { k with replay := [(5, txFlit)], rewinds := 15 })
    (decide ((inSt 3).maxRetry (.port 1) ≤ 16)) (fun t => ev 0x0703 t && decide (t.portState 1 = 6)) = true := by decide +kernel

theorem test_retry_empty : run (.retryTimeout (.port 1)) (inSt 3) true (fun t => decide (t = inSt 3)) = true := by decide +kernel

/-- An ordered set of a type with a payload was driven on a port. -/
def setSent (p : Port) (n : Nat) (t : State) (x : BitVec 192) : Bool :=
  t.out.any fun o => match o with
    | .orderedSet q k _ y _ _ => q == p && k == n && y == x
    | _ => false

/-- A chip in internal bypass. -/
def bypassed : State := { up with intBypass := true }

theorem test_bypass : run (.flitReceive (.port 1) (rxFlit 1)) bypassed bypassed.leadUp
    (fun t => t.out.any fun o => match o with | .flit l h _ _ => l == .port 5 && h == 1 | _ => false) = true := by decide +kernel

theorem test_bypass_absent : run (.absentSet 1 9) bypassed true (fun t => setSent 5 6 t (9)) = true := by decide +kernel

theorem test_bypass_cal_req : run (.calReq 1 9 2 3) bypassed true (fun t => setSent 5 2 t (9)) = true := by decide +kernel

theorem test_bypass_cal_rsp : run (.calRsp 1 9 2) bypassed true (fun t => setSent 5 3 t (9)) = true := by decide +kernel

theorem test_bypass_beacon : run (.beacon 1 (BitVec.ofNat 192 (2 ^ 46)) 0) bypassed (bcnViaV (BitVec.ofNat 192 (2 ^ 46)))
    (fun t => setSent 5 4 t ((BitVec.ofNat 192 (2 ^ 46)))) = true := by decide +kernel

theorem test_bypass_remove : run (.removeDone ⟨1, 2⟩) bypassed bypassed.leadUp
    (fun t => setSent 5 5 t ((BitVec.ofNat 192 (4 + 2 * 2 ^ 8)))) = true := by decide +kernel

/-! ### Ports and the service interface -/

theorem test_insert : run (.prsntInsert 1) ((inSt 0).wr (PMP_LNK_CTRL.EN 1) 1) up.leadUp
    (fun t => decide (t.rd (SVC_PORT_STATUS.PRESENT 1) = 1 ∧ t.portState 1 = 1)) = true := by decide +kernel

theorem test_remove : run (.prsntRemove 1) (inSt 3) true
    (fun t => decide (t.rd (SVC_PORT_STATUS.PRESENT 1) = 0 ∧ t.portState 1 = 0)) = true := by decide +kernel

theorem test_lock : run (.phyLock 1 0xFF true) (inSt 1) true (fun t => decide (t.portState 1 = 2)) = true := by decide +kernel

theorem test_relock : run (.phyLock 1 0xFF true) (inSt 4) true
    (fun t => decide (t.portState 1 = 3 ∧ t.rd (PMP_LNK_STATUS.LANES 1) = 0xFF)) = true := by decide +kernel

theorem test_train_again : run (.trainTimeout 1) (inSt 1) (decide (up.ports[(1 : Port)].trainFails = 0))
    (fun t => decide (t.portState 1 = 1 ∧ t.ports[(1 : Port)].trainFails = 1)) = true := by decide +kernel

theorem test_train_fails : run (.trainTimeout 1) ((inSt 1).modPort 1 fun x => { x with trainFails := 2 }) true
    (fun t => decide (t.portState 1 = 6)) = true := by decide +kernel

theorem test_retrain_fails : run (.trainTimeout 1) (inSt 4) true (fun t => decide (t.portState 1 = 6)) = true := by decide +kernel

/-- A flit from chip 9, discarded on a chip that is no member: its step is aborted in the name of its sender (R309). -/
theorem test_link_abort_far :
    (upLink fun k => { k with replay := [(5, { txFlit with src := 9 })] }).linkKeys (.port 1) = [⟨0x37, 3, 7, 0, 9, 1⟩] ∧
    up.noticeName 9 1 3 = some (9, 1) ∧ up.noticeName up.ownChip 1 3 = none := by decide +kernel

theorem test_loss_of_lock : run (.lossOfLock 1) (upLink fun k => { k with replay := [(5, txFlit)] }) true
    (fun t => decide (t.portState 1 = 4) && (t.link (.port 1)).replay == [(5, txFlit)]) = true := by decide +kernel

theorem test_uncorrectable : run (.uncCodewordLimit 1 2000) (inSt 3) (decide (up.rd (PMP_LNK_UNC.LIMIT 1) < 2000))
    (fun t => cnt up t (PMP_FEC_UNC_CNT.COUNT 1) 2000 && decide (t.portState 1 = 4)) = true := by decide +kernel

theorem test_uncorrectable_few : run (.uncCodewordLimit 1 (up.rd (PMP_LNK_UNC.LIMIT 1))) (inSt 3) true (fun t => decide (t.portState 1 = 3)) =
    true := by decide +kernel

/-- EN and RESTART. -/
def restart : Word := (PMP_LNK_CTRL.RESTART 1).put ((PMP_LNK_CTRL.EN 1).put 0 1) 1

theorem test_restart : run (.linkRestart 1 restart) (((inSt 6).wr (SVC_PORT_STATUS.PRESENT 1) 1))
    (decide ((PMP_LNK_CTRL.RESTART 1).get restart = 1 ∧ (PMP_LNK_CTRL.EN 1).get restart = 1))
    (fun t => decide (t.portState 1 = 1 ∧ t.rd (PMP_LNK_CTRL.RESTART 1) = 0)) = true := by decide +kernel

/-- Port 1 UP in a removal phase, with its button. -/
def phase (n : Nat) : State := ((inSt 3).wr (SVC_PORT.BTN_EN 1) 1).wr (SVC_PORT_STATUS.RPHASE 1) n

/-- REMOVE of a KIND was sent. -/
def removeKind (k : Nat) (t : State) : Bool := setSent 1 5 t ((BitVec.ofNat 192 (k + 256)))

theorem test_press : run (.attnPress 1) (phase 0) true
    (fun t => ev 0x0C01 t && removeKind 0 t && decide (t.rphase 1 = 1)) = true := by decide +kernel

theorem test_press_again : run (.attnPress 1) (phase 1) true (fun t => ev 0x0C02 t && decide (t.rphase 1 = 0)) = true := by decide +kernel

theorem test_window_needed : run (.removalWindowClose 1) (((phase 1).wr (TCK_TREE.PARENT_V) 1).wr TCK_TREE.PARENT 1)
    ((((phase 1).wr (TCK_TREE.PARENT_V) 1).wr TCK_TREE.PARENT 1).needed 1)
    (fun t => ev 0x0C03 t && decide (t.rphase 1 = 4 ∧ t.rd (SVC_PORT_STATUS.NEEDED 1) = 1)) = true := by decide +kernel

theorem test_removal_window : run (.removalWindowClose 1) (phase 1) (!(phase 1).needed 1)
    (fun t => removeKind 1 t && decide (t.rphase 1 = 2 ∧ t.rd (SVC_PORT_STATUS.NEEDED 1) = 0)) = true := by decide +kernel

theorem test_window_failed : run (.removalWindowClose 1) ((inSt 6).wr (SVC_PORT_STATUS.RPHASE 1) 1) true
    (fun t => decide (t.portState 1 = 5)) = true := by decide +kernel

theorem test_remove_request : run (.removeRequest ⟨1, 2⟩) (phase 0) true
    (fun t => ev 0x0C01 t && decide (t.rphase 1 = 1)) = true := by decide +kernel

theorem test_remove_agree : run (.removeAgree ⟨1, 2⟩) (phase 2) true
    (fun t => decide (t.rphase 1 = 3 ∧ t.ports[(1 : Port)].removed = true)) = true := by decide +kernel

theorem test_remove_agree_first : run (.removeAgree ⟨1, 2⟩) (phase 0) true (fun t => decide (t.rphase 1 = 3)) = true := by decide +kernel

theorem test_remove_refuse : run (.removeRefuse ⟨1, 2⟩) (phase 2) true (fun t => ev 0x0C03 t && decide (t.rphase 1 = 4)) = true := by decide +kernel

theorem test_remove_cancel : run (.removeCancel ⟨1, 2⟩) (phase 1) true (fun t => ev 0x0C02 t && decide (t.rphase 1 = 0)) = true := by decide +kernel

theorem test_remove_done : run (.removeDone ⟨1, 2⟩) ((phase 3).modPort 1 fun x => { x with doneSent := true }) true
    (fun t => decide (t.portState 1 = 5)) = true := by decide +kernel

theorem test_remove_done_early : run (.removeDone ⟨1, 2⟩) (phase 3) true (fun t => decide (t.portState 1 = 3)) = true := by decide +kernel

theorem test_remove_silence : run (.removeSilence 1) (phase 2) true (fun t => ev 0x0C03 t && decide (t.rphase 1 = 4)) = true := by decide +kernel

theorem test_remove_drained : run (.removeDrained 1) ((phase 3).modPort 1 fun x => { x with doneRcvd := true }) ((phase 3).drained 1)
    (fun t => removeKind 4 t && decide (t.portState 1 = 5)) = true := by decide +kernel

theorem test_force_safe : run (.forceSafe 1 ((SVC_PORT.FORCE_SAFE 1).put 0 1)) (phase 0) true
    (fun t => decide (t.rphase 1 = 3 ∧ t.ports[(1 : Port)].removed = true)) = true := by decide +kernel

/-- A BEACON of chip 5, port 2, of domain 0. -/
def bcn : BitVec 192 := BitVec.ofNat 192 (5 + 2 * 2 ^ 8)

theorem test_beacon_good : run (.beacon 1 bcn 0) ((inSt 2).modPort 1 fun x => { x with good := 1 }) ((inSt 2).beaconGood 1 bcn)
    (fun t => decide (t.portState 1 = 3 ∧ t.ports[(1 : Port)].good = 2)) = true := by decide +kernel

theorem test_beacon_first : run (.beacon 1 bcn 0) (inSt 2) (decide ((inSt 2).ports[(1 : Port)].good = 0))
    (fun t => decide (t.portState 1 = 2 ∧ t.ports[(1 : Port)].good = 1)) = true := by decide +kernel

theorem test_beacon_own : run (.beacon 1 0 0) (inSt 2) (!(inSt 2).beaconGood 1 0) (fun t => decide (t.portState 1 = 8)) = true := by
  decide +kernel

theorem test_beacon_miswired : run (.beacon 1 (bcn + 2 ^ 16) 0) (inSt 2) (!(inSt 2).beaconGood 1 (bcn + 2 ^ 16))
    (fun t => decide (t.portState 1 = 7)) = true := by decide +kernel

theorem test_beacon_other : run (.beacon 1 bcn 0) (inSt 3) (decide (bcnChip bcn ≠ (inSt 3).rd (PMP_LNK_STATUS.FCHIP 1)))
    (fun t => decide (t.portState 1 = 2)) = true := by decide +kernel

theorem test_beacon_send : run (.beaconSend 1) (inSt 3) true (fun t => setSent 1 4 t (((inSt 3).ownBeacon 1))) = true := by
  decide +kernel

/-- Chip 5 was heard on port 1. -/
def heard5 : State := (inSt 3).modPort 1 fun x => { x with heard := [5] }

theorem test_absence : run (.beaconAbsence 5) heard5 (heard5.heardOf 5 && !heard5.absent.testBit 5)
    (fun t => ev 0x0C05 t && t.absent.testBit 5) = true := by decide +kernel

theorem test_absence_again : run (.beaconAbsence 5) (heard5.wr SVC_ABSENT_LO.CHIPS 0x20) ((heard5.wr SVC_ABSENT_LO.CHIPS 0x20).absent.testBit 5)
    (fun t => decide (t = heard5.wr SVC_ABSENT_LO.CHIPS 0x20)) = true := by decide +kernel

theorem test_absent_set : run (.absentSet 1 (BitVec.ofNat 192 (2 ^ 5 + 2 ^ 63))) (inSt 3) (decide (up.ports[(1 : Port)].removed = false))
    (fun t => t.absent.testBit 5 && t.absent.testBit 63) = true := by decide +kernel

theorem test_absent_clear_lo : run (.svcAbsentClear false 0x20) (heard5.wr SVC_ABSENT_LO.CHIPS 0x60) true
    (fun t => decide (t.heldLo .config SVC_ABSENT_LO.reg = some 0x20 ∧ t.rd SVC_ABSENT_LO.CHIPS = 0x60)) = true := by decide +kernel

/-- The _LO word of a clearing is held. -/
def loWord : State :=
  let s : State := heard5.wr SVC_ABSENT_LO.CHIPS 0x60
  { s with act := { s.act with loHeld := [(.config, SVC_ABSENT_LO.reg, 0x20)] } }

theorem test_absent_clear : run (.svcAbsentClear true 0) loWord (decide (loWord.heldLo .config SVC_ABSENT_LO.reg = some 0x20))
    (fun t => decide (t.rd SVC_ABSENT_LO.CHIPS = 0x40)) = true := by decide +kernel

theorem test_leave : run (.svcLeave (SVC_CTRL.LEAVE.put 0 1)) (phase 0) (decide ((phase 0).rd SVC_CTRL.LEAVE = 0))
    (fun t => decide (t.rd SVC_CTRL.LEAVE = 1 ∧ t.rphase 1 = 3)) = true := by decide +kernel

/-- LOCK with chip 9 of domain 4. -/
def lockWord : Word := SVC_ID.LOCK.put (SVC_ID.CHIP.put (SVC_ID.DOMAIN.put 0 4) 9) 1

theorem test_id_lock : run (.svcIdLock lockWord) bypassed (decide (bypassed.rd SVC_ID.LOCK = 0))
    (fun t => decide (t.rd SVC_ID.LOCK = 1 ∧ t.rd SVC_ID.CHIP = 9 ∧ t.rd SVC_ID.DOMAIN = 4 ∧ t.intBypass = false)) = true := by decide +kernel

theorem test_byp_ctrl : run (.svcBypCtrlWrite (SVC_BYP_CTRL.FORCE_INT.put 0 1)) up true
    (fun t => decide (t.rd SVC_BYP_CTRL.FORCE_INT = 1 ∧ t.intBypass = true)) = true := by decide +kernel

theorem test_hold_release : run .bypassHoldRelease (up.wr SVC_BYP_CTRL.HOLD 1) up.leadUp
    (fun t => ev 0x0C06 t && decide (t.rd SVC_BYP_CTRL.HOLD = 0)) = true := by decide +kernel

theorem test_cal_start : run (.calStart 1 77) (inSt 3) true
    (fun t => t.ports[(1 : Port)].cal == some (0, 77) && setSent 1 2 t (77)) = true := by decide +kernel

theorem test_cal_req : run (.calReq 1 5 77 78) (inSt 3) true
    (fun t => setSent 1 3 t ((BitVec.ofNat 192 (5 + 77 * 2 ^ 48 + 78 * 2 ^ 96)))) = true := by decide +kernel

/-- An exchange is out: number 0, T1 = 100. -/
def calOut : State := (inSt 3).modPort 1 fun x => { x with cal := some (0, 100) }

theorem test_cal_rsp : run (.calRsp 1 (BitVec.ofNat 192 (100 + 1000 * 2 ^ 48 + 1010 * 2 ^ 96)) 150) calOut true
    (fun t => t.ports[(1 : Port)].cal == none && decide (t.rd (PMP_LNK_LAT.PS 1) = 12500 ∧ t.ports[(1 : Port)].lat = some 12500)) = true := by
  decide +kernel

theorem test_cal_lost : run (.calLost 1) calOut true (fun t => t.ports[(1 : Port)].cal == none) = true := by decide +kernel

theorem test_eq_adaptation : run .eqAdaptation up (decide (up.rd HTH_CAL.EQ_PERIOD_MS ≠ 0) && up.build.portsWired.getLsbD (up.eqTurn % 16))
    (fun t => decide (t.eqTurn = up.eqTurn % 16 + 1)) = true := by decide +kernel

theorem test_well_recal : run .wellLinkRecal { withWell 2 up with wlTurn := 2 } (decide (up.rd HTH_CAL.WL_RECAL_MS ≠ 0))
    (fun t => t.out.contains (.wellRecal 2) && decide (t.wlTurn = 3)) = true := by decide +kernel

/-! ### Housekeeping and the Host Port's master half -/

/-- Tick 6 with a period of 3 ticks. -/
def hkUp : State := ((up.wr COL_HK_CFG.ENABLE 1).wr COL_HK_CFG.PERIOD 3).wr TCK_NOW_LO.TICK 6

theorem test_hk_start : run .hkStart hkUp
    (decide (hkUp.tickNow = 6 ∧ hkUp.hkLeader = some hkUp.chip))
    (fun t => t.hk.opened.any fun k => k.tick == 6 && k.startAt == hkUp.tick.lastFire) = true := by decide +kernel

/-- A housekeeping record of a KIND for tick 6. -/
def hkPkt (k : Nat) : Pkt := pk 0x16 0 0 0 0 0 (k + 4 * 256) 6 0 [1, 2, 3, 4]

/-- The collective of tick 6 is open. -/
def hkOpen : State := { hkUp with hk := { hkUp.hk with opened := [{ tick := 6, startAt := 0, recs := [] }] } }

/-- The record of chip 0 is in. -/
def hkHas (t : State) : Bool := t.hk.opened.any fun k => k.tick == 6 && k.recs.any fun r => r.1 == 0 && r.2.2 == [1, 2, 3, 4]

theorem test_hk_data : run (.hkData (hkPkt 1)) (lands (hkPkt 1) hkOpen) ((hkOpen.landCheck (hkPkt 1)).isNone && !hkOpen.arbHeld 10) hkHas = true := by
  decide +kernel

theorem test_hk_early : run (.hkData (hkPkt 1)) (lands (hkPkt 1) hkUp) (decide (hkUp.hk.closed < 6 ∧ hkUp.tickNow ≤ 6)) hkHas = true := by
  decide +kernel

theorem test_hk_late : run (.hkData (hkPkt 1)) (lands (hkPkt 1) (hkUp.wr TCK_NOW_LO.TICK 7)) (decide (6 < (hkUp.wr TCK_NOW_LO.TICK 7).tickNow))
    (fun t => cnt hkUp t COL_STALE_CNT.COUNT 1 && decide (t.hk = hkUp.hk)) = true := by decide +kernel

theorem test_hk_tele : run (.hkData (hkPkt 2)) (lands (hkPkt 2) hkOpen) true (fun t => t.hk.tele.contains (0, [1, 2, 3, 4])) = true := by
  decide +kernel

/-- Chip 0 leads; this is chip 5. -/
def hkOther : State := (hkUp.wr (PMP_ROUTE.PORTS 0) 1).wr SVC_ID.CHIP 5

theorem test_hk_start_other : run .hkStart hkOther (decide (hkOther.hkLeader ≠ some hkOther.chip ∧ hkOther.tickNow % hkOther.rd COL_HK_CFG.PERIOD = 0))
    (fun t => decide (t.hk = hkOther.hk)) = true := by decide +kernel

theorem test_hk_stale : run (.hkData (hkPkt 1)) (lands (hkPkt 1) hkOther)
    (decide (hkOther.hkLeader ≠ some hkOther.chip ∧ (hkOther.landCheck (hkPkt 1)).isNone = true))
    (fun t => cnt up t COL_STALE_CNT.COUNT 1) = true := by decide +kernel

/-- WAIT ticks later. -/
def hkPast : State := hkOpen.wr TCK_NOW_LO.TICK (6 + hkOpen.rd COL_HK_CFG.WAIT)

theorem test_hk_close_missing : hkPast.hubUp = true ∧ hkPast.hk.opened = [{ tick := 6, startAt := 0, recs := [] }] ∧
    6 + hkPast.rd COL_HK_CFG.WAIT ≤ hkPast.tickNow ∧ hkPast.hkMissing { tick := 6, startAt := 0, recs := [] } = [0] := by decide +kernel

/-- Every record of tick 6 is in. -/
def hkFull : State := { hkUp with hk := { hkUp.hk with opened := [{ tick := 6, startAt := 0, recs := [(0, 32, [])] }] } }

theorem test_hk_close : run .hkClose hkFull (decide (hkFull.hkMissing { tick := 6, startAt := 0, recs := [(0, 32, [])] } = []))
    (fun t => decide (t.hk.opened = [] ∧ t.hk.closed = 6)) = true := by decide +kernel

/-- A transaction of tag 3. -/
def txn (why : Purpose) (write orphan : Bool) : HostTxn :=
  { tag := 3, req := { why := why, write := write, addr := 0x1020, len := 64, data := [] }, got := [], orphan := orphan }

/-- The transaction is out. -/
def oneTxn (x : HostTxn) : State := { up with host := { up.host with txns := [x] } }

theorem test_read_beat : run (.hostReadData 3 (BitVec.ofNat 512 (0xAB * 2 ^ 256)) false 0) (oneTxn (txn (.descriptor 3) false false)) true
    (fun t => (t.txnAt 3).any fun y => y.got.length == 32 && y.got[0]? == some 0xAB) = true := by decide +kernel

theorem test_read_orphan : run (.hostReadData 3 0 true 0) (oneTxn (txn (.descriptor 3) false true)) true
    (fun t => decide (t = (oneTxn (txn (.descriptor 3) false true)).endTxn (txn (.descriptor 3) false true))) = true := by decide +kernel

theorem test_read_error : run (.hostReadData 3 0 true 1) (oneTxn (txn (.descriptor 3) false false)) true (fun t => ev 0x0101 t) = true := by
  decide +kernel

theorem test_write_done : run (.hostWriteResponse 3 0) (oneTxn (txn (.output 3 7 0) true false)) true
    (fun t => decide (t = (oneTxn (txn (.output 3 7 0) true false)).endTxn (txn (.output 3 7 0) true false))) = true := by decide +kernel

theorem test_write_error : run (.hostWriteResponse 3 2) (oneTxn (txn (.output 3 7 0) true false)) true (fun t => ev 0x0101 t) = true := by
  decide +kernel

/-! ### The host side of a Well, patrol -/

theorem test_host_write : run (.hostCommand 2 (.write (stackMib * 2 ^ 20 - 2) [5, 6])) (withWell 2 up) true
    (fun t => t.stackRead 2 (stackMib * 2 ^ 20 - 2) 2 == [5, 6] && !t.wells[2].hostMasked) = true := by decide +kernel

theorem test_host_activate : run (.hostCommand 2 (.activate 1 2 3)) (withWell 2 up) true
    (fun t => t.out.contains (.dram 2 (.activate 1 2 3)) && t.wells[2].hostRows.contains (1, 2, 3)) = true := by decide +kernel

theorem test_host_quiet : (withWell 2 up).wellQuiet 2 = true ∧ Flips.within (withWell 2 up).wells[2].flips (stackMib * 2 ^ 20 - 2) 2 = [] := by
  decide +kernel

/-- The host holds row 3 of bank 2 of channel 1 open. -/
def hostRow : State := (withWell 2 up).modWell 2 fun k => { k with hostRows := [(1, 2, 3)] }

theorem test_host_precharge : run (.hostCommand 2 (.precharge 1 2)) hostRow (hostRow.wellQuiet 2 && hostRow.hostHolds 2 (1, 2))
    (fun t => !t.hostHolds 2 (1, 2)) = true := by decide +kernel

theorem test_host_refresh : run (.hostRefresh 2 1 2) ((withWell 2 up).wr (WEL_ARB_STATUS.REF_MODE 2) 1) true
    (fun t => t.out.contains (.refresh 2 1 2 none) && decide (t.rd (WEL_ARB_STATUS.REF_MODE 2) = 0)) = true := by decide +kernel

/-- Well 2 with the supply good and out of reset. -/
def wellOk : State := (withWell 2 up).modWell 2 fun k => { k with supplyOk := true, inReset := false }

theorem test_takeover : run (.refreshTakeover 2 (some 31)) wellOk (decide (wellOk.rd (WEL_ARB_STATUS.REF_MODE 2) = 0))
    (fun t => ev 0x0908 t && decide (t.rd (WEL_ARB_STATUS.REF_MODE 2) = 1) && cnt wellOk t (WEL_REF_TAKEOVER_CNT.COUNT 2) 1) = true := by
  decide +kernel

/-- Well 2 with a cap and all of it used. -/
def hotWell : State := (wellOk.wr (WEL_PCAP.CAP 2) 1).modWell 2 fun k => { k with hostFJ := 10 ^ 15 }

theorem test_pcap : run (.pcapReached 2) hotWell
    (hotWell.wellUp 2 && decide (hotWell.effCap 2 ≠ 0 ∧ hotWell.rd (WEL_PCAP_STATUS.THROTTLING 2) = 0 ∧ hotWell.budgetFJ 2 ≤ hotWell.windowFJ 2))
    (fun t => decide (t.rd (WEL_PCAP_STATUS.THROTTLING 2) = 1) && cnt hotWell t (WEL_THR_CNT.COUNT 2) 1) = true := by decide +kernel

theorem test_pcap_end : run (.pcapWindowEnd 2) (hotWell.wr (WEL_PCAP_STATUS.THROTTLING 2) 1) (hotWell.wellQuiet 2)
    (fun t => decide (t.rd (WEL_PCAP_STATUS.THROTTLING 2) = 0 ∧ t.rd (WEL_PCAP_STATUS.HOST_OVER 2) = 1 ∧ t.wells[2].hostFJ = 0)) = true := by
  decide +kernel

/-- Refresh management is on with a distance of 2; row 1 has reached its threshold. -/
def rdmUp : State :=
  wellOk.modWell 2 fun k => { k with
    rdmMax := 1, rows := [{ ch := 0, bank := 0, rows := [(1, wellOk.rdmOf 2 HTH_RDM.TH)], targeted := 0, reported := false }] }

theorem test_rdm : run (.rdmTrigger 2 0 0 1) rdmUp
    (decide (rdmUp.rdmOf 2 HTH_RDM.EN = 1 ∧ neighbours 1 (rdmUp.rdmOf 2 HTH_RDM.DIST) = [0, 2, 3] ∧ rdmUp.rdmOf 2 HTH_RDM.TH ≤ rowCount rdmUp.wells[2].rows 0 0 1) && rdmUp.wellQuiet 2 &&
      !rdmUp.hostHolds 2 (0, 0))
    (fun t => cnt rdmUp t HTH_RDM_CNT.COUNT 3 && t.out.contains (.refresh 2 0 0 (some 0)) && t.out.contains (.refresh 2 0 0 (some 3))) =
      true := by decide +kernel

theorem test_rdm_over : run (.rdmTrigger 2 0 0 1) (rdmUp.modWell 2 fun k => { k with rdmMax := 0 }) true
    (fun t => ev 0x0D31 t && cnt rdmUp t HTH_RDM_OVF_CNT.COUNT 1) = true := by decide +kernel

theorem test_rdm_waits : run (.rdmTrigger 2 0 0 1) (rdmUp.modWell 2 fun k => { k with hostRows := [(0, 0, 9)] })
    ((rdmUp.modWell 2 fun k => { k with hostRows := [(0, 0, 9)] }).hostHolds 2 (0, 0))
    (fun t => t.wells[2].dram == [⟨.refresh 0 0 1, true⟩] && cnt rdmUp t (WEL_OPENROW_WAIT_CNT.COUNT 2) 1) = true := by decide +kernel

theorem test_rdm_end : run (.rdmWindowEnd 2) ((rdmUp.wr HTH_RDM_MAX.MAX 5).modWell 2 fun k => { k with rows := [bankOf [] 0 0] }) (rdmUp.wellQuiet 2)
    (fun t => t.wells[2].rows == [] && t.wells[2].rdmMax == 5 && t.wells[2].rdm == rdmUp.word HTH_RDM.reg) = true := by decide +kernel

/-- Patrol on; the weights of context 3 lie in the first MiB of Well 2. -/
def patrol : State := ((wellOk.wr HTH_SCRUB.DRAM_EN 1).wr HTH_SCRUB.SRAM_EN 1).wr (WEL_CTX_WSIZE.SIZE_MIB 2 3) 1

/-- The word of 0x1234 at word address 9, and as it is read with one and with three bits turned. -/
def word9 : BitVec 80 := encodeWord 0x1234 9

theorem test_word : readWord word9 9 = .clean ∧ readWord word9 8 = .mismatch ∧ readWord (word9 ^^^ 2) 9 = .corrected word9 ∧
    readWord (word9 ^^^ 7) 9 = .uncorrectable ∧ parity 64 8 ≠ parity 64 9 := by decide +kernel

theorem test_dram_scrub : run (.dramScrub 2 100 []) patrol
    (patrol.scrubbed 2 100 && patrol.wellUp 2 && patrol.wellQuiet 2 && patrol.dramFree 2 (.scrub 100 []) &&
      decide (Flips.within patrol.wells[2].flips 64 64 = []))
    (fun t => decide (t.wells[2].wellFJ = 64 * patrol.rd (WEL_COEF_RD.FJ 2) + 1000 * patrol.rd (WEL_COEF_ACT.PJ 2) ∧
      t.rd HTH_SCRUB_COR_CNT.COUNT = 0 ∧ t.rd HTH_SCRUB_UNC_CNT.COUNT = 0)) = true := by decide +kernel

theorem test_dram_scrub_fixed : run (.dramScrub 2 100 [(72, word9 ^^^ 2)]) patrol (readWord (word9 ^^^ 2) 9 == .corrected word9)
    (fun t => cnt patrol t HTH_SCRUB_COR_CNT.COUNT 1 && cnt patrol t RAS_COR_CNT.COUNT 1 &&
      t.stackRead 2 72 8 == toBytes 8 0x1234 && t.wells[2].flips == [] &&
      decide (t.wells[2].wellFJ = patrol.scrubCharge 2 + 64 * patrol.rd (WEL_COEF_WR.FJ 2) ∧ patrol.rd (WEL_COEF_WR.FJ 2) ≠ 0)) = true := by decide +kernel

theorem test_dram_scrub_bad : run (.dramScrub 2 100 [(72, word9 ^^^ 7)]) patrol ((readWord (word9 ^^^ 7) 9).bad)
    (fun t => ev 0x0D30 t && cnt patrol t HTH_SCRUB_UNC_CNT.COUNT 1 && cnt patrol t RAS_UNC_CNT.COUNT 1 && t.stackWord 2 72 == word9 ^^^ 7) = true := by
  decide +kernel

/-- A word of a memory of a part, as read at word address 9. -/
def wordAt (part : Nat) (m : MemOf) (v : BitVec 80) : WordRead := { part := part, mem := m, addr := 9, word := v, ctx := none }

theorem test_sram_scrub : run (.sramScrub 24 9 (.queues, word9 ^^^ 2)) patrol
    (patrol.partRuns 24 && decide (patrol.rd HTH_SCRUB.SRAM_EN = 1) && wordVerdict (wordAt 24 .queues (word9 ^^^ 2)) == .corrected word9)
    (fun t => cnt patrol t HTH_SCRUB_COR_CNT.COUNT 1 && cnt patrol t RAS_COR_CNT.COUNT 1) = true := by decide +kernel

theorem test_sram_scrub_bad : run (.sramScrub 2 9 (.buffer, word9 ^^^ 7)) patrol (patrol.partRuns 2)
    (fun t => ev 0x0D30 t && cnt patrol t HTH_SCRUB_UNC_CNT.COUNT 1 && cnt patrol t RAS_UNC_CNT.COUNT 1) = true := by decide +kernel

theorem test_sram_scrub_clean : run (.sramScrub 24 9 (.core, word9)) patrol (wordVerdict (wordAt 24 .core word9) == .clean)
    (fun t => decide (t = patrol)) = true := by decide +kernel

theorem test_temp : run (.tempSample [none, none, some (-3)]) wellOk wellOk.leadUp
    (fun t => decide (t.rd (HTH_TEMP.VALID 2) = 1 ∧ t.rd (HTH_TEMP.TEMP 2) = tempWord 8 (-3))) = true := by decide +kernel

theorem test_temp_lost : run (.tempSample []) (wellOk.modWell 2 fun k => { k with tempFails := 2 }) true
    (fun t => decide (t.rd (HTH_TEMP.VALID 2) = 0 ∧ t.rd (WEL_PCAP_HEATH.CAP 2) = 1)) = true := by decide +kernel

theorem test_telemetry : run (.telemetrySample 65535 3 4 5 [none, none, some 40]) wellOk true
    (fun t => decide (t.rd HTH_SUPPLY_MV.MAIN = 65535 ∧ t.rd HTH_SUPPLY_MV.BKUP = 3 ∧ t.heathA.hubMv = 4 ∧ t.heathB.hubMv = 5 ∧
      t.rd (HTH_TEMP.VALID 2) = 1)) = true := by decide +kernel

/-! ### The event recorder -/

/-- A record of the ring. -/
def recEntry (n : Nat) : RecEntry :=
  { ev := { code := 5, sev := 0, ctx := none, seq := 0, tick := 0, source := 0, addr := 0, data := [] }, suppr := 0,
    rseq := BitVec.ofNat 32 n, opsec := 0, frac := 0, pcyc := 0, snap := none, flushed := false }

/-- Five records, two sectors of 64 KiB, one of them open. -/
def recorder (f : Recorder → Recorder) : State :=
  { up with evr := f { up.evr with
      ring := (List.range 5).map recEntry, nv := true, nvMib := 1, sectorKib := 64
      sectors := [{ idx := 0, useSeq := 1, erases := 0, next := 1, bad := false }, { idx := 1, useSeq := 0, erases := 0, next := 0, bad := false }] } }

theorem test_trickle : run (.trickleFlush 9) ((recorder id).wr EVR_CTRL.TRICKLE_N 4)
    ((((recorder id).wr EVR_CTRL.TRICKLE_N 4).at 9).trickles && (recorder id).leadUp)
    (fun t => decide (t.evr.flush = some .trickle ∧ t.evr.page = (List.range 4).map recEntry)) = true := by decide +kernel

theorem test_fault_flush : run .evrFlush (recorder id) true (fun t => decide (t.evr.flush = some .fault ∧ t.evr.page = (List.range 4).map recEntry)) = true := by
  decide +kernel

theorem test_page_done : run (.pageProgramDone true) (recorder fun r => { r with page := (List.range 4).map recEntry })
    (((recorder fun r => { r with page := (List.range 4).map recEntry }).openSector).isSome)
    (fun t => t.evr.ring.all fun e => e.flushed == decide (e.rseq.toNat < 4)) = true := by decide +kernel

theorem test_page_bad : run (.pageProgramDone false) (recorder fun r => { r with page := (List.range 4).map recEntry }) true
    (fun t => ev 0x0E04 t && decide (t.evr.nvErr = 1)) = true := by decide +kernel

theorem test_erase_done : run (.pageProgramDone true)
    { recorder (fun r => { r with eraseOf := some 1 }) with nvm := [(65536 + (recorder id).rd HTH_NVM.BASE_MIB * 2 ^ 20, 0)] } true
    (fun t => decide (t.evr.eraseOf = none ∧ t.nvm = [])) = true := by decide +kernel

/-- No free sector: an erase is due. -/
def worn : State :=
  recorder fun r => { r with
    sectors := [{ idx := 0, useSeq := 1, erases := 0, next := 1024, bad := false }, { idx := 1, useSeq := 2, erases := 0, next := 1024, bad := false }] }

theorem test_nvm_erase : run .nvmErase worn (decide (worn.eraseTarget = some 0 ∧ worn.recentErases.length < worn.rd HTH_NVM.ERASE_PER_H))
    (fun t => t.out.contains (.xspi 1 (worn.sectorAddr 0) []) && decide (t.evr.eraseOf = some 0)) = true := by decide +kernel

theorem test_nvm_erase_paused : run .nvmErase (worn.wr HTH_NVM.ERASE_PER_H 0) true
    (fun t => ev 0x0C15 t && decide (t.evr.eraseOf = none ∧ t.erasePaused = true)) = true := by decide +kernel

theorem test_nv_erase : run .nvErase (recorder id) true (fun t => decide (t.evr.erasing = true ∧ t.evr.nvErase = [0, 1])) = true := by
  decide +kernel

theorem test_evr_clear : run .evrClear (recorder id) true (fun t => decide (t.evr.ring.length = 1) && t.evr.ring.all fun e => e.ev.code == 0x0E03) =
    true := by decide +kernel

theorem test_token : run .tokenRefill (recorder fun r => { r with buckets := [⟨none, 0, 2⟩] }) (decide (0 < up.rd EVR_RATE.BURST))
    (fun t => t.evr.buckets.contains ⟨none, 1, 2⟩) = true := by decide +kernel

theorem test_evr_trig : run (.evrTrig (EVR_TRIG.NUM.put 0 6)) up true (fun t => ev 0x0E86 t) = true := by decide +kernel

theorem test_cursor : run (.evrCursorLoad 2) (recorder id) (decide ((recorder id).rd EVR_RCTL.SRC = 0))
    (fun t => decide (t.rd EVR_CURSOR.POS = 2 ∧ t.evr.hit = true ∧ t.evr.buf = words16 (recBytes (recEntry 2)))) = true := by decide +kernel

theorem test_cursor_nv : run (.evrCursorLoad 2047) ((recorder id).wr EVR_RCTL.SRC 1) (decide ((recorder id).evr.slots = 1024))
    (fun t => t.evr.busy && t.out.contains (.xspi 2 ((recorder id).sectorAddr 0 + 64 * 2047) [])) = true := by decide +kernel

theorem test_autoinc : run .win15Autoinc (((recorder id).wr EVR_RCTL.AUTOINC 1).wr EVR_CURSOR.POS 0xFFFFFFFF) true
    (fun t => decide (t.rd EVR_CURSOR.POS = 0)) = true := by decide +kernel

theorem test_nv_read : run (.nvReadDone [1]) (recorder fun r => { r with busy := true }) true
    (fun t => decide (t.evr.busy = false ∧ t.evr.buf = List.replicate 16 0xFFFFFFFF)) = true := by decide +kernel

theorem test_recorder_start : run (.recorderStart none) up (!up.evr.started && decide (up.evr.ring.length < 4095))
    (fun t => ev 0x0E01 t && decide (t.evr.started = true ∧ t.evr.nv = false) && (t.evr.ring.head?.any fun e => e.ev.code == 0x0E01 && e.rseq == 0)) =
      true := by decide +kernel

/-! ### Power, resets, roles -/

/-- Both Hubs run; the mirror is in service or not. -/
def pair (m : MState) : State :=
  { up with act := { up.act with inReset := false }, mir := { up.mir with inReset := false }, mch := { up.mch with mstate := m } }

theorem test_mirror_reset : run (.hubReset .b) (pair .inSync) (decide (((pair .inSync).build.legal = true ∧ (pair .inSync).act.side ≠ (pair .inSync).mir.side) ∧ ((pair .inSync).heath .b).inReset = false))
    (fun t => decide (t.mir = HubCore.fresh .b false ∧ t.mch.serves = false)) = true := by decide +kernel

theorem test_active_reset : run (.hubReset .a) (pair .inSync) (decide ((pair .inSync).failover = none))
    (fun t => decide (t.active = false ∧ t.failover = some { cause := 3, at_ := 0, swap := false })) = true := by decide +kernel

theorem test_lone_reset : run (.hubReset .a) (pair .out) true
    (fun t => decide (t.active = false ∧ t.act.side = .a ∧ t.act.bistDone = false)) = true := by decide +kernel

theorem test_self_test : run (.selfTestDone .a true) State.reset
    (decide ((State.reset.hub .a).inReset = false ∧ (State.reset.hub .a).bistDone = false ∧ State.reset.failover = none))
    (fun t => decide (t.active = true ∧ t.act.side = .a)) = true := by decide +kernel

theorem test_self_test_mirror : run (.selfTestDone .b false) { pair .out with mir := { up.mir with inReset := false, bistDone := false } } true
    (fun t => ev 0x0F05 t && decide (t.mir.inReset = true ∧ t.mch.mstate = .held)) = true := by decide +kernel

theorem test_cfg_reset : run (.cfgReset .a) { up with cfgWait := [(.a, true, 0x80000, 0)] } true (fun t => t.cfgWait == []) = true := by
  decide +kernel

theorem test_aon_reset : run (.aonReset .a) (recorder id) (decide ((recorder id).lead = .a))
    (fun t => decide (t.heathA.inReset = false ∧ t.lead = .a ∧ t.evr.ring = [])) = true := by decide +kernel

theorem test_vaon_backup : run (.vaonSourceChange .a true 900 5) up (decide (up.heathA.bkupGood = true ∧ up.heathA.onBkup = false))
    (fun t => ev 0x0C10 t && cnt up t HTH_SW_CNT.COUNT 1 && decide (t.heathA.onBkup = true ∧ t.pfail = true)) = true := by decide +kernel

theorem test_vaon_main : run (.vaonSourceChange .a false 900 5) { up with heathA := { up.heathA with onBkup := true }, pfail := true } true
    (fun t => decide (t.heathA.onBkup = false ∧ t.pfail = false)) = true := by decide +kernel

theorem test_vaon_loss : run (.vaonLoss .a) up (decide (up.heathB.inReset = false))
    (fun t => decide (t.heathA.inReset = true ∧ (t.hub .a).inReset = true ∧ t.lead = .b)) = true := by decide +kernel

theorem test_lead_loss : run .leadHeathLoss up true (fun t => decide (t = { up with lead := .b })) = true := by decide +kernel

theorem test_vdd_hub : run (.vddHubLoss .b 700) (pair .inSync) (decide ((pair .inSync).heathB.hubGood = true))
    (fun t => ev 0x0C12 t && decide (t.heathB.hubGood = false ∧ t.heathB.hubMv = 700 ∧ (t.hub .b).inReset = true)) = true := by decide +kernel

theorem test_vdd_well : run (.vddWelLoss 2) wellOk true
    (fun t => decide (t.wells[2].supplyOk = false ∧ t.wells[2].inService = false ∧ t.wells[2].linkUp = false)) = true := by decide +kernel

theorem test_well_reset : run (.welReset 2) (hotWell.stackWrite 2 9 [7]) true
    (fun t => decide (t.wells[2].inService = false ∧ t.wells[2].stack = [(9, 7)] ∧ t.rd (WEL_PCAP.CAP 2) = up.rd (WEL_PCAP.CAP 2))) = true := by
  decide +kernel

theorem test_well_trained : run (.wellLinkTrained 2) (wellOk.modWell 2 fun k => { k with linkUp := false, inService := false })
    (decide (majorMinor wellOk.wells[2].version = majorMinor (wellOk.view HUB_VERSION.reg) ∧ wellOk.rd (WEL_FENCE.FENCED 2) ≠ 0xFFFF))
    (fun t => decide (t.wells[2].linkUp = true ∧ t.wells[2].inService = true)) = true := by decide +kernel

theorem test_well_version : run (.wellLinkTrained 2) (wellOk.modWell 2 fun k => { k with linkUp := false, inService := false, version := 0 })
    (decide (majorMinor 0 ≠ majorMinor (wellOk.view HUB_VERSION.reg)))
    (fun t => ev 0x0902 t && decide (t.wells[2].inService = false)) = true := by decide +kernel

theorem test_well_retrain : run (.wellLinkRetrain 2 3) wellOk true (fun t => ev 0x0909 t && decide (t.wells[2].inService = true)) = true := by
  decide +kernel

theorem test_well_retrained : run (.wellLinkTrained 2) (wellOk.modWell 2 fun k => { k with retraining := true })
    (!(wellOk.modWell 2 fun k => { k with retraining := true }).linkOpen (.well 2))
    (fun t => t.linkOpen (.well 2) && t.wells[2].inService) = true := by decide +kernel

theorem test_well_down : run (.wellLinkDown 2 true) wellOk true
    (fun t => ev 0x090A t && decide (t.wells[2].inService = false ∧ t.wells[2].linkUp = false)) = true := by decide +kernel

/-! ### Reliability -/

/-- A tile of Well 2 runs. -/
def tiling : State := wellOk.modWell 2 fun k => { k with running := some (.score { ctx := 3, seq := 7, att := 0, layer := 0, toks := [] }) }

theorem test_residue : run (.residueFailure 2 15 9) tiling (tiling.tileRuns 2 && !tiling.failedOnce 2 && !(tiling.rd (fenceFld 2)).testBit 15)
    (fun t => ev 0x0D04 t && cnt tiling t RAS_RESIDUE_CNT.COUNT 1 && t.failedOnce 2) = true := by decide +kernel

theorem test_residue_stays : ((tiling.fence 2 15 true none).fence 2 15 false none).wells[2].fenceWhy = [(15, true, none)] := by
  decide +kernel

theorem test_residue_twice : run (.residueFailure 2 15 9) (tiling.setOnce 2 true) ((tiling.setOnce 2 true).failedOnce 2)
    (fun t => (t.rd (fenceFld 2)).testBit 15) = true := by decide +kernel

theorem test_release_engine : run (.engineRelease 2 0x8001 0x8000) (wellOk.wr (WEL_FENCE.FENCED 2) 0x8001) true
    (fun t => !(t.rd (fenceFld 2)).testBit 15 && (t.rd (fenceFld 2)).testBit 0) = true := by decide +kernel

theorem test_uncor_stack : run (.uncorrectableWord { wordAt 2 .stack (word9 ^^^ 7) with addr := 77 }) wellOk
    ((wordVerdict { wordAt 2 .stack (word9 ^^^ 7) with addr := 77 }).bad)
    (fun t => ev 0x0D02 t && cnt wellOk t RAS_UNC_CNT.COUNT 1 && t.stackWord 2 72 == word9 ^^^ 7) = true := by decide +kernel

theorem test_cor_stack : run (.uncorrectableWord { wordAt 2 .stack (word9 ^^^ 2) with addr := 77 }) wellOk
    (wordVerdict { wordAt 2 .stack (word9 ^^^ 2) with addr := 77 } == .corrected word9) (fun t => cnt wellOk t RAS_COR_CNT.COUNT 1) = true := by
  decide +kernel

theorem test_cor_queues : run (.uncorrectableWord (wordAt 24 .queues (word9 ^^^ 2))) up (decide (up.hubPart = 24))
    (fun t => cnt up t PMP_Q_COR_CNT.COUNT 1 && cnt up t RAS_COR_CNT.COUNT 1) = true := by decide +kernel

theorem test_cor_receive : run (.uncorrectableWord (wordAt 24 (.receive 3) (word9 ^^^ 2))) up true
    (fun t => cnt up t (PMP_RBUF_COR_CNT.COUNT 3) 1) = true := by decide +kernel

theorem test_cor_park : run (.uncorrectableWord (wordAt 24 .park (word9 ^^^ 2))) up true (fun t => cnt up t CMB_PARK_COR_CNT.COUNT 1) = true := by
  decide +kernel

theorem test_uncor_table : run (.uncorrectableWord { wordAt 24 .table (word9 ^^^ 7) with addr := 77 }) (pair .inSync) (decide ((pair .inSync).hubPart = 24))
    (fun t => ev 0x0D02 t && t.mch.fetch.contains (.a, 2, 64)) = true := by decide +kernel

theorem test_uncor_core : run (.uncorrectableWord (wordAt 24 .core (word9 ^^^ 7))) (pair .inSync) true
    (fun t => t.failover == some { cause := 4, at_ := 0, swap := false }) = true := by decide +kernel

theorem test_clean_word : run (.uncorrectableWord (wordAt 24 .park word9)) up (wordVerdict (wordAt 24 .park word9) == .clean)
    (fun t => decide (t = up)) = true := by decide +kernel

theorem test_master_release : run (.masterRelease (.well 2)) (up.wr RAS_FREEZE_WELL.WELLS 4) ((up.wr RAS_FREEZE_WELL.WELLS 4).isFrozen (.well 2))
    (fun t => ev 0x0D08 t && !t.isFrozen (.well 2)) = true := by decide +kernel

theorem test_core_watchdog : run (.coreWatchdogExpiry .a) (pair .inSync) true
    (fun t => t.failover == some { cause := 1, at_ := 0, swap := false }) = true := by decide +kernel

theorem test_core_violation : run (.controlCoreAccessViolation .a 12) (pair .inSync) true
    (fun t => ev 0x0D07 t && t.failover == some { cause := 5, at_ := 0, swap := false }) = true := by decide +kernel

/-! ### The mirrored pair -/

/-- An update is under way. -/
def updating : State := { pair .inSync with mch := { (pair .inSync).mch with sent := [(5, .router 64 [1, 2])] } }

theorem test_mir_held : run .mirUpdate { updating with tapA := { updating.tapA with hold := some (3, 0) } }
    (({ updating with tapA := { updating.tapA with hold := some (3, 0) } } : State).arbHeld 3)
    (fun t => decide (t = { updating with tapA := { updating.tapA with hold := some (3, 0) } })) = true := by decide +kernel

theorem test_mir_update : run .mirUpdate updating updating.mch.serves
    (fun t => t.mch.sent.isEmpty && t.out.contains (.mirPacket 0x21 5 0 []) && t.mir.router == [(64, 1), (65, 2)]) = true := by decide +kernel

theorem test_mir_ack : run (.mirAck 5) { pair .inSync with mch := { (pair .inSync).mch with useq := 5, effects := [(5, .loadDone)] } }
    (decide (seqLater 5 (pair .inSync).mch.acked = true))
    (fun t => t.mch.acked == 5 && t.mch.effects.isEmpty) = true := by decide +kernel

theorem test_mir_beat : run (.mirBeatSend .a) (pair .inSync) true (fun t => t.out.contains (.mirBeat .a 0 true)) = true := by decide +kernel

theorem test_mir_beat_b : run (.mirBeatSend .b) (pair .inSync) true (fun t => t.out.any fun o => match o with
    | .mirBeat s _ b => s == .b && !b
    | _ => false) = true := by decide +kernel

theorem test_beat_loss : run (.mirBeatLoss .a) (pair .inSync) (decide ((pair .inSync).heathA.hubGood = true))
    (fun t => t.failover == some { cause := 6, at_ := 0, swap := false }) = true := by decide +kernel

theorem test_beat_loss_b : run (.mirBeatLoss .b) (pair .inSync) true (fun t => decide (t.mch.mstate = .out ∧ t.mch.cause = 13)) = true := by
  decide +kernel

/-- The mirror can be synchronised. -/
def syncable : State := { pair .out with mir := { up.mir with inReset := false, bistDone := true, bistPass := true } }

theorem test_sync : run (.sync 3) syncable syncable.canSync (fun t => decide (t.mch.mstate = .syncing ∧ t.mir = copyHub syncable.build syncable.act syncable.cwin syncable.mir)) =
    true := by decide +kernel

theorem test_sync_auto : run (.mirSync false 3) (syncable.wr MIR_CTRL.AUTO_SYNC 1) (syncable.wr MIR_CTRL.AUTO_SYNC 1).canSync
    (fun t => decide (t.mch.mstate = .syncing)) = true := by decide +kernel

theorem test_sync_end : run (.mirSync true 3) (pair .syncing) (decide ((pair .syncing).mch.sent = []))
    (fun t => ev 0x0F04 t && decide (t.mch.mstate = .inSync)) = true := by decide +kernel

theorem test_mirror_disable : run .mirrorDisable (pair .inSync) true (fun t => decide (t.rd MIR_CTRL.DISABLE = 1 ∧ t.mch.serves = false)) = true := by
  decide +kernel

theorem test_mir_fetch : run (.mirFetch .b 1 64) (pair .inSync) true
    (fun t => t.out.contains (.mirPacket 0x25 64 (64 + 2 ^ 56) (List.replicate 64 0))) = true := by decide +kernel

theorem test_mir_data : run (.mirData .a 1 64 false [1, 2]) { pair .inSync with mch := { (pair .inSync).mch with fetch := [(.a, 1, 64)] } } true
    (fun t => mread zeroByte t.act.router 64 64 == padTo 64 [1, 2]) = true := by decide +kernel

theorem test_mir_data_table : run (.mirData .a 2 64 false [1, 2]) { pair .inSync with mch := { (pair .inSync).mch with fetch := [(.a, 2, 64)] } } true
    (fun t => mread tblDefault t.act.table 64 64 == padTo 64 [1, 2]) = true := by decide +kernel

theorem test_swap : run (.swap 3) (pair .inSync) true
    (fun t => decide (t.active = true ∧ t.failover = some { cause := 7, at_ := 3, swap := true })) = true := by decide +kernel

theorem test_swap_alone : run (.swap 3) (pair .out) true (fun t => ev 0x0F06 t && decide (t.active = true ∧ t.failover = none)) = true := by
  decide +kernel

theorem test_rejoin : run .rejoin (pair .held) true (fun t => decide (t.mch.mstate = .out ∧ t.mir = HubCore.fresh .b false)) = true := by
  decide +kernel

/-- A failover is in progress, or a swap that waits for its idle point. -/
def failing (swap : Bool) : State := { pair .inSync with active := swap, failover := some { cause := 1, at_ := 0, swap := swap } }

theorem test_takeover_mirror : run (.mirrorTakeover 9) (failing false) true
    (fun t => decide (t.active = true ∧ t.failover = none ∧ t.act.side = .b ∧ t.mir.side = .a ∧ t.mch.mstate = .held)) = true := by decide +kernel

theorem test_takeover_swap : run (.mirrorTakeover 9) (failing true) (failing true).atIdle
    (fun t => decide (t.act.side = .b ∧ t.mch.mstate = .inSync)) = true := by decide +kernel

/-- An access of the Config Port has not completed. -/
def swapBusy : State := { failing true with cfgWait := [(.a, true, 0x80000, 0)] }

theorem test_swap_waits : run (.mirrorTakeover 9) swapBusy (!swapBusy.atIdle) (fun t => decide (t = swapBusy)) = true := by decide +kernel

theorem test_swap_again : run (.swap 3) (failing true) true (fun t => decide (t = failing true)) = true := by decide +kernel

/-! ### Register accesses and the debug ports -/

theorem test_config_held : run (.configAccess .a true (SVC_PORT.reg 1) 0) { up with act := { up.act with inReset := true } }
    (!({ up with act := { up.act with inReset := true } } : State).cfgTakes .a)
    (fun t => decide (t = { up with act := { up.act with inReset := true } })) = true := by decide +kernel

theorem test_config_read : run (.configAccess .a false (PMP_VC_WT.reg 1) 0) up (up.cfgTakes .a && decodes (wordOff (PMP_VC_WT.reg 1)))
    (fun t => t.out.contains (.cfgReady .a 0x01040808 false)) = true := by decide +kernel

theorem test_config_write : run (.configAccess .a true (PMP_VC_WT.reg 1) 5) up true
    (fun t => t.out.contains (.cfgReady .a 0 false) && decide (t.rd (PMP_VC_WT.WT 1) = 0x01010105)) = true := by decide +kernel

theorem test_config_mirror : run (.configAccess .b true (PMP_VC_WT.reg 1) 5) (pair .out) (!(pair .out).isActive .b && heldByMirror (PMP_VC_WT.reg 1))
    (fun t => decide (t = (pair .out).emit (.cfgReady .b 0 true))) = true := by decide +kernel

theorem test_config_sideband : run (.configAccess .a true (WEL_PCAP.reg 2) 5) (up.modWell 2 fun k => { k with supplyOk := false })
    ((pageWell (wordOff (WEL_PCAP.reg 2))).any fun w => !(up.modWell 2 fun k => { k with supplyOk := false }).reachable w)
    (fun t => t.cfgWait == [(.a, true, WEL_PCAP.reg 2, 5)]) = true := by decide +kernel

theorem test_sideband : run (.sidebandTimeout .a) { up with cfgWait := [(.a, true, 0x80000, 0)] } true
    (fun t => t.out.contains (.cfgReady .a 0 true) && t.cfgWait.isEmpty) = true := by decide +kernel

theorem test_register_write : run (.registerWrite (PMP_VC_WT.reg 15) 0xFF000000) up (!up.arbHeld 0)
    (fun t => decide (t.rd (PMP_VC_WT.WT 15) = 0xFF010101)) = true := by decide +kernel

theorem test_register_locked : run (.registerWrite HTH_RDM.reg (HTH_RDM.EN.put 0 (1 - up.rd HTH_RDM.EN))) (up.wr HTH_LOCK.LOCK 1)
    (decide (HTH_RDM.EN.get (HTH_RDM.EN.put 0 (1 - up.rd HTH_RDM.EN)) ≠ up.rd HTH_RDM.EN))
    (fun t => decide (t.rd HTH_RDM.EN = up.rd HTH_RDM.EN) && cnt up t RAS_LOCKED_WR_CNT.COUNT 1) = true := by decide +kernel

/-- The debug port of Hub A is enabled and released. -/
def probe (h : Option (Nat × Nat)) : State := { up with tapA := { up.tapA with en := true, trst := false, hold := h } }

theorem test_idcode : run (.idcode .a) (probe none) true
    (fun t => decide (t.tapA.ir = 1) && t.out.contains (.tdo (up.viewOf .a DBG_IDCODE.reg))) = true := by decide +kernel

theorem test_tap_bypass : run (.tapBypass .a 0x77) (probe none) true (fun t => decide (t.tapA.ir = 0x77)) = true := by decide +kernel

theorem test_regacc : run (.regacc .a false (PMP_VC_WT.reg 1) 0) (probe none) ((probe none).debugActs .a)
    (fun t => t.out.contains (.tdo 0x01040808)) = true := by decide +kernel

theorem test_regacc_off : run (.regacc .a false 0 0) { probe none with tapA := { up.tapA with en := false, trst := false } } true
    (fun t => decide (t.tapA.ir = 0x20) && t.out.isEmpty) = true := by decide +kernel

theorem test_arbhold : run (.arbholdTake 9) (probe none) true (fun t => ev 0x0111 t && decide (t.tapA.hold = some (up.rd DBG_ARBSEL.ARB, 9))) = true := by
  decide +kernel

theorem test_arbhold_release : run (.arbholdRelease 9) (probe (some (0, 5))) true (fun t => ev 0x0112 t && decide (t.tapA.hold = none)) = true := by
  decide +kernel

theorem test_hold_timeout : run .debugHoldTimeout (probe (some (0, 5))) true
    (fun t => ev 0x0D07 t && decide (t.tapA.hold = none ∧ t.rd RAS_FREEZE.DEBUG = 1)) = true := by decide +kernel

theorem test_trst : run (.dbgTrst .a true true 9) (probe (some (0, 5))) true
    (fun t => decide (t.tapA.ir = 0xFF ∧ t.tapA.hold = none ∧ t.tapA.trst = true)) = true := by decide +kernel

/-! ### Rules of one sentence, the block as a whole -/

theorem test_doorbell_off : run (.doorbell 3 9) up (decide (up.rd (RNG_CTX_CTRL.ENABLE 3) = 0))
    (fun t => ev 0x0302 t && decide ({ t with evq := up.evq, evr := up.evr, mch := up.mch, act := { t.act with win := up.act.win } } = up)) = true := by
  decide +kernel

/-- An abort notice of chip 0 for a step that has committed. -/
def lateAbort : Pkt := pk 0x0B 3 0 0 0 7 1 0 0 []

/-- The step has committed. -/
def committed : State := withSteps 3 [stp 7 1 0 .committed] up

theorem test_late_notice : run (.abortNotice lateAbort) (lands lateAbort committed)
    (decide ((lands lateAbort committed).landCheck lateAbort = none ∧ ctlBad lateAbort = false ∧
      (lands lateAbort committed).current lateAbort = none) && (!up.isMaster || (up.ctxSet 3).testBit 0))
    (fun t => cnt up t RAS_LATE_NOTICE_CNT.COUNT 1 && decide (t.steps 3 = committed.steps 3 ∧ t.evq = up.evq)) = true := by decide +kernel

theorem test_bad_release : run (.releaseWord (BitVec.ofNat 32 (up.rd (CST_POOL_COUNT.COUNT 3) + 3 * 2 ^ 16))) up up.slaveUp
    (fun t => ev 0x0604 t && cnt up t CST_BADREL_CNT.COUNT 1 && decide (t.cist = up.cist)) = true := by decide +kernel

theorem test_undecoded : run (.configAccess .a true 0x1FFFFC 1) up
    (decide (0x1000 ≤ wordOff 0x1FFFFC ∧ findReg (wordOff 0x1FFFFC) = none ∧ up.cfgTakes .a = true))
    (fun t => decide (t = up.emit (.cfgReady .a 0 true))) = true := by decide +kernel

theorem test_undecoded_debug : run (.regacc .a true 0x1FFFFC 1) (probe none) ((probe none).debugActs .a)
    (fun t => t.out.contains (.tdo 0) && decide (DBG_STATUS.DEC_ERR.get (t.sideWord .a DBG_STATUS.reg) = 1)) = true := by decide +kernel

theorem test_capability_hole : run (.configAccess .a false 0xFFC 1) up (decide (wordOff 0xFFC < 0x1000 ∧ findReg (wordOff 0xFFC) = none))
    (fun t => t.out.contains (.cfgReady .a (up.readWord .config .a 0xFFC) false)) = true := by decide +kernel

theorem test_capability_hole_write : run (.configAccess .a true 0xFFC 1) up true
    (fun t => t.out.contains (.cfgReady .a 0 false) && decide (t.cwin = up.cwin ∧ t.act.win = up.act.win)) = true := by decide +kernel

/-- A step takes the front of the queue, and idles without one. -/
theorem test_step_front : (match step { up with pending := [.idcode .b, .nvErase] } with
    | .next t => t.pending == [.nvErase]
    | _ => false) = true := by decide +kernel

theorem test_step_idle : (match step up with | .next t => decide (t = up) | _ => false) = true := by decide +kernel

theorem test_reset_memory : State.reset.memWf = true := by decide +kernel

theorem test_reset_inv : State.reset.build.legal = true ∧ State.reset.act.side ≠ State.reset.mir.side ∧
    (∀ p : Port, State.reset.portState p = 0) := by decide +kernel

/-- An invariant state whose command changes a memory. -/
theorem test_inv_step : { held with pending := [.cisternDataAccess true 0 [1]] }.memWf = true ∧
    (match step { held with pending := [.cisternDataAccess true 0 [1]] } with
    | .next t => t.memWf && t.cist.data == [(0, 1)]
    | _ => false) = true := by decide +kernel

/-! ### Ill-formed terms, one for each check -/

/-- A packet of type 0, which no row takes. -/
def nilPkt : Pkt := pk 0 0 0 0 0 0 0 0 0 []

theorem test_ill_formed : ([.readyReport (pk 9 0 0 0 0 0 0 0 0 []), .completionWriteResponse 0 4, .eventWriteResponse 4, .seedingDone [] true,
    .hostReadData 0 0 true 4, .hostWriteResponse 0 4, .flitReceive .mirror ⟨0, [], 0, false, 0⟩, .dispatch (pk 3 0 0 0 0 0 0 0 0 []), .eod nilPkt,
    .issueTile (25 * 32) 0 0, .take 64 0 0, .anyContextTake 0 256, .tileWeightWrite 2048 0 0, .tileWeightWrite 0 128 0,
    .cisternDataAccess true 0x4000000 [0], .sliceReset 64, .colStart nilPkt, .hkData nilPkt, .stepOpen 0 nilPkt, .wellReport 0 nilPkt,
    .sramScrub 26 9 (.table, 0), .tempSample [], .telemetrySample 0 0 0 0 [], .configAccess .a true 0x200000 0, .registerWrite 2 0,
    .residueFailure 26 0 0, .residueFailure 0 16 0, .engineRelease 26 0 0, .uncorrectableWord (wordAt 26 .stack 0), .mirFetch .a 4 0,
    .mirFetch .a 1 32, .mirData .a 1 0 false [], .nvReadDone [], .regacc .a false 1 0, .hpRstRelease 64] : List Instr).all
      (fun i => !i.wellFormed) = true := by decide +kernel

theorem test_well_formed : ([.readyReport (pk 8 0 0 0 0 0 0 0 0 []), .completionWriteResponse 0 3, .issueTile (63 * 1024 + 24 * 32) 0 0,
    .tileWeightWrite 2047 127 0, .cisternDataAccess true 0x3FFFFFF [0], .configAccess .a true 0x1FFFFC 0, .mirFetch .a 3 64,
    .residueFailure 25 15 0, .nvErase] : List Instr).all Instr.wellFormed = true := by decide +kernel

/-! ### The table gives no row bits: `decodeTableWord` reads no command -/

theorem test_no_bits : decodeTableWord 32 0 = none ∧ up.withFetchWord 32 0 = up := by decide +kernel

end Sys2Proof.Tests
end

section
/-!
SUPPORT. What packets, events and requests of the host leave as it is: the relation `UpToTraffic` and a lemma for each operation that sends.
-/

namespace Sys2Proof.Machine

open Sys2Proof

/-- The states agree but for what sending packets, raising events and asking the host change: the counter of lost records, the accounting
counters, the records that join the event ring, and the link layers. -/
structure UpToTraffic (s t : State) : Prop where
  word : ∀ off, off ≠ RNG_EQ_LOST.reg → accounting off = false → t.word off = s.word off
  waiting : ∃ l, t.evq.waiting = s.evq.waiting ++ l
  port : ∀ p : Port, ∃ k, t.ports[p] = { s.ports[p] with link := k }
  well : ∀ w : WellNo, ∃ k, t.wells[w] = { s.wells[w] with link := k }
  build : t.build = s.build

namespace UpToTraffic

variable {s t u : State}

theorem of_same (hword : ∀ off, t.word off = s.word off) (hevq : t.evq = s.evq) (hports : t.ports = s.ports)
    (hwells : t.wells = s.wells) (hbuild : t.build = s.build) : UpToTraffic s t where
  word off _ _ := hword off
  waiting := ⟨[], by rw [hevq, List.append_nil]⟩
  port p := ⟨s.ports[p].link, by rw [hports]⟩
  well w := ⟨s.wells[w].link, by rw [hwells]⟩
  build := hbuild

theorem refl (s : State) : UpToTraffic s s := of_same (fun _ => rfl) rfl rfl rfl rfl

theorem trans (h : UpToTraffic s t) (h' : UpToTraffic t u) : UpToTraffic s u where
  word off h1 h2 := (h'.word off h1 h2).trans (h.word off h1 h2)
  waiting := by
    obtain ⟨l, hl⟩ := h.waiting
    obtain ⟨m, hm⟩ := h'.waiting
    exact ⟨l ++ m, by rw [hm, hl, List.append_assoc]⟩
  port p := by
    obtain ⟨k, hk⟩ := h.port p
    obtain ⟨m, hm⟩ := h'.port p
    exact ⟨m, by rw [hm, hk]⟩
  well w := by
    obtain ⟨k, hk⟩ := h.well w
    obtain ⟨m, hm⟩ := h'.well w
    exact ⟨m, by rw [hm, hk]⟩
  build := h'.build.trans h.build

theorem withRouteWait (h : UpToTraffic s t) (r : List TxPkt) : UpToTraffic s { t with routeWait := r } :=
  h.trans (of_same (fun _ => rfl) rfl rfl rfl rfl)

/-- A fold of operations that traffic accounts for. -/
theorem foldl {β : Type} {f : State → β → State} (l : List β) (s : State) (h : ∀ s x, UpToTraffic s (f s x)) :
    UpToTraffic s (l.foldl f s) :=
  foldl_keeps (P := UpToTraffic s) l (refl s) fun t x ht => ht.trans (h t x)

/-- An event reported before the traffic is still reported after it. -/
theorem reports {code : Nat} (hr : Reports s code t) (h : UpToTraffic t u) : Reports s code u := by
  intro hup hroom
  obtain ⟨l, e, hl, he, hcode⟩ := hr hup hroom
  obtain ⟨m, hm⟩ := h.waiting
  exact ⟨l ++ m, e, by rw [hm, hl, List.append_assoc], List.mem_append_left m he, hcode⟩

theorem rd (h : UpToTraffic s t) (f : Fld) (h1 : f.off ≠ RNG_EQ_LOST.reg) (h2 : accounting f.off = false) : t.rd f = s.rd f := by
  unfold State.rd
  rw [h.word f.off h1 h2]

end UpToTraffic

/-! ### Events -/

theorem State.enqueue_waiting (s : State) (e : Event) : ∃ l, (s.enqueue e).evq.waiting = s.evq.waiting ++ l := by
  unfold State.enqueue
  split
  · exact ⟨[], (List.append_nil _).symm⟩
  · split
    · exact ⟨[e], rfl⟩
    · exact ⟨[], (List.append_nil _).symm⟩

theorem State.raiseEv_traffic (s : State) (e : Event) : UpToTraffic s (s.raiseEv e) := by
  obtain ⟨l, hl⟩ := State.enqueue_waiting s e
  obtain ⟨r, hr⟩ := State.record_eq (s.enqueue e) e
  obtain ⟨q, v, w, m, h⟩ := State.raiseEv_eq s e
  refine ⟨fun off h1 _ => State.raiseEv_word_ne s e h1, ⟨l, ?_⟩, fun p => ⟨s.ports[p].link, ?_⟩, fun w => ⟨s.wells[w].link, ?_⟩, ?_⟩
  · unfold State.raiseEv
    rw [hr]
    exact hl
  all_goals rw [h]

theorem State.raise_traffic (s : State) (code sev : Nat) (data : List Nat) (c : Option Ctx) (seq : Word) (addr : Nat) :
    UpToTraffic s (s.raise code sev data c seq addr) := State.raiseEv_traffic s _

/-! ### Packets -/

theorem State.modLink_traffic (s : State) (l : LinkId) (f : Link → Link) : UpToTraffic s (s.modLink l f) := by
  cases l with
  | port p =>
    refine ⟨fun _ _ _ => rfl, ⟨[], (List.append_nil _).symm⟩, fun q => ?_, fun w => ⟨_, rfl⟩, rfl⟩
    by_cases h : q = p
    · subst h
      exact ⟨f s.ports[q].link, by simp [State.modLink, State.modPort]⟩
    · exact ⟨s.ports[q].link, by simp [State.modLink, State.modPort, Fin.val_ne_of_ne (Ne.symm h)]⟩
  | well w =>
    refine ⟨fun _ _ _ => rfl, ⟨[], (List.append_nil _).symm⟩, fun q => ⟨_, rfl⟩, fun v => ?_, rfl⟩
    by_cases h : v = w
    · subst h
      exact ⟨f s.wells[v].link, by simp [State.modLink]⟩
    · exact ⟨s.wells[v].link, by simp [State.modLink, Fin.val_ne_of_ne (Ne.symm h)]⟩
  | mirror => exact .of_same (fun _ => rfl) rfl rfl rfl rfl

theorem State.enqueueOn_traffic (s : State) (l : LinkId) (pkt : Pkt) (sub : Nat) (release : List Nat) (mask : Nat) :
    UpToTraffic s (s.enqueueOn l pkt sub release mask) := by
  unfold State.enqueueOn
  exact State.modLink_traffic s l _

theorem State.sendRaw_traffic (s : State) (t : TxPkt) : UpToTraffic s (s.sendRaw t).1 := by
  unfold State.sendRaw
  dsimp only
  split
  · exact .of_same (fun _ => rfl) rfl rfl rfl rfl
  · split
    · exact .refl s
    · split
      · exact .of_same (fun _ => rfl) rfl rfl rfl rfl
      · dsimp only
        exact State.enqueueOn_traffic s _ _ _ _ _

theorem State.sendNotice_traffic (s : State) (p : Pkt) : UpToTraffic s (s.sendNotice p) := by
  have key := State.sendRaw_traffic s ⟨p, 0, []⟩
  unfold State.sendNotice
  split
  · next s1 heq =>
    rw [heq] at key
    exact key.trans (State.raise_traffic s1 _ _ _ _ _ _)
  · next s1 _ heq =>
    rw [heq] at key
    exact key

theorem State.abortTo_traffic (s : State) (src dsts : Nat) (c : Ctx) (seq : Word) (att cause detail : Nat) :
    UpToTraffic s (s.abortTo src dsts c seq att cause detail) := by
  unfold State.abortTo
  dsimp only
  have key := fun (f : Nat → Pkt) (l : List Nat) =>
    UpToTraffic.foldl (f := fun (s : State) (d : Nat) => s.sendNotice (f d)) l s fun t d => State.sendNotice_traffic t (f d)
  split
  · exact key _ _
  · exact (key _ _).trans (.of_same (fun _ => rfl) rfl rfl rfl rfl)

theorem State.sendAbort_traffic (s : State) (c : Ctx) (seq : Word) (att cause detail : Nat) :
    UpToTraffic s (s.sendAbort c seq att cause detail) := by
  unfold State.sendAbort
  dsimp only
  split
  · exact .refl s
  · exact State.abortTo_traffic _ _ _ _ _ _ _ _

theorem State.noticeAs_traffic (s : State) (n : Option (Chip × Chip)) (c : Ctx) (seq : Word) (att cause detail : Nat) :
    UpToTraffic s (s.noticeAs n c seq att cause detail) := by
  unfold State.noticeAs
  split
  · exact State.sendAbort_traffic _ _ _ _ _ _
  · exact State.abortTo_traffic _ _ _ _ _ _ _ _

theorem State.releaseAll_traffic (s : State) (hs : List Nat) : UpToTraffic s (s.releaseAll hs) := by
  obtain ⟨b, d, f, h⟩ := State.releaseAll_eq s hs
  rw [h]
  exact .of_same (fun _ => rfl) rfl rfl rfl rfl

theorem State.send_traffic (s : State) (pkt : Pkt) (release : List Nat) (sub : Nat) : UpToTraffic s (s.send pkt release sub) := by
  have key := State.sendRaw_traffic s ⟨pkt, sub, release⟩
  unfold State.send
  split
  · next s1 heq =>
    rw [heq] at key
    have hraise := (key.trans (State.releaseAll_traffic s1 release)).trans
      (State.raise_traffic _ 0x0705 2 [(dstOf pkt).val, ptypeOf pkt] none 0 0)
    dsimp only
    split
    · exact hraise.trans (State.noticeAs_traffic _ _ _ _ _ _ _)
    · exact hraise
  · next s1 _ heq =>
    rw [heq] at key
    exact key

theorem State.noticeLive_traffic (s : State) (c : Ctx) (cause detail : Nat) : UpToTraffic s (s.noticeLive c cause detail) := by
  unfold State.noticeLive
  split
  · exact State.sendAbort_traffic _ _ _ _ _ _
  · exact .refl s

theorem State.pumpWaiting_traffic (s : State) : UpToTraffic s s.pumpWaiting :=
  UpToTraffic.trans (t := { s with routeWait := [] }) (.of_same (fun _ => rfl) rfl rfl rfl rfl)
    (UpToTraffic.foldl _ _ fun t x => State.send_traffic t x.pkt x.release x.sub)

theorem State.freeHold_traffic (s : State) (h : Option (LinkId × Fin 8 × Nat)) : UpToTraffic s (s.freeHold h) := by
  unfold State.freeHold
  split
  · split <;> exact State.modLink_traffic _ _ _
  · exact .refl s

theorem State.clearLink_traffic (s : State) (l : LinkId) : UpToTraffic s (s.clearLink l) := by
  refine ((State.modLink_traffic s l fun _ => Link.fresh).trans ?_).trans (State.releaseAll_traffic _ _)
  exact .of_same (fun _ => rfl) rfl rfl rfl rfl

/-! ### The Host Port and its accounts (R293) -/

/-- The counters that a request moves lie among the accounting counters of its context. -/
theorem accounting_at (c : Ctx) {k : Nat} (h1 : 0x28 ≤ k) (h2 : k < 0x80) : accounting (0x0D1000 + k + 0x80 * c.val) = true := by
  have hc := c.isLt
  unfold accounting
  rw [Bool.and_eq_true, decide_eq_true_iff, decide_eq_true_iff]
  omega

theorem State.wr_traffic (s : State) (f : Fld) (v : Nat) (h : accounting f.off = true) : UpToTraffic s (s.wr f v) where
  word off _ h2 := State.wr_word_ne s f v fun e => by rw [e, h] at h2; exact Bool.noConfusion h2
  waiting := ⟨[], by rw [State.wr_evq, List.append_nil]⟩
  port p := ⟨s.ports[p].link, by rw [State.wr_ports]⟩
  well w := ⟨s.wells[w].link, by rw [State.wr_wells]⟩
  build := State.wr_build s f v

theorem State.addPair_traffic (s : State) (lo hi : Fld) (n : Nat) (hlo : accounting lo.off = true) (hhi : accounting hi.off = true) :
    UpToTraffic s (s.addPair lo hi n) := (State.wr_traffic s lo _ hlo).trans (State.wr_traffic _ hi _ hhi)

theorem State.accEnergy_traffic (s : State) (c : Ctx) (fj : Nat) : UpToTraffic s (s.accEnergy c fj) := by
  unfold State.accEnergy
  dsimp only
  exact UpToTraffic.trans (t := { s with work := { s.work with accFJ := s.work.accFJ.set c ((s.work.accFJ[c] + fj) % 10 ^ 9) } })
    (.of_same (fun _ => rfl) rfl rfl rfl rfl)
    (State.addPair_traffic _ _ _ _ (accounting_at c (k := 0x48) (by decide) (by decide))
      (accounting_at c (k := 0x4C) (by decide) (by decide)))

theorem State.accHost_traffic (s : State) (c : Ctx) (n : Nat) : UpToTraffic s (s.accHost c n) :=
  (State.addPair_traffic s _ _ _ (accounting_at c (k := 0x40) (by decide) (by decide))
    (accounting_at c (k := 0x44) (by decide) (by decide))).trans (State.accEnergy_traffic _ _ _)

theorem State.accIssue_traffic (s : State) (r : HostReq) : UpToTraffic s (s.accIssue r) := by
  unfold State.accIssue
  split
  · exact State.accHost_traffic _ _ _
  · exact .refl s

theorem State.emit_traffic (s : State) (e : Emission) : UpToTraffic s (s.emit e) := .of_same (fun _ => rfl) rfl rfl rfl rfl

theorem State.issueOne_traffic (s : State) (r : HostReq) : UpToTraffic s (s.issueOne r) := by
  unfold State.issueOne
  dsimp only
  split
  · split
    · exact .of_same (fun _ => rfl) rfl rfl rfl rfl
    · next t _ _ =>
      refine (UpToTraffic.trans (t := { s with host := { s.host with
        txns := s.host.txns ++ [{ tag := t, req := r, got := [], orphan := false }] } }) ?_ (State.accIssue_traffic _ r)).trans
        (State.emit_traffic _ _)
      exact .of_same (fun _ => rfl) rfl rfl rfl rfl
  · exact .of_same (fun _ => rfl) rfl rfl rfl rfl

theorem State.hostWrite_traffic (s : State) (why : Purpose) (addr : Nat) (bytes : List Byte) :
    UpToTraffic s (s.hostWrite why addr bytes) := UpToTraffic.foldl _ _ fun t _ => State.issueOne_traffic t _

/-! ### Collectives (R271) -/

theorem State.modChan_traffic (s : State) (ch : Fin 16) (f : Channel → Channel) : UpToTraffic s (s.modChan ch f) :=
  .of_same (fun _ => rfl) rfl rfl rfl rfl

theorem State.colAbortSend_traffic (s : State) (ch : Fin 16) (cause newatt : Nat) :
    UpToTraffic s (s.colAbortSend ch cause newatt) := by
  unfold State.colAbortSend
  dsimp only
  split
  · exact .refl s
  · exact UpToTraffic.foldl _ _ fun t _ => State.send_traffic t _ _ _

theorem State.colAbortIf_traffic (s : State) (cause : Nat) (hit : State → Fin 16 → Bool) :
    UpToTraffic s (s.colAbortIf cause hit) := by
  refine UpToTraffic.foldl _ _ fun t ch => ?_
  split
  · exact State.colAbortSend_traffic t ch cause 0
  · exact .refl t

theorem State.colAbortFor_traffic (s : State) (k : PktKey) : UpToTraffic s (s.colAbortFor k) :=
  (State.send_traffic s _ _ _).trans (State.send_traffic _ _ _ _)

theorem State.abortKeys_traffic (s : State) (l : List PktKey) : UpToTraffic s (s.abortKeys l) := by
  unfold State.abortKeys
  refine UpToTraffic.trans ?_ (State.colAbortIf_traffic _ _ _)
  refine UpToTraffic.trans ?_ (UpToTraffic.foldl _ _ State.colAbortFor_traffic)
  exact UpToTraffic.foldl _ _ fun t k => State.noticeAs_traffic t _ _ _ _ _ _

theorem State.flushTx_traffic (s : State) (hit : TxFlit → Bool) : UpToTraffic s (s.flushTx hit) :=
  UpToTraffic.foldl _ _ fun t l => (State.modLink_traffic t l _).trans (State.releaseAll_traffic _ _)

theorem State.flushLanded_traffic (s : State) (hit : Pkt → Bool) : UpToTraffic s (s.flushLanded hit) :=
  UpToTraffic.trans (t := { s with landed := s.landed.filter fun l => !hit l.pkt }) (.of_same (fun _ => rfl) rfl rfl rfl rfl)
    (UpToTraffic.foldl _ _ fun t _ => (State.freeHold_traffic t _).trans (State.releaseAll_traffic _ _))

theorem State.dropReads_traffic (s : State) (hit : Purpose → Bool) : UpToTraffic s (s.dropReads hit) :=
  .of_same (fun _ => rfl) rfl rfl rfl rfl

theorem State.colDrop_traffic (s : State) (ch : Fin 16) : UpToTraffic s (s.colDrop ch) := by
  unfold State.colDrop
  dsimp only
  exact (((State.flushTx_traffic s _).trans (State.flushLanded_traffic _ _)).withRouteWait _).trans (State.dropReads_traffic _ _)

theorem State.colTryHeader_traffic (s : State) (ch : Fin 16) : UpToTraffic s (s.colTryHeader ch) := by
  unfold State.colTryHeader
  split
  · exact .refl s
  · split
    · exact .refl s
    · exact (State.modChan_traffic s ch _).trans (State.hostWrite_traffic _ _ _ _)

theorem State.colFail_traffic (s : State) (ch : Fin 16) (cause : Nat) : UpToTraffic s (s.colFail ch cause) := by
  unfold State.colFail
  exact (((State.colDrop_traffic s ch).trans (State.raise_traffic _ _ _ _ _ _ _)).trans (State.modChan_traffic _ ch _)).trans
    (State.colTryHeader_traffic _ ch)

theorem State.colAbsent_traffic (s : State) (hit : State → Fin 16 → Bool) : UpToTraffic s (s.colAbsent hit) := by
  refine (State.colAbortIf_traffic s 4 hit).trans (UpToTraffic.foldl _ _ fun t ch => ?_)
  split
  · exact State.colFail_traffic t ch 4
  · exact .refl t

end Sys2Proof.Machine
end

section
/-!
SUPPORT. Port states (R306, R307): a port through a change of state.
-/

namespace Sys2Proof.Machine

open Sys2Proof

/-! ### Ports -/

theorem UpToTraffic.rd_outside {s t : State} (h : UpToTraffic s t) (f : Fld) (hlo : 0x060000 ≤ f.off)
    (hacc : f.off < 0x0D1000 ∨ 0x0D1800 ≤ f.off) : t.rd f = s.rd f := by
  refine h.rd f (by unfold RNG_EQ_LOST.reg; omega) ?_
  unfold accounting
  rw [Bool.and_eq_false_iff, decide_eq_false_iff_not]
  omega

theorem State.wrIf_rd_ne (s : State) (f g : Fld) (v : Nat) (h : g.off ≠ f.off) : (s.wrIf f v).rd g = s.rd g := by
  unfold State.wrIf
  split
  · rfl
  · exact State.wr_rd_ne s f g v h

theorem State.wrIf_rd_other (s : State) (f g : Fld) (v : Nat) (h0 : g.off = f.off) (h : f.lo + f.len ≤ g.lo ∨ g.lo + g.len ≤ f.lo)
    (hg : g.lo + g.len ≤ 32) : (s.wrIf f v).rd g = s.rd g := by
  unfold State.wrIf
  split
  · rfl
  · exact State.wr_rd_other s f g v h0 h hg

/-- The port stands in a state (R306), with a number of good BEACONs in a row (R308). -/
def State.PortAt (s : State) (p : Port) (state good : Nat) : Prop := s.portState p = state ∧ s.ports[p].good = good

section
variable {s t : State} {p : Port} {n g : Nat}

theorem State.PortAt.traffic (h : s.PortAt p n g) (ht : UpToTraffic s t) : t.PortAt p n g := by
  obtain ⟨hstate, hgood⟩ := h
  obtain ⟨k, hk⟩ := ht.port p
  refine ⟨(ht.rd_outside _ ?_ (.inl ?_)).trans hstate, by rw [hk]; exact hgood⟩
  all_goals
    unfold PMP_LNK_STATUS.STATE
    dsimp only
    omega

theorem State.PortAt.ite {c : Prop} [Decidable c] (ht : c → t.PortAt p n g) (hs : ¬c → s.PortAt p n g) :
    (if c then t else s).PortAt p n g := by
  split
  · next h => exact ht h
  · next h => exact hs h

theorem State.PortAt.wr_ne (h : s.PortAt p n g) (f : Fld) (v : Nat) (hf : (PMP_LNK_STATUS.STATE p).off ≠ f.off) :
    (s.wr f v).PortAt p n g := ⟨(State.wr_rd_ne s f _ v hf).trans h.1, by rw [State.wr_ports]; exact h.2⟩

theorem State.PortAt.wrIf_ne (h : s.PortAt p n g) (f : Fld) (v : Nat) (hf : (PMP_LNK_STATUS.STATE p).off ≠ f.off) :
    (s.wrIf f v).PortAt p n g := ⟨(State.wrIf_rd_ne s f _ v hf).trans h.1, by rw [State.wrIf_ports]; exact h.2⟩

/-- The other fields of `PMP_LNK_STATUS` lie above STATE. -/
theorem State.PortAt.wrIf_status (h : s.PortAt p n g) (f : Fld) (v : Nat) (hf : (PMP_LNK_STATUS.STATE p).off = f.off)
    (hlo : 4 ≤ f.lo) : (s.wrIf f v).PortAt p n g :=
  ⟨(State.wrIf_rd_other s f _ v hf (.inr hlo) (Nat.le_of_ble_eq_true rfl)).trans h.1, by rw [State.wrIf_ports]; exact h.2⟩

theorem State.PortAt.modPort (h : s.PortAt p n g) (f : PortState → PortState) (hf : ∀ x, (f x).good = x.good) :
    (s.modPort p f).PortAt p n g := ⟨h.1, by simpa [State.modPort, hf] using h.2⟩

theorem State.PortAt.endRemoval (h : s.PortAt p n g) : (s.endRemoval p).PortAt p n g := by
  refine (h.wrIf_ne (SVC_PORT_STATUS.RPHASE p) 0 ?_).modPort _ fun _ => rfl
  unfold PMP_LNK_STATUS.STATE SVC_PORT_STATUS.RPHASE
  dsimp only
  omega

theorem State.leaveUp_traffic (s : State) (p : Port) : UpToTraffic s (s.leaveUp p) :=
  ((State.clearLink_traffic s _).trans (State.raise_traffic _ _ _ _ _ _ _)).trans (State.abortKeys_traffic _ _)

/-- A port that changes state stands in the new one; a link-layer start begins the count of good BEACONs (R307). -/
theorem State.PortAt.setPort (h : s.PortAt p n g) {new : Nat} (hne : n ≠ new) (hnew : new < 16) :
    (s.setPort p new).PortAt p new (if new = 2 then 0 else g) := by
  obtain ⟨hstate, hgood⟩ := h
  unfold State.setPort
  rw [hstate, if_neg hne]
  dsimp only
  have h1 : (s.wr (PMP_LNK_STATUS.STATE p) new).PortAt p new g :=
    ⟨(State.wr_rd s _ new (Nat.le_of_ble_eq_true rfl)).trans (Nat.mod_eq_of_lt hnew), by rw [State.wr_ports]; exact hgood⟩
  have h2 := h1.traffic (State.raise_traffic _ 0x0707 0 [p.val, n, new] none 0 0)
  have h3 : ∀ u : State, u.PortAt p new g → (u.bump (PMP_LNK_DOWN_CNT.COUNT p)).PortAt p new g := fun u hu =>
    hu.wr_ne _ _ (by unfold PMP_LNK_STATUS.STATE PMP_LNK_DOWN_CNT.COUNT; dsimp only; omega)
  refine (State.PortAt.modPort ?_ (fun x => { x with trainFails := 0 }) fun _ => rfl).traffic (State.pumpWaiting_traffic _)
  have h4 := State.PortAt.ite (c := (decide (n = 3 ∨ n = 4) && (new == 0 || new == 6)) = true) (fun _ => h3 _ h2) fun _ => h2
  have h5 := State.PortAt.ite (c := (decide (n = 3 ∨ n = 4) && leaves new) = true) (fun _ => h4.traffic (State.leaveUp_traffic _ p))
    fun _ => h4
  have h6 := State.PortAt.ite (c := (leaves new || new == 5) = true) (fun _ => h5.endRemoval) fun _ => h5
  generalize (if (leaves new || new == 5) = true then _ else _ : State) = u at h6 ⊢
  have h7 : (if new = 2 then (u.trainLink (.port p) (u.rd (PMP_RBUF.SHARE p))).modPort p fun x => { x with good := 0, locked := false }
      else u).PortAt p new (if new = 2 then 0 else g) := by
    split
    · exact ⟨(h6.traffic (State.modLink_traffic u _ _)).1, by simp [State.modPort]⟩
    · exact h6
  generalize (if new = 2 then _ else _ : State) = v at h7 ⊢
  refine .ite (fun _ => ?_) fun _ => .ite (fun _ => ?_) fun _ => h7
  · exact (h7.wrIf_status (PMP_LNK_STATUS.LANES p) 0 rfl (Nat.le_of_ble_eq_true rfl)).wrIf_status
      (PMP_LNK_STATUS.WIDTH4 p) 0 rfl (Nat.le_of_ble_eq_true rfl)
  · exact h7.wrIf_status (PMP_LNK_STATUS.LANES p) 0 rfl (Nat.le_of_ble_eq_true rfl)

theorem State.PortAt.portUp (h : s.PortAt p n g) (hne : n ≠ 3) : (s.portUp p).PortAt p 3 g := by
  have hset := h.setPort hne (new := 3) (by decide)
  unfold State.portUp
  exact .ite (fun _ => hset.traffic (State.raise_traffic _ _ _ _ _ _ _)) fun _ => hset

end

end Sys2Proof.Machine
end

section
/-!
SUPPORT. Absent chips (R323): sets of chips, pairs of registers, and the declaration of absence.
-/

namespace Sys2Proof.Machine

open Sys2Proof

/-! ### Sets of chips -/

theorem mem_bitsSet {n m i : Nat} : i ∈ bitsSet n m ↔ i < n ∧ m.testBit i = true := by
  simp [bitsSet]

theorem bitsSet_two_pow {n i : Nat} (h : i < n) : bitsSet n (2 ^ i) = [i] := by
  unfold bitsSet
  have hfilter : (List.range n).filter (fun j => (2 ^ i).testBit j) = (List.range n).filter (fun j => j == i) :=
    List.filter_congr fun j _ => by
      rw [Nat.testBit_two_pow, Bool.eq_iff_iff, decide_eq_true_iff, beq_iff_eq]
      exact eq_comm
  rw [hfilter, List.filter_beq, List.count_range]
  simp [h]

theorem maskOf_testBit (l : List Nat) (i : Nat) : (maskOf l).testBit i = l.contains i := by
  have key : ∀ m, (l.foldl (fun m i => m ||| 2 ^ i) m).testBit i = (m.testBit i || l.contains i) := by
    induction l with
    | nil => simp
    | cons a t ih =>
      intro m
      rw [List.foldl_cons, ih, Nat.testBit_or, Nat.testBit_two_pow, List.contains_cons, Bool.or_assoc]
      congr 2
      rw [Bool.eq_iff_iff, decide_eq_true_iff, beq_iff_eq]
      exact eq_comm
  simpa [maskOf] using key 0

/-! ### Pairs -/

theorem Fld.get_lt (f : Fld) (w : Word) : f.get w < 2 ^ f.len := Nat.mod_lt _ (Nat.two_pow_pos _)

/-- A pair that was stored reads the value stored (R10). -/
theorem State.wr2_rd2 (s : State) (lo hi : Fld) (v : Nat) (hne : lo.off ≠ hi.off) (hlo : lo.lo + lo.len ≤ 32)
    (hhi : hi.lo + hi.len ≤ 32) (hv : v < 2 ^ (lo.len + hi.len)) : (s.wr2 lo hi v).rd2 lo hi = v := by
  have h1 : (s.wr2 lo hi v).rd lo = v % 2 ^ lo.len := (State.wr_rd_ne _ hi lo _ hne).trans (State.wr_rd s lo v hlo)
  have h2 : (s.wr2 lo hi v).rd hi = v / 2 ^ lo.len :=
    (State.wr_rd _ hi _ hhi).trans (Nat.mod_eq_of_lt (Nat.div_lt_of_lt_mul (by rwa [← Nat.pow_add])))
  unfold State.rd2
  rw [h1, h2, Nat.mul_comm]
  exact Nat.mod_add_div v _

theorem State.wr2_rd_ne (s : State) (lo hi f : Fld) (v : Nat) (hlo : f.off ≠ lo.off) (hhi : f.off ≠ hi.off) :
    (s.wr2 lo hi v).rd f = s.rd f := (State.wr_rd_ne _ hi f _ hhi).trans (State.wr_rd_ne s lo f _ hlo)

theorem State.wr2_hubUp (s : State) (lo hi : Fld) (v : Nat) : (s.wr2 lo hi v).hubUp = s.hubUp := by
  obtain ⟨a, x, m, h⟩ := State.wr2_eq s lo hi v
  rw [h]
  rfl

/-! ### Absence (R323) -/

theorem State.absent_lt (s : State) : s.absent < 2 ^ 64 := by
  have h1 := Fld.get_lt SVC_ABSENT_LO.CHIPS (s.word SVC_ABSENT_LO.CHIPS.off)
  have h2 := Fld.get_lt SVC_ABSENT_HI.CHIPS (s.word SVC_ABSENT_HI.CHIPS.off)
  have e : s.absent = SVC_ABSENT_LO.CHIPS.get (s.word SVC_ABSENT_LO.CHIPS.off) +
    SVC_ABSENT_HI.CHIPS.get (s.word SVC_ABSENT_HI.CHIPS.off) * 2 ^ 32 := rfl
  have hl : SVC_ABSENT_LO.CHIPS.len = 32 := rfl
  have hh : SVC_ABSENT_HI.CHIPS.len = 32 := rfl
  rw [hl] at h1
  rw [hh] at h2
  omega

/-- The chips of a mask that are not yet set absent. -/
def State.newAbsent (s : State) (mask : Nat) : List Nat := (bitsSet 64 mask).filter fun d => !s.absent.testBit d

theorem State.declareAbsent_nil (s : State) (mask reason : Nat) (h : s.newAbsent mask = []) : s.declareAbsent mask reason = s := by
  unfold State.newAbsent at h
  unfold State.declareAbsent
  dsimp only
  rw [h]

/-- The state in which the bits of the chips newly absent are set. -/
def State.setAbsent (s : State) (mask : Nat) : State :=
  s.wr2 SVC_ABSENT_LO.CHIPS SVC_ABSENT_HI.CHIPS (s.absent ||| maskOf (s.newAbsent mask))

theorem State.declareAbsent_cons (s : State) (mask reason d : Nat) (ds : List Nat) (h : s.newAbsent mask = d :: ds) :
    UpToTraffic ((s.setAbsent mask).raise 0x0C05 2 [d, reason]) (s.declareAbsent mask reason) := by
  unfold State.setAbsent
  rw [h]
  unfold State.newAbsent at h
  unfold State.declareAbsent
  dsimp only
  rw [h]
  refine UpToTraffic.trans ?_ (State.colAbsent_traffic _ _)
  refine UpToTraffic.trans ?_ (UpToTraffic.foldl _ _ fun t c => ?_)
  · refine UpToTraffic.trans ?_ (UpToTraffic.foldl _ _ fun t p => State.emit_traffic t _)
    rw [List.foldl_cons]
    exact UpToTraffic.foldl _ _ fun t x => State.raise_traffic t _ _ _ _ _ _
  · split
    · exact State.noticeLive_traffic t c 2 0x20
    · exact .refl t

/-- Declaring chips absent sets their bits, and beyond that is traffic. -/
theorem State.declareAbsent_traffic (s : State) (mask reason : Nat) :
    UpToTraffic (s.setAbsent mask) (s.declareAbsent mask reason) ∨ (s.newAbsent mask = [] ∧ s.declareAbsent mask reason = s) := by
  cases h : s.newAbsent mask with
  | nil => exact .inr ⟨rfl, State.declareAbsent_nil s mask reason h⟩
  | cons d ds => exact .inl ((State.raise_traffic _ _ _ _ _ _ _).trans (State.declareAbsent_cons s mask reason d ds h))

theorem State.declareAbsent_reports (s : State) (mask reason : Nat) (h : s.newAbsent mask ≠ []) :
    Reports s 0x0C05 (s.declareAbsent mask reason) := by
  obtain ⟨d, ds, hd⟩ := List.exists_cons_of_ne_nil h
  have hr := State.raise_reports (s.setAbsent mask) 0x0C05 2 [d, reason] none 0 0
  refine UpToTraffic.reports ?_ (State.declareAbsent_cons s mask reason d ds hd)
  unfold Reports at hr ⊢
  unfold State.setAbsent at hr ⊢
  rwa [State.wr2_hubUp, State.wr2_evq] at hr

theorem State.newAbsent_contains (s : State) (mask : Nat) (i : Nat) :
    (s.newAbsent mask).contains i = (decide (i < 64) && mask.testBit i && !s.absent.testBit i) := by
  rw [Bool.eq_iff_iff]
  simp [State.newAbsent, mem_bitsSet]

theorem State.setAbsent_absent (s : State) (mask : Nat) :
    (s.setAbsent mask).absent = s.absent ||| maskOf (s.newAbsent mask) := by
  have hlen : SVC_ABSENT_LO.CHIPS.len + SVC_ABSENT_HI.CHIPS.len = 64 := rfl
  have hlt : s.absent ||| maskOf (s.newAbsent mask) < 2 ^ 64 := by
    refine Nat.or_lt_two_pow s.absent_lt (Nat.lt_pow_two_of_testBit _ fun i hi => ?_)
    rw [maskOf_testBit, State.newAbsent_contains, decide_eq_false (Nat.not_lt.mpr hi)]
    rfl
  unfold State.setAbsent
  generalize s.absent ||| maskOf (s.newAbsent mask) = v at hlt ⊢
  exact State.wr2_rd2 s SVC_ABSENT_LO.CHIPS SVC_ABSENT_HI.CHIPS v (by decide) (Nat.le_of_ble_eq_true rfl)
    (Nat.le_of_ble_eq_true rfl) (by rw [hlen]; exact hlt)

theorem UpToTraffic.absent {s t : State} (h : UpToTraffic s t) : t.absent = s.absent := by
  unfold State.absent State.rd2
  rw [h.rd_outside SVC_ABSENT_LO.CHIPS (by decide) (by decide), h.rd_outside SVC_ABSENT_HI.CHIPS (by decide) (by decide)]

/-- A chip is absent once it has been declared so, or was before. -/
theorem State.declareAbsent_testBit (s : State) (mask reason : Nat) (d : Chip) :
    (s.declareAbsent mask reason).absent.testBit d.val = (mask.testBit d.val || s.absent.testBit d.val) := by
  have hnew : (s.newAbsent mask).contains d.val = (mask.testBit d.val && !s.absent.testBit d.val) := by
    rw [State.newAbsent_contains, decide_eq_true d.isLt, Bool.true_and]
  rcases State.declareAbsent_traffic s mask reason with h | ⟨hnil, h⟩
  · have habs := State.setAbsent_absent s mask
    rw [h.absent, habs, Nat.testBit_or, maskOf_testBit, hnew]
    generalize s.absent.testBit d.val = a, mask.testBit d.val = m
    revert a m
    decide
  · rw [h]
    rw [hnil] at hnew
    rw [List.contains_nil] at hnew
    generalize s.absent.testBit d.val = a, mask.testBit d.val = m at hnew ⊢
    revert a m
    decide

theorem State.declareAbsent_rd (s : State) (mask reason : Nat) (f : Fld) (hlo : 0x060000 ≤ f.off)
    (hacc : f.off < 0x0D1000 ∨ 0x0D1800 ≤ f.off) (h1 : f.off ≠ SVC_ABSENT_LO.reg) (h2 : f.off ≠ SVC_ABSENT_HI.reg) :
    (s.declareAbsent mask reason).rd f = s.rd f := by
  rcases State.declareAbsent_traffic s mask reason with h | ⟨-, h⟩
  · exact (h.rd_outside f hlo hacc).trans (State.wr2_rd_ne s _ _ f _ h1 h2)
  · rw [h]

theorem State.PortAt.declareAbsent {s : State} {p : Port} {n g : Nat} (h : s.PortAt p n g) (mask reason : Nat) :
    (s.declareAbsent mask reason).PortAt p n g := by
  rcases State.declareAbsent_traffic s mask reason with ht | ⟨-, ht⟩
  · have hne : ∀ x, 0x0E0000 ≤ x → (PMP_LNK_STATUS.STATE p).off ≠ x := fun x hx => by
      unfold PMP_LNK_STATUS.STATE
      dsimp only
      omega
    exact ((h.wr_ne SVC_ABSENT_LO.CHIPS _ (hne _ (by decide))).wr_ne SVC_ABSENT_HI.CHIPS _ (hne _ (by decide))).traffic ht
  · rwa [ht]

end Sys2Proof.Machine
end

section
/-!
SUPPORT. Register words as a write stores them (R7, R8).
-/

namespace Sys2Proof.Machine

open Sys2Proof

/-! ### Stored register words (R7, R8) -/

/-- A field stored with the value it holds leaves its word as it is. -/
theorem Fld.put_get (f : Fld) (w : Word) : f.put w (f.get w) = w := by
  apply BitVec.eq_of_getLsbD_eq
  intro i hi
  rw [Fld.put_getLsbD, Fld.get_testBit, decide_eq_true hi, Bool.true_and]
  split
  · next h => rw [show f.lo + (i - f.lo) = i by omega, decide_eq_true (by omega : i - f.lo < f.len), Bool.true_and]
  · rfl

/-- A field that fills its word. -/
theorem Fld.get_full (off : Nat) (w : Word) : (⟨off, 0, 32⟩ : Fld).get w = w.toNat :=
  Nat.mod_eq_of_lt (by simpa using w.isLt)

theorem Fld.put_full (off : Nat) (w : Word) (v : Nat) : (⟨off, 0, 32⟩ : Fld).put w v = BitVec.ofNat 32 v := by
  apply BitVec.eq_of_getLsbD_eq
  intro i hi
  rw [Fld.put_getLsbD, BitVec.getLsbD_ofNat]
  simp [hi]

/-- Without a lock no field of a row counts as locked. -/
theorem writeRow_unlocked (fs : List FieldRow) (off : Nat) (cur v : Word) : (writeRow fs off false cur v).2 = false := by
  refine foldl_keeps (P := fun a : Word × Bool => a.2 = false) fs rfl fun a r ha => ?_
  simp [ha]

/-- A lock bit that is set keeps a row of RWL fields, and the write counts when a field would have changed (R8). -/
theorem writeRow_locked (fs : List FieldRow) (off : Nat) (cur v : Word) (h : ∀ r ∈ fs, r.acc = .rwl) :
    writeRow fs off true cur v = (cur, fs.any fun r => (r.fld off).get cur != (r.fld off).get v) := by
  have key : ∀ b : Bool, fs.foldl (fun (a : Word × Bool) (r : FieldRow) =>
      ((r.fld off).put a.1 (r.after true ((r.fld off).get cur) ((r.fld off).get v)),
        a.2 || (r.acc == .rwl && true && (r.fld off).get cur != (r.fld off).get v))) (cur, b) =
      (cur, b || fs.any fun r => (r.fld off).get cur != (r.fld off).get v) := by
    induction fs with
    | nil => intro b; simp
    | cons r t ih =>
      intro b
      have hr : r.acc = .rwl := h r (List.mem_cons_self ..)
      rw [List.foldl_cons, List.any_cons, ← Bool.or_assoc, ← ih fun x hx => h x (List.mem_cons_of_mem _ hx)]
      simp [FieldRow.after, hr, Fld.put_get]
  simpa [writeRow] using key false

/-- The word that an unlocked register holds after a write of `v`. -/
def State.stored (s : State) (r : RegRow) (off : Nat) (v : Word) : Word := (writeRow r.fields off false (s.word off) v).1

theorem State.store_unlocked (s : State) {off : Nat} (v : Word) {r : RegRow} (hr : findReg off = some r) (hl : lockOf off = none) :
    s.store off v = if s.stored r off v = s.word off then s else s.setWord off (s.stored r off v) := by
  unfold State.store State.stored
  rw [hr, hl]
  simp only [writeRow_unlocked, Bool.false_eq_true, if_false]

theorem State.store_word_same (s : State) {off : Nat} (v : Word) {r : RegRow} (hr : findReg off = some r) (hl : lockOf off = none) :
    (s.store off v).word off = s.stored r off v := by
  rw [State.store_unlocked s v hr hl]
  split
  · next h => exact h.symm
  · exact State.setWord_word_same _ _ _

/-- Storing a word without a lock leaves every other word, and all beside the register windows and what goes to the mirror. -/
theorem State.store_eq (s : State) {off : Nat} (v : Word) (hl : lockOf off = none) :
    ∃ a x m, s.store off v = { s with act := { s.act with win := a }, cwin := x, mch := m } ∧
      ∀ y, y ≠ off → (s.store off v).word y = s.word y := by
  have hsame : ∃ a x m, s = { s with act := { s.act with win := a }, cwin := x, mch := m } ∧ ∀ y, y ≠ off → s.word y = s.word y :=
    ⟨s.act.win, s.cwin, s.mch, rfl, fun _ _ => rfl⟩
  cases hr : findReg off with
  | none => simpa [State.store, hr] using hsame
  | some r =>
    rw [State.store_unlocked s v hr hl]
    split
    · exact hsame
    · obtain ⟨a, x, m, h⟩ := State.setWord_eq s off (s.stored r off v)
      exact ⟨a, x, m, h, fun y hy => State.setWord_word_ne s _ hy⟩

/-- What an unlocked register of one RW field that fills its word holds after a write. -/
theorem State.stored_rw (s : State) (r : RegRow) (off rst : Nat) (v : Word) (h : r.fields = [⟨0, 32, .rw, rst⟩]) :
    s.stored r off v = v := by
  simp [State.stored, h, writeRow, FieldRow.after, FieldRow.fld, Fld.get_full, Fld.put_full]

/-- What one of a single W1C field holds: the bits written 1 are cleared. -/
theorem State.stored_w1c (s : State) (r : RegRow) (off rst : Nat) (v : Word) (h : r.fields = [⟨0, 32, .w1c, rst⟩]) :
    s.stored r off v = s.word off &&& ~~~v := by
  have hv : v.toNat < 4294967296 := v.isLt
  apply BitVec.eq_of_toNat_eq
  simp only [State.stored, h, writeRow, FieldRow.after, FieldRow.fld, Fld.get_full, Fld.put_full, BitVec.toNat_not, List.foldl_cons,
    List.foldl_nil, BitVec.toNat_ofNat, BitVec.toNat_and, Nat.reducePow]
  rw [Nat.mod_eq_of_lt hv, Nat.mod_eq_of_lt (Nat.lt_of_le_of_lt Nat.and_le_left (s.word off).isLt)]

end Sys2Proof.Machine
end

section
/-!
SUPPORT. The pair `SVC_ABSENT` as a write clears it (R10, R324).
-/

namespace Sys2Proof.Machine

open Sys2Proof

/-! ### `SVC_ABSENT` (R10, R324) -/

/-- One half of `SVC_ABSENT`. -/
def absentReg (hi : Bool) : Nat := if hi then SVC_ABSENT_HI.reg else SVC_ABSENT_LO.reg

theorem findReg_absent (hi : Bool) : ∃ r, findReg (absentReg hi) = some r ∧ r.fields = [⟨0, 32, .w1c, 0⟩] := by
  cases hi
  · exact ⟨⟨0x0E0014, [], [⟨0, 32, .w1c, 0⟩]⟩, by decide +kernel, rfl⟩
  · exact ⟨⟨0x0E0018, [], [⟨0, 32, .w1c, 0⟩]⟩, by decide +kernel, rfl⟩

theorem lockOf_absent (hi : Bool) : lockOf (absentReg hi) = none := by
  cases hi <;> decide +kernel

/-- A write of one half clears the bits written 1, and leaves every other word and all but what was heard. -/
theorem svcAbsentWrite_word_same (hi : Bool) (v : Word) (s : State) :
    (svcAbsentWrite hi v s).word (absentReg hi) = s.word (absentReg hi) &&& ~~~v := by
  obtain ⟨r, hr, hf⟩ := findReg_absent hi
  exact (State.store_word_same s v hr (lockOf_absent hi)).trans (State.stored_w1c s r _ 0 v hf)

theorem svcAbsentWrite_word_ne (hi : Bool) (v : Word) (s : State) {x : Nat} (hx : x ≠ absentReg hi) :
    (svcAbsentWrite hi v s).word x = s.word x := by
  obtain ⟨_, _, _, -, h⟩ := State.store_eq s v (lockOf_absent hi)
  exact h x hx

theorem accessWrite_absentLo (v : Word) (s : State) : accessWrite .config (absentReg false) v s =
    { s with act := { s.act with loHeld := (s.act.loHeld.filter fun x =>
        !(x.1 == AccessPort.config && x.2.1 == absentReg false)) ++ [(.config, absentReg false, v)] } } := by
  unfold accessWrite
  rw [if_pos (by decide)]
  rfl

theorem accessWrite_absentHi (v : Word) (s : State) : accessWrite .config (absentReg true) v s =
    svcAbsentWrite true v (match s.heldLo .config (absentReg false) with
      | some l => svcAbsentWrite false l (s.dropLo .config (absentReg false))
      | none => s.dropLo .config (absentReg false)) := by
  unfold accessWrite
  rw [if_neg (by decide), if_pos (by decide)]
  unfold pairWrite
  rw [if_neg (by decide), if_neg (by decide), if_neg (by decide), if_pos (by decide)]
  rfl

end Sys2Proof.Machine
end

section
/-!
SUPPORT. BEACONs, absence and presence (R308, R323, R324): O33.
-/

namespace Sys2Proof.Machine

open Sys2Proof

/-! ### BEACON (R308) -/

section
variable {s : State} {p : Port} {n g : Nat}

/-- The check of a BEACON reads the chip's own identity and the neighbour expected at the port. -/
theorem State.declareAbsent_beaconGood (s : State) (p : Port) (x : BitVec 192) (mask reason : Nat) :
    (s.declareAbsent mask reason).beaconGood p x = s.beaconGood p x := by
  have hid : ∀ f : Fld, f.off = 0x0E0000 → (s.declareAbsent mask reason).rd f = s.rd f := fun f hf =>
    s.declareAbsent_rd mask reason f (by omega) (by omega) (by rw [hf]; decide) (by rw [hf]; decide)
  have hport : ∀ f : Fld, f.off = 0x060108 + 0x1000 * p.val → (s.declareAbsent mask reason).rd f = s.rd f := fun f hf =>
    s.declareAbsent_rd mask reason f (by omega) (by omega) (by rw [hf]; unfold SVC_ABSENT_LO.reg; omega)
      (by rw [hf]; unfold SVC_ABSENT_HI.reg; omega)
  unfold State.beaconGood State.chip
  rw [hid _ rfl, hid _ rfl, hport _ rfl, hport _ rfl, hport _ rfl]

theorem State.PortAt.beaconNote (h : s.PortAt p n g) (x : BitVec 192) : (s.beaconNote p x).PortAt p n g := by
  have hnoted := ((h.wrIf_status (PMP_LNK_STATUS.FCHIP p) (bcnChip x) rfl (Nat.le_of_ble_eq_true rfl)).wrIf_status
    (PMP_LNK_STATUS.FPORT p) (bcnPort x) rfl (Nat.le_of_ble_eq_true rfl)).wrIf_status
    (PMP_LNK_STATUS.VIA_BYPASS p) (bitNat (bcnViaV x)) rfl (Nat.le_of_ble_eq_true rfl)
  unfold State.beaconNote
  exact .ite (fun _ => hnoted) fun _ => hnoted.modPort _ fun _ => rfl

/-- The second good BEACON in a row brings a port in CHECK UP. -/
theorem State.PortAt.beaconCheck_good (h : s.PortAt p 2 g) {x : BitVec 192} (hx : s.beaconGood p x = true) :
    (s.beaconCheck p x).PortAt p (if g = 1 then 3 else 2) (g + 1) := by
  have hcount : ((s.beaconNote p x).modPort p fun y => { y with good := s.ports[p].good + 1, locked := false }).PortAt p 2 (g + 1) :=
    ⟨(h.beaconNote x).1, by simpa [State.modPort] using h.2⟩
  unfold State.beaconCheck
  rw [if_pos hx]
  dsimp only
  by_cases hg : g = 1
  · rw [if_pos (by rw [h.2, hg] : s.ports[p].good + 1 = 2), if_pos hg]
    exact hcount.portUp (by decide)
  · rw [if_neg (by rw [h.2]; omega : ¬s.ports[p].good + 1 = 2), if_neg hg]
    exact hcount

/-- A BEACON that fails the check leads to LOOPBACK or MISWIRED. -/
theorem State.PortAt.beaconCheck_bad (h : s.PortAt p 2 g) {x : BitVec 192} (hx : s.beaconGood p x = false) :
    (s.beaconCheck p x).portState p = if bcnChip x = s.chip then 8 else 7 := by
  have hvia : (if bcnViaV x = true then s.wrIf (PMP_LNK_STATUS.VIA_BYPASS p) 1 else s).PortAt p 2 g :=
    .ite (fun _ => h.wrIf_status _ 1 rfl (Nat.le_of_ble_eq_true rfl)) fun _ => h
  unfold State.beaconCheck
  rw [if_neg (by rw [hx]; decide)]
  refine ((hvia.setPort ?_ ?_).traffic (State.raise_traffic _ _ _ _ _ _ _)).1
  all_goals split <;> decide

/-- A BEACON in UP from another chip than the one noted takes the port to CHECK. -/
theorem State.PortAt.beaconUp_other (h : s.PortAt p 3 g) {x : BitVec 192} (hx : bcnChip x ≠ s.rd (PMP_LNK_STATUS.FCHIP p)) :
    (s.beaconUp p x).portState p = 2 := by
  unfold State.beaconUp
  rw [if_pos (by simp [hx])]
  exact (h.setPort (by decide) (by decide)).1

/-- What a BEACON that came by a bypass declares first. -/
def State.beaconVia (s : State) (x : BitVec 192) : State := if bcnViaV x then s.declareAbsent (2 ^ bcnVia x) 1 else s

theorem State.PortAt.beaconVia (h : s.PortAt p n g) (x : BitVec 192) : (s.beaconVia x).PortAt p n g :=
  .ite (fun _ => h.declareAbsent _ _) fun _ => h

theorem State.beaconVia_beaconGood (s : State) (p : Port) (x : BitVec 192) : (s.beaconVia x).beaconGood p x = s.beaconGood p x := by
  unfold State.beaconVia
  split
  · exact State.declareAbsent_beaconGood s p x _ _
  · rfl

theorem State.beaconVia_rd (s : State) (x : BitVec 192) (f : Fld) (hlo : 0x060000 ≤ f.off)
    (hacc : f.off < 0x0D1000 ∨ 0x0D1800 ≤ f.off) (h1 : f.off ≠ SVC_ABSENT_LO.reg) (h2 : f.off ≠ SVC_ABSENT_HI.reg) :
    (s.beaconVia x).rd f = s.rd f := by
  unfold State.beaconVia
  split
  · exact State.declareAbsent_rd s _ _ f hlo hacc h1 h2
  · rfl

/-- A BEACON that arrives on a chip that does not bridge, by the state of its port. -/
theorem exec_beacon (x : BitVec 192) (a : Nat) (hlead : s.leadUp = true) (hbyp : s.intBypass = false) :
    (s.portState p = 2 → exec (.beacon p x a) s = .next (((s.at a).beaconVia x).beaconCheck p x)) ∧
      (s.portState p = 3 → exec (.beacon p x a) s = .next (((s.at a).beaconVia x).beaconUp p x)) := by
  have hsvc : s.svcUp = true := hlead
  have hstate : ((s.at a).beaconVia x).portState p = s.portState p :=
    (State.PortAt.beaconVia (s := s.at a) (p := p) ⟨rfl, rfl⟩ x).1
  have hexec : exec (.beacon p x a) s = .next (beacon p x a s) := by
    show Host.Outcome.next (if s.svcUp then beacon p x a s else s) = _
    rw [if_pos hsvc]
  unfold State.beaconVia at hstate
  rw [hexec]
  unfold beacon State.beaconVia
  dsimp only
  rw [if_neg (by rw [State.at_intBypass, hbyp]; decide), hstate]
  exact ⟨fun h => by simp only [h], fun h => by simp only [h]⟩

theorem beacon_check_good (x : BitVec 192) (a : Nat) (hlead : s.leadUp = true) (hbyp : s.intBypass = false)
    (hstate : s.portState p = 2) (hx : s.beaconGood p x = true) :
    Answers (.beacon p x a) s fun t => t.portState p = (if s.ports[p].good = 1 then 3 else 2) ∧
      t.ports[p].good = s.ports[p].good + 1 :=
  ⟨_, (exec_beacon x a hlead hbyp).1 hstate, (State.PortAt.beaconVia (s := s.at a) ⟨hstate, rfl⟩ x).beaconCheck_good
    ((State.beaconVia_beaconGood _ p x).trans hx)⟩

theorem beacon_check_bad (x : BitVec 192) (a : Nat) (hlead : s.leadUp = true) (hbyp : s.intBypass = false)
    (hstate : s.portState p = 2) (hx : s.beaconGood p x = false) :
    Answers (.beacon p x a) s fun t => t.portState p = if bcnChip x = s.chip then 8 else 7 := by
  refine ⟨_, (exec_beacon x a hlead hbyp).1 hstate, ?_⟩
  show State.portState _ p = _
  rw [(State.PortAt.beaconVia (s := s.at a) ⟨hstate, rfl⟩ x).beaconCheck_bad ((State.beaconVia_beaconGood _ p x).trans hx)]
  unfold State.chip
  rw [State.beaconVia_rd (s.at a) x SVC_ID.CHIP (by decide) (by decide) (by decide) (by decide)]
  rfl

theorem beacon_up_other (x : BitVec 192) (a : Nat) (hlead : s.leadUp = true) (hbyp : s.intBypass = false)
    (hstate : s.portState p = 3) (hx : bcnChip x ≠ s.rd (PMP_LNK_STATUS.FCHIP p)) :
    Answers (.beacon p x a) s fun t => t.portState p = 2 := by
  refine ⟨_, (exec_beacon x a hlead hbyp).2 hstate, (State.PortAt.beaconVia (s := s.at a) ⟨hstate, rfl⟩ x).beaconUp_other ?_⟩
  have hoff : (PMP_LNK_STATUS.FCHIP p).off = 0x060104 + 0x1000 * p.val := rfl
  rw [State.beaconVia_rd (s.at a) x _ (by omega) (by omega) (by rw [hoff]; unfold SVC_ABSENT_LO.reg; omega)
    (by rw [hoff]; unfold SVC_ABSENT_HI.reg; omega)]
  exact hx

theorem beaconSend_drives (hlead : s.leadUp = true) (hup : s.hubUp = true)
    (hstate : s.portState p = 2 ∨ s.portState p = 3 ∨ s.portState p = 7 ∨ s.portState p = 8) :
    Answers (.beaconSend p) s fun t => Drives t (setOut p 4 false (s.ownBeacon p)) := by
  have hlocked : [2, 3, 7, 8].contains (s.portState p) = true := by
    rcases hstate with h | h | h | h <;> rw [h] <;> rfl
  have hguard : s.svcUp = true ∧ s.hubUp = true := ⟨hlead, hup⟩
  refine ⟨beaconSend p s, congrArg Host.Outcome.next (if_pos hguard), ?_⟩
  unfold beaconSend
  rw [if_pos hlocked]
  exact List.mem_cons_self ..

end

/-! ### Absence and presence (R323, R324) -/

theorem beaconAbsence_new {s : State} (d : Chip) (hlead : s.leadUp = true) (hup : s.hubUp = true) (hheard : s.heardOf d = true)
    (habs : s.absent.testBit d.val = false) :
    Answers (.beaconAbsence d) s fun t => t.absent.testBit d.val = true ∧ Reports s 0x0C05 t := by
  have hne : s.newAbsent (2 ^ d.val) ≠ [] := by
    unfold State.newAbsent
    rw [bitsSet_two_pow d.isLt]
    simp [habs]
  have hguard : s.svcUp = true ∧ s.hubUp = true ∧ s.heardOf d = true := ⟨hlead, hup, hheard⟩
  refine ⟨s.declareAbsent (2 ^ d.val) 0, congrArg Host.Outcome.next (if_pos hguard), ?_, State.declareAbsent_reports s _ _ hne⟩
  rw [State.declareAbsent_testBit, Nat.testBit_two_pow_self, Bool.true_or]

theorem beaconAbsence_old {s : State} (d : Chip) (habs : s.absent.testBit d.val = true) :
    Answers (.beaconAbsence d) s fun t => t = s := by
  have hnil : s.newAbsent (2 ^ d.val) = [] := by
    unfold State.newAbsent
    rw [bitsSet_two_pow d.isLt]
    simp [habs]
  refine ⟨_, rfl, ?_⟩
  split
  · exact State.declareAbsent_nil s _ _ hnil
  · rfl

theorem absentSet_adds {s : State} {p : Port} (x : BitVec 192) (hlead : s.leadUp = true) (hup : s.hubUp = true)
    (hbyp : s.intBypass = false) (hstate : s.portState p = 3) (hrem : s.ports[p].removed = false) :
    Answers (.absentSet p x) s fun t => ∀ d : Chip, (bitsOf x.toNat 0 64).testBit d.val = true ∨ s.absent.testBit d.val = true →
      t.absent.testBit d.val = true := by
  refine ⟨s.declareAbsent (bitsOf x.toNat 0 64) 3, ?_, fun d hd => ?_⟩
  · have hsvc : s.svcUp = true := hlead
    show Host.Outcome.next (if s.svcUp then absentSet p x s else s) = _
    unfold absentSet
    rw [if_pos hsvc, if_neg (by rw [hbyp]; decide), if_pos ⟨hup, hstate, by rw [hrem]; rfl⟩]
  · rw [State.declareAbsent_testBit, Bool.or_eq_true]
    exact hd

theorem exec_svcAbsentClear {s : State} (hi : Bool) (v : Word) (hup : s.hubUp = true) (harb : s.arbHeld 0 = false) :
    exec (.svcAbsentClear hi v) s = .next (accessWrite .config (absentReg hi) v s) := by
  show Host.Outcome.next (if s.busUp 0 then accessWrite .config (absentReg hi) v s else s) = _
  rw [if_pos (by simp [State.busUp, hup, harb])]

theorem svcAbsentClear_lo {s : State} (v : Word) (hup : s.hubUp = true) (harb : s.arbHeld 0 = false) :
    Answers (.svcAbsentClear false v) s fun t => t.heldLo .config SVC_ABSENT_LO.reg = some v ∧ t.absent = s.absent := by
  refine ⟨_, exec_svcAbsentClear false v hup harb, ?_⟩
  rw [accessWrite_absentLo]
  refine ⟨?_, rfl⟩
  show State.heldLo _ .config (absentReg false) = some v
  unfold State.heldLo
  dsimp only
  have hdropped : ∀ l : List (AccessPort × Nat × Word),
      (l.filter fun x => !(x.1 == AccessPort.config && x.2.1 == absentReg false)).find?
        (fun x => x.1 == AccessPort.config && x.2.1 == absentReg false) = none := fun l =>
    List.find?_eq_none.mpr fun x hx => Bool.eq_false_iff.mp ((Bool.not_eq_true' _).mp (List.mem_filter.mp hx).2)
  rw [List.find?_append, hdropped, List.find?_cons]
  simp

theorem svcAbsentClear_hi {s : State} (v : Word) (hup : s.hubUp = true) (harb : s.arbHeld 0 = false) :
    Answers (.svcAbsentClear true v) s fun t =>
      t.rd SVC_ABSENT_HI.CHIPS = (s.word SVC_ABSENT_HI.reg &&& ~~~v).toNat ∧
      (s.heldLo .config SVC_ABSENT_LO.reg = none → t.rd SVC_ABSENT_LO.CHIPS = s.rd SVC_ABSENT_LO.CHIPS) ∧
      ∀ l, s.heldLo .config SVC_ABSENT_LO.reg = some l →
        t.rd SVC_ABSENT_LO.CHIPS = (s.word SVC_ABSENT_LO.reg &&& ~~~l).toNat := by
  have hread : ∀ (hi : Bool) (t : State), t.rd ⟨absentReg hi, 0, 32⟩ = (t.word (absentReg hi)).toNat := fun hi t =>
    Fld.get_full (absentReg hi) (t.word (absentReg hi))
  have hne : absentReg true ≠ absentReg false := by decide
  refine ⟨_, exec_svcAbsentClear true v hup harb, ?_⟩
  rw [accessWrite_absentHi]
  cases hheld : s.heldLo .config (absentReg false) with
  | none =>
    refine ⟨?_, fun _ => ?_, fun l hl => ?_⟩
    · exact (hread true _).trans (congrArg BitVec.toNat (svcAbsentWrite_word_same true v _))
    · exact congrArg SVC_ABSENT_LO.CHIPS.get (svcAbsentWrite_word_ne true v (s.dropLo .config (absentReg false)) hne.symm)
    · exact absurd (hheld.symm.trans hl) (by simp)
  | some l =>
    refine ⟨?_, fun hl => ?_, fun l' hl => ?_⟩
    · refine (hread true _).trans (congrArg BitVec.toNat ((svcAbsentWrite_word_same true v _).trans ?_))
      rw [svcAbsentWrite_word_ne false l _ hne]
      rfl
    · exact absurd (hheld.symm.trans hl) (by simp)
    · obtain rfl : l = l' := Option.some.inj (hheld.symm.trans hl)
      refine (hread false _).trans (congrArg BitVec.toNat ((svcAbsentWrite_word_ne true v _ hne.symm).trans ?_))
      exact svcAbsentWrite_word_same false l _

/-- Settles O33: a BEACON acts by the state of its port, a chip is absent once declared so, and a clearing of `SVC_ABSENT` acts with its
upper half. -/
theorem beaconsAndAbsence : Obligations.BeaconsAndAbsence := by
  intro s p x a hlead hup hbyp
  exact ⟨beacon_check_good x a hlead hbyp, beacon_check_bad x a hlead hbyp, beacon_up_other x a hlead hbyp,
    beaconSend_drives hlead hup, fun d hheard habs => beaconAbsence_new d hlead hup hheard habs,
    fun d _ habs => beaconAbsence_old d habs, absentSet_adds x hlead hup hbyp,
    fun v harb => ⟨svcAbsentClear_lo v hup harb, svcAbsentClear_hi v hup harb⟩⟩

end Sys2Proof.Machine
end

section
/-!
SUPPORT. Wells that become absent or reset (R19, R350), Well links, and the echo regions of a Well that enters service (R248).
-/

namespace Sys2Proof.Machine

open Sys2Proof

/-! ### A Well that becomes absent (R19, R345, R392) -/

theorem State.modWell_same (s : State) (w : WellNo) (f : Well → Well) : (s.modWell w f).wells[w] = f s.wells[w] := by
  simp [State.modWell]

theorem State.modWell_ne (s : State) {w v : WellNo} (f : Well → Well) (h : v ≠ w) : (s.modWell w f).wells[v] = s.wells[v] := by
  simp [State.modWell, Fin.val_ne_of_ne (Ne.symm h)]

theorem State.voidLedger_traffic (s : State) (c : Ctx) (q : LedgerEntry → Bool) : UpToTraffic s (s.voidLedger c q) := by
  unfold State.voidLedger
  dsimp only
  split
  · exact .of_same (fun _ => rfl) rfl rfl rfl rfl
  · exact .refl s

/-- `k'` is the Well `k` out of service, its link down and its stack as it was. -/
structure Well.Gone (k k' : Well) : Prop where
  inService : k'.inService = false
  linkUp : k'.linkUp = false
  stack : k'.stack = k.stack

/-- A Well as it leaves service, with nothing of its volatile state (R392). -/
def Well.leave (k : Well) : Well := { k with
  linkUp := false, retraining := false, inService := false, opens := [], homes := [], queues := [], waiting := [], running := none
  scoring := [], rx := [], dram := [], activeCtx := none, deficit := Vector.replicate 16 0
  actlog := k.actlog.map fun l => l.map fun e => { e with valid := false } }

/-- A Well that becomes absent is gone; beyond that is traffic. -/
theorem State.wellAbsent_eq (s : State) (w : WellNo) : ∃ u f, UpToTraffic s u ∧ u.wells[w].Gone (f u.wells[w]) ∧
    UpToTraffic (u.modWell w f) (s.wellAbsent w) := by
  unfold State.wellAbsent
  split
  · next h => exact ⟨s, _, .refl s, ⟨by simpa using h, rfl, rfl⟩, .refl _⟩
  · dsimp only
    refine ⟨s.clearLink (.well w), Well.leave, State.clearLink_traffic s _, ⟨rfl, rfl, rfl⟩,
      UpToTraffic.trans ?_ (State.pumpWaiting_traffic _)⟩
    refine UpToTraffic.trans ?_ (UpToTraffic.foldl _ _ fun t c => State.noticeLive_traffic t c 1 0)
    refine UpToTraffic.trans ?_ (State.raise_traffic _ _ _ _ _ _ _)
    exact UpToTraffic.foldl _ _ fun t c => State.voidLedger_traffic t c _

theorem State.wellAbsent_gone (s : State) (w : WellNo) : s.wells[w].Gone (s.wellAbsent w).wells[w] := by
  obtain ⟨u, f, hu, hf, ht⟩ := State.wellAbsent_eq s w
  obtain ⟨k, hk⟩ := hu.well w
  obtain ⟨x, hx⟩ := ht.well w
  rw [hx, State.modWell_same]
  exact ⟨hf.inService, hf.linkUp, hf.stack.trans (by rw [hk])⟩

@[simp] theorem State.wellAbsent_build (s : State) (w : WellNo) : (s.wellAbsent w).build = s.build := by
  obtain ⟨u, f, hu, -, ht⟩ := State.wellAbsent_eq s w
  exact ht.build.trans hu.build

theorem State.wellAbsent_reports {r s : State} {code : Nat} (w : WellNo) (h : Reports r code s) : Reports r code (s.wellAbsent w) := by
  obtain ⟨u, f, hu, -, ht⟩ := State.wellAbsent_eq s w
  have hmod : Reports r code (u.modWell w f) := (UpToTraffic.reports h hu : Reports r code u)
  exact UpToTraffic.reports hmod ht

/-! ### Supply and reset (R19, R350) -/

@[simp] theorem State.cutSeq_wells (s : State) (w : WellNo) : (s.cutSeq w).wells = s.wells := by
  unfold State.cutSeq
  dsimp only
  split <;> rfl

@[simp] theorem State.cutSeq_build (s : State) (w : WellNo) : (s.cutSeq w).build = s.build := by
  unfold State.cutSeq
  dsimp only
  split <;> rfl

/-- A sparse map that lists nothing for a key reads there as its default. -/
theorem sget_filter_drop {α : Type} (d : Nat → α) (m : List (Nat × α)) (q : Nat × α → Bool) (k : Nat) (h : ∀ v, q (k, v) = false) :
    sget d (m.filter q) k = d k := by
  induction m with
  | nil => rfl
  | cons e t ih =>
    obtain ⟨a, v⟩ := e
    rw [List.filter_cons]
    split
    · next hq =>
      have ha : a ≠ k := fun e => by rw [e, h v] at hq; exact Bool.noConfusion hq
      simpa [sget, ha] using ih
    · exact ih

/-- The words of the page of a Well at its reset read as after reset. -/
theorem State.resetPage_word (s : State) (w : WellNo) {off : Nat} (hlo : 0x080000 + w.val * 0x2000 ≤ off)
    (hhi : off < 0x080000 + (w.val + 1) * 0x2000) : (s.resetPage w).word off = resetWord s.build off := by
  have hw := w.isLt
  have hchip : chipOff off = true := by
    unfold chipOff welOff
    rw [Bool.or_eq_true, decide_eq_true_iff]
    exact .inl ⟨by omega, by omega⟩
  unfold State.word State.resetPage
  rw [if_pos hchip]
  refine sget_filter_drop _ _ _ off fun v => ?_
  exact (Bool.not_eq_false' _).mpr (decide_eq_true ⟨hlo, hhi⟩)

theorem vddWelLoss_absent (s : State) (w : WellNo) :
    Answers (.vddWelLoss w) s fun t => t.wells[w].supplyOk = false ∧ t.wells[w].inService = false ∧ t.wells[w].linkUp = false := by
  have hgone := State.wellAbsent_gone (s.cutSeq w) w
  refine ⟨_, rfl, ?_⟩
  dsimp only
  rw [State.modWell_same]
  exact ⟨rfl, hgone.inService, hgone.linkUp⟩

theorem welReset_keeps_stack (s : State) (w : WellNo) :
    Answers (.welReset w) s fun t => t.wells[w].inService = false ∧ t.wells[w].linkUp = false ∧ t.wells[w].stack = s.wells[w].stack ∧
      ∀ off, 0x080000 + w.val * 0x2000 ≤ off → off < 0x080000 + (w.val + 1) * 0x2000 → t.word off = resetWord s.build off := by
  have hgone := State.wellAbsent_gone (s.cutSeq w) w
  refine ⟨welReset w s, rfl, ?_⟩
  unfold welReset
  dsimp only
  rw [State.modWell_same]
  refine ⟨rfl, rfl, hgone.stack.trans (by rw [State.cutSeq_wells]), fun off hlo hhi => ?_⟩
  show (((s.cutSeq w).wellAbsent w).resetPage w).word off = _
  rw [State.resetPage_word _ w hlo hhi, State.wellAbsent_build, State.cutSeq_build]

/-! ### Well links (R4, R344, R345) -/

/-- IDLE flits on a Well link change what the block drives and the receiver's side of that link. -/
theorem State.idleFlits_eq (s : State) (w : WellNo) (n : Nat) : ∃ (e : List Emission) (ws : Vector Well 24) (k : Link),
    s.idleFlits (.well w) n = { s with out := e, wells := ws } ∧ ws[w] = { s.wells[w] with link := k } ∧
      k.replay = s.wells[w].link.replay ∧ k.txq = s.wells[w].link.txq ∧ k.fseq = s.wells[w].link.fseq ∧
      k.credits = s.wells[w].link.credits := by
  refine foldl_keeps (P := fun t : State => ∃ (e : List Emission) (ws : Vector Well 24) (k : Link),
    t = { s with out := e, wells := ws } ∧ ws[w] = { s.wells[w] with link := k } ∧ k.replay = s.wells[w].link.replay ∧
      k.txq = s.wells[w].link.txq ∧ k.fseq = s.wells[w].link.fseq ∧ k.credits = s.wells[w].link.credits) _
    ⟨s.out, s.wells, s.wells[w].link, rfl, rfl, rfl, rfl, rfl, rfl⟩ ?_
  rintro _ _ ⟨e, ws, k, rfl, hk, hreplay, htxq, hfseq, hcredits⟩
  refine ⟨_, _, { k with nakDue := false, crTurn := k.crTurn + 1 }, rfl, ?_, hreplay, htxq, hfseq, hcredits⟩
  simp only [Fin.getElem_fin] at hk ⊢
  simp [State.emit, hk]

/-- The version that a Hub shows is that of its build. -/
theorem State.view_version (s : State) : s.view HUB_VERSION.reg = BitVec.ofNat 32 (0x03000000 + s.build.integ % 256) := by
  unfold State.view State.viewOf
  rfl

/-! ### The echo regions of a Well that enters service (R248) -/

/-- Links that are up stay up, and links that are down stay down. -/
def State.SameLinks (s t : State) : Prop := ∀ v : WellNo, t.wells[v].linkUp = s.wells[v].linkUp

namespace State.SameLinks

variable {s t u : State}

theorem refl (s : State) : s.SameLinks s := fun _ => rfl

theorem trans (h : s.SameLinks t) (h' : t.SameLinks u) : s.SameLinks u := fun v => (h' v).trans (h v)

theorem of_wells (h : t.wells = s.wells) : s.SameLinks t := fun v => by rw [h]

theorem ite {c : Prop} [Decidable c] (ht : c → s.SameLinks t) (hu : ¬c → s.SameLinks u) : s.SameLinks (if c then t else u) := by
  split
  · next h => exact ht h
  · next h => exact hu h

theorem modWell (s : State) (w : WellNo) (f : Well → Well) (h : ∀ k, (f k).linkUp = k.linkUp) : s.SameLinks (s.modWell w f) := by
  intro v
  by_cases hv : v = w
  · rw [hv, State.modWell_same]
    exact h _
  · rw [State.modWell_ne s f hv]

theorem foldl {β : Type} {f : State → β → State} (l : List β) (s : State) (h : ∀ (s : State) (x : β), s.SameLinks (f s x)) :
    s.SameLinks (l.foldl f s) :=
  foldl_keeps (P := s.SameLinks) l (refl s) fun t x ht => ht.trans (h t x)

end State.SameLinks

theorem State.addPair_wells (s : State) (lo hi : Fld) (n : Nat) : (s.addPair lo hi n).wells = s.wells := State.wr2_wells _ _ _ _

theorem State.accEnergy_wells (s : State) (c : Ctx) (fj : Nat) : (s.accEnergy c fj).wells = s.wells := by
  obtain ⟨_, _, _, _, h⟩ := State.accEnergy_eq s c fj
  rw [h]

theorem State.accDram_sameLinks (s : State) (w : WellNo) (c : Ctx) (a rdB wrB : Nat) : s.SameLinks (s.accDram w c a rdB wrB) := by
  unfold State.accDram
  dsimp only
  refine State.SameLinks.trans ?_ (.of_wells ((State.accEnergy_wells _ _ _).trans (State.addPair_wells _ _ _ _)))
  exact State.SameLinks.modWell s w _ fun _ => rfl

theorem State.correctedWord_sameLinks (s : State) (part : Nat) : s.SameLinks (s.correctedWord part) := by
  unfold State.correctedWord
  dsimp only
  refine .ite (fun _ => ?_) fun _ => .of_wells (State.bump_wells _ _)
  obtain ⟨_, _, _, _, h⟩ := State.raise_eq { s.bump RAS_COR_CNT.COUNT with corrected := _ } 0x0D01 1 _ none 0 0
  rw [h]
  exact .of_wells (State.bump_wells _ _)

theorem State.stackZero_sameLinks (s : State) (w : WellNo) (a n : Nat) : s.SameLinks (s.stackZero w a n) :=
  State.SameLinks.modWell s w _ fun _ => rfl

theorem State.stackWrite_sameLinks (s : State) (w : WellNo) (a : Nat) (bs : List Byte) : s.SameLinks (s.stackWrite w a bs) :=
  State.SameLinks.modWell s w _ fun _ => rfl

theorem State.zeroRows_sameLinks (s : State) (c : Ctx) (w : WellNo) : s.SameLinks (s.zeroRows c w) := by
  unfold State.zeroRows
  exact (State.stackZero_sameLinks s w _ _).trans (State.accDram_sameLinks _ _ _ _ _ _)

theorem State.readDram_sameLinks (s : State) (w : WellNo) (c : Ctx) (a n : Nat) : s.SameLinks (s.readDram w c a n) := by
  unfold State.readDram State.countFixed
  exact (State.SameLinks.foldl _ s fun t _ => State.correctedWord_sameLinks t _).trans (State.accDram_sameLinks _ _ _ _ _ _)

theorem State.copyStack_sameLinks (s : State) (v w : WellNo) (a b n : Nat) : s.SameLinks (s.copyStack v w a b n) := by
  unfold State.copyStack
  dsimp only
  refine State.SameLinks.trans ?_ (State.SameLinks.modWell _ w _ fun _ => rfl)
  exact (State.stackZero_sameLinks s w b n).trans (State.SameLinks.foldl _ _ fun t _ => State.stackWrite_sameLinks t w _ _)

theorem State.echoCopy_sameLinks (s : State) (w : WellNo) (c : Ctx) : s.SameLinks (s.echoCopy w c) := by
  unfold State.echoCopy
  split
  · exact State.zeroRows_sameLinks s c w
  · exact ((State.readDram_sameLinks s _ _ _ _).trans (State.copyStack_sameLinks _ _ _ _ _ _)).trans
      (State.accDram_sameLinks _ _ _ _ _ _)

end Sys2Proof.Machine
end

section
/-!
SUPPORT. Wells that come into service and leave it (R4, R19, R345, R350): O43.
-/

namespace Sys2Proof.Machine

open Sys2Proof

/-! ### A Well link that trains (R4, R344) -/

/-- The state in which the link of a Well has trained, before the versions are compared. -/
def State.wellTrained (s : State) (w : WellNo) : State :=
  ((s.trainLink (.well w) resetShare).modWell w fun k => { k with linkUp := true }).idleFlits (.well w) 16

/-- Training changes what the block drives and that Well, whose link is up. -/
theorem State.wellTrained_eq (s : State) (w : WellNo) : ∃ (e : List Emission) (ws : Vector Well 24) (k : Link),
    s.wellTrained w = { s with out := e, wells := ws } ∧ ws[w] = { s.wells[w] with link := k, linkUp := true } := by
  obtain ⟨e, ws, k, h, hk, -⟩ := State.idleFlits_eq
    ((s.trainLink (.well w) resetShare).modWell w fun k => { k with linkUp := true }) w 16
  refine ⟨e, ws, k, h, hk.trans ?_⟩
  rw [State.modWell_same]
  simp [State.trainLink, State.modLink]

/-- What it leaves as it was. -/
theorem State.wellTrained_keeps (s : State) (w : WellNo) :
    (s.wellTrained w).wells[w].linkUp = true ∧ (s.wellTrained w).wells[w].inService = s.wells[w].inService ∧
      (s.wellTrained w).wells[w].version = s.wells[w].version ∧
      (s.wellTrained w).view HUB_VERSION.reg = s.view HUB_VERSION.reg ∧ ∀ f, (s.wellTrained w).rd f = s.rd f := by
  obtain ⟨e, ws, k, heq, hk⟩ := State.wellTrained_eq s w
  rw [State.view_version, State.view_version, heq]
  dsimp only
  rw [hk]
  exact ⟨rfl, rfl, rfl, rfl, fun _ => rfl⟩

theorem State.wellTrained_reports {s t : State} {w : WellNo} {code : Nat} (h : Reports (s.wellTrained w) code t) : Reports s code t := by
  obtain ⟨e, ws, k, heq, -⟩ := State.wellTrained_eq s w
  rw [heq] at h
  exact h

section
variable {s : State} {w : WellNo}

/-- A trained Well whose version differs stays out of service, with event 0x0902. -/
theorem wellLinkTrained_differs (h : majorMinor s.wells[w].version ≠ majorMinor (s.view HUB_VERSION.reg)) :
    (wellLinkTrained w s).wells[w].linkUp = true ∧ Reports s 0x0902 (wellLinkTrained w s) ∧
      (wellLinkTrained w s).wells[w].inService = s.wells[w].inService := by
  obtain ⟨hup, hserv, hver, hview, -⟩ := State.wellTrained_keeps s w
  have hdiff : majorMinor (s.wellTrained w).wells[w].version ≠ majorMinor ((s.wellTrained w).view HUB_VERSION.reg) := by
    rw [hver, hview]
    exact h
  have hraise : wellLinkTrained w s = (s.wellTrained w).raiseFrom w.val 0 0x0902 2
      [(s.wellTrained w).wells[w].version.toNat, ((s.wellTrained w).view HUB_VERSION.reg).toNat] :=
    if_pos hdiff
  have hreports := State.raiseFrom_reports (s.wellTrained w) w.val 0 0x0902 2
    [(s.wellTrained w).wells[w].version.toNat, ((s.wellTrained w).view HUB_VERSION.reg).toNat] none 0 0
  rw [← hraise] at hreports
  obtain ⟨_, _, _, _, heq⟩ := State.raiseFrom_eq (s.wellTrained w) w.val 0 0x0902 2
    [(s.wellTrained w).wells[w].version.toNat, ((s.wellTrained w).view HUB_VERSION.reg).toNat] none 0 0
  refine ⟨?_, State.wellTrained_reports hreports, ?_⟩
  · rw [hraise, heq]
    exact hup
  · rw [hraise, heq]
    exact hserv

/-- A trained Well whose version fits comes into service when an engine is left. -/
theorem wellLinkTrained_fits (h : majorMinor s.wells[w].version = majorMinor (s.view HUB_VERSION.reg)) :
    (wellLinkTrained w s).wells[w].linkUp = true ∧
      (s.rd (WEL_FENCE.FENCED w) ≠ 0xFFFF → (wellLinkTrained w s).wells[w].inService = true) := by
  obtain ⟨hup, -, hver, hview, hrd⟩ := State.wellTrained_keeps s w
  have hsame : ¬majorMinor (s.wellTrained w).wells[w].version ≠ majorMinor ((s.wellTrained w).view HUB_VERSION.reg) := by
    rw [hver, hview]
    exact not_not_intro h
  have htrain : wellLinkTrained w s = if (s.wellTrained w).wellFits w then
      ((((List.finRange 16).filter (s.wellTrained w).ctxOn).foldl (fun (s : State) (c : Ctx) => s.echoCopy w c)
        (s.wellTrained w)).rdmWindow w).modWell w fun k => { k with inService := true } else s.wellTrained w := if_neg hsame
  have hcopy := State.SameLinks.foldl ((List.finRange 16).filter (s.wellTrained w).ctxOn) (s.wellTrained w)
    fun (s : State) (c : Ctx) => State.echoCopy_sameLinks s w c
  have hlinks := hcopy.trans (State.SameLinks.modWell _ w _ fun _ => rfl : State.SameLinks _ (State.rdmWindow _ w))
  by_cases hfit : (s.wellTrained w).wellFits w = true
  · rw [htrain, if_pos hfit, State.modWell_same]
    exact ⟨(hlinks w).trans hup, fun _ => rfl⟩
  · rw [htrain, if_neg hfit]
    refine ⟨hup, fun hf => absurd ?_ hfit⟩
    unfold State.wellFits
    rw [hver, hview, hrd, h]
    simpa using hf

theorem wellLinkTrained_answers (hup : s.hubUp = true) (hslot : s.build.slots.getLsbD w.val = true)
    (hsupply : s.wells[w].supplyOk = true) (hreset : s.wells[w].inReset = false) (hdown : s.wells[w].linkUp = false) :
    Answers (.wellLinkTrained w) s fun t => t.wells[w].linkUp = true ∧
      (majorMinor s.wells[w].version = majorMinor (s.view HUB_VERSION.reg) → s.rd (WEL_FENCE.FENCED w) ≠ 0xFFFF →
        t.wells[w].inService = true) ∧
      (majorMinor s.wells[w].version ≠ majorMinor (s.view HUB_VERSION.reg) →
        Reports s 0x0902 t ∧ t.wells[w].inService = s.wells[w].inService) := by
  have hguard : s.hubUp = true ∧ s.build.slots.getLsbD w.val = true ∧ s.wells[w].supplyOk = true ∧ (!s.wells[w].inReset) = true ∧
      (!s.wells[w].linkUp) = true := ⟨hup, hslot, hsupply, by rw [hreset]; rfl, by rw [hdown]; rfl⟩
  refine ⟨wellLinkTrained w s, congrArg Host.Outcome.next (if_pos hguard), ?_⟩
  by_cases h : majorMinor s.wells[w].version = majorMinor (s.view HUB_VERSION.reg)
  · obtain ⟨hlink, hserv⟩ := wellLinkTrained_fits h
    exact ⟨hlink, fun _ => hserv, fun hne => absurd h hne⟩
  · obtain ⟨hlink, hrest⟩ := wellLinkTrained_differs h
    exact ⟨hlink, fun he => absurd he h, fun _ => hrest⟩

/-! ### A Well link that retrains, and one that fails (R345) -/

theorem wellLinkRetrain_answers (n : Nat) (hup : s.hubUp = true) (hlink : s.wells[w].linkUp = true) :
    Answers (.wellLinkRetrain w n) s fun t => Reports s 0x0909 t ∧ t.wells[w].inService = s.wells[w].inService ∧
      t.link (.well w) = s.link (.well w) ∧ t.linkOpen (.well w) = false := by
  have hguard : s.hubUp = true ∧ s.wells[w].linkUp = true := ⟨hup, hlink⟩
  refine ⟨_, congrArg Host.Outcome.next (if_pos hguard), ?_⟩
  refine ⟨State.raise_reports (s.modWell w _) _ _ _ _ _ _, ?_⟩
  obtain ⟨_, _, _, _, heq⟩ := State.raise_eq (s.modWell w fun k => { k with lanesBad := k.lanesBad + n, retraining := true })
    0x0909 1 [w.val, n] none 0 0
  rw [heq]
  unfold State.link State.linkOpen
  dsimp only
  rw [State.modWell_same]
  exact ⟨rfl, rfl, Bool.and_false _⟩

theorem wellLinkRetrained_answers (hup : s.hubUp = true) (hlink : s.wells[w].linkUp = true) (hretrain : s.wells[w].retraining = true) :
    Answers (.wellLinkTrained w) s fun t => t.linkOpen (.well w) = true ∧
      t.wells[w].inService = s.wells[w].inService ∧ (t.link (.well w)).replay = (s.link (.well w)).replay ∧
      (t.link (.well w)).txq = (s.link (.well w)).txq ∧ (t.link (.well w)).fseq = (s.link (.well w)).fseq ∧
      (t.link (.well w)).credits = (s.link (.well w)).credits := by
  have hnot : ¬(s.hubUp = true ∧ s.build.slots.getLsbD w.val = true ∧ s.wells[w].supplyOk = true ∧ (!s.wells[w].inReset) = true ∧
      (!s.wells[w].linkUp) = true) := fun ⟨_, _, _, _, h⟩ => by rw [hlink] at h; exact Bool.noConfusion h
  have hguard : s.hubUp = true ∧ s.wells[w].linkUp = true ∧ s.wells[w].retraining = true := ⟨hup, hlink, hretrain⟩
  refine ⟨wellLinkRetrained w s, congrArg Host.Outcome.next ((if_neg hnot).trans (if_pos hguard)), ?_⟩
  obtain ⟨e, ws, k, heq, hk, hkeep⟩ := State.idleFlits_eq (s.modWell w fun k => { k with retraining := false }) w 16
  rw [State.modWell_same] at hk hkeep
  unfold wellLinkRetrained
  rw [heq]
  unfold State.link State.linkOpen
  dsimp only
  rw [hk]
  exact ⟨by rw [hlink]; rfl, rfl, hkeep⟩

theorem wellLinkDown_answers (b : Bool) (hup : s.hubUp = true) (hlink : s.wells[w].linkUp = true) :
    Answers (.wellLinkDown w b) s fun t => Reports s 0x090A t ∧ t.wells[w].inService = false ∧ t.wells[w].linkUp = false := by
  have hguard : s.hubUp = true ∧ s.wells[w].linkUp = true := ⟨hup, hlink⟩
  have hgone := State.wellAbsent_gone (s.raise 0x090A 2 [w.val, bitNat b]) w
  exact ⟨_, congrArg Host.Outcome.next (if_pos hguard),
    State.wellAbsent_reports w (State.raise_reports s _ _ _ _ _ _), hgone.inService, hgone.linkUp⟩

end

/-- Settles O43: a Well enters service when its link trains and its version fits, and leaves it with its supply, reset or link. -/
theorem wellsComeAndGo : Obligations.WellsComeAndGo := fun s w =>
  ⟨vddWelLoss_absent s w, welReset_keeps_stack s w, wellLinkTrained_answers, fun hup hlink =>
    ⟨fun n => wellLinkRetrain_answers n hup hlink, wellLinkRetrained_answers hup hlink, fun b => wellLinkDown_answers b hup hlink⟩⟩

end Sys2Proof.Machine
end

section
/-!
SUPPORT. Accesses through the Config Port (R340, R341, R346, R399).
-/

namespace Sys2Proof.Machine

open Sys2Proof

/-! ### The Config Port (R340, R341, R346, R399) -/

theorem State.emit_drives (s : State) (e : Emission) : Drives (s.emit e) e := List.mem_cons_self ..

/-- A held effect happens at once or waits among the effects. -/
theorem State.hold_cases (s : State) (e : HeldEffect) (now : State → State) :
    s.hold e now = now s ∨ ∃ x, x ∈ (s.hold e now).mch.effects ∧ x.2 = e := by
  unfold State.hold
  split
  case h_1 | h_2 =>
    split
    · exact .inl rfl
    · exact .inr ⟨(s.mch.useq, e), List.mem_append_right _ (List.mem_singleton_self _), rfl⟩
  case h_3 | h_4 => exact .inl rfl

/-- The answer to a write is driven, or waits for the mirror's update that carries the write. -/
theorem State.writeReady_answers (s : State) (side : Side) (before : Word) :
    Drives (s.writeReady side before) (.cfgReady side 0 false) ∨
      ∃ x, x ∈ (s.writeReady side before).mch.effects ∧ x.2 = .cfgReady side := by
  unfold State.writeReady
  split
  · exact .inl (s.emit_drives _)
  · refine (State.hold_cases s (.cfgReady side) fun s => s.emit (.cfgReady side 0 false)).imp_left fun h => ?_
    rw [h]
    exact s.emit_drives _

section
variable {s : State} {side : Side} {off : Nat} {v : Word}

theorem configAccess_held (htakes : s.cfgTakes side = false) (wr : Bool) :
    Answers (.configAccess side wr off v) s fun t => t = s :=
  ⟨s, congrArg Host.Outcome.next (if_neg (by rw [htakes]; exact Bool.false_ne_true)), rfl⟩

/-- An access that the port takes, at an offset that decodes. -/
theorem exec_configAccess (htakes : s.cfgTakes side = true) (hdec : decodes (wordOff off) = true) (wr : Bool) :
    exec (.configAccess side wr off v) s =
      .next (if wr then configWrite side (wordOff off) v s else configRead side (wordOff off) s) := by
  show Host.Outcome.next (if s.cfgTakes side then configAccess side wr off v s else s) = _
  unfold configAccess
  rw [if_pos htakes, if_neg (by rw [hdec]; decide)]

theorem configAccess_read (htakes : s.cfgTakes side = true) (hdec : decodes (wordOff off) = true) :
    Answers (.configAccess side false off v) s fun t => Drives t (.cfgReady side (s.readWord .config side (wordOff off)) false) :=
  ⟨_, exec_configAccess htakes hdec false, State.emit_drives _ _⟩

theorem configAccess_mirror (htakes : s.cfgTakes side = true) (hdec : decodes (wordOff off) = true)
    (hactive : s.isActive side = false) (hheld : heldByMirror (wordOff off) = true) :
    Answers (.configAccess side true off v) s fun t => t = s.emit (.cfgReady side 0 true) := by
  refine ⟨_, exec_configAccess htakes hdec true, ?_⟩
  unfold configWrite
  rw [if_pos rfl, if_neg (by rw [hactive]; decide), if_pos hheld]

theorem configAccess_write (htakes : s.cfgTakes side = true) (hdec : decodes (wordOff off) = true)
    (hactive : s.isActive side = true) (hreach : ((pageWell (wordOff off)).any fun w => !s.reachable w) = false) :
    Answers (.configAccess side true off v) s fun t => Drives t (.cfgReady side 0 false) ∨
      ∃ x, x ∈ t.mch.effects ∧ x.2 = .cfgReady side := by
  refine ⟨_, exec_configAccess htakes hdec true, ?_⟩
  unfold configWrite
  rw [if_pos rfl, if_pos hactive, if_neg (by rw [hreach]; decide)]
  exact State.writeReady_answers _ _ _

theorem configAccess_unreachable (htakes : s.cfgTakes side = true) (hdec : decodes (wordOff off) = true)
    (hactive : s.isActive side = true) (hreach : ((pageWell (wordOff off)).any fun w => !s.reachable w) = true) :
    Answers (.configAccess side true off v) s fun t => (side, true, wordOff off, v) ∈ t.cfgWait := by
  refine ⟨_, exec_configAccess htakes hdec true, ?_⟩
  unfold configWrite
  rw [if_pos rfl, if_pos hactive, if_pos hreach]
  exact List.mem_append_right _ (List.mem_singleton_self _)

theorem sidebandTimeout_answers (hwait : (s.cfgWait.any fun x => x.1 == side) = true) :
    Answers (.sidebandTimeout side) s fun t => Drives t (.cfgReady side 0 true) ∧ ∀ x, x ∈ t.cfgWait → x.1 ≠ side :=
  ⟨sidebandTimeout side s, congrArg Host.Outcome.next (if_pos hwait), State.emit_drives _ _, fun _ hx =>
    bne_iff_ne.mp (List.mem_filter.mp hx).2⟩

end

end Sys2Proof.Machine
end

section
/-!
SUPPORT. Writes of a plain and of a locked register (R7, R8, R216): O47.
-/

namespace Sys2Proof.Machine

open Sys2Proof

/-! ### Register writes (R7, R8) -/

/-- A write that reaches a register of the chip itself, which is no half of a pair. -/
theorem exec_registerWrite {s : State} {off : Nat} (v : Word) (hup : s.hubUp = true) (harb : s.arbHeld 0 = false)
    (hoff : wordOff off = off) (hdec : decodes off = true) (hpage : pageWell off = none) (hlo : isLo off = false)
    (hhi : isHi off = false) : exec (.registerWrite off v) s = .next (regWrite .config off v s) := by
  have hguard : s.hubUp = true ∧ decodes off = true ∧ (!s.arbHeld 0) = true ∧
      (!((pageWell off).any fun w => !s.reachable w)) = true := ⟨hup, hdec, by rw [harb]; rfl, by rw [hpage]; rfl⟩
  have hwrite : activeWrite .config off v s = regWrite .config off v s := by
    unfold activeWrite accessWrite
    rw [hpage, if_neg (by rw [hlo]; decide), if_neg (by rw [hhi]; decide)]
  show Host.Outcome.next (if s.hubUp ∧ decodes (wordOff off) ∧ !s.arbHeld 0 ∧ !((pageWell (wordOff off)).any fun w => !s.reachable w)
    then activeWrite .config (wordOff off) v s else s) = _
  rw [hoff, if_pos hguard, hwrite]

/-! ### Arbiter weights (R216) -/

/-- A word put together from four bytes has them at its byte places. -/
theorem bitsOf_fourBytes (f : Nat → Nat) (hf : ∀ i, f i < 256) (i : Nat) (hi : i < 4) :
    bitsOf (BitVec.ofNat 32 (((List.range 4).map fun i => f i * 2 ^ (8 * i)).foldl (· + ·) 0)).toNat (8 * i) 8 = f i := by
  have h0 := hf 0
  have h1 := hf 1
  have h2 := hf 2
  have h3 := hf 3
  have hword : (BitVec.ofNat 32 (((List.range 4).map fun i => f i * 2 ^ (8 * i)).foldl (· + ·) 0)).toNat =
      f 0 + f 1 * 256 + f 2 * 65536 + f 3 * 16777216 := by
    have hsum : ((List.range 4).map fun i => f i * 2 ^ (8 * i)).foldl (· + ·) 0 =
        0 + f 0 * 2 ^ (8 * 0) + f 1 * 2 ^ (8 * 1) + f 2 * 2 ^ (8 * 2) + f 3 * 2 ^ (8 * 3) := by
      rw [show List.range 4 = [0, 1, 2, 3] from rfl, List.map_cons, List.map_cons, List.map_cons, List.map_cons, List.map_nil,
        List.foldl_cons, List.foldl_cons, List.foldl_cons, List.foldl_cons, List.foldl_nil]
    rw [hsum, BitVec.toNat_ofNat]
    omega
  rw [hword]
  unfold bitsOf
  rw [Nat.shiftRight_eq_div_pow]
  interval_cases i <;> omega

/-- The four weights of a word written: each byte, or 1 for 0. -/
theorem bitsOf_weightsWord (v : Word) (i : Nat) (hi : i < 4) :
    bitsOf (weightsWord v).toNat (8 * i) 8 = max 1 (bitsOf v.toNat (8 * i) 8) :=
  bitsOf_fourBytes (fun i => max 1 (bitsOf v.toNat (8 * i) 8)) (fun _ => max_lt (by decide) (Nat.mod_lt _ (by decide))) i hi

/-- Where `PMP_VC_WT` of a port lies: a register of its own, without a lock. -/
theorem pmpVcWt_place (p : Port) : wordOff (PMP_VC_WT.reg p) = PMP_VC_WT.reg p ∧
    findReg (PMP_VC_WT.reg p) = some ⟨0x060004, [(0x1000, 16)], [⟨0, 32, .rw, 17041416⟩]⟩ ∧ lockOf (PMP_VC_WT.reg p) = none ∧
    pageWell (PMP_VC_WT.reg p) = none ∧ isLo (PMP_VC_WT.reg p) = false ∧ isHi (PMP_VC_WT.reg p) = false := by
  revert p
  decide +kernel

theorem regWrite_pmpVcWt (s : State) (p : Port) (v : Word) :
    regWrite .config (PMP_VC_WT.reg p) v s = s.store (PMP_VC_WT.reg p) (weightsWord v) := by
  have hplace : ∀ p : Port, PMP_VC_WT.reg p / 0x10000 = 0x06 ∧ PMP_VC_WT.reg p ≠ PMP_Q_CTRL.reg ∧
      ¬(PMP_ROUTE.reg 0 ≤ PMP_VC_WT.reg p ∧ PMP_VC_WT.reg p ≤ PMP_ROUTE.reg 63) ∧ PMP_VC_WT.reg p % 0x1000 = 0x004 := by
    decide +kernel
  obtain ⟨hblock, hctrl, hroute, hrest⟩ := hplace p
  unfold regWrite
  simp only [hblock]
  unfold State.pmpWrite
  dsimp only
  rw [if_neg hctrl, if_neg hroute]
  simp only [hrest]

theorem registerWrite_weights {s : State} (v : Word) (hup : s.hubUp = true) (harb : s.arbHeld 0 = false) (p : Port) :
    Answers (.registerWrite (PMP_VC_WT.reg p) v) s fun t => ∀ i, i < 4 →
      bitsOf (t.rd (PMP_VC_WT.WT p)) (8 * i) 8 = max 1 (bitsOf v.toNat (8 * i) 8) := by
  obtain ⟨hoff, hreg, hlock, hpage, hlo, hhi⟩ := pmpVcWt_place p
  have hdec : decodes (PMP_VC_WT.reg p) = true := by
    unfold decodes
    rw [hreg]
    exact Bool.or_true _
  have hword : (s.store (PMP_VC_WT.reg p) (weightsWord v)).rd (PMP_VC_WT.WT p) = (weightsWord v).toNat := by
    refine (Fld.get_full _ _).trans (congrArg BitVec.toNat ?_)
    exact (State.store_word_same s _ hreg hlock).trans (State.stored_rw s _ _ _ _ rfl)
  refine ⟨_, exec_registerWrite v hup harb hoff hdec hpage hlo hhi, fun i hi => ?_⟩
  rw [regWrite_pmpVcWt, hword, bitsOf_weightsWord v i hi]

/-! ### A locked register (R8, R373) -/

theorem hthRdm_place : wordOff HTH_RDM.reg = HTH_RDM.reg ∧ findReg HTH_RDM.reg =
      some ⟨0x130020, [], [⟨0, 16, .rwl, 2048⟩, ⟨16, 2, .rwl, 2⟩, ⟨20, 8, .rwl, 32⟩, ⟨31, 1, .rwl, 1⟩]⟩ ∧
    lockOf HTH_RDM.reg = some HTH_LOCK.LOCK ∧ pageWell HTH_RDM.reg = none ∧ isLo HTH_RDM.reg = false ∧ isHi HTH_RDM.reg = false := by
  decide +kernel

/-- Under its lock a row of RWL fields stays as it is, and a write that would have changed one counts (R8). -/
theorem State.store_locked (s : State) {off : Nat} (v : Word) {r : RegRow} {lock : Fld} (hr : findReg off = some r)
    (hl : lockOf off = some lock) (hlocked : s.rd lock = 1) (hrwl : ∀ x ∈ r.fields, x.acc = .rwl) {f : FieldRow}
    (hf : f ∈ r.fields) (hdiff : (f.fld off).get v ≠ s.rd (f.fld off)) : s.store off v = s.bump RAS_LOCKED_WR_CNT.COUNT := by
  have hany : (r.fields.any fun x => (x.fld off).get (s.word off) != (x.fld off).get v) = true :=
    List.any_eq_true.mpr ⟨f, hf, bne_iff_ne.mpr fun e => hdiff e.symm⟩
  unfold State.store
  rw [hr, hl]
  simp only [hlocked, beq_self_eq_true, writeRow_locked _ _ _ _ hrwl, hany, if_true]

/-- The word that a write of `HTH_RDM` stores (R441): EN is as written. -/
def rdmWord (v : Word) : Word :=
  let v1 := zeroTo HTH_RDM.WINDOW_MS 1 (zeroTo HTH_RDM.TH 1 v)
  if HTH_RDM.DIST.get v1 = 1 then v1 else HTH_RDM.DIST.put v1 2

theorem zeroTo_get_other (f g : Fld) (n : Nat) (v : Word) (h : f.lo + f.len ≤ g.lo ∨ g.lo + g.len ≤ f.lo) (hg : g.lo + g.len ≤ 32) :
    g.get (zeroTo f n v) = g.get v := by
  unfold zeroTo
  split
  · exact Fld.get_put_other f g v n h hg
  · rfl

theorem rdmWord_en (v : Word) : HTH_RDM.EN.get (rdmWord v) = HTH_RDM.EN.get v := by
  have hlen : HTH_RDM.EN.lo + HTH_RDM.EN.len ≤ 32 := Nat.le_of_ble_eq_true rfl
  have hzero : HTH_RDM.EN.get (zeroTo HTH_RDM.WINDOW_MS 1 (zeroTo HTH_RDM.TH 1 v)) = HTH_RDM.EN.get v :=
    (zeroTo_get_other _ _ 1 _ (.inl (Nat.le_of_ble_eq_true rfl)) hlen).trans
      (zeroTo_get_other _ _ 1 v (.inl (Nat.le_of_ble_eq_true rfl)) hlen)
  unfold rdmWord
  dsimp only
  split
  · exact hzero
  · exact (Fld.get_put_other _ _ _ 2 (.inl (Nat.le_of_ble_eq_true rfl)) hlen).trans hzero

theorem registerWrite_locked {s : State} (v : Word) (hup : s.hubUp = true) (harb : s.arbHeld 0 = false)
    (hlocked : s.rd HTH_LOCK.LOCK = 1) (hdiff : HTH_RDM.EN.get v ≠ s.rd HTH_RDM.EN) :
    Answers (.registerWrite HTH_RDM.reg v) s fun t => t.rd HTH_RDM.EN = s.rd HTH_RDM.EN ∧
      Counted s t RAS_LOCKED_WR_CNT.COUNT 1 := by
  obtain ⟨hoff, hreg, hlock, hpage, hlo, hhi⟩ := hthRdm_place
  have hdec : decodes HTH_RDM.reg = true := by
    unfold decodes
    rw [hreg]
    exact Bool.or_true _
  have hstore : s.store HTH_RDM.reg (rdmWord v) = s.bump RAS_LOCKED_WR_CNT.COUNT :=
    State.store_locked s _ hreg hlock hlocked (by simp) (f := ⟨31, 1, .rwl, 1⟩) (by simp) (by rw [← rdmWord_en] at hdiff; exact hdiff)
  have hword : (s.bump RAS_LOCKED_WR_CNT.COUNT).word HTH_RDM.reg = s.word HTH_RDM.reg := State.bump_word_ne s _ (by decide)
  have hwrite : regWrite .config HTH_RDM.reg v s = s.bump RAS_LOCKED_WR_CNT.COUNT := by
    show s.storeTell HTH_RDM.reg (rdmWord v) = _
    unfold State.storeTell
    dsimp only
    rw [hstore, if_pos hword]
  refine ⟨_, exec_registerWrite v hup harb hoff hdec hpage hlo hhi, ?_⟩
  rw [hwrite]
  exact ⟨congrArg HTH_RDM.EN.get hword, State.bump_rd s _ (Nat.le_of_ble_eq_true rfl)⟩

/-- Settles O47: what the Config Port answers to an access, and what a write of a plain and of a locked register stores. -/
theorem registerAccesses : Obligations.RegisterAccesses := fun _ _ _ v =>
  ⟨fun htakes wr => configAccess_held htakes wr,
    fun htakes hdec => ⟨configAccess_read htakes hdec, configAccess_mirror htakes hdec, configAccess_write htakes hdec,
      configAccess_unreachable htakes hdec⟩,
    sidebandTimeout_answers, fun hup harb => ⟨registerWrite_weights v hup harb, registerWrite_locked v hup harb⟩⟩

end Sys2Proof.Machine
end

section
/-!
SUPPORT. The frame of the commands that write one or two registers (R7): O58.
-/

namespace Sys2Proof.Machine

open Sys2Proof

/-! ### Commands that write registers -/

/-- What a command that writes the registers `l` may change: those words, the counter of lost records, events and what is driven, and of
the ports and Wells what is neither link nor DRAM. -/
structure RegFrame (l : List Nat) (s t : State) : Prop where
  word : ∀ off, off ∉ l → off ≠ RNG_EQ_LOST.reg → t.word off = s.word off
  form : ∃ a h x m q r p w o n, t = { s with
    act := { s.act with win := a, loHeld := h }, cwin := x, mch := m, evq := q, evr := r, ports := p, wells := w, out := o, free := n }
  stack : ∀ w : WellNo, t.wells[w].stack = s.wells[w].stack
  link : ∀ p : Port, t.link (.port p) = s.link (.port p)

namespace RegFrame

variable {l : List Nat} {s t u : State}

theorem of_eq {a h x m q r o n} (ht : t = { s with
      act := { s.act with win := a, loHeld := h }, cwin := x, mch := m, evq := q, evr := r, out := o, free := n })
    (hword : ∀ off, off ∉ l → off ≠ RNG_EQ_LOST.reg → t.word off = s.word off) : RegFrame l s t where
  word := hword
  form := ⟨a, h, x, m, q, r, s.ports, s.wells, o, n, ht⟩
  stack w := by rw [ht]
  link p := by rw [ht]; rfl

theorem refl (l : List Nat) (s : State) : RegFrame l s s := of_eq rfl fun _ _ _ => rfl

theorem trans (h : RegFrame l s t) (h' : RegFrame l t u) : RegFrame l s u where
  word off hl hlost := (h'.word off hl hlost).trans (h.word off hl hlost)
  form := by
    obtain ⟨_, _, _, _, _, _, _, _, _, _, rfl⟩ := h.form
    obtain ⟨a, h, x, m, q, r, p, w, o, n, rfl⟩ := h'.form
    exact ⟨a, h, x, m, q, r, p, w, o, n, rfl⟩
  stack w := (h'.stack w).trans (h.stack w)
  link p := (h'.link p).trans (h.link p)

theorem ite {c : Prop} [Decidable c] (ht : RegFrame l s t) (hu : RegFrame l s u) : RegFrame l s (if c then t else u) := by
  split
  · exact ht
  · exact hu

/-- A command that acts on a condition. -/
theorem next {c : Prop} [Decidable c] (h : RegFrame l s u)
    (he : (Host.Outcome.next (if c then u else s) : Host.Outcome State Fault Refusal) = .next t) : RegFrame l s t := by
  rw [← Host.Outcome.next.inj he]
  exact h.ite (refl l s)

theorem wr (s : State) (f : Fld) (v : Nat) (hf : f.off ∈ l) : RegFrame l s (s.wr f v) := by
  obtain ⟨a, x, m, h⟩ := State.setWord_eq s f.off (f.put (s.word f.off) v)
  exact of_eq h fun off hoff _ => State.wr_word_ne s f v fun e => hoff (e ▸ hf)

theorem wrIf (s : State) (f : Fld) (v : Nat) (hf : f.off ∈ l) : RegFrame l s (s.wrIf f v) := (refl l s).ite (wr s f v hf)

theorem store (s : State) (off : Nat) (v : Word) (hlock : lockOf off = none) (hoff : off ∈ l) : RegFrame l s (s.store off v) := by
  obtain ⟨a, x, m, h, hword⟩ := State.store_eq s v hlock
  exact of_eq h fun y hy _ => hword y fun e => hy (e ▸ hoff)

theorem raiseEv (s : State) (e : Event) : RegFrame l s (s.raiseEv e) := by
  obtain ⟨q, r, w, m, h⟩ := State.raiseEv_eq s e
  exact of_eq h fun off _ hlost => State.raiseEv_word_ne s e hlost

theorem emit (s : State) (e : Emission) : RegFrame l s (s.emit e) := of_eq rfl fun _ _ _ => rfl

theorem free (s : State) (n : Nat) : RegFrame l s { s with free := n } := of_eq rfl fun _ _ _ => rfl

theorem evr (s : State) (r : Recorder) : RegFrame l s { s with evr := r } := of_eq rfl fun _ _ _ => rfl

theorem loHeld (s : State) (h : List (AccessPort × Nat × Word)) : RegFrame l s { s with act := { s.act with loHeld := h } } :=
  of_eq rfl fun _ _ _ => rfl

theorem modWell (s : State) (w : WellNo) (f : Well → Well) (hf : ∀ k, (f k).stack = k.stack) : RegFrame l s (s.modWell w f) where
  word _ _ _ := rfl
  form := ⟨s.act.win, s.act.loHeld, s.cwin, s.mch, s.evq, s.evr, s.ports, (s.modWell w f).wells, s.out, s.free, rfl⟩
  stack v := by
    by_cases hv : v = w
    · rw [hv, State.modWell_same]
      exact hf _
    · rw [State.modWell_ne s f hv]
  link _ := rfl

end RegFrame

section
variable (s : State)

theorem cqHeadWrite_frame (c : Ctx) (v : Word) : RegFrame [RNG_CQ_HEAD.reg c, RNG_CTX_STATUS.reg c] s (cqHeadWrite c v s) := by
  have hhead := RegFrame.wr (l := [RNG_CQ_HEAD.reg c, RNG_CTX_STATUS.reg c]) s (RNG_CQ_HEAD.INDEX c) v.toNat (.head _)
  exact .ite (.ite (hhead.trans (.wrIf _ _ _ (.tail _ (.head _)))) hhead) (.raiseEv _ _)

theorem eqHeadWrite_frame (v : Word) : RegFrame [RNG_EQ_HEAD.reg] s (eqHeadWrite v s) :=
  .ite (.wr _ _ _ (.head _)) (.raiseEv _ _)

theorem tckPeriodWrite_frame (v : Word) : RegFrame [TCK_PERIOD.reg] s (tckPeriodWrite v s) :=
  .store _ _ _ (by decide +kernel) (.head _)

theorem pcapReached_frame (w : WellNo) : RegFrame [WEL_PCAP_STATUS.reg w.val, WEL_THR_CNT.reg w.val] s (pcapReached w s) :=
  (RegFrame.wr s (WEL_PCAP_STATUS.THROTTLING w) 1 (.head _)).trans (.wr _ _ _ (.tail _ (.head _)))

theorem hostRefresh_frame (w : WellNo) (ch bank : Nat) : RegFrame [WEL_ARB_STATUS.reg w.val] s (hostRefresh w ch bank s) := by
  have hlocked := (RegFrame.free (l := [WEL_ARB_STATUS.reg w.val]) s (s.free + 1)).trans
    (.ite (c := s.seqIn w = true) (.emit _ (.lockedSeq w ch bank .precharged)) (.refl _ _))
  have hresumed := (hlocked.trans (.emit _ (.refresh w ch bank none))).trans
    (.ite (c := s.seqIn w = true) (.emit _ (.lockedSeq w ch bank .resumed)) (.refl _ _))
  have hself := hresumed.trans
    (.ite (c := s.rd (WEL_ARB_STATUS.REF_MODE w) = 1) (.emit _ (.selfRefresh w false)) (.refl _ _))
  exact (hself.trans (.modWell _ w (fun k => { k with hostMasked := false }) fun _ => rfl)).trans (.wrIf _ _ _ (.head _))

theorem refreshTakeover_frame (w : WellNo) (late : Option Nat) :
    RegFrame [WEL_ARB_STATUS.reg w.val, WEL_REF_TAKEOVER_CNT.reg w.val] s (refreshTakeover w late s) := by
  have hmask := (RegFrame.modWell (l := [WEL_ARB_STATUS.reg w.val, WEL_REF_TAKEOVER_CNT.reg w.val]) s w
    (fun k => { k with hostMasked := k.hostMasked || late.isNone }) fun _ => rfl).trans (.free _ (s.free + 1))
  exact (((hmask.trans (.wr _ (WEL_ARB_STATUS.REF_MODE w) 1 (.head _))).trans (.wr _ _ _ (.tail _ (.head _)))).trans (.raiseEv _ _)).trans
    (.emit _ _)

theorem bypassHoldRelease_frame : RegFrame [SVC_BYP_CTRL.reg] s (bypassHoldRelease s) :=
  (RegFrame.wr s SVC_BYP_CTRL.HOLD 0 (.head _)).trans (.raiseEv _ _)

theorem svcAbsentWrite_frame (hi : Bool) (v : Word) : RegFrame [SVC_ABSENT_LO.reg, SVC_ABSENT_HI.reg] s (svcAbsentWrite hi v s) := by
  have hmem : absentReg hi ∈ [SVC_ABSENT_LO.reg, SVC_ABSENT_HI.reg] := by cases hi <;> decide
  refine (RegFrame.store s (absentReg hi) v (lockOf_absent hi) hmem).trans ⟨fun _ _ _ => rfl, ⟨_, _, _, _, _, _, _, _, _, _, rfl⟩,
    fun _ => rfl, fun p => ?_⟩
  simp [State.link, svcAbsentWrite, absentReg]

theorem accessWrite_absent_frame (hi : Bool) (v : Word) :
    RegFrame [SVC_ABSENT_LO.reg, SVC_ABSENT_HI.reg] s (accessWrite .config (absentReg hi) v s) := by
  cases hi with
  | false =>
    rw [accessWrite_absentLo]
    exact .loHeld s _
  | true =>
    rw [accessWrite_absentHi]
    have hdrop : RegFrame [SVC_ABSENT_LO.reg, SVC_ABSENT_HI.reg] s (s.dropLo .config (absentReg false)) := .loHeld s _
    refine RegFrame.trans ?_ (svcAbsentWrite_frame _ true v)
    split
    · exact hdrop.trans (svcAbsentWrite_frame _ false _)
    · exact hdrop

theorem evrTrig_frame (v : Word) : RegFrame [EVR_TRIG.reg] s (evrTrig v s) :=
  (RegFrame.store _ _ _ (by decide +kernel) (.head _)).trans (.raiseEv _ _)

theorem cursorLoad_frame (pos : Word) : RegFrame [EVR_CURSOR.reg] s (cursorLoad pos s) := by
  have hpos : RegFrame [EVR_CURSOR.reg] s (s.wr EVR_CURSOR.POS pos.toNat) := .wr s _ _ (.head _)
  exact .ite (hpos.trans (.evr _ _)) (.ite ((hpos.trans (.evr _ _)).trans (.emit _ _)) (hpos.trans (.evr _ _)))

end

/-- Settles O58: each of these commands is a few operations of the state, and each operation keeps the frame. -/
theorem registerCommandFrame : Obligations.RegisterCommandFrame := by
  intro s t i l hi hexec
  have hframe : RegFrame l s t := by
    rcases hi with ⟨c, v, rfl, rfl⟩ | ⟨v, rfl, rfl⟩ | ⟨v, rfl, rfl⟩ | ⟨w, rfl, rfl⟩ | ⟨w, ch, b, rfl, rfl⟩ | ⟨w, late, rfl, rfl⟩ |
      ⟨rfl, rfl⟩ | ⟨hi, v, rfl, rfl⟩ | ⟨v, rfl, rfl⟩ | ⟨v, rfl, rfl⟩ | ⟨rfl, rfl⟩
    · exact (cqHeadWrite_frame s c v).next hexec
    · exact (eqHeadWrite_frame s v).next hexec
    · exact (tckPeriodWrite_frame s v).next hexec
    · exact (pcapReached_frame s w).next hexec
    · exact Host.Outcome.next.inj hexec ▸ hostRefresh_frame s w ch b
    · exact (refreshTakeover_frame s w late).next hexec
    · exact (bypassHoldRelease_frame s).next hexec
    · exact (accessWrite_absent_frame s hi v).next hexec
    · exact (evrTrig_frame s v).next hexec
    · exact (cursorLoad_frame s v).next hexec
    · exact (cursorLoad_frame s _).next hexec
  obtain ⟨hword, ⟨_, _, _, _, _, _, _, _, _, _, rfl⟩, hstack, hlink⟩ := hframe
  exact ⟨hword, rfl, rfl, rfl, rfl, rfl, rfl, rfl, rfl, rfl, rfl, rfl, rfl, rfl, hstack, hlink⟩

end Sys2Proof.Machine
end

section
/-!
SUPPORT. Properties that every elementary update of the state keeps, but for a write of the nonvolatile area: O55.
Where `unfold` would have the kernel evaluate what a function matches on, the proofs below put its definition in
as a whole, by `rw [show @f = _ by delta f; rfl]`.
-/

namespace Sys2Proof.Machine

open Sys2Proof

-- one theorem after the other: a thread for each of so many short ones does not fit the memory of the check
set_option Elab.async false

/-- What a Hub keeps in its register window and memories, and its side. -/
def HubCore.store (h : HubCore) : Side × Win × Mem × Mem × Flips × Flips :=
  (h.side, h.win, h.table, h.router, h.tableFlips, h.routerFlips)

/-- What makes a Hub able to take a role (R16), and its side. -/
def HubCore.role (h : HubCore) : Side × Bool × Bool × Bool := (h.side, h.inReset, h.bistDone, h.bistPass)

/-- What a Well keeps in its stack. -/
def Well.store (k : Well) : Mem × Flips := (k.stack, k.flips)

/-- The states agree in the build parameters, the queue, and every memory and register window. -/
structure SameStore (s t : State) : Prop where
  build : t.build = s.build
  pending : t.pending = s.pending
  nvm : t.nvm = s.nvm
  cwin : t.cwin = s.cwin
  act : t.act.store = s.act.store
  mir : t.mir.store = s.mir.store
  cist : t.cist.data = s.cist.data
  wells : ∀ w : WellNo, t.wells[w].store = s.wells[w].store

/-- The states agree in the roles of the Hubs (R15-R17, R402), the Heaths and their supplies, the debug ports, and the event records
that wait. -/
structure SameRoles (s t : State) : Prop where
  active : t.active = s.active
  failover : t.failover = s.failover
  mstate : t.mch.mstate = s.mch.mstate
  act : t.act.role = s.act.role
  mir : t.mir.role = s.mir.role
  heathA : t.heathA = s.heathA
  heathB : t.heathB = s.heathB
  lead : t.lead = s.lead
  pfail : t.pfail = s.pfail
  tapA : t.tapA = s.tapA
  tapB : t.tapB = s.tapB
  waiting : t.evq.waiting = s.evq.waiting

/-- The writes of a Hub's table and router SRAM. -/
inductive SramWrite : (HubCore → HubCore) → Prop where
  | table (a : Nat) (bs : List Byte) : SramWrite fun h => h.putTable a bs
  | router (a : Nat) (bs : List Byte) : SramWrite fun h => h.putRouter a bs
  | word (space a : Nat) (w : BitVec 80) : SramWrite fun h => h.putWord space a w

/-- The writes of a Well's stack. -/
inductive StackWrite : (Well → Well) → Prop where
  | bytes (a : Nat) (bs : List Byte) :
    StackWrite fun k => { k with stack := mwrite zeroByte k.stack a bs, flips := Flips.written k.flips a bs.length }
  | zero (a n : Nat) : StackWrite fun k => { k with
      stack := k.stack.filter fun x => !(decide (a ≤ x.1 ∧ x.1 < a + n)), flips := Flips.written k.flips a n }
  | word (a : Nat) (v : BitVec 80) : StackWrite fun k => { k with flips := Flips.put k.flips k.stack zeroByte a v }
  | flip (a : Nat) (x : BitVec 80) : StackWrite fun k => { k with flips := sput noFlip k.flips a x }

/-- A property that every elementary update of the state keeps, but for a change of roles and a write of the nonvolatile area. -/
structure Stable (P : State → Prop) : Prop where
  rest : ∀ {s t : State}, SameStore s t → SameRoles s t → P s → P t
  event : ∀ {s : State} (e : Event), P s → P { s with evq := { s.evq with waiting := s.evq.waiting ++ [e] } }
  setWord : ∀ {s : State} (off : Nat) (v : Word), P s → P (s.setWord off v)
  mirWord : ∀ {s : State} (off : Nat) (v : Word), P s →
    P { s with mir := { s.mir with win := sput (resetWord s.build) s.mir.win off v } }
  dropWords : ∀ {s : State} (q : Nat × Word → Bool), P s → P { s with cwin := s.cwin.filter q }
  actSram : ∀ {s : State} {f : HubCore → HubCore}, SramWrite f → P s → P { s with act := f s.act }
  mirSram : ∀ {s : State} {f : HubCore → HubCore}, SramWrite f → P s → P { s with mir := f s.mir }
  stack : ∀ {s : State} (w : WellNo) {f : Well → Well}, StackWrite f → P s → P (s.modWell w f)
  cistern : ∀ {s : State} (a : Nat) (bs : List Byte), P s →
    P { s with cist := { s.cist with data := mwrite zeroByte s.cist.data a bs } }
  cisternFresh : ∀ {s : State}, P s → P { s with cist := { s.cist with data := [] } }
  sync : ∀ {s : State}, P s → P { s with mir := copyHub s.build s.act s.cwin s.mir }

/-- A property that changes of roles keep: of what `SameRoles` lists, Hubs that start afresh and Hubs that change places. -/
structure StableRoles (P : State → Prop) : Prop where
  rest : ∀ {s t : State}, SameStore s t → P s → P t
  freshAct : ∀ {s : State} (held : Bool), P s → P { s with act := HubCore.fresh s.act.side held }
  freshMir : ∀ {s : State} (held : Bool), P s → P { s with mir := HubCore.fresh s.mir.side held }
  exchange : ∀ {s : State}, P s → P { s with act := s.mir, mir := s.act }

/-- A property that the writes of the nonvolatile area keep. -/
structure StableNvm (P : State → Prop) : Prop where
  write : ∀ {s : State} (a : Nat) (bs : List Byte), P s → P { s with nvm := mwrite nvByte s.nvm a bs }
  drop : ∀ {s : State} (q : Nat × Byte → Bool), P s → P { s with nvm := s.nvm.filter q }

/-- A property that is stable, and holds in a state. -/
structure Kept (P : State → Prop) (s : State) : Prop where
  stable : Stable P
  holds : P s

/-- A command that completes keeps the property. -/
def Kept.Next (P : State → Prop) (o : Host.Outcome State Fault Refusal) : Prop := ∀ t, o = .next t → Kept P t

section
variable {P : State → Prop} {s t : State}

/-! ### Rules -/

theorem Kept.next (h : Kept P s) : Kept.Next P (.next s) := fun _ he => Host.Outcome.next.inj he ▸ h

theorem Kept.same (h : Kept P s) (hs : SameStore s t) (hr : SameRoles s t) : Kept P t := ⟨h.stable, h.stable.rest hs hr h.holds⟩

/-- An update of what lies beside the memories and the roles. -/
theorem Kept.upd {now out free act mir mch tick commits evq evr host cfgWait ports landed routeWait wells work cist chan hk
      intBypass erases erasePaused corrected eqTurn wlTurn} (h : Kept P s)
    (ha : act.store = s.act.store := by rfl) (har : act.role = s.act.role := by rfl)
    (hm : mir.store = s.mir.store := by rfl) (hmr : mir.role = s.mir.role := by rfl) (hmst : mch.mstate = s.mch.mstate := by rfl)
    (he : evq.waiting = s.evq.waiting := by rfl) (hc : cist.data = s.cist.data := by rfl)
    (hw : ∀ w : WellNo, wells[w].store = s.wells[w].store := by exact fun _ => rfl) :
    Kept P { s with
      now := now, out := out, free := free, act := act, mir := mir, mch := mch, tick := tick, commits := commits, evq := evq, evr := evr
      host := host, cfgWait := cfgWait, ports := ports, landed := landed, routeWait := routeWait, wells := wells, work := work
      cist := cist, chan := chan, hk := hk, intBypass := intBypass, erases := erases, erasePaused := erasePaused
      corrected := corrected, eqTurn := eqTurn, wlTurn := wlTurn } :=
  h.same ⟨rfl, rfl, rfl, rfl, ha, hm, hc, hw⟩ ⟨rfl, rfl, hmst, har, hmr, rfl, rfl, rfl, rfl, rfl, rfl, he⟩

theorem Kept.move (h : Kept P s) (hr : StableRoles P) (hs : SameStore s t) : Kept P t := ⟨h.stable, hr.rest hs h.holds⟩

/-- An update that may change the roles. -/
theorem Kept.change {now out free active act mir mch failover tick commits evq evr host cfgWait ports landed routeWait wells work
    cist chan hk
      heathA heathB lead pfail intBypass tapA tapB erases erasePaused corrected eqTurn wlTurn} (h : Kept P s) (hr : StableRoles P)
    (ha : act.store = s.act.store := by rfl) (hm : mir.store = s.mir.store := by rfl) (hc : cist.data = s.cist.data := by rfl)
    (hw : ∀ w : WellNo, wells[w].store = s.wells[w].store := by exact fun _ => rfl) :
    Kept P { s with
      now := now, out := out, free := free, active := active, act := act, mir := mir, mch := mch, failover := failover, tick := tick
      commits := commits, evq := evq, evr := evr, host := host, cfgWait := cfgWait, ports := ports, landed := landed
      routeWait := routeWait, wells := wells, work := work, cist := cist, chan := chan, hk := hk, heathA := heathA, heathB := heathB
      lead := lead, pfail := pfail, intBypass := intBypass, tapA := tapA, tapB := tapB, erases := erases, erasePaused := erasePaused
      corrected := corrected, eqTurn := eqTurn, wlTurn := wlTurn } :=
  h.move hr ⟨rfl, rfl, rfl, rfl, ha, hm, hc, hw⟩

theorem Kept.ite {c : Prop} [Decidable c] (ht : Kept P t) (hs : Kept P s) : Kept P (if c then t else s) := by
  split
  · exact ht
  · exact hs

theorem Kept.dite {c : Prop} [Decidable c] {a : c → State} {b : ¬c → State} (ha : ∀ hc, Kept P (a hc)) (hb : ∀ hc, Kept P (b hc)) :
    Kept P (if hc : c then a hc else b hc) := by
  split
  · exact ha _
  · exact hb _

/-- The state of a pair, taken apart by a match. -/
theorem Kept.fst {α : Type} {x : State × α} {a : α} (h : Kept P x.1) (he : x = (t, a)) : Kept P t := by
  rw [he] at h
  exact h

theorem Kept.foldl {β : Type} {f : State → β → State} {l : List β} (h : Kept P s)
    (hf : ∀ {t : State}, Kept P t → ∀ x, Kept P (f t x)) : Kept P (l.foldl f s) :=
  foldl_keeps (P := Kept P) l h fun _ x ht => hf ht x

end

end Sys2Proof.Machine
end

section
/-!
SUPPORT. Stable properties are kept by the state's own operations.
-/

namespace Sys2Proof.Machine

open Sys2Proof

-- one theorem after the other: a thread for each of so many short ones does not fit the memory of the check
set_option Elab.async false

variable {P : State → Prop} {s t : State}

/-! ### The stored part of the register window -/

theorem Kept.setWord {off v} (h : Kept P s) : Kept P (s.setWord off v) := ⟨h.stable, h.stable.setWord off v h.holds⟩

theorem MirChan.push_mstate (m : MirChan) (u : MirUpd) : (m.push u).mstate = m.mstate := by
  unfold MirChan.push
  split <;> rfl

theorem Kept.modTap {side f} (h : Kept P s) (hr : StableRoles P) : Kept P (s.modTap side f) := by
  unfold State.modTap
  split
  · exact h.change hr
  · exact h.change hr

theorem Kept.wr {f v} (h : Kept P s) : Kept P (s.wr f v) := h.setWord

theorem Kept.bumpBy {f n} (h : Kept P s) : Kept P (s.bumpBy f n) := h.wr

theorem Kept.bump {f} (h : Kept P s) : Kept P (s.bump f) := h.bumpBy

theorem Kept.wrIf {f v} (h : Kept P s) : Kept P (s.wrIf f v) := .ite h h.wr

theorem Kept.wr2 {lo hi v} (h : Kept P s) : Kept P (s.wr2 lo hi v) := h.wr.wr

theorem Kept.setCore {m} (h : Kept P s) : Kept P (s.setCore m) := h.upd (hmst := MirChan.push_mstate _ _)

theorem Kept.setSteps {c l} (h : Kept P s) : Kept P (s.setSteps c l) := h.setCore

theorem Kept.modStep {c p f} (h : Kept P s) : Kept P (s.modStep c p f) := h.setSteps

theorem Kept.at {t} (h : Kept P s) : Kept P (s.at t) := h.upd

theorem Kept.emit {e} (h : Kept P s) : Kept P (s.emit e) := h.upd

/-! ### Raising an event -/

theorem Kept.ringPut {e} (h : Kept P s) : Kept P (s.ringPut e) := by
  unfold State.ringPut
  extract_lets _ _
  split
  · exact .ite h.upd h.upd
  · exact h.upd

theorem Kept.record {e} (h : Kept P s) : Kept P (s.record e) := by
  unfold State.record
  refine .ite h ?_
  extract_lets _ _ _ _ _ _ s1 s2
  have h2 : Kept P s2 := .ite h.upd h.upd.ringPut
  exact .ite h (.ite h2.upd h2)

theorem Kept.event {e} (h : Kept P s) : Kept P { s with evq := { s.evq with waiting := s.evq.waiting ++ [e] } } :=
  ⟨h.stable, h.stable.event e h.holds⟩

theorem Kept.enqueue {e} (h : Kept P s) : Kept P (s.enqueue e) := .ite h (.ite h.event h.bump.upd)

theorem Kept.raiseEv {e} (h : Kept P s) : Kept P (s.raiseEv e) := h.enqueue.record

theorem Kept.raiseFrom {part num code sev data c seq addr} (h : Kept P s) : Kept P (s.raiseFrom part num code sev data c seq addr) :=
  h.raiseEv

theorem Kept.raise {code sev data c seq addr} (h : Kept P s) : Kept P (s.raise code sev data c seq addr) := h.raiseFrom

theorem Kept.raiseHeath {code sev data addr} (h : Kept P s) : Kept P (s.raiseHeath code sev data addr) := h.raiseFrom

theorem Kept.overwriteReport (h : Kept P s) : Kept P s.overwriteReport := .ite h.upd.raiseHeath h

theorem Kept.rasIrq {f} (h : Kept P s) : Kept P (s.rasIrq f) := by
  unfold State.rasIrq
  refine .ite ?_ h
  extract_lets s1
  have h1 : Kept P s1 := h.wr
  exact .ite h1.emit h1

theorem Kept.setFrozen {m data2 part} (h : Kept P s) : Kept P (s.setFrozen m data2 part) := by
  unfold State.setFrozen
  refine .rasIrq (.raiseFrom ?_)
  cases m with
  | peer d =>
    dsimp only
    exact .ite h.wr h.wr
  | core => exact h
  | ring c | well w | debug =>
    dsimp only
    exact h.wr

/-! ### Shared operations -/

theorem Kept.addPair {lo hi n} (h : Kept P s) : Kept P (s.addPair lo hi n) := h.wr2

theorem Kept.accCyc {c n} (h : Kept P s) : Kept P (s.accCyc c n) := h.addPair

theorem Kept.accEnergy {c fj} (h : Kept P s) : Kept P (s.accEnergy c fj) := h.upd.addPair

theorem Kept.accFlit {c} (h : Kept P s) : Kept P (s.accFlit c) := h.addPair.accEnergy

theorem Kept.accHost {c beats} (h : Kept P s) : Kept P (s.accHost c beats) := h.addPair.accEnergy

theorem Kept.accMacs {c n} (h : Kept P s) : Kept P (s.accMacs c n) := h.accEnergy

theorem Kept.stack {w f} (h : Kept P s) (hf : StackWrite f) : Kept P (s.modWell w f) := ⟨h.stable, h.stable.stack w hf h.holds⟩

/-- A change of a Well that leaves its stack. -/
theorem Kept.modWell {w f} (h : Kept P s) (hf : ∀ k, (f k).store = k.store := by exact fun _ => rfl) : Kept P (s.modWell w f) := by
  have hw : ∀ v : WellNo, (s.modWell w f).wells[v].store = s.wells[v].store := fun v => by
    by_cases hv : v = w
    · rw [hv, State.modWell_same]
      exact hf _
    · rw [State.modWell_ne s f hv]
  exact h.upd (hw := hw)

theorem State.modWell_modWell (s : State) (w : WellNo) (f g : Well → Well) :
    (s.modWell w f).modWell w g = s.modWell w fun k => g (f k) := by
  simp [State.modWell]

theorem Kept.accIssue {r} (h : Kept P s) : Kept P (s.accIssue r) := by
  unfold State.accIssue
  split
  · exact h.accHost
  · exact h

theorem Kept.issueOne {r} (h : Kept P s) : Kept P (s.issueOne r) := by
  unfold State.issueOne
  extract_lets _ _
  split
  · exact .ite h.upd h.upd.accIssue.emit
  · exact h.upd

theorem Kept.issueAll (h : Kept P s) : Kept P s.issueAll := .foldl h.upd fun ht _ => ht.issueOne

theorem Kept.hostRead {why addr len} (h : Kept P s) : Kept P (s.hostRead why addr len) := .foldl h fun ht _ => ht.issueOne

theorem Kept.hostWrite {why addr bytes} (h : Kept P s) : Kept P (s.hostWrite why addr bytes) := .foldl h fun ht _ => ht.issueOne

theorem Kept.orphan {c seq att} (h : Kept P s) : Kept P (s.orphan c seq att) := by
  unfold State.orphan
  extract_lets _ _ _ s1
  exact .ite h.upd h.upd.bumpBy

theorem Kept.modPort {p f} (h : Kept P s) : Kept P (s.modPort p f) := h.upd

theorem Kept.modLink {l f} (h : Kept P s) : Kept P (s.modLink l f) := by
  cases l with
  | port p => exact h.upd
  | well w => exact h.modWell (w := w) (f := fun k => { k with link := f k.link })
  | mirror => exact h.upd

theorem Kept.enqueueOn {l pkt sub release mask} (h : Kept P s) : Kept P (s.enqueueOn l pkt sub release mask) := by
  unfold State.enqueueOn
  exact h.modLink

theorem Kept.landHere {pkt hold release} (h : Kept P s) : Kept P (s.landHere pkt hold release) := h.upd

theorem Kept.release {n} (h : Kept P s) : Kept P (s.release n) := by
  unfold State.release
  split
  · exact h.upd
  · exact .ite h.upd h.upd

theorem Kept.releaseAll {hs} (h : Kept P s) : Kept P (s.releaseAll hs) := .foldl h fun ht _ => ht.release

theorem Kept.releaseOpt {x} (h : Kept P s) : Kept P (s.releaseOpt x) := by
  unfold State.releaseOpt
  split
  · exact h.release
  · exact h

theorem Kept.sendRaw {t} (h : Kept P s) : Kept P (s.sendRaw t).1 := by
  unfold State.sendRaw
  dsimp only
  by_cases hc : (dstOf t.pkt).val = s.chip
  · simp only [hc, if_true]
    exact h.landHere
  · simp only [hc, if_false]
    split
    · exact h
    · split_ifs
      · exact h.upd
      · dsimp only
        exact h.enqueueOn

theorem Kept.sendNotice {p} (h : Kept P s) : Kept P (s.sendNotice p) := by
  unfold State.sendNotice
  split
  · next he => exact (h.sendRaw.fst he).raise
  · next he => exact h.sendRaw.fst he

theorem Kept.abortTo {src dsts c seq att cause detail} (h : Kept P s) : Kept P (s.abortTo src dsts c seq att cause detail) := by
  unfold State.abortTo
  extract_lets _ _ s1 _
  have h1 : Kept P s1 := .foldl h fun ht _ => ht.sendNotice
  exact .ite h1 h1.upd

theorem Kept.sendAbort {c seq att cause detail} (h : Kept P s) : Kept P (s.sendAbort c seq att cause detail) := .ite h h.abortTo

theorem Kept.noticeAs {name c seq att cause detail} (h : Kept P s) : Kept P (s.noticeAs name c seq att cause detail) := by
  unfold State.noticeAs
  split
  · exact h.sendAbort
  · exact h.abortTo

theorem Kept.routeAbort {p} (h : Kept P s) : Kept P (s.routeAbort p) := h.noticeAs

theorem Kept.send {pkt release sub} (h : Kept P s) : Kept P (s.send pkt release sub) := by
  unfold State.send
  split
  · next s1 he =>
    have h1 : Kept P s1 := h.sendRaw.fst he
    exact .ite h1.releaseAll.raise.routeAbort h1.releaseAll.raise
  · next he => exact h.sendRaw.fst he

theorem Kept.pumpWaiting (h : Kept P s) : Kept P s.pumpWaiting := .foldl h.upd fun ht _ => ht.send

theorem Kept.sendWell {w pkt release} (h : Kept P s) : Kept P (s.sendWell w pkt release) := .ite h.releaseAll h.enqueueOn

theorem Kept.sendMaster {ptype c seq att w1} (h : Kept P s) : Kept P (s.sendMaster ptype c seq att w1) := by
  unfold State.sendMaster
  extract_lets _ _
  refine .ite h.landHere ?_
  split
  · exact h.send
  · exact h.upd

theorem Kept.sendHeld {m} (h : Kept P s) : Kept P (s.sendHeld m) := .foldl h.upd fun ht _ => ht.send

theorem Kept.freeHold {x} (h : Kept P s) : Kept P (s.freeHold x) := by
  unfold State.freeHold
  split
  · exact .ite h.modLink h.modLink
  · exact h

theorem Kept.takeRaw {p} (h : Kept P s) : Kept P (s.takeRaw p).1 := by
  unfold State.takeRaw
  split
  · exact h.upd
  · exact h

theorem Kept.takeWith {p} (h : Kept P s) : Kept P (s.takeWith p).1 := h.takeRaw.freeHold

theorem Kept.takeLanded {p} (h : Kept P s) : Kept P (s.takeLanded p) := h.takeWith.releaseAll

theorem Kept.stalePkt {p} (h : Kept P s) : Kept P (s.stalePkt p) := h.bump.upd

theorem Kept.staleAny {p} (h : Kept P s) : Kept P (s.staleAny p) := .ite h.stalePkt h.bump.upd

theorem Kept.progress {c} (h : Kept P s) : Kept P (s.progress c) := by
  unfold State.progress
  split
  · exact .ite h h.modStep.sendMaster
  · exact h

theorem Kept.hold {e now} (h : Kept P s) (hnow : ∀ {t}, Kept P t → Kept P (now t)) : Kept P (s.hold e now) := by
  unfold State.hold
  split
  · exact .ite (hnow h) h.upd
  · exact .ite (hnow h) h.upd
  · exact hnow h
  · exact hnow h

theorem Kept.readyReport {c seq att} (h : Kept P s) : Kept P (s.readyReport c seq att) := h.upd.sendMaster

theorem Kept.colAll {ch ptype w1 w2} (h : Kept P s) : Kept P (s.colAll ch ptype w1 w2) := .foldl h fun ht _ => ht.send

theorem Kept.colAbortSend {ch cause newatt} (h : Kept P s) : Kept P (s.colAbortSend ch cause newatt) := .ite h h.colAll

/-! ### The table set of a context -/

theorem Kept.actSram {f} (h : Kept P s) (hf : SramWrite f) : Kept P { s with act := f s.act } := ⟨h.stable, h.stable.actSram hf h.holds⟩

theorem Kept.mirSram {f} (h : Kept P s) (hf : SramWrite f) : Kept P { s with mir := f s.mir } := ⟨h.stable, h.stable.mirSram hf h.holds⟩

theorem Kept.writeTable {a bs} (h : Kept P s) : Kept P (s.writeTable a bs) :=
  (h.actSram (.table a bs)).upd (hmst := MirChan.push_mstate _ _)

theorem Kept.writeRouter {a bs} (h : Kept P s) : Kept P (s.writeRouter a bs) :=
  (h.actSram (.router a bs)).upd (hmst := MirChan.push_mstate _ _)

theorem Kept.correctedWord {part} (h : Kept P s) : Kept P (s.correctedWord part) := by
  unfold State.correctedWord
  extract_lets _ _ s1 s2
  have h1 : Kept P s1 := h.bump
  exact .ite h1.upd.raise h1.upd

theorem Kept.stackWrite {w a bs} (h : Kept P s) : Kept P (s.stackWrite w a bs) := h.stack (.bytes a bs)

theorem Kept.stackZero {w a n} (h : Kept P s) : Kept P (s.stackZero w a n) := h.stack (.zero a n)

theorem Kept.countFixed {w a n} (h : Kept P s) : Kept P (s.countFixed w a n) := .foldl h fun ht _ => ht.correctedWord

theorem Kept.rdmWindow {w} (h : Kept P s) : Kept P (s.rdmWindow w) := h.modWell

theorem Kept.activated {w ch bank row} (h : Kept P s) : Kept P (s.activated w ch bank row) := .ite h h.modWell

theorem Kept.accDram {w c a rdB wrB} (h : Kept P s) : Kept P (s.accDram w c a rdB wrB) := h.modWell.addPair.accEnergy

theorem Kept.readDram {w c a n} (h : Kept P s) : Kept P (s.readDram w c a n) := h.countFixed.accDram

theorem Kept.writeDram {w c a bs} (h : Kept P s) : Kept P (s.writeDram w c a bs) := h.stackWrite.accDram

theorem Kept.echoReads {c bank layer} (h : Kept P s) : Kept P (s.echoReads c bank layer) := by
  unfold State.echoReads
  split
  · exact h
  · exact .ite h (.foldl h fun ht _ => .readDram (.ite ht ht.bumpBy))

theorem Kept.writePlacement {c seq l host} (h : Kept P s) : Kept P (s.writePlacement c seq l host).1 := by
  unfold State.writePlacement
  split
  · exact h
  · exact .foldl h fun ht _ => ht.writeDram

theorem Kept.zeroRows {c w} (h : Kept P s) : Kept P (s.zeroRows c w) := h.stackZero.accDram

theorem Kept.zeroEcho {c} (h : Kept P s) : Kept P (s.zeroEcho c) := .foldl h fun ht _ => ht.zeroRows

theorem Kept.copyStack {v w a b n} (h : Kept P s) : Kept P (s.copyStack v w a b n) := by
  unfold State.copyStack
  extract_lets cells bad s1
  have h1 : Kept P s1 := .foldl h.stackZero fun ht _ => ht.stackWrite
  have key : ∀ (l : List (Nat × BitVec 80)) {t : State}, Kept P t → Kept P (t.modWell w fun k => { k with
      flips := l.foldl (fun (fl : Flips) (x : Nat × BitVec 80) => sput noFlip fl (b + (x.1 - a)) x.2) k.flips }) := by
    intro l
    induction l with
    | nil => exact fun ht => ht.modWell
    | cons x l ih =>
      intro t ht
      have hx := ih (ht.stack (w := w) (.flip (b + (x.1 - a)) x.2))
      rwa [State.modWell_modWell] at hx
  exact key bad h1

theorem Kept.echoCopy {w c} (h : Kept P s) : Kept P (s.echoCopy w c) := by
  unfold State.echoCopy
  split
  · exact h.zeroRows
  · exact h.readDram.copyStack.accDram

/-! ### The Cistern -/

theorem Kept.noteLow {pool} (h : Kept P s) : Kept P (s.noteLow pool) := h.upd

theorem Kept.takeBuf {q n count pick x} (h : Kept P s) (he : s.takeBuf q n count pick = some (t, x)) : Kept P t := by
  unfold State.takeBuf at he
  split at he
  · cases he
  · split at he
    · cases he
    · obtain ⟨rfl, -⟩ := Prod.mk.inj (Option.some.inj he)
      exact .noteLow (.upd (.ite h h.bump))

theorem Kept.takeMany {n bytes pick hs x} (h : Kept P s) (he : State.takeMany n bytes pick (some (s, hs)) = some (t, x)) : Kept P t := by
  have key : ∀ y, State.takeMany n bytes pick (some (s, hs)) = some y → Kept P y.1 := by
    unfold State.takeMany
    refine foldl_keeps (P := fun a : Option (State × List Nat) => ∀ y, a = some y → Kept P y.1) _ ?_ ?_
    · rintro _ ⟨⟩
      exact h
    · intro a _ ih y hy
      cases a with
      | none => cases hy
      | some z =>
        dsimp only at hy
        split at hy
        · obtain ⟨r, hr, rfl⟩ := Option.map_eq_some_iff.mp hy
          exact (ih z rfl).takeBuf hr
        · cases hy
  exact key _ he

theorem Kept.markWaits (h : Kept P s) : Kept P s.markWaits := .upd (.ite h h.bumpBy)

theorem Kept.cistAsk {q n why} (h : Kept P s) : Kept P (s.cistAsk q n why) := h.upd.markWaits

theorem Kept.cistern {a bs} (h : Kept P s) : Kept P { s with cist := { s.cist with data := mwrite zeroByte s.cist.data a bs } } :=
  ⟨h.stable, h.stable.cistern a bs h.holds⟩

theorem Kept.bufWrite {x bs} (h : Kept P s) : Kept P (s.bufWrite x bs) := h.cistern

theorem Kept.setCount {x n} (h : Kept P s) : Kept P (s.setCount x n) := h.upd

theorem Kept.cstEnable {v} (h : Kept P s) : Kept P (cstEnable v s) := by
  unfold Machine.cstEnable
  extract_lets _ _ _ _
  refine .ite h.upd ?_
  refine .ite ?_ (.ite h.upd.wr h.upd.raise)
  split
  · exact h.upd.raise
  · exact h.upd.wr

theorem Kept.execCstEnable {v} (h : Kept P s) : Kept.Next P (execCstEnable v s) := .next (.ite h.cstEnable h)

theorem Kept.withdraw {c} (h : Kept P s) : Kept P (s.withdraw c) := .foldl h.upd fun ht _ => by
    split
    · exact ht.freeHold
    · exact ht

/-! ### How an attempt ends -/

theorem Kept.flushTx {hit} (h : Kept P s) : Kept P (s.flushTx hit) := .foldl h fun ht _ => ht.modLink.releaseAll

theorem Kept.flushLanded {hit} (h : Kept P s) : Kept P (s.flushLanded hit) := .foldl h.upd fun ht _ => ht.freeHold.releaseAll

theorem Kept.flushQueues {c} (h : Kept P s) : Kept P (s.flushQueues c) := h.releaseAll.upd

theorem Kept.flushTiles {c} (h : Kept P s) : Kept P (s.flushTiles c) := h.releaseAll.upd

theorem Kept.flushMeadow {c} (h : Kept P s) : Kept P (s.flushMeadow c) := h.releaseAll.upd

theorem Kept.closeWells {c seq att reason} (h : Kept P s) : Kept P (s.closeWells c seq att reason) := .foldl h fun ht _ => ht.sendWell

theorem Kept.dropTentative {c seq} (h : Kept P s) : Kept P (s.dropTentative c seq) := .ite h.setCore h

theorem Kept.countDrops {c} (h : Kept P s) : Kept P (s.countDrops c) := by
  unfold State.countDrops
  split
  · extract_lets s1
    have h1 : Kept P s1 := .ite h h.bumpBy.bumpBy
    exact .ite h1 h1.bumpBy.bumpBy

theorem Kept.absorbAtt {c seq} (h : Kept P s) : Kept P (s.absorbAtt c seq) := by
  unfold State.absorbAtt
  split
  · exact h
  · exact h.modStep

theorem Kept.stepEvents {c st} (h : Kept P s) : Kept P (s.stepEvents c st) := by
  unfold State.stepEvents
  extract_lets s1 s2 s3
  have h1 : Kept P s1 := .ite h h.raise
  have h2 : Kept P s2 := .ite h1 h1.raise
  have h3 : Kept P s3 := .ite h2 h2.raise
  exact .ite h3 h3.raise

theorem Kept.outcome {c hit f} (h : Kept P s) : Kept P (s.outcome c hit f) := by
  unfold State.outcome
  split
  · exact h
  · exact h.modStep.stepEvents

theorem Kept.endAttempt {c st reason} (h : Kept P s) : Kept P (s.endAttempt c st reason) := by
  unfold State.endAttempt
  extract_lets _ _ s1 s2 s3 s4 _ s5 _ s6
  have h1 : Kept P s1 := h.absorbAtt.countDrops
  have h2 : Kept P s2 := .ite h1 h1.orphan
  have h3 : Kept P s3 := h2.withdraw.releaseAll.flushTx
  have h4 : Kept P s4 := h3.flushLanded.flushQueues.flushTiles.flushMeadow
  have h6 : Kept P s6 := h4.upd.releaseAll
  exact .closeWells (.ite h6 h6.dropTentative)

theorem Kept.retireLive {c status detail} (h : Kept P s) : Kept P (s.retireLive c status detail) := by
  unfold State.retireLive
  split
  · exact h
  · exact h.endAttempt.outcome

theorem Kept.abortLive {c cause detail} (h : Kept P s) : Kept P (s.abortLive c cause detail) := by
  unfold State.abortLive
  split
  · exact h
  · extract_lets _ s1
    have h1 : Kept P s1 := h.endAttempt.modStep
    split
    · exact .ite (h1.hold fun ht => ht.readyReport) h.endAttempt.outcome

theorem Kept.noticeLive {c cause detail} (h : Kept P s) : Kept P (s.noticeLive c cause detail) := by
  unfold State.noticeLive
  split
  · exact h.sendAbort
  · exact h

theorem Kept.lateNotice (h : Kept P s) : Kept P s.lateNotice := h.bump

theorem Kept.freezeRing {c d2} (h : Kept P s) : Kept P (s.freezeRing c d2) :=
  .ite h (.foldl h.setFrozen.noticeLive fun ht _ => .ite ht.colAbortSend ht)

theorem Kept.freezeWell {w d2} (h : Kept P s) : Kept P (s.freezeWell w d2) :=
  .ite h (.foldl h.setFrozen fun ht _ => .ite ht.noticeLive ht)

theorem Kept.freezePeer {d d2} (h : Kept P s) : Kept P (s.freezePeer d d2) :=
  .ite h (.foldl h.setFrozen fun ht _ => .ite ht.noticeLive ht)

/-! ### The Meadow -/

theorem Kept.modAtt {c f} (h : Kept P s) : Kept P (s.modAtt c f) := h.upd

theorem Kept.modTok {c t f} (h : Kept P s) : Kept P (s.modTok c t f) := h.modAtt

theorem Kept.emitRow {c t els} (h : Kept P s) : Kept P (s.emitRow c t els) := by
  unfold State.emitRow
  split
  · exact h
  · exact h.hostWrite.modTok.progress

theorem Kept.satHub {n} (h : Kept P s) : Kept P (s.satHub n) := .ite h h.bumpBy

theorem Kept.emit32 {c t row} (h : Kept P s) : Kept P (s.emit32 c t row) := h.satHub.emitRow

theorem Kept.writeAux {c t dws} (h : Kept P s) : Kept P (s.writeAux c t dws) := by
  unfold State.writeAux
  split
  · split
    · exact h
    · exact h.satHub.hostWrite
  · exact h

theorem Kept.dropMead {c t} (h : Kept P s) : Kept P (s.dropMead c t) := h.upd

theorem Kept.finishTok {c m} (h : Kept P s) : Kept P (s.finishTok c m) := by
  unfold State.finishTok
  split
  · exact h
  · refine .ite h.upd ?_
    extract_lets s1 s2
    have h1 : Kept P s1 := h.emit32
    have h2 : Kept P s2 := .ite h1.writeAux h1
    exact h2.dropMead

theorem Kept.combineStarts {c} (h : Kept P s) : Kept P (s.combineStarts c) := by
  unfold State.combineStarts
  split
  · exact h
  · refine .ite h ?_
    extract_lets _ s1
    have h1 : Kept P s1 := h.modStep
    exact .ite h1.raise h1

theorem Kept.expectTok {c t expected} (h : Kept P s) : Kept P (s.expectTok c t expected) := by
  unfold State.expectTok
  extract_lets s1 s2 _ s3 _
  have h1 : Kept P s1 := h.combineStarts
  have h2 : Kept P s2 := h1.bump
  have h3 : Kept P s3 := h2.emitRow
  split
  · exact h1
  · exact .ite (.ite h2.upd (.ite h3.writeAux h3)) h1.upd

theorem Kept.addRank {p} (h : Kept P s) : Kept P (s.addRank p) := by
  unfold State.addRank
  split
  · exact h
  · extract_lets _ _ s1
    exact .ite h.upd.finishTok h.upd

theorem Kept.pumpParked {n} (h : Kept P s) : Kept P (s.pumpParked n) := by
  induction n generalizing s with
  | zero => exact h
  | succ n ih =>
    unfold State.pumpParked
    split
    · exact h
    · exact ih (.addRank (.releaseOpt h.upd))

theorem Kept.park {m p bf hold} (h : Kept P s) : Kept P (s.park m p bf hold) := .ite h.freeHold.upd h.bump.cistAsk

theorem Kept.meadReturn {st p hold} (h : Kept P s) : Kept P (s.meadReturn st p hold) := by
  rw [show @State.meadReturn = _ by delta State.meadReturn; rfl]
  extract_lets c token rank ranks x bad
  have hbad : Kept P (bad s) := h.freeHold.bump.raise
  cases s.mead c x with
  | none => exact hbad
  | some m => exact .ite hbad (.ite h.freeHold.addRank.pumpParked h.park)

theorem Kept.countError {p home expert filled landed kind} (h : Kept P s) : Kept P (s.countError p home expert filled landed kind) :=
  h.bump.raise.sendAbort

theorem Kept.rowNormalise (h : Kept P s) : Kept P (rowNormalise s) := by
  unfold Machine.rowNormalise
  split
  · exact h
  · extract_lets _ s1 _
    split
    · exact .pumpParked (.dropMead (.ite h.upd.satHub.emitRow h.upd.bump.modAtt.emitRow))
    · exact h.upd

theorem Kept.execRowNormalise (h : Kept P s) : Kept.Next P (execRowNormalise s) := .next (.ite h.rowNormalise h)

end Sys2Proof.Machine
end

section
/-!
SUPPORT. Stable properties are kept by tables, rings and the steps of the host path.
-/

namespace Sys2Proof.Machine

open Sys2Proof

-- one theorem after the other: a thread for each of so many short ones does not fit the memory of the check
set_option Elab.async false

variable {P : State → Prop} {s t : State}

/-! ### Storing a written register word by the access codes of R7 and the locks of R8, R435 and R436 -/

theorem Kept.store {off v} (h : Kept P s) : Kept P (s.store off v) := by
  unfold State.store
  split
  · exact h
  · extract_lets _ _ _ s1
    have h1 : Kept P s1 := .ite h.bump h
    exact .ite h1 h1.setWord

theorem Kept.refuse {code off v c} (h : Kept P s) : Kept P (s.refuse code off v c) := h.raise

/-! ### Table loads, arming and swapping a table set -/

theorem Kept.loadError {c kind err} (h : Kept P s) : Kept P (s.loadError c kind err) := h.wr.raise

theorem Kept.loadCtrlWrite {v} (h : Kept P s) : Kept P (loadCtrlWrite v s) := by
  unfold Machine.loadCtrlWrite
  extract_lets _ s1 _ _ _ _ _ _ s2 _ _ s3 _ s4 _
  have h1 : Kept P s1 := h.store
  have h2 : Kept P s2 := h1.loadError
  have h3 : Kept P s3 := h1.wr.wr.wr.wr
  exact .ite h1 (.ite (.ite h2 h2.wr) (.ite h3.upd h3.upd.hostRead))

theorem Kept.loadOf {kind v} (h : Kept P s) : Kept P (loadOf kind v s) := .ite h.loadCtrlWrite h

theorem Kept.execLoadHomeTable {v} (h : Kept P s) : Kept.Next P (execLoadHomeTable v s) := .next (.ite h.loadOf h)

theorem Kept.execLoadLayerEntries {v} (h : Kept P s) : Kept.Next P (execLoadLayerEntries v s) := .next (.ite h.loadOf h)

theorem Kept.execLoadRouterRows {v} (h : Kept P s) : Kept.Next P (execLoadRouterRows v s) := .next (.ite h.loadOf h)

theorem Kept.execCopyActiveSet {v} (h : Kept P s) : Kept.Next P (execCopyActiveSet v s) := .next (.ite h.loadOf h)

theorem Kept.loadStore {l off bs} (h : Kept P s) : Kept P (s.loadStore l off bs) := by
  unfold State.loadStore
  extract_lets _
  split
  · exact h.writeTable
  · exact h.writeTable
  · exact h.writeRouter

theorem Kept.loadData {off bs err} (h : Kept P s) : Kept P (s.loadData off bs err) := by
  unfold State.loadData
  split
  · exact h
  · exact .ite h.upd h.upd.loadStore

theorem Kept.dropReads {hit} (h : Kept P s) : Kept P (s.dropReads hit) := h.upd

theorem Kept.loadEnd (h : Kept P s) : Kept P (loadEnd s) := by
  unfold Machine.loadEnd
  split
  · exact h
  · refine .ite h ?_
    extract_lets _ s1 s2 _ s3 s4
    have h1 : Kept P s1 := .ite h.writeTable h.dropReads
    have h2 : Kept P s2 := h1.wr.wr.wr
    have h4 : Kept P s4 := .ite h2.upd h2.upd.loadError
    exact h4.hold fun ht => ht.wr

theorem Kept.execLoadEnd (h : Kept P s) : Kept.Next P (execLoadEnd s) := .next (.ite h.loadEnd h)

theorem Kept.arm {c} (h : Kept P s) : Kept P (arm c s) := by
  rw [show @Machine.arm = _ by delta Machine.arm; rfl]
  cases s.armFault c with
  | some x => exact h.wr.raise
  | none => exact h.wr.wr.hold fun ht => ht

theorem Kept.execArm {c} (h : Kept P s) : Kept.Next P (execArm c s) := .next (.ite h.arm h)

theorem Kept.disarm {c} (h : Kept P s) : Kept P (disarm c s) := .ite h.wr h

theorem Kept.execDisarm {c} (h : Kept P s) : Kept.Next P (execDisarm c s) := .next (.ite h.disarm h)

theorem Kept.swapCtrlWrite {c v} (h : Kept P s) : Kept P (swapCtrlWrite c v s) := by
  unfold Machine.swapCtrlWrite
  extract_lets s1
  have h1 : Kept P s1 := .ite h.arm h
  exact .ite h1.disarm h1

theorem Kept.heldRelease {c} (h : Kept P s) : Kept P (s.heldRelease c) := .ite h.wr h

theorem Kept.swapAt {c tick} (h : Kept P s) : Kept P (s.swapAt c tick) := .ite h.wr.wr.wr.modStep.zeroEcho.raise h

theorem Kept.rteCfgWrite {c v} (h : Kept P s) : Kept P (rteCfgWrite c v s) := .ite h.raise h.store

theorem Kept.nseCtrlWrite {v} (h : Kept P s) : Kept P (nseCtrlWrite v s) := by
  unfold Machine.nseCtrlWrite
  extract_lets s1 _
  have h1 : Kept P s1 := h.store
  exact .ite h1.upd h1

theorem Kept.execReseed {v} (h : Kept P s) : Kept.Next P (execReseed v s) := .next (.ite h.nseCtrlWrite h)

theorem Kept.seedingDone {entropy ok} (h : Kept P s) : Kept P (seedingDone entropy ok s) := by
  unfold Machine.seedingDone
  split
  · exact h
  · extract_lets s1 _ s2 _ s3 s4
    have h1 : Kept P s1 := h.wr
    exact .ite (.ite h1.upd.upd.wr.wr h1.upd.wr.raise) (.ite h1.upd.raise h1.upd.upd.wr)

theorem Kept.drawRound (h : Kept P s) : Kept P s.drawRound.1 := h.upd

theorem Kept.drawNoise {n} (h : Kept P s) : Kept P (s.drawNoise n).1 := by
  unfold State.drawNoise
  dsimp only
  refine .wr2 ?_
  exact foldl_keeps (P := fun a : State × List Word => Kept P a.1) _ h fun _ _ ha => ha.drawRound

/-! ### Descriptor rings, the checks of a descriptor, completion records and event records -/

theorem Kept.doorbell {c v} (h : Kept P s) : Kept P (doorbell c v s) := .ite h.raise (.ite h.wr h.raise.freezeRing)

theorem Kept.execDoorbell {c v} (h : Kept P s) : Kept.Next P (execDoorbell c v s) := .next (.ite h.doorbell h)

theorem Kept.cqHeadWrite {c v} (h : Kept P s) : Kept P (cqHeadWrite c v s) := by
  unfold Machine.cqHeadWrite
  extract_lets _ s1
  have h1 : Kept P s1 := h.wr
  exact .ite (.ite h1.wrIf h1) h.raise

theorem Kept.execCqHeadWrite {c v} (h : Kept P s) : Kept.Next P (execCqHeadWrite c v s) := .next (.ite h.cqHeadWrite h)

theorem Kept.eqHeadWrite {v} (h : Kept P s) : Kept P (eqHeadWrite v s) := .ite h.wr h.raise

theorem Kept.execEqHeadWrite {v} (h : Kept P s) : Kept.Next P (execEqHeadWrite v s) := .next (.ite h.eqHeadWrite h)

theorem Kept.zeroAcc {c} (h : Kept P s) : Kept P (s.zeroAcc c) := .upd (.foldl h fun ht _ => ht.setWord)

theorem Kept.ringStart {c} (h : Kept P s) : Kept P (s.ringStart c) := h.wr.wr.wr.wr.wrIf.upd.zeroEcho.zeroAcc

theorem Kept.ctxCtrlWrite {c v} (h : Kept P s) : Kept P (ctxCtrlWrite c v s) := by
  unfold Machine.ctxCtrlWrite
  extract_lets _ _ _ _ _ _ _ s1 s2
  have h1 : Kept P s1 := h.store
  have h2 : Kept P s2 := .ite h1.raise h1
  exact .ite h2.ringStart h2

theorem Kept.execCtxRingEnable {c v} (h : Kept P s) : Kept.Next P (execCtxRingEnable c v s) := .next (.ite h.ctxCtrlWrite h)

theorem Kept.execCtxRingDisable {c v} (h : Kept P s) : Kept.Next P (execCtxRingDisable c v s) := .next (.ite h.ctxCtrlWrite h)

theorem Kept.eqCtrlWrite {v} (h : Kept P s) : Kept P (eqCtrlWrite v s) := by
  unfold Machine.eqCtrlWrite
  extract_lets _ _ _ s1 s2
  have h1 : Kept P s1 := h.store
  have h2 : Kept P s2 := .ite h1.raise h1
  exact .ite h2.wr.wr h2

theorem Kept.execEqEnable {v} (h : Kept P s) : Kept.Next P (execEqEnable v s) := .next (.ite h.eqCtrlWrite h)

theorem Kept.descriptorFetch {c} (h : Kept P s) : Kept P (descriptorFetch c s) := .ite h.hostRead h

theorem Kept.execDescriptorFetch {c} (h : Kept P s) : Kept.Next P (execDescriptorFetch c s) := .next (.ite h.descriptorFetch h)

theorem Kept.fetched {c bs} (h : Kept P s) : Kept P (s.fetched c bs) := h.setSteps.wr

theorem Kept.descriptorCheck {c} (h : Kept P s) : Kept P (descriptorCheck c s) := by
  unfold Machine.descriptorCheck
  split
  · exact h
  · split
    · exact h.modStep
    · refine .ite h ?_
      extract_lets _ _ s0 p s1 s2
      have h0 : Kept P s0 := .ite h.echoReads h
      have hp : Kept P p.1 := by
        dsimp only [p]
        split
        · exact h0.writePlacement
        · exact h0
      exact hp.wr.modStep.hold fun ht => ht.readyReport

theorem Kept.execDescriptorCheck {c} (h : Kept P s) : Kept.Next P (execDescriptorCheck c s) := .next (.ite h.descriptorCheck h)

theorem Kept.writeEcho {c layer counts} (h : Kept P s) : Kept P (s.writeEcho c layer counts) :=
  .foldl h fun ht _ => .foldl ht.stackZero.accDram fun ht1 _ => ht1.stackWrite

theorem Kept.recordStep {c st} (h : Kept P s) : Kept P (s.recordStep c st) :=
  .ite h (.ite h.wrIf (.hostWrite (.setSteps (.wrIf (.ite h.writeEcho h)))))

theorem Kept.rejectRetire {c} (h : Kept P s) : Kept P (rejectRetire c s) := by
  unfold Machine.rejectRetire
  split
  · exact .ite h.recordStep h
  · exact h

theorem Kept.execRejectRetire {c} (h : Kept P s) : Kept.Next P (execRejectRetire c s) := .next (.ite h.rejectRetire h)

theorem Kept.completionRecordWrite {c} (h : Kept P s) : Kept P (completionRecordWrite c s) := by
  unfold Machine.completionRecordWrite
  split
  · exact h.recordStep
  · exact h

theorem Kept.execCompletionRecordWrite {c} (h : Kept P s) : Kept.Next P (execCompletionRecordWrite c s) :=
  .next (.ite h.completionRecordWrite h)

theorem Kept.endTxn {t} (h : Kept P s) : Kept P (s.endTxn t) := h.upd.issueAll

theorem Kept.hostError {t err c seq} (h : Kept P s) : Kept P (s.hostError t err c seq) := h.raise

theorem Kept.unfence {part engine} (h : Kept P s) : Kept P (s.unfence part engine) :=
  .rasIrq (.raiseFrom (.dite (fun _ => h.modWell.wr) fun _ => h.upd.wr))

theorem Kept.fenceTest {part c seq f} (h : Kept P s) : Kept P (State.fenceTest part c seq s f) := by
  unfold Machine.State.fenceTest
  refine .ite ?_ h
  extract_lets s1
  exact .ite h.upd.unfence h.upd

theorem Kept.fenceRetire {c seq} (h : Kept P s) : Kept P (s.fenceRetire c seq) :=
  .ite h (.foldl (.foldl h fun ht _ => ht.fenceTest) fun ht _ => .foldl ht fun ht1 _ => ht1.fenceTest)

theorem Kept.retired {c st} (h : Kept P s) : Kept P (s.retired c st) := by
  unfold State.retired
  extract_lets s1 s2 s3
  have h1 : Kept P s1 := h.setSteps
  have h2 : Kept P s2 := h1.wr.bump
  have h3 : Kept P s3 := h2.fenceRetire.heldRelease
  exact .ite h3.emit h3

theorem Kept.completionWriteResponse {c err} (h : Kept P s) : Kept P (completionWriteResponse c err s) := by
  unfold Machine.completionWriteResponse
  split
  · exact h
  · extract_lets s1
    have h1 : Kept P s1 := h.endTxn
    split
    · exact h1
    · refine .ite h1.retired ?_
      extract_lets s1
      have h1 : Kept P s1 := h1.hostError
      exact .ite h1.setSteps.issueOne h1.setSteps.freezeRing

theorem Kept.execCompletionWriteResponse {c err} (h : Kept P s) : Kept.Next P (execCompletionWriteResponse c err s) :=
  .next (.ite h.completionWriteResponse h)

theorem Kept.eventRecordWrite (h : Kept P s) (hr : StableRoles P) : Kept P (eventRecordWrite s) := by
  unfold Machine.eventRecordWrite
  split
  · exact .ite (h.change hr).hostWrite (h.change hr).bump
  · exact h

theorem Kept.execEventRecordWrite (h : Kept P s) (hr : StableRoles P) : Kept.Next P (execEventRecordWrite s) :=
  .next (.ite (h.eventRecordWrite hr) h)

theorem Kept.eventWriteResponse {err} (h : Kept P s) : Kept P (eventWriteResponse err s) := by
  unfold Machine.eventWriteResponse
  split
  · extract_lets s1 _ s2 s3 _
    have h1 : Kept P s1 := h.endTxn
    have h2 : Kept P s2 := h1.upd.wr
    have h3 : Kept P s3 := h1.hostError
    exact .ite (.ite h2.emit h2) (.ite h3.upd.issueOne h3.upd.bump)
  · exact h

theorem Kept.execEventWriteResponse {err} (h : Kept P s) : Kept.Next P (execEventWriteResponse err s) :=
  .next (.ite h.eventWriteResponse h)

/-! ### Reporting uncorrectable words -/

theorem Kept.uncor {part mem addr mis} (h : Kept P s) : Kept P (s.uncor part mem addr mis) := by
  unfold State.uncor
  extract_lets s1 s2 s3
  have h1 : Kept P s1 := h.bump
  have h2 : Kept P s2 := .ite h1.bump h1
  have h3 : Kept P s3 := h2.wr.wr.wr.wr
  exact h3.rasIrq

theorem Kept.uncorEvent {mem addr mis fixed c seq} (h : Kept P s) : Kept P (s.uncorEvent mem addr mis fixed c seq) := h.raise

theorem Kept.uncorLive {part mem addr mis c} (h : Kept P s) : Kept P (s.uncorLive part mem addr mis c) := by
  unfold State.uncorLive
  split
  · exact h.uncor.uncorEvent.noticeLive
  · exact h.uncor.uncorEvent

theorem Kept.voidLedger {c p} (h : Kept P s) : Kept P (s.voidLedger c p) := .ite h.setCore h

theorem Kept.modLog {w c f} (h : Kept P s) : Kept P (s.modLog w c f) :=
  h.modWell (w := w) (f := fun k => { k with actlog := k.actlog.set c (f k.actlog[c]) })

theorem Kept.voidAt {w a} (h : Kept P s) : Kept P (s.voidAt w a) := .foldl h fun ht _ => by
    extract_lets _ _ _ _ _ s1
    have h1 : Kept P s1 := ht.voidLedger
    exact .ite h1 h1.modLog

theorem Kept.touch {w a n c} (h : Kept P s) : Kept P (s.touch w a n c).1 := by
  unfold State.touch
  cases s.badIn w a n with
  | none => exact h.countFixed
  | some x =>
    dsimp only
    exact h.countFixed.uncorLive.voidAt

/-- A change of a Hub that leaves its memories and its role. -/
theorem Kept.modHub {side f} (h : Kept P s) (hf : ∀ k, (f k).store = k.store := by exact fun _ => rfl)
    (hrole : ∀ k, (f k).role = k.role := by exact fun _ => rfl) : Kept P (s.modHub side f) :=
  .ite (h.upd (ha := hf _) (har := hrole _)) (h.upd (hm := hf _) (hmr := hrole _))

/-- A change of a Hub that leaves its memories. -/
theorem Kept.changeHub {side f} (h : Kept P s) (hr : StableRoles P) (hf : ∀ k, (f k).store = k.store := by exact fun _ => rfl) :
    Kept P (s.modHub side f) := .ite (h.change hr (ha := hf _)) (h.change hr (hm := hf _))

theorem Kept.hubSram {side f} (h : Kept P s) (hf : SramWrite f) : Kept P (s.modHub side f) := .ite (h.actSram hf) (h.mirSram hf)

theorem Kept.askLine {side space line} (h : Kept P s) : Kept P (s.askLine side space line) := .ite h h.upd.emit

theorem Kept.lineBad {side space addr} (h : Kept P s) : Kept P (s.lineBad side space addr) := .ite h.askLine h

theorem Kept.touchSram {space a n c} (h : Kept P s) : Kept P (s.touchSram space a n c).1 := by
  unfold State.touchSram
  extract_lets s1
  have h1 : Kept P s1 := .foldl h fun ht _ => ht.correctedWord
  split
  · exact h1
  · extract_lets _ _ s1 s2
    have h1 : Kept P s1 := h1.uncor.uncorEvent
    have h2 : Kept P s2 := .ite h1.noticeLive h1
    exact h2.lineBad

theorem Kept.countBuffer {x1} (h : Kept P s) : Kept P (s.countBuffer x1) := by
  unfold State.countBuffer
  split
  · exact h.bump
  · exact h.bump
  · exact h.bump
  · exact h

theorem Kept.wordFixed {u} (h : Kept P s) : Kept P (s.wordFixed u) := h.correctedWord.countBuffer

theorem Kept.stackSet {w addr v} (h : Kept P s) : Kept P (s.stackSet w addr v) := h.stack (.word _ v)

theorem Kept.plantWord {u} (h : Kept P s) : Kept P (s.plantWord u) := by
  unfold State.plantWord
  split
  · exact .dite (fun _ => h.stackSet) fun _ => h
  · exact .ite h (h.hubSram (.word 2 _ _))
  · exact .ite h (h.hubSram (.word 1 _ _))
  · exact h

/-! ### Intake, Score and Select at work -/

theorem Kept.intakeToken {c st t} (h : Kept P s) : Kept P (s.intakeToken c st t) := by
  unfold State.intakeToken
  extract_lets _ s1 _
  have h1 : Kept P s1 := h.hostRead
  exact .ite h1.hostRead h1

theorem Kept.ledgerAsk {c st e t} (h : Kept P s) : Kept P (s.ledgerAsk c st e t) := by
  unfold State.ledgerAsk
  split
  · exact h
  · exact h.modAtt.sendWell

theorem Kept.startAttempt {c st} (h : Kept P s) : Kept P (s.startAttempt c st) := by
  unfold State.startAttempt
  extract_lets _ s1 s2 s3 s4
  have h2 : Kept P s2 := .foldl h.upd fun ht _ => .ite ht ht.sendWell
  have h3 : Kept P s3 := .foldl h2 fun ht _ => ht.intakeToken
  have h4 : Kept P s4 := by
    dsimp only [s4]
    refine .ite ?_ h3
    split
    · exact .foldl h3.modAtt fun ht _ => ht.ledgerAsk
    · exact h3
  exact .ite h4.modStep.bump.raise h4

theorem Kept.tokenVec {c st tk} (h : Kept P s) : Kept P (s.tokenVec c st tk).1 := by
  unfold State.tokenVec
  dsimp only
  split_ifs
  · exact h.upd
  · exact h

theorem Kept.noiseOf {c st tk n} (h : Kept P s) : Kept P (s.noiseOf c st tk n).1 := by
  unfold State.noiseOf
  split
  · split_ifs
    · exact h.modAtt
    · exact h.drawNoise
  · exact h
  · exact h

theorem Kept.nanTok {c nan} (h : Kept P s) : Kept P (s.nanTok c nan) := .ite h.bump.modAtt h

theorem Kept.selectForward {c st tk zs} (h : Kept P s) : Kept P (s.selectForward c st tk zs) := h.noiseOf.satHub.nanTok.modTok

theorem Kept.selectSample {c st tk zs} (h : Kept P s) : Kept P (s.selectSample c st tk zs) :=
  h.noiseOf.satHub.nanTok.hostWrite.modTok.progress

theorem Kept.selectReady {c} (h : Kept P s) : Kept P (s.selectReady c) := by
  unfold State.selectReady
  split
  · exact .ite h (.foldl h fun ht _ => by
    refine .ite ht ?_
    split
    · exact ht
    · exact .ite ht.selectSample ht.selectForward)
  · exact h

theorem Kept.spillOut {a bytes} (h : Kept P s) : Kept P (s.spillOut a bytes) := .ite h (.upd (.foldl h fun ht _ => ht.upd.writeDram))

theorem Kept.spillIn {c} (h : Kept P s) : Kept P (s.spillIn c) := by
  unfold State.spillIn
  split
  · exact h
  · exact .foldl h.upd fun ht _ => ht.touch.accDram

theorem Kept.scoreSwitch {c} (h : Kept P s) : Kept P (s.scoreSwitch c) := by
  unfold State.scoreSwitch
  split
  · exact h.upd
  · exact .ite h h.bumpBy.wr.accCyc.spillOut.upd.spillIn

theorem Kept.scoreTok {c st tk} (h : Kept P s) : Kept P (s.scoreTok c st tk) := by
  unfold State.scoreTok
  dsimp only
  split
  · next he => exact (h.touchSram.fst he).modTok
  · next he => exact (h.touchSram.fst he).tokenVec.modTok.accCyc.accMacs.upd

theorem Kept.scoreLost (h : Kept P s) : Kept P s.scoreLost := .foldl h fun ht _ => ht.noticeLive

theorem Kept.scorePump {n} (h : Kept P s) : Kept P (State.scorePump n s) := by
  induction n generalizing s with
  | zero => exact h
  | succ n ih =>
    unfold State.scorePump
    refine .ite h.scoreLost ?_
    split
    · exact h
    · dsimp only
      split
      · exact ih (.upd (.scoreTok (.scoreSwitch h.upd)))
      · exact .scoreSwitch h.upd

theorem Kept.multicast {c} (h : Kept P s) : Kept P (s.multicast c) := by
  unfold State.multicast
  split
  · exact .ite h (.foldl h fun ht _ => .ite ht (.foldl ht.modTok.tokenVec fun ht1 _ => .ite ht1 ht1.sendWell))
  · exact h

theorem Kept.front (h : Kept P s) : Kept P s.front := .foldl (.scorePump (.foldl h fun ht _ => ht.multicast)) fun ht _ => ht.selectReady

theorem Kept.inputData {c t off noise bs} (h : Kept P s) : Kept P (s.inputData c t off noise bs) := h.modTok.front

theorem Kept.execSeedingDone {entropy ok} (h : Kept P s) : Kept.Next P (execSeedingDone entropy ok s) :=
  .next (.ite h.seedingDone.front (.ite h h.seedingDone))

/-! ### Admission windows -/

theorem Kept.ledgerSend {c st w a bs} (h : Kept P s) : Kept P (s.ledgerSend c st w a bs) := .foldl h fun ht _ => ht.modAtt.sendWell

theorem Kept.writeLedger {c st} (h : Kept P s) : Kept P (s.writeLedger c st) := .ite h.raise (.foldl h.setCore fun ht _ => ht.ledgerSend)

theorem Kept.sendCopy {c st t x n} (h : Kept P s) : Kept P (s.sendCopy c st t x n) := h.send

theorem Kept.pump {c n} (h : Kept P s) : Kept P (State.pump c n s) := by
  induction n generalizing s with
  | zero => exact h
  | succ n ih =>
    unfold State.pump
    split
    · exact ih h.modAtt.sendCopy
    · exact h

theorem Kept.sendEods {c} (h : Kept P s) : Kept P (s.sendEods c) := .ite h (.foldl h fun ht _ => by
    split
    · exact .ite ht ht.modAtt.send
    · exact ht)

theorem Kept.pumpCtx {c} (h : Kept P s) : Kept P (s.pumpCtx c) := h.pump.sendEods

theorem Kept.settle {c st l t} (h : Kept P s) : Kept P (s.settle c st l t) := by
  unfold State.settle
  split
  · exact h
  · refine .ite h ?_
    extract_lets _ s1 s2
    have h1 : Kept P s1 := h.satHub.modTok
    have h2 : Kept P s2 := .ite h1.bump.modAtt h1
    exact .ite h2 h2.hostWrite

theorem Kept.stage {c st t} (h : Kept P s) : Kept P (s.stage c st t) := by
  unfold State.stage
  split
  · exact h
  · extract_lets s1
    have h1 : Kept P s1 := h.expectTok
    exact .ite h1.cistAsk h1

theorem Kept.mapCheck {c st} (h : Kept P s) (he : s.mapCheck c st = some t) : Kept P t := by
  unfold State.mapCheck at he
  split at he
  · cases he
  · split at he
    · exact Option.some.inj he ▸ h.retireLive
    · dsimp only at he
      split at he
      · cases he
      · split at he
        · exact Option.some.inj he ▸ h.modStep.uncor.uncorEvent.retireLive
        · exact Option.some.inj he ▸ h.modStep.uncorLive

theorem Kept.mapRead {c st} (h : Kept P s) : Kept P (s.mapRead c st) := by
  unfold State.mapRead
  refine .ite h ?_
  split
  · exact h.readDram
  · exact h

theorem Kept.admServe {c d copies} (h : Kept P s) : Kept P (s.admServe c d copies) := h.upd

theorem Kept.admIdle (h : Kept P s) : Kept P s.admIdle := h.upd

theorem Kept.admitWindow {c d0} (h : Kept P s) : Kept P (s.admitWindow c d0) := by
  unfold State.admitWindow
  split
  · split
    · exact h
    · split
      · next he => exact h.mapCheck he
      · split
        · next he => exact h.mapRead.touchSram.fst he
        · next s0 he =>
          have h0 : Kept P s0 := h.mapRead.touchSram.fst he
          extract_lets order d sent n src s1 l s2 s3
          have h1 : Kept P s1 := h0.admServe.modAtt
          have h2 : Kept P s2 := h1.foldl fun ht _ => ht.settle.stage
          have h3 : Kept P s3 := .ite h2.writeLedger h2
          exact h3.pumpCtx
  · exact h

theorem Kept.admissionWindow {c} (h : Kept P s) : Kept P (admissionWindow c s) := by
  unfold Machine.admissionWindow
  split
  · exact h
  · exact .ite h.admitWindow.admIdle h

theorem Kept.execAdmissionWindow {c} (h : Kept P s) : Kept.Next P (execAdmissionWindow c s) := .next (.ite h.admissionWindow h)

/-! ### Land and Queue -/

theorem Kept.landCheck {p} (h : Kept P s) (he : s.landCheck p = some t) : Kept P t := by
  unfold State.landCheck at he
  dsimp only at he
  split_ifs at he
  · exact Option.some.inj he ▸ h.takeLanded
  all_goals exact Option.some.inj he ▸ h.takeLanded.freezePeer

theorem Kept.checked {p f} (h : Kept P s) (hf : ∀ {t}, Kept P t → Kept P (f t)) : Kept P (s.checked p f) := by
  unfold State.checked
  split
  · next he => exact h.landCheck he
  · exact hf h

theorem Kept.keepLanded {p queue} (h : Kept P s) : Kept P (s.keepLanded p queue) := by
  unfold State.keepLanded
  extract_lets s1 s2
  have h1 : Kept P s1 := .ite h h.landHere
  have h2 : Kept P s2 := .ite h1.bump h1
  exact h2.upd

theorem Kept.mismatch {p x e r} (h : Kept P s) : Kept P (s.mismatch p x e r) := h.countError

theorem Kept.errorOpen {p x kind} (h : Kept P s) : Kept P (s.errorOpen p x kind) := h.upd.countError

theorem Kept.eodMismatch {p n r x} (h : Kept P s) : Kept P (s.eodMismatch p n r x) := by
  unfold State.eodMismatch
  split
  · exact h.countError
  · exact h.errorOpen

theorem Kept.returnPacket {p} (h : Kept P s) : Kept P (returnPacket p s) := by
  unfold Machine.returnPacket
  refine .ite h.keepLanded ?_
  extract_lets hold r s0
  have h0 : Kept P s0 := h.takeRaw.releaseAll
  split
  · exact h0.freeHold.stalePkt
  · exact .ite h0.freeHold.errorOpen h0.meadReturn.progress

theorem Kept.execReturnPacket {p} (h : Kept P s) : Kept.Next P (execReturnPacket p s) :=
  .next (.ite (h.checked fun ht => ht.returnPacket) h)

theorem Kept.dispatchHost {p} (h : Kept P s) : Kept P (s.dispatchHost p) :=
  .ite h (.ite h.takeLanded.mismatch (.ite h.keepLanded h.keepLanded.cistAsk.progress))

theorem Kept.landGranted {p x} (h : Kept P s) : Kept P (s.landGranted p x) := by
  unfold State.landGranted
  extract_lets _ s1 _ _ _ s2 _
  have h1 : Kept P s1 := h.takeLanded
  have h2 : Kept P s2 := h1.bufWrite
  exact .ite h1.release.release.mismatch h2.upd

theorem Kept.passWell {w p} (h : Kept P s) : Kept P (s.passWell w p) := by
  unfold State.passWell
  exact h.takeWith.sendWell.modWell

theorem Kept.malformedAt {p x e} (h : Kept P s) : Kept P (s.malformedAt p x e) := h.countError

theorem Kept.dispatchAbsent {p} (h : Kept P s) : Kept P (s.dispatchAbsent p) := by
  unfold State.dispatchAbsent
  extract_lets _ s1
  have h1 : Kept P s1 := h.takeLanded
  split
  · exact h1
  · exact .ite h1 h1.modAtt.sendAbort

theorem Kept.dispatch {p} (h : Kept P s) : Kept P (dispatch p s) := by
  unfold Machine.dispatch
  split
  · next he => exact h.landCheck he
  · refine .ite h.keepLanded ?_
    split
    · exact h.takeLanded.stalePkt
    · refine .ite h.takeLanded.malformedAt (.ite h.dispatchHost ?_)
      split
      · exact .ite h.takeLanded h.passWell
      · exact h.dispatchAbsent

theorem Kept.wellSays {c seq att kind code} (h : Kept P s) : Kept P (s.wellSays c seq att kind code) := h.landHere

theorem Kept.eodHost {p} (h : Kept P s) : Kept P (s.eodHost p) := .ite h.eodMismatch h.upd

theorem Kept.eodWell {w p} (h : Kept P s) : Kept P (s.eodWell w p) := by
  unfold State.eodWell
  extract_lets _ _ _ s1
  have h1 : Kept P s1 := h.sendWell
  exact .ite h1.eodMismatch h1.modWell

theorem Kept.eod {p} (h : Kept P s) : Kept P (eod p s) := by
  unfold Machine.eod
  split
  · next he => exact h.landCheck he
  · dsimp only
    split
    · exact h.takeLanded.stalePkt
    · refine .ite h.takeLanded.errorOpen (.ite h.takeLanded.eodHost.progress ?_)
      split
      · exact .ite h.takeLanded h.takeLanded.eodWell.progress
      · exact h.takeLanded

theorem Kept.retryHub (h : Kept P s) : Kept P s.retryHub := .foldl h fun ht _ => .ite ht.dispatch ht.returnPacket

end Sys2Proof.Machine
end

section
/-!
SUPPORT. Stable properties are kept by collectives, links and ports.
-/

namespace Sys2Proof.Machine

open Sys2Proof

-- one theorem after the other: a thread for each of so many short ones does not fit the memory of the check
set_option Elab.async false

variable {P : State → Prop} {s t : State}

/-! ### The engine of a collective on one member -/

theorem Kept.modChan {ch f} (h : Kept P s) : Kept P (s.modChan ch f) := h.upd

theorem Kept.colFree {ch buf} (h : Kept P s) : Kept P (s.colFree ch buf) := by
  unfold State.colFree
  split
  · exact h
  · exact h.modChan.send

theorem Kept.colSendOne {ch o} (h : Kept P s) : Kept P (State.colSendOne ch s o) := .ite h.modChan h.modChan.send.colFree

theorem Kept.colFlush {ch} (h : Kept P s) : Kept P (s.colFlush ch) := .foldl h.modChan fun ht _ => ht.colSendOne

theorem Kept.colQueue {ch ph peer sh q ws raw free} (h : Kept P s) : Kept P (s.colQueue ch ph peer sh q ws raw free) := h.modChan.colFlush

theorem Kept.colTryHeader {ch} (h : Kept P s) : Kept P (s.colTryHeader ch) := by
  unfold State.colTryHeader
  split
  · exact h
  · exact .ite h h.modChan.hostWrite

theorem Kept.colTryFinish {ch} (h : Kept P s) : Kept P (s.colTryFinish ch) := .ite h.modChan.colTryHeader h.colTryHeader

theorem Kept.colCounter {ch sh} (h : Kept P s) : Kept P (s.colCounter ch sh) := .ite h h.modChan.hostWrite

theorem Kept.colCountsOut {ch} (h : Kept P s) : Kept P (s.colCountsOut ch) := .ite h.modChan.hostWrite h

theorem Kept.colAck {ch sh q} (h : Kept P s) : Kept P (s.colAck ch sh q) := .ite h.modChan.colCounter.colCountsOut h

theorem Kept.colOutput {ch sh q ws} (h : Kept P s) : Kept P (s.colOutput ch sh q ws) := .ite h h.modChan.hostWrite.colAck

theorem Kept.colTerm {ch sh q l ws} (h : Kept P s) : Kept P (State.colTerm ch sh q l ws s) := by
  induction l generalizing s ws with
  | nil => exact h.colOutput
  | cons ph rest ih =>
    unfold State.colTerm
    dsimp only
    refine .ite h.colQueue ?_
    split
    · exact h.modChan
    · exact .ite (ih h.modChan.colFree) h.modChan.colQueue

theorem Kept.colDirect {ch q n} (h : Kept P s) : Kept P (State.colDirect ch q n s) := by
  induction n generalizing s with
  | zero => exact h
  | succ n ih =>
    unfold State.colDirect
    dsimp only
    split
    · exact h
    · exact .ite h.modChan.colFree.colOutput (ih h.modChan.colFree)

theorem Kept.colHave {ch sh q from_ ws buf} (h : Kept P s) : Kept P (s.colHave ch sh q from_ ws buf) := by
  unfold State.colHave
  dsimp only
  refine .ite (.ite (.foldl h.colOutput fun ht _ => .ite ht ht.colQueue) h.colOutput.colFree) ?_
  split
  · exact h.colOutput.colFree
  · exact .foldl h.colOutput.colQueue fun ht _ => ht.colQueue

theorem Kept.colHoldSend {ch} (h : Kept P s) : Kept P (s.colHoldSend ch) := .ite h h.modChan.colAll

theorem Kept.colOwn {ch sh q ws} (h : Kept P s) : Kept P (s.colOwn ch sh q ws) :=
  .ite h.colHave (.ite (.ite h.modChan.colDirect h.colQueue) h.colTerm)

theorem Kept.colAsk {ch n} (h : Kept P s) : Kept P (State.colAsk ch n s) := by
  induction n generalizing s with
  | zero => exact h
  | succ n ih =>
    unfold State.colAsk
    exact .ite h (.ite h.colHoldSend (.ite (ih h.modChan.colOwn) h.modChan.hostRead))

theorem Kept.colGo {ch} (h : Kept P s) : Kept P (s.colGo ch) := h.colAsk

theorem Kept.colInput {ch sh q off bs} (h : Kept P s) : Kept P (s.colInput ch sh q off bs) := by
  unfold State.colInput
  extract_lets s1 _ _ _ _ s2
  have h1 : Kept P s1 := h.modChan
  have h2 : Kept P s2 := h1.modChan
  exact .ite h1 h2.colOwn.colGo

theorem Kept.colCounts {ch off bs} (h : Kept P s) : Kept P (s.colCounts ch off bs) := by
  unfold State.colCounts
  extract_lets s1 _ _ _ _ _ s2 s3
  have h1 : Kept P s1 := h.modChan
  have h2 : Kept P s2 := h1.modChan
  have h3 : Kept P s3 := .ite h2 h2.bumpBy.raise
  exact .ite h1 h3.colGo

/-! ### The end of a collective that does not complete, and the dropping of an attempt -/

theorem Kept.colDrop {ch} (h : Kept P s) : Kept P (s.colDrop ch) := h.flushTx.flushLanded.upd.dropReads

theorem Kept.colFail {ch cause} (h : Kept P s) : Kept P (s.colFail ch cause) := by
  unfold State.colFail
  split
  · exact h.colDrop.raise.modChan.colTryHeader

/-! ### Ordered sets -/

theorem Kept.sendSet {ps ostype payload} (h : Kept P s) : Kept P (s.sendSet ps ostype payload) := .foldl h fun ht _ => ht.emit

theorem Kept.absentSetOut (h : Kept P s) : Kept P s.absentSetOut := h.sendSet

theorem Kept.colAbortIf {cause hit} (h : Kept P s) : Kept P (s.colAbortIf cause hit) := .foldl h fun ht _ => .ite ht.colAbortSend ht

theorem Kept.colAbsent {hit} (h : Kept P s) : Kept P (s.colAbsent hit) := .foldl h.colAbortIf fun ht _ => .ite ht.colFail ht

theorem Kept.declareAbsent {mask reason} (h : Kept P s) : Kept P (s.declareAbsent mask reason) := by
  unfold State.declareAbsent
  dsimp only
  split
  · exact h
  · refine .colAbsent (.foldl (.absentSetOut (.foldl h.wr2 fun ht _ => ht.raise)) fun ht _ => ?_)
    exact .ite ht.noticeLive ht

/-! ### What a link loses when it goes down -/

theorem Kept.colAbortFor {k} (h : Kept P s) : Kept P (s.colAbortFor k) := h.send.send

theorem Kept.abortKeys {l} (h : Kept P s) : Kept P (s.abortKeys l) :=
  .colAbortIf (.foldl (.foldl h fun ht _ => ht.noticeAs) fun ht _ => ht.colAbortFor)

theorem Kept.clearLink {l} (h : Kept P s) : Kept P (s.clearLink l) := h.modLink.upd.releaseAll

theorem Kept.trainLink {l share} (h : Kept P s) : Kept P (s.trainLink l share) := h.modLink

theorem Kept.endRemoval {p} (h : Kept P s) : Kept P (s.endRemoval p) := h.wrIf.modPort

theorem Kept.leaveUp {p} (h : Kept P s) : Kept P (s.leaveUp p) := h.clearLink.raise.abortKeys

theorem Kept.setPort {p new} (h : Kept P s) : Kept P (s.setPort p new) := by
  unfold State.setPort
  extract_lets _ _ s1 s2 s3 s4 s5 s6
  have h1 : Kept P s1 := h.wr.raise
  have h2 : Kept P s2 := .ite h1.bump h1
  have h3 : Kept P s3 := .ite h2.leaveUp h2
  have h4 : Kept P s4 := .ite h3.endRemoval h3
  have h5 : Kept P s5 := .ite h4.trainLink.modPort h4
  have h6 : Kept P s6 := .ite h5.wrIf.wrIf (.ite h5.wrIf h5)
  exact .ite h h6.modPort.pumpWaiting

theorem Kept.checkBypass (h : Kept P s) : Kept P s.checkBypass := .ite h (.foldl h.upd.raiseHeath fun ht _ => .ite ht.setPort ht.setPort)

theorem Kept.bridge {p ostype copy payload} (h : Kept P s) : Kept P (s.bridge p ostype copy payload) := h.emit

/-! ### The mirror out of service -/

theorem Kept.effect {e} (h : Kept P s) : Kept P (s.effect e) := by
  unfold State.effect
  split
  · split
    · exact h.readyReport
    · exact h
  · exact h.emit
  · exact h.wr
  · exact h.wr
  · exact h

theorem Kept.releaseEffects {hit} (h : Kept P s) : Kept P (s.releaseEffects hit) := .foldl h.upd fun ht _ => ht.effect

theorem Kept.mirrorOut {cause} (h : Kept P s) (hr : StableRoles P) : Kept P (s.mirrorOut cause) := by
  unfold State.mirrorOut
  split
  · exact h
  · exact h
  · exact (h.change hr).raiseHeath.rasIrq.releaseEffects
  · exact (h.change hr).raiseHeath.rasIrq.releaseEffects

theorem Kept.failoverLost (h : Kept P s) (hr : StableRoles P) : Kept P s.failoverLost := .ite (h.change hr).checkBypass h

theorem Kept.mirrorGone {cause} (h : Kept P s) (hr : StableRoles P) : Kept P (s.mirrorGone cause) :=
  .ite (.failoverLost (h.mirrorOut hr) hr) h

theorem Kept.failoverStart {cause t} (h : Kept P s) (hr : StableRoles P) : Kept P (s.failoverStart cause t) :=
  h.record.rasIrq.bump.change hr

theorem Kept.trigger {cause} (h : Kept P s) (hr : StableRoles P) : Kept P (s.trigger cause) := by
  unfold State.trigger
  split
  · exact h.change hr
  · exact .ite h (.ite (h.failoverStart hr) (h.change hr).checkBypass)

theorem Kept.mirrorLinkFailed (h : Kept P s) (hr : StableRoles P) : Kept P s.mirrorLinkFailed := h.modLink.mirrorGone hr

/-! ### A Well that becomes absent -/

theorem Kept.wellAbsent {w} (h : Kept P s) : Kept P (s.wellAbsent w) :=
  .ite h.modWell (.pumpWaiting (.foldl (.raise (.foldl h.clearLink.modWell fun ht _ => ht.voidLedger)) fun ht _ => ht.noticeLive))

/-! ### The link layer of R181-R186 -/

theorem Kept.driveFlit {l pair sop eop idle fseq body} (h : Kept P s) : Kept P (s.driveFlit l pair sop eop idle fseq body) := by
  unfold State.driveFlit
  exact h.emit.modLink

theorem Kept.idleFlits {l n} (h : Kept P s) : Kept P (s.idleFlits l n) := .foldl h fun ht _ => ht.driveFlit

theorem Kept.flitSent {f} (h : Kept P s) : Kept P (s.flitSent f) := by
  unfold State.flitSent
  extract_lets s1 s2
  have h1 : Kept P s1 := by
    dsimp only [s1]
    split
    · exact h.accFlit
    · exact h
  have h2 : Kept P s2 := .ite h1.progress h1
  exact .ite h2.sendEods h2

theorem Kept.mirPump (h : Kept P s) : Kept P s.mirPump := by
  unfold State.mirPump
  refine .ite h ?_
  split
  · exact h
  · exact h.upd.enqueueOn

theorem Kept.flitTransmit {l} (h : Kept P s) : Kept P (flitTransmit l s) := by
  unfold Machine.flitTransmit
  extract_lets s1 k n go
  have h1 : Kept P s1 := .ite h.mirPump h
  split
  · exact h1.driveFlit.modLink.flitSent
  · cases go with
    | none => exact h1.driveFlit
    | some x =>
      dsimp only
      split
      · exact h1
      · exact h1.driveFlit.modLink.flitSent

theorem Kept.execFlitTransmit {link} (h : Kept P s) : Kept.Next P (execFlitTransmit link s) := .next (.ite h.flitTransmit h)

theorem Kept.linkFailed {l oldest} (h : Kept P s) (hr : StableRoles P) : Kept P (s.linkFailed l oldest) := by
  unfold State.linkFailed
  split
  · exact h.raise.setPort
  · exact h.raise.wellAbsent
  · exact h.mirrorLinkFailed hr

theorem Kept.countRewind {x1} (h : Kept P s) : Kept P (s.countRewind x1) := by
  unfold State.countRewind
  split
  · exact h.bump
  · exact h

theorem Kept.rewind {l} (h : Kept P s) (hr : StableRoles P) : Kept P (s.rewind l) := by
  unfold State.rewind
  split
  · exact h
  · extract_lets _ s1
    have h1 : Kept P s1 := h.countRewind.modLink
    exact .ite (h1.linkFailed hr) h1

theorem Kept.execRetryTimeout {link} (h : Kept P s) (hr : StableRoles P) : Kept.Next P (execRetryTimeout link s) :=
  .next (.ite (h.rewind hr) h)

theorem Kept.ackFlits {l ack} (h : Kept P s) : Kept P (s.ackFlits l ack) := .ite h h.modLink.releaseAll.pumpWaiting

theorem Kept.dropFlit {l crc} (h : Kept P s) : Kept P (s.dropFlit l crc) := by
  unfold State.dropFlit
  extract_lets s1
  have h1 : Kept P s1 := by
    dsimp only [s1]
    split
    · exact .ite h.bump h
    · exact h
  exact h1.modLink

theorem Kept.merge {p} (h : Kept P s) (he : s.merge p = some t) : Kept P t := by
  unfold State.merge at he
  split at he
  · cases he
  · dsimp only at he
    split at he
    · cases he
    · split at he
      · cases he
      · exact Option.some.inj he ▸ .satHub (.bump (.modPort h.upd))

theorem Kept.forward {p sub} (h : Kept P s) : Kept P (s.forward p sub) := by
  unfold State.forward
  split
  · next he => exact h.merge he
  · exact h.send

theorem Kept.packetIn {l pair p n} (h : Kept P s) : Kept P (s.packetIn l pair p n) := by
  unfold State.packetIn
  dsimp only
  cases l with
  | port q => exact .ite h.staleAny.freeHold (.ite h.landHere h.forward.freeHold)
  | well w =>
    exact .ite (.ite h.staleAny.freeHold (.ite h.landHere h.send.freeHold)) (.ite h.landHere h.freeHold.freezeWell)
  | mirror => exact .ite h.freeHold h.staleAny.freeHold

theorem Kept.keepFlit {l pair p} (h : Kept P s) : Kept P (s.keepFlit l pair p) := .ite h.modLink h.modLink.freeHold

theorem Kept.takeFlit {l pair sop eop body} (h : Kept P s) : Kept P (s.takeFlit l pair sop eop body) := by
  unfold State.takeFlit
  extract_lets _ s1 _ _ s2 _
  have h1 : Kept P s1 := .ite h.freeHold.modLink h
  have h2 : Kept P s2 := .ite h1.progress h1
  exact .ite h1.freeHold (.ite h2.modLink.packetIn h2.modLink.keepFlit)

theorem Kept.flitReceive {l f} (h : Kept P s) (hr : StableRoles P) : Kept P (flitReceive l f s) := by
  unfold Machine.flitReceive
  extract_lets _ _ _ _ s1 s2 s3
  have h1 : Kept P s1 := h.modLink
  have h2 : Kept P s2 := .ite h1.ackFlits h1
  have h3 : Kept P s3 := .ite (h2.rewind hr) h2
  exact .ite h.dropFlit (.ite h.dropFlit (.ite h3 h3.modLink.takeFlit))

theorem Kept.bridgeFlit {l f} (h : Kept P s) : Kept P (s.bridgeFlit l f) := by
  unfold State.bridgeFlit
  split
  · exact h.emit
  · exact h

theorem Kept.badSlot {l f} (h : Kept P s) : Kept P (s.badSlot l f) := by
  unfold State.badSlot
  split
  · exact .ite h.bump h
  · exact h

theorem Kept.fecFixed {l f} (h : Kept P s) : Kept P (s.fecFixed l f) := by
  unfold State.fecFixed
  split
  · exact .ite h.bumpBy h
  · exact h

theorem Kept.execFlitReceive {link flit} (h : Kept P s) (hr : StableRoles P) : Kept.Next P (execFlitReceive link flit s) :=
  .next (.ite h.bridgeFlit (.ite (h.fecFixed.flitReceive hr) (.ite h.fecFixed.badSlot h)))

/-! ### Port events -/

theorem Kept.prsntInsert {p} (h : Kept P s) : Kept P (prsntInsert p s) := by
  unfold Machine.prsntInsert
  extract_lets s1
  have h1 : Kept P s1 := h.wrIf
  exact .ite h1.setPort h1

theorem Kept.execPrsntInsert {port} (h : Kept P s) : Kept.Next P (execPrsntInsert port s) := .next (.ite h.prsntInsert h)

theorem Kept.prsntRemove {p} (h : Kept P s) : Kept P (prsntRemove p s) := by
  unfold Machine.prsntRemove
  extract_lets s1
  have h1 : Kept P s1 := h.wrIf.endRemoval
  exact .ite h1 h1.setPort

theorem Kept.execPrsntRemove {port} (h : Kept P s) : Kept.Next P (execPrsntRemove port s) := .next (.ite h.prsntRemove h)

theorem Kept.sendRemove {p kind} (h : Kept P s) : Kept P (s.sendRemove p kind) := h.emit

theorem Kept.openWindow {p far} (h : Kept P s) : Kept P (s.openWindow p far) := h.endRemoval.wr.raise

theorem Kept.cancelRemoval {p} (h : Kept P s) : Kept P (s.cancelRemoval p) := h.endRemoval.raise

theorem Kept.refuseRemoval {p far} (h : Kept P s) : Kept P (s.refuseRemoval p far) := h.endRemoval.wr.modPort.raise

theorem Kept.makeSafe {p} (h : Kept P s) : Kept P (s.makeSafe p) := h.setPort.raise

theorem Kept.startDrain {p} (h : Kept P s) : Kept P (s.startDrain p) := h.wr.modPort.pumpWaiting

theorem Kept.attnPress {p} (h : Kept P s) : Kept P (attnPress p s) :=
  .ite (.cancelRemoval (.ite h.sendRemove h)) (.ite h.sendRemove.openWindow (.ite h.openWindow h))

theorem Kept.execAttnPress {port} (h : Kept P s) : Kept.Next P (execAttnPress port s) := .next (.ite h.attnPress h)

theorem Kept.removalWindowClose {p} (h : Kept P s) : Kept P (removalWindowClose p s) := by
  unfold Machine.removalWindowClose
  extract_lets _ s1 s2
  have h1 : Kept P s1 := h.wrIf
  have h2 : Kept P s2 := h1.sendRemove.wr
  exact .ite (.ite h1.sendRemove.refuseRemoval (.ite h2.startDrain h2)) (.ite h1.leaveUp.makeSafe (.ite h1.makeSafe h1.endRemoval))

theorem Kept.execRemovalWindowClose {port} (h : Kept P s) : Kept.Next P (execRemovalWindowClose port s) :=
  .next (.ite h.removalWindowClose h)

theorem Kept.removeIn {p far kind f} (h : Kept P s) (hf : ∀ {t}, Kept P t → Kept P (f t)) : Kept P (s.removeIn p far kind f) :=
  .ite h.bridge (.ite (hf h) h)

theorem Kept.removeRequest {p far} (h : Kept P s) : Kept P (removeRequest p far s) := h.removeIn fun ht => .ite ht.openWindow ht

theorem Kept.execRemoveRequest {x} (h : Kept P s) : Kept.Next P (execRemoveRequest x s) := .next (.ite h.removeRequest h)

theorem Kept.removeAgree {p far} (h : Kept P s) : Kept P (removeAgree p far s) := h.removeIn fun ht => by
    extract_lets s1
    have h1 : Kept P s1 := ht.modPort
    split
    · exact h1
    · exact h1.startDrain
    · exact h1
    · exact h1.sendRemove.startDrain

theorem Kept.execRemoveAgree {x} (h : Kept P s) : Kept.Next P (execRemoveAgree x s) := .next (.ite h.removeAgree h)

theorem Kept.removeRefuse {p far} (h : Kept P s) : Kept P (removeRefuse p far s) := h.removeIn fun ht => .ite ht.refuseRemoval ht

theorem Kept.execRemoveRefuse {x} (h : Kept P s) : Kept.Next P (execRemoveRefuse x s) := .next (.ite h.removeRefuse h)

theorem Kept.removeCancel {p far} (h : Kept P s) : Kept P (removeCancel p far s) := h.removeIn fun ht => .ite ht.cancelRemoval ht

theorem Kept.execRemoveCancel {x} (h : Kept P s) : Kept.Next P (execRemoveCancel x s) := .next (.ite h.removeCancel h)

theorem Kept.removeDone {p far} (h : Kept P s) : Kept P (removeDone p far s) := h.removeIn fun ht => by
    extract_lets s1
    have h1 : Kept P s1 := ht.modPort
    exact .ite h1.makeSafe h1

theorem Kept.execRemoveDone {x} (h : Kept P s) : Kept.Next P (execRemoveDone x s) := .next (.ite h.removeDone h)

theorem Kept.execRemoveSilence {port} (h : Kept P s) : Kept.Next P (execRemoveSilence port s) := .next (.ite h.refuseRemoval h)

theorem Kept.removeDrained {p} (h : Kept P s) : Kept P (removeDrained p s) := by
  unfold Machine.removeDrained
  extract_lets s1
  have h1 : Kept P s1 := h.sendRemove.modPort
  exact .ite h1.makeSafe h1

theorem Kept.execRemoveDrained {port} (h : Kept P s) : Kept.Next P (execRemoveDrained port s) := .next (.ite h.removeDrained h)

theorem Kept.forceSafe {p} (h : Kept P s) : Kept P (s.forceSafe p) := .ite h.endRemoval.sendRemove.startDrain h

theorem Kept.svcPortWrite {p v} (h : Kept P s) : Kept P (svcPortWrite p v s) := by
  unfold Machine.svcPortWrite
  extract_lets s1
  have h1 : Kept P s1 := h.store
  exact .ite h1.forceSafe h1

theorem Kept.execForceSafe {port v} (h : Kept P s) : Kept.Next P (execForceSafe port v s) := .next (.ite h.svcPortWrite h)

theorem Kept.lnkCtrlWrite {p v} (h : Kept P s) : Kept P (lnkCtrlWrite p v s) := by
  unfold Machine.lnkCtrlWrite
  extract_lets _ _ _ s1
  have h1 : Kept P s1 := h.store
  exact .ite h1 (.ite h1.setPort (.ite h1.setPort (.ite h1.setPort h1)))

theorem Kept.execLinkRestart {port v} (h : Kept P s) : Kept.Next P (execLinkRestart port v s) := .next (.ite h.lnkCtrlWrite h)

theorem Kept.portUp {p} (h : Kept P s) : Kept P (s.portUp p) := by
  unfold State.portUp
  extract_lets s1
  have h1 : Kept P s1 := h.setPort
  exact .ite h1.raise h1

theorem Kept.phyLock {p lanes sameFar} (h : Kept P s) : Kept P (phyLock p lanes sameFar s) := by
  unfold Machine.phyLock
  extract_lets _
  split
  · exact h
  · refine .ite ?_ h
    extract_lets s1
    have h1 : Kept P s1 := h.wrIf.wrIf
    exact .ite h1 (.ite h1.setPort (.ite h1.portUp h1.setPort))

theorem Kept.execPhyLock {port lanes sameFar} (h : Kept P s) : Kept.Next P (execPhyLock port lanes sameFar s) := .next (.ite h.phyLock h)

theorem Kept.trainTimeout {p} (h : Kept P s) : Kept P (trainTimeout p s) := by
  unfold Machine.trainTimeout
  split
  · exact .ite h.setPort h.modPort
  · exact h.setPort
  · exact h

theorem Kept.execTrainTimeout {port} (h : Kept P s) : Kept.Next P (execTrainTimeout port s) := .next (.ite h.trainTimeout h)

theorem Kept.lossOfLock {p} (h : Kept P s) : Kept P (lossOfLock p s) := .ite h.wrIf (.ite h.setPort h)

theorem Kept.execLossOfLock {port} (h : Kept P s) : Kept.Next P (execLossOfLock port s) := .next (.ite h.lossOfLock h)

theorem Kept.uncCodewordLimit {p n} (h : Kept P s) : Kept P (uncCodewordLimit p n s) := by
  unfold Machine.uncCodewordLimit
  extract_lets s1
  have h1 : Kept P s1 := h.bumpBy
  exact .ite h1.setPort h1

theorem Kept.execUncCodewordLimit {port n} (h : Kept P s) : Kept.Next P (execUncCodewordLimit port n s) :=
  .next (.ite h.uncCodewordLimit h)

theorem Kept.beaconNote {p x} (h : Kept P s) : Kept P (s.beaconNote p x) := by
  unfold State.beaconNote
  extract_lets s1 _
  have h1 : Kept P s1 := h.wrIf.wrIf.wrIf
  exact .ite h1 h1.modPort

theorem Kept.beaconCheck {p x} (h : Kept P s) : Kept P (s.beaconCheck p x) := by
  unfold State.beaconCheck
  refine .ite ?_ (.raise (.setPort (.ite h.wrIf h)))
  extract_lets _ s1
  have h1 : Kept P s1 := h.beaconNote.modPort
  exact .ite h1.portUp h1

theorem Kept.beaconUp {p x} (h : Kept P s) : Kept P (s.beaconUp p x) := .ite h.setPort (.ite h.beaconNote h.beaconNote.modPort)

theorem Kept.beacon {p x t} (h : Kept P s) : Kept P (beacon p x t s) := by
  unfold Machine.beacon
  extract_lets s1 s2
  have h1 : Kept P s1 := h.at
  have h2 : Kept P s2 := .ite h1.declareAbsent h1
  refine .ite h1.bridge ?_
  split
  · exact h2.beaconCheck
  · exact h2.beaconUp
  · exact h2

theorem Kept.execBeacon {port payload t} (h : Kept P s) : Kept.Next P (execBeacon port payload t s) := .next (.ite h.beacon h)

theorem Kept.beaconSend {p} (h : Kept P s) : Kept P (beaconSend p s) := .ite h.emit h

theorem Kept.execBeaconSend {port} (h : Kept P s) : Kept.Next P (execBeaconSend port s) := .next (.ite h.beaconSend h)

theorem Kept.execBeaconAbsence {d} (h : Kept P s) : Kept.Next P (execBeaconAbsence d s) := .next (.ite h.declareAbsent h)

theorem Kept.absentSet {p x} (h : Kept P s) : Kept P (absentSet p x s) := .ite h.bridge (.ite h.declareAbsent h)

theorem Kept.execAbsentSet {port payload} (h : Kept P s) : Kept.Next P (execAbsentSet port payload s) := .next (.ite h.absentSet h)

theorem Kept.svcAbsentWrite {hi v} (h : Kept P s) : Kept P (svcAbsentWrite hi v s) := h.store.upd

theorem Kept.svcCtrlWrite {v} (h : Kept P s) : Kept P (svcCtrlWrite v s) := by
  unfold Machine.svcCtrlWrite
  extract_lets _ s1
  have h1 : Kept P s1 := h.store
  exact .ite (.foldl h1 fun ht _ => ht.forceSafe) h1

theorem Kept.execSvcLeave {v} (h : Kept P s) : Kept.Next P (execSvcLeave v s) := .next (.ite h.svcCtrlWrite h)

theorem Kept.svcIdWrite {v} (h : Kept P s) : Kept P (svcIdWrite v s) := h.store.checkBypass

theorem Kept.execSvcIdLock {v} (h : Kept P s) : Kept.Next P (execSvcIdLock v s) := .next (.ite h.svcIdWrite h)

theorem Kept.svcBypWrite {v} (h : Kept P s) : Kept P (svcBypWrite v s) := by
  unfold Machine.svcBypWrite
  extract_lets _ s1 _
  have h1 : Kept P s1 := h.store
  exact .checkBypass (.ite h1 h1.raiseHeath)

theorem Kept.execSvcBypCtrlWrite {v} (h : Kept P s) : Kept.Next P (execSvcBypCtrlWrite v s) := .next (.ite h.svcBypWrite h)

theorem Kept.bypassHoldRelease (h : Kept P s) : Kept P (bypassHoldRelease s) := h.wr.raiseHeath

theorem Kept.execBypassHoldRelease (h : Kept P s) : Kept.Next P (execBypassHoldRelease s) := .next (.ite h.bypassHoldRelease h)

end Sys2Proof.Machine
end

section
/-!
SUPPORT. Stable properties are kept by the Wells, the tick and the commands of the collectives.
-/

namespace Sys2Proof.Machine

open Sys2Proof

-- one theorem after the other: a thread for each of so many short ones does not fit the memory of the check
set_option Elab.async false

variable {P : State → Prop} {s t : State}

/-! ### A Well at work -/

theorem Kept.modOpen {w c seq att f} (h : Kept P s) : Kept P (s.modOpen w c seq att f) := h.modWell

theorem Kept.wellEvent {w code sev data c seq att} (h : Kept P s) : Kept P (s.wellEvent w code sev data c seq att) := h.raiseFrom.wellSays

theorem Kept.writeActLog {w o} (h : Kept P s) : Kept P (s.writeActLog w o) := .ite h (.ite h.wellEvent h.voidLedger.modLog.writeDram)

theorem Kept.closeGlog {w o} (h : Kept P s) : Kept P (s.closeGlog w o) := by
  unfold State.closeGlog
  extract_lets _ _ _ s1
  have h1 : Kept P s1 := h.writeDram
  exact .ite h (.ite h1 h1.wellEvent)

theorem Kept.wellReports {w} (h : Kept P s) : Kept P (s.wellReports w) := .foldl h fun ht _ => by
    extract_lets _ _ s1 s2
    have h1 : Kept P s1 := .ite ht ht.wellSays.modOpen
    have h2 : Kept P s2 := h1.writeActLog.closeGlog.wellSays
    exact .ite ht (.ite h1 h2.modOpen)

theorem Kept.wellSwitch {w c} (h : Kept P s) : Kept P (s.wellSwitch w c) := by
  unfold State.wellSwitch
  split
  · exact h.modWell
  · exact .ite h h.bumpBy.wr.accCyc.modWell

theorem Kept.wellGrant {w} (h : Kept P s) : Kept P (s.wellGrant w) := by
  unfold State.wellGrant
  extract_lets _ _ _
  refine .ite h ?_
  split
  · exact h
  · split
    · exact h
    · exact h.modWell.wellSwitch

theorem Kept.wellIdle {w} (h : Kept P s) : Kept P (s.wellIdle w) := h.modWell

theorem Kept.scoreRowTake {w p} (h : Kept P s) : Kept P (s.scoreRowTake w p) := h.modWell.wellGrant

theorem Kept.wellLand {w p} (h : Kept P s) (he : s.wellLand w p = .taken t) : Kept P t := by
  unfold State.wellLand at he
  dsimp only at he
  split at he
  · exact Rx.taken.inj he ▸ h.stalePkt
  · split at he
    · cases he
    · split_ifs at he
      · exact Rx.taken.inj he ▸ h.mismatch
      · exact Rx.taken.inj he ▸ h.mismatch
      all_goals exact Rx.taken.inj he ▸ .progress h.modWell

theorem Kept.rxHead {w p} (h : Kept P s) (he : s.rxHead w p = .taken t) : Kept P t := by
  unfold State.rxHead at he
  split at he
  · split at he
    · exact Rx.taken.inj he ▸ h.stalePkt
    · split_ifs at he
      exact Rx.taken.inj he ▸ h.scoreRowTake
  · exact h.wellLand he

theorem Kept.rxPump {n w} (h : Kept P s) : Kept P (State.rxPump n w s) := by
  induction n generalizing s with
  | zero => exact h
  | succ n ih =>
    unfold State.rxPump
    split
    · exact h
    · split
      · next he => exact ih (h.modWell.rxHead he)
      · exact h
      · exact .ite h h.bump.modWell

theorem Kept.wellPump {w} (h : Kept P s) : Kept P (s.wellPump w) := h.rxPump

theorem Kept.retryLanded (h : Kept P s) : Kept P s.retryLanded := .foldl h.retryHub fun ht _ => ht.wellPump

theorem Kept.readIndex {w p} (h : Kept P s) : Kept P (s.readIndex w p) := by
  unfold State.readIndex
  dsimp only
  split
  · exact h
  · split
    · exact h.modOpen
    · split
      · next he => exact h.touch.fst he
      · next he => exact (h.touch.fst he).touch.accDram.accDram.modOpen

theorem Kept.openStep {w p} (h : Kept P s) : Kept P (s.openStep w p) := by
  unfold State.openStep
  exact h.modWell

theorem Kept.stepClose {w p} (h : Kept P s) : Kept P (stepClose w p s) := by
  unfold Machine.stepClose
  extract_lets _ _
  split
  · exact h.stalePkt
  · exact h.modWell.modLog.wellIdle.retryLanded

theorem Kept.execStepClose {w p} (h : Kept P s) : Kept.Next P (execStepClose w p s) := .next (.ite h.stepClose h)

theorem Kept.scoreRow {w p} (h : Kept P s) : Kept P (scoreRow w p s) := by
  unfold Machine.scoreRow
  split
  · exact h.stalePkt
  · exact h.modWell.wellPump

theorem Kept.execScoreRow {w p} (h : Kept P s) : Kept.Next P (execScoreRow w p s) := .next (.ite h.scoreRow h)

theorem Kept.scoreTileRun {w t} (h : Kept P s) : Kept P (s.scoreTileRun w t) := by
  unfold State.scoreTileRun
  dsimp only
  split
  · exact h
  · split
    · exact h
    · split
      · next he => exact h.touch.fst he
      · next s1 he =>
        have h1 : Kept P s1 := h.touch.fst he
        exact .accMacs (.accDram (.foldl h1 fun ht _ => .ite ht ht.landHere))

theorem Kept.dirViolation {w c seq att layer e entry} (h : Kept P s) : Kept P (s.dirViolation w c seq att layer e entry) :=
  h.upd.bump.wellEvent.freezeRing

theorem Kept.dirRead {w x bank d} (h : Kept P s) (he : s.dirRead w x bank = (t, d)) : Kept P t := by
  rw [show @State.dirRead = _ by delta State.dirRead; rfl] at he
  split at he
  · exact (Prod.mk.inj he).1 ▸ h.dirViolation
  · split at he
    · next he1 => exact (Prod.mk.inj he).1 ▸ h.touch.fst he1
    · next s0 he1 =>
      have h0 : Kept P s0 := h.touch.fst he1
      dsimp only at he
      split at he
      · split at he
        · exact (Prod.mk.inj he).1 ▸ h0.accDram
        · exact (Prod.mk.inj he).1 ▸ h0.accDram.dirViolation
      · exact (Prod.mk.inj he).1 ▸ h0.accDram.dirViolation

theorem Kept.wellReturn {w t x bf els dw weight} (h : Kept P s) : Kept P (s.wellReturn w t x bf els dw weight) := .ite h h.send

theorem Kept.satWell {w n} (h : Kept P s) : Kept P (s.satWell w n) := .ite h h.bumpBy

theorem Kept.fwdCopy {w t e bf x} (h : Kept P s) : Kept P (s.fwdCopy w t e bf x) := h.satWell.wellReturn

theorem Kept.writeGrad {w o r} (h : Kept P s) : Kept P (s.writeGrad w o r) := by
  unfold State.writeGrad
  extract_lets _ _
  refine .ite h ?_
  split
  · exact h
  · exact .ite h.modOpen h.satWell.writeDram.modOpen

theorem Kept.bwdCopy {w t o e bf x} (h : Kept P s) : Kept P (s.bwdCopy w t o e bf x) := by
  unfold State.bwdCopy
  split
  · exact h
  · dsimp only
    split
    · next he => exact h.touch.fst he
    · next s1 he =>
      have h1 : Kept P s1 := h.touch.fst he
      exact .wellReturn (.writeGrad (.accDram (.satWell h1.upd)))

theorem Kept.tileRun {w t} (h : Kept P s) : Kept P (s.tileRun w t) := by
  fun_cases State.tileRun s w t
  · next he => exact h.dirRead he
  · next he _ _ _ hb => exact (h.dirRead he).touch.fst hb
  · next he _ _ _ hb _ _ => exact .foldl ((h.dirRead he).touch.fst hb).accDram.accMacs fun ht _ => .ite ht.bwdCopy ht.fwdCopy
  · exact h

theorem Kept.endTile {w cycles} (h : Kept P s) : Kept P (s.endTile w cycles) := by
  unfold State.endTile
  split
  · exact h
  · extract_lets _ s1 s2 s3
    have h1 : Kept P s1 := h.modWell.accCyc
    have h2 : Kept P s2 := by
      dsimp only [s2]
      split
      · exact h1.tileRun
      · exact h1.scoreTileRun
    have h3 : Kept P s3 := by
      dsimp only [s3]
      split
      · exact .ite h2.wellSays h2
      · exact .ite h2.wellSays h2
    exact h3.wellIdle.retryLanded.wellReports.wellGrant

/-! ### Grants of Cistern buffers -/

theorem Kept.staged {c t x} (h : Kept P s) : Kept P (s.staged c t x) := by
  unfold State.staged
  split
  · exact h.tokenVec.bufWrite.modTok.pumpCtx
  · exact h.release

theorem Kept.parkGranted {p n x} (h : Kept P s) : Kept P (s.parkGranted p n x) := h.bufWrite.upd.pumpParked

theorem Kept.cisternGrant {pick} (h : Kept P s) : Kept P (cisternGrant pick s) := by
  unfold Machine.cisternGrant
  split
  · exact h
  · next r _ =>
    split
    · exact h
    · next s1 n he =>
      have h1 : Kept P s1 := h.takeBuf he
      refine .markWaits ?_
      cases r.why with
      | stage c t => exact .staged h1.upd
      | land p => exact .retryLanded (.landGranted h1.upd)
      | park p hold => exact .retryLanded (.parkGranted (.freeHold h1.upd))
      | col ch => exact h1.upd

theorem Kept.execCisternGrant {pick} (h : Kept P s) : Kept.Next P (execCisternGrant pick s) := .next (.ite h.cisternGrant h)

theorem Kept.starveMark (h : Kept P s) : Kept P s.starveMark := h.upd

theorem Kept.quotaAbort {c st detail} (h : Kept P s) : Kept P (s.quotaAbort c st detail) := h.raise.noticeLive

theorem Kept.starvedTest (h : Kept P s) : Kept P (starvedTest s) := .foldl h.upd fun ht _ => by
    split
    · exact .ite ht.quotaAbort ht
    · exact ht

theorem Kept.execStarvedTest (h : Kept P s) : Kept.Next P (execStarvedTest s) := .next (.ite h.starvedTest h)

theorem Kept.modeOff (h : Kept P s) : Kept P s.modeOff := .foldl h.upd fun ht _ => ht.modLink

theorem Kept.qCtrlWrite {port v} (h : Kept P s) : Kept P (qCtrlWrite port v s) := by
  unfold Machine.qCtrlWrite
  extract_lets _ _ _ s1 _ s2 s3
  have h1 : Kept P s1 := .ite h.raise h
  have h2 : Kept P s2 := h1.store.wrIf
  have h3 : Kept P s3 := .ite h2.modeOff h2
  exact .ite h3.flushQueues.retryLanded h3

theorem Kept.execQueueFlush {v} (h : Kept P s) : Kept.Next P (execQueueFlush v s) := .next (.ite h.qCtrlWrite h)

/-! ### The tick ordered set -/

theorem Kept.sendTick {x hops fire path} (h : Kept P s) : Kept P (s.sendTick x hops fire path) := .foldl h fun ht _ => ht.emit.emit

theorem Kept.beaconsDue (h : Kept P s) : Kept P s.beaconsDue := .foldl h fun ht _ => .ite ht.modStep ht

theorem Kept.reportDiffer {c} (h : Kept P s) : Kept P (s.reportDiffer c) := by
  rw [show @State.reportDiffer = _ by delta State.reportDiffer; rfl]
  cases s.ready c with
  | none => exact h
  | some l =>
    cases l with
    | nil => exact h
    | cons r rs =>
      dsimp only
      split
      · exact h.raise
      · exact h

theorem Kept.tickWatchdog (h : Kept P s) : Kept P (tickWatchdog s) := .ite h (.foldl h fun ht _ => by
    split
    · exact ht
    · refine .ite ht ?_
      extract_lets _ s1 s2
      have h2 : Kept P s2 := ht.upd.bump
      exact .ite h2 h2.raise)

theorem Kept.masterEmission {d} (h : Kept P s) : Kept P (masterEmission d s) :=
  .sendHeld (.beaconsDue (.sendTick (.upd (.foldl h.at.tickWatchdog fun ht _ => ht.reportDiffer))))

/-! ### The boundary of a tick on a member -/

theorem Kept.ledgerCommit {c seq} (h : Kept P s) : Kept P (s.ledgerCommit c seq) := by
  unfold State.ledgerCommit
  split
  · exact h
  · exact .foldl h.setCore fun ht _ => ht.writeDram

theorem Kept.commitStep {c st} (h : Kept P s) : Kept P (s.commitStep c st) := by
  unfold State.commitStep
  dsimp only
  refine .outcome (.ledgerCommit (.endAttempt ?_))
  exact h.upd

theorem Kept.cycle1 {x c} (h : Kept P s) : Kept P (s.cycle1 x c) := by
  unfold State.cycle1
  split
  · exact h
  · exact .ite h.raise.abortLive (.ite h.commitStep (.ite (.retireLive (.ite h.bump h)) (.ite h.modStep.bump h.retireLive)))

theorem Kept.rebind {c st} (h : Kept P s) : Kept P (s.rebind c st).1 := by
  unfold State.rebind
  dsimp only
  split_ifs
  · exact h.writePlacement
  · exact h

theorem Kept.launchBar {c st} (h : Kept P s) (he : s.launchBar c st = some t) : Kept P t := by
  unfold State.launchBar at he
  dsimp only at he
  split_ifs at he
  · exact Option.some.inj he ▸ h.noticeLive
  · exact Option.some.inj he ▸ h.quotaAbort
  · exact Option.some.inj he ▸ h.quotaAbort
  · exact Option.some.inj he ▸ h.noticeLive
  · exact Option.some.inj he ▸ h.touchSram

theorem Kept.begin {c st} (h : Kept P s) : Kept P (s.begin c st) := by
  unfold State.begin
  extract_lets s1
  have h1 : Kept P s1 := h.startAttempt
  exact .pumpCtx (.ite h1.combineStarts.writeLedger h1)

theorem Kept.launchStep {c seq} (h : Kept P s) : Kept P (s.launchStep c seq) := by
  unfold State.launchStep
  split
  · exact h
  · next st _ =>
    extract_lets isIt now r st1 st2 s2 s3
    have hr : Kept P r.1 := h.rebind
    have h3 : Kept P s3 := .ite hr.modStep.bump hr.modStep
    refine .ite h.outcome (.ite hr.outcome ?_)
    split
    · next he => exact h3.launchBar he
    · exact h3.begin

theorem Kept.reportNext {c} (h : Kept P s) : Kept P (s.reportNext c) := by
  unfold State.reportNext
  split
  · exact .ite h h.readyReport
  · exact h

theorem Kept.staleReport (h : Kept P s) : Kept P s.staleReport := by
  unfold State.staleReport
  extract_lets _ _ s1 _
  have h1 : Kept P s1 := .foldl h.upd fun ht _ => .ite ht ht.raise
  exact .ite h1 h1.upd.raise

theorem Kept.heldReport (h : Kept P s) : Kept P s.heldReport := .foldl h fun ht _ => by
    split
    · exact ht.wrIf.raise
    · exact ht

theorem Kept.mirrorAcc (h : Kept P s) : Kept P s.mirrorAcc :=
  .foldl h fun ht _ => .ite ht (ht.upd (hmst := MirChan.push_mstate _ _))

theorem Kept.tickDuties {inst} (h : Kept P s) : Kept P (s.tickDuties inst) := .heldReport (.staleReport (.starveMark (.ite h.emit h)))

theorem Kept.boundary {x inst} (h : Kept P s) : Kept P (s.boundary x inst) := by
  unfold State.boundary
  extract_lets _ s1 s2 s3 _ s4 s5 s6 s7 s8 s9
  have h1 : Kept P s1 := h.at.wr2
  have h2 : Kept P s2 := h1.wrIf
  have h3 : Kept P s3 := .ite h2.wrIf.wrIf h2
  have h5 : Kept P s5 := h3.upd.tickDuties
  have h6 : Kept P s6 := .foldl h5 fun ht _ => ht.cycle1
  have h7 : Kept P s7 := .foldl h6 fun ht _ => ht.swapAt
  have h8 : Kept P s8 := .foldl h7 fun ht _ => .ite ht.launchStep.reportNext ht
  have h9 : Kept P s9 := .foldl h8 fun ht _ => ht.heldRelease
  exact h9.mirrorAcc

theorem Kept.localTick (h : Kept P s) : Kept P (localTick s) := by
  unfold Machine.localTick
  split
  · exact h.boundary
  · exact h

theorem Kept.execLocalTick (h : Kept P s) : Kept.Next P (execLocalTick s) := .next (.ite h.localTick h)

theorem Kept.execMasterEmission (h : Kept P s) : Kept.Next P (execMasterEmission s) := by
  refine .next ?_
  split
  · exact h.masterEmission
  · exact h

theorem Kept.execTickWatchdog (h : Kept P s) : Kept.Next P (execTickWatchdog s) := .next (.ite h.tickWatchdog h)

theorem Kept.runSet (h : Kept P s) : Kept P s.runSet := h.upd

theorem Kept.runClear (h : Kept P s) : Kept P s.runClear := .ite h.upd h.upd

theorem Kept.tckCtrlWrite {v} (h : Kept P s) : Kept P (tckCtrlWrite v s) := by
  unfold Machine.tckCtrlWrite
  extract_lets _ s1 _
  have h1 : Kept P s1 := h.store
  exact .ite h1.runSet (.ite h1.runClear h1)

theorem Kept.execTckRunSet {v} (h : Kept P s) : Kept.Next P (execTckRunSet v s) := .next (.ite h.tckCtrlWrite h)

theorem Kept.execTckRunClear {v} (h : Kept P s) : Kept.Next P (execTckRunClear v s) := .next (.ite h.tckCtrlWrite h)

theorem Kept.tckPeriodWrite {v} (h : Kept P s) : Kept P (tckPeriodWrite v s) := h.store

theorem Kept.execTckPeriodWrite {v} (h : Kept P s) : Kept.Next P (execTckPeriodWrite v s) := .next (.ite h.tckPeriodWrite h)

theorem Kept.tickInEdge {t0} (h : Kept P s) : Kept P (tickInEdge t0 s) := .ite h.upd h.at

theorem Kept.execTickInEdge {t} (h : Kept P s) : Kept.Next P (execTickInEdge t s) := .next (.ite h.tickInEdge h)

theorem Kept.tickInHoldover (h : Kept P s) : Kept P (tickInHoldover s) := by
  unfold Machine.tickInHoldover
  split
  · exact h
  · exact h.at.bump.upd

theorem Kept.execTickInHoldover (h : Kept P s) : Kept.Next P (execTickInHoldover s) := .next (.ite h.tickInHoldover h)

theorem Kept.acceptSet {p x arrival} (h : Kept P s) : Kept P (s.acceptSet p x arrival) := by
  unfold State.acceptSet
  extract_lets s1 _ _ _ s2 s3 _ s4 s5 _ _ s6 s7
  have h1 : Kept P s1 := h.at
  have h2 : Kept P s2 := h1.sendTick
  have h3 : Kept P s3 := h2.wrIf.wrIf
  have h5 : Kept P s5 := h3.upd.localTick.wrIf
  have h7 : Kept P s7 := h5.upd.beaconsDue.sendHeld
  exact .ite h3.upd (.ite h7.wrIf.raise.localTick h7)

theorem Kept.tickSetAtMaster {port} (h : Kept P s) : Kept P (tickSetAtMaster port s) := h.bump.raise

theorem Kept.execTickSetAtMaster {port _set} (h : Kept P s) : Kept.Next P (execTickSetAtMaster port _set s) :=
  .next (.ite h.tickSetAtMaster h)

theorem Kept.tickOrderedSet {port x arrival} (h : Kept P s) : Kept P (tickOrderedSet port x arrival s) :=
  .ite h.tickSetAtMaster (.ite h (.ite h.at h.acceptSet))

theorem Kept.execTickOrderedSet {port copy set arrival} (h : Kept P s) : Kept.Next P (execTickOrderedSet port copy set arrival s) :=
  .next (.ite h (.ite h.bridge (.ite h.tickOrderedSet h)))

theorem Kept.followerHoldover {expected} (h : Kept P s) : Kept P (followerHoldover expected s) := by
  unfold Machine.followerHoldover
  extract_lets inst t s1 src s2 s3 s4
  have h1 : Kept P s1 := h.at.wr2.wrIf
  have h2 : Kept P s2 := h1.upd
  have h3 : Kept P s3 := h2.tickDuties.raise
  have h4 : Kept P s4 := h3.declareAbsent
  exact .mirrorAcc (h4.foldl fun ht _ => ht.swapAt)

theorem Kept.execFollowerHoldover (h : Kept P s) : Kept.Next P (execFollowerHoldover s) := by
  refine .next ?_
  split
  · exact h.followerHoldover
  · exact h

theorem Kept.calibrationStale {p} (h : Kept P s) : Kept P (calibrationStale p s) := h.at.wrIf.upd.raise

theorem Kept.execCalibrationStale (h : Kept P s) : Kept.Next P (execCalibrationStale s) := by
  refine .next ?_
  split
  · exact .ite h.calibrationStale h
  · exact h

/-! ### Background calibration -/

theorem Kept.calStart {p t} (h : Kept P s) : Kept P (calStart p t s) := by
  unfold Machine.calStart
  exact h.at.emit.modPort

theorem Kept.execCalStart {port t} (h : Kept P s) : Kept.Next P (execCalStart port t s) := .next (.ite h.calStart h)

theorem Kept.calReq {p x t2 t3} (h : Kept P s) : Kept P (calReq p x t2 t3 s) := h.at.emit

theorem Kept.execCalReq {port payload t2 t3} (h : Kept P s) : Kept.Next P (execCalReq port payload t2 t3 s) :=
  .next (.ite h (.ite h.bridge (.ite h.calReq h)))

theorem Kept.alignBy {p r} (h : Kept P s) : Kept P (s.alignBy p r) := by
  unfold State.alignBy
  extract_lets s1
  have h1 : Kept P s1 := h.wrIf
  exact .ite h1.wrIf.raise h1.wrIf

theorem Kept.calRsp {p x t4} (h : Kept P s) : Kept P (calRsp p x t4 s) := by
  unfold Machine.calRsp
  extract_lets s1 _ _ _ _ _ _ _ s2 s3
  have h1 : Kept P s1 := h.at
  have h3 : Kept P s3 := h1.upd.wr.modPort
  refine .ite h1 ?_
  refine .ite ?_ h3
  split
  · exact h3.alignBy
  · exact h3

theorem Kept.execCalRsp {port payload t4} (h : Kept P s) : Kept.Next P (execCalRsp port payload t4 s) :=
  .next (.ite h (.ite h.bridge h.calRsp))

theorem Kept.execCalLost {port} (h : Kept P s) : Kept.Next P (execCalLost port s) := .next (.ite h.modPort h)

theorem Kept.eqAdaptation (h : Kept P s) : Kept P (eqAdaptation s) := by
  unfold Machine.eqAdaptation
  split
  · exact h
  · exact h.upd.emit

theorem Kept.execEqAdaptation (h : Kept P s) : Kept.Next P (execEqAdaptation s) := .next (.ite h.eqAdaptation h)

theorem Kept.wellLinkRecal (h : Kept P s) : Kept P (wellLinkRecal s) := by
  unfold Machine.wellLinkRecal
  split
  · exact h
  · exact h.upd.emit

theorem Kept.execWellLinkRecal (h : Kept P s) : Kept.Next P (execWellLinkRecal s) := .next (.ite h.wellLinkRecal h)

/-! ### The commands of the collective channels -/

theorem Kept.wordDiscard {ch w} (h : Kept P s) : Kept P (s.wordDiscard ch w) := h.raise

theorem Kept.collectiveWord {w} (h : Kept P s) : Kept P (collectiveWord w s) :=
  .ite h.wordDiscard (.ite (.ite h.wordDiscard h.modChan.setWord.wr.hostRead) (.ite h.wrIf.colGo h.wordDiscard))

theorem Kept.execCollectiveStart {w} (h : Kept P s) : Kept.Next P (execCollectiveStart w s) := .next (.ite h.collectiveWord h)

theorem Kept.execCollectiveReady {w} (h : Kept P s) : Kept.Next P (execCollectiveReady w s) := .next (.ite h.collectiveWord h)

theorem Kept.colIdle {ch} (h : Kept P s) : Kept P (s.colIdle ch) := by
  unfold State.colIdle
  extract_lets _ _ s1 s2
  have h1 : Kept P s1 := h.releaseAll.modChan
  have h2 : Kept P s2 := h1.wr.bump
  exact .ite h2.emit h2

theorem Kept.colReject {ch status detail} (h : Kept P s) : Kept P (s.colReject ch status detail) := by
  unfold State.colReject
  extract_lets _ s1
  have h1 : Kept P s1 := h.raise
  exact .ite h1.colIdle h1.modChan.colTryHeader

theorem Kept.colDescriptorCheck {ch} (h : Kept P s) : Kept P (colDescriptorCheck ch s) := by
  unfold Machine.colDescriptorCheck
  split
  · exact h.colReject
  · exact h.wr.wr.wr.modChan.markWaits

theorem Kept.execColDescriptorCheck {ch} (h : Kept P s) : Kept.Next P (execColDescriptorCheck ch s) := .next (.ite h.colDescriptorCheck h)

theorem Kept.colStarted {ch p} (h : Kept P s) : Kept P (s.colStarted ch p) := by
  unfold State.colStarted
  extract_lets _ _ s1 s2
  have h1 : Kept P s1 := h.modChan
  have h2 : Kept P s2 := .ite h1.colAbortSend h1
  exact h2.colFlush

theorem Kept.colStale {_p} (h : Kept P s) : Kept P (s.colStale _p) := h.bump

theorem Kept.colRun {ch} (h : Kept P s) : Kept P (s.colRun ch) := by
  unfold State.colRun
  extract_lets s1 _ s2 s3 _ s4 _ _ _ _ s5
  have h1 : Kept P s1 := h.wr.modChan
  have h2 : Kept P s2 := h1.hostWrite
  have h3 : Kept P s3 := h2.hostRead
  have h4 : Kept P s4 := .foldl h3 fun ht _ => ht.send
  have h5 : Kept P s5 := .foldl (.foldl h4.modChan fun ht _ => ht.colStarted) fun ht _ => ht.colStale
  split
  · exact h5.colAbortSend
  · exact h5

theorem Kept.colReservationGrant {pick} (h : Kept P s) : Kept P (colReservationGrant pick s) := by
  unfold Machine.colReservationGrant
  dsimp only
  split
  · exact h
  · next ch s1 hs he =>
    obtain ⟨x, -, hx⟩ := List.exists_of_findSome?_eq_some he
    obtain ⟨r, hr, hrs⟩ := Option.map_eq_some_iff.mp hx
    obtain ⟨-, hs1⟩ := Prod.mk.inj hrs
    obtain ⟨rfl, -⟩ := Prod.mk.inj hs1
    have h1 : Kept P r.1 := h.takeMany hr
    exact .markWaits (.colRun (.upd h1.modChan))

theorem Kept.execColReservationGrant {pick} (h : Kept P s) : Kept.Next P (execColReservationGrant pick s) :=
  .next (.ite h.colReservationGrant h)

theorem Kept.colStart {p} (h : Kept P s) : Kept P (colStart p s) := by
  unfold Machine.colStart
  extract_lets _ s1
  have h1 : Kept P s1 := h.takeLanded
  exact .ite h1.colStarted (.ite h1.modChan h1.colStale)

theorem Kept.execColStart {p} (h : Kept P s) : Kept.Next P (execColStart p s) := .next (.ite (h.checked fun ht => ht.colStart) h)

theorem Kept.colArrived {ch p} (h : Kept P s) : Kept P (s.colArrived ch p) := by
  unfold State.colArrived
  extract_lets _ _ _ _ _ _ _ _ s1 s2
  have h1 : Kept P s1 := h.modChan
  have h2 : Kept P s2 := h1.modChan
  refine .ite h1.colHave ?_
  refine .ite h1.modChan.colDirect ?_
  split
  · exact h2
  · exact h2.modChan.colTerm

theorem Kept.colData {p} (h : Kept P s) : Kept P (colData p s) := by
  unfold Machine.colData
  extract_lets _ _ s1
  have h1 : Kept P s1 := h.takeLanded
  exact .ite h1.colArrived h1.colStale

theorem Kept.execColData {p} (h : Kept P s) : Kept.Next P (execColData p s) := .next (.ite (h.checked fun ht => ht.colData) h)

theorem Kept.colCredit {p} (h : Kept P s) : Kept P (colCredit p s) := by
  unfold Machine.colCredit
  extract_lets _ s1 _
  have h1 : Kept P s1 := h.takeLanded
  exact .ite h1.modChan.colFlush h1.colStale

theorem Kept.execColCredit {p} (h : Kept P s) : Kept.Next P (execColCredit p s) := .next (.ite (h.checked fun ht => ht.colCredit) h)

theorem Kept.colHold {p} (h : Kept P s) : Kept P (colHold p s) := by
  unfold Machine.colHold
  extract_lets _ s1
  have h1 : Kept P s1 := h.takeLanded
  exact .ite h1.modChan h1.colStale

theorem Kept.execColHold {p} (h : Kept P s) : Kept.Next P (execColHold p s) := .next (.ite (h.checked fun ht => ht.colHold) h)

theorem Kept.colFin {p} (h : Kept P s) : Kept P (colFin p s) := by
  unfold Machine.colFin
  extract_lets _ s1
  have h1 : Kept P s1 := h.takeLanded
  exact .ite h1.modChan.colTryFinish h1.colStale

theorem Kept.execColFin {p} (h : Kept P s) : Kept.Next P (execColFin p s) := .next (.ite (h.checked fun ht => ht.colFin) h)

theorem Kept.colRestart {ch cause newatt} (h : Kept P s) : Kept P (s.colRestart ch cause newatt) := by
  unfold State.colRestart
  exact h.colDrop.wr.bump.modChan

theorem Kept.colAbort {p} (h : Kept P s) : Kept P (colAbort p s) := by
  unfold Machine.colAbort
  extract_lets _ s1 _ _ s2
  have h1 : Kept P s1 := h.takeLanded
  have h2 : Kept P s2 := .ite h1 h1.raise
  exact .ite (.ite h2.colRestart h2.colFail) h1.colStale

theorem Kept.execColAbort {p} (h : Kept P s) : Kept.Next P (execColAbort p s) := .next (.ite (h.checked fun ht => ht.colAbort) h)

theorem Kept.colRestartDrained {ch} (h : Kept P s) : Kept P (colRestartDrained ch s) := by
  unfold Machine.colRestartDrained
  extract_lets s1
  have h1 : Kept P s1 := h.wr
  exact .ite h1.wr.markWaits h1.hostRead.colRun

theorem Kept.execColRestartDrained {ch} (h : Kept P s) : Kept.Next P (execColRestartDrained ch s) := .next (.ite h.colRestartDrained h)

theorem Kept.colOutputsComplete {ch} (h : Kept P s) : Kept P (colOutputsComplete ch s) := h.colAll.modChan.wr.colTryFinish

theorem Kept.execColOutputsComplete {ch} (h : Kept P s) : Kept.Next P (execColOutputsComplete ch s) := .next (.ite h.colOutputsComplete h)

theorem Kept.colTick {ch} (h : Kept P s) : Kept P (s.colTick ch) := by
  unfold State.colTick
  refine .ite h ?_
  extract_lets _ _ s1 s2
  have h1 : Kept P s1 := h.modChan
  have h2 : Kept P s2 := .ite h1.colAbortSend.bump.raise h1
  exact .ite h2.colHoldSend h2

theorem Kept.colStallCount (h : Kept P s) : Kept P (colStallCount s) := .foldl h fun ht _ => ht.colTick

theorem Kept.execColStallCount (h : Kept P s) : Kept.Next P (execColStallCount s) := .next (.ite h.colStallCount h)

theorem Kept.colChCtrlWrite {ch v} (h : Kept P s) : Kept P (colChCtrlWrite ch v s) := by
  unfold Machine.colChCtrlWrite
  extract_lets _ _ _ _ _ _ s1 s2
  have h1 : Kept P s1 := h.store
  have h2 : Kept P s2 := .ite h1.raise h1
  exact .ite h2.wr (.ite h2.wr h2)

theorem Kept.execColChEnable {ch v} (h : Kept P s) : Kept.Next P (execColChEnable ch v s) := .next (.ite h.colChCtrlWrite h)

theorem Kept.colReadError {ch} (h : Kept P s) : Kept P (s.colReadError ch) := .ite h.hostRead h.colAbortSend

theorem Kept.colWriteBad {ch sh q} (h : Kept P s) : Kept P (s.colWriteBad ch sh q) := h.modChan.colTryHeader

theorem Kept.colWritten {ch why} (h : Kept P s) : Kept P (s.colWritten ch why) := by
  unfold State.colWritten
  split
  · exact h.colAck.colTryFinish
  · exact .ite (.ite h h.colIdle) h.colTryFinish

end Sys2Proof.Machine
end

section
/-!
SUPPORT. Stable properties are kept by the recorder, resets, containment and register writes.
-/

namespace Sys2Proof.Machine

open Sys2Proof

-- one theorem after the other: a thread for each of so many short ones does not fit the memory of the check
set_option Elab.async false

variable {P : State → Prop} {s t : State}

/-! ### The event recorder's flushes -/

theorem Kept.nvmWrite {a bs} (h : Kept P s) (hn : StableNvm P) : Kept P { s with nvm := mwrite nvByte s.nvm a bs } :=
  ⟨h.stable, hn.write a bs h.holds⟩

theorem Kept.nvmDrop {q} (h : Kept P s) (hn : StableNvm P) : Kept P { s with nvm := s.nvm.filter q } := ⟨h.stable, hn.drop q h.holds⟩

theorem Kept.openSector {x} (h : Kept P s) (hn : StableNvm P) (he : s.openSector = some (t, x)) : Kept P t := by
  unfold State.openSector at he
  split at he
  · obtain ⟨rfl, -⟩ := Prod.mk.inj (Option.some.inj he)
    exact h
  · obtain ⟨y, -, hy⟩ := Option.map_eq_some_iff.mp he
    obtain ⟨rfl, -⟩ := Prod.mk.inj hy
    exact .emit (Kept.same (h.nvmWrite hn) ⟨rfl, rfl, rfl, rfl, rfl, rfl, rfl, fun _ => rfl⟩
      ⟨rfl, rfl, rfl, rfl, rfl, rfl, rfl, rfl, rfl, rfl, rfl, rfl⟩)

theorem Kept.powerFailEnd (h : Kept P s) (hr : StableRoles P) : Kept P s.powerFailEnd := h.change hr

theorem Kept.nextPage (h : Kept P s) (hr : StableRoles P) : Kept P s.nextPage := by
  unfold State.nextPage
  extract_lets _ s1
  exact .ite (h.upd.powerFailEnd hr) h.upd

theorem Kept.powerFailFlush (h : Kept P s) (hr : StableRoles P) : Kept P s.powerFailFlush := .ite (h.upd.nextPage hr) h

theorem Kept.trickleFlush (h : Kept P s) (hr : StableRoles P) : Kept P (trickleFlush s) := h.upd.nextPage hr

theorem Kept.execTrickleFlush {t} (h : Kept P s) (hr : StableRoles P) : Kept.Next P (execTrickleFlush t s) :=
  .next (.ite (.ite (h.at.trickleFlush hr) h.at) h)

theorem Kept.execEvrFlush (h : Kept P s) : Kept.Next P (execEvrFlush s) := .next (.ite h.upd h)

theorem Kept.nvFail {idx kind addr} (h : Kept P s) : Kept P (s.nvFail idx kind addr) := h.upd.raiseHeath

theorem Kept.pageDone {ok} (h : Kept P s) (hn : StableNvm P) : Kept P (s.pageDone ok) := by
  unfold State.pageDone
  split
  · exact h
  · next s1 x he =>
    have h1 : Kept P s1 := h.openSector hn he
    dsimp only
    refine .ite ?_ (.nvFail (.emit h1.upd))
    have h2 {e} : Kept P (State.emit { s1 with evr := { s1.evr with page := [] } } e) := .emit h1.upd
    exact (h2.nvmWrite hn).same ⟨rfl, rfl, rfl, rfl, rfl, rfl, rfl, fun _ => rfl⟩
      ⟨rfl, rfl, rfl, rfl, rfl, rfl, rfl, rfl, rfl, rfl, rfl, rfl⟩

theorem Kept.eraseDone {idx ok} (h : Kept P s) (hn : StableNvm P) : Kept P (s.eraseDone idx ok) := .ite (.upd (h.nvmDrop hn)) h.upd.nvFail

theorem Kept.pageProgramDone {ok} (h : Kept P s) (hr : StableRoles P) (hn : StableNvm P) : Kept P (pageProgramDone ok s) := by
  unfold Machine.pageProgramDone
  split
  · exact (h.eraseDone hn).nextPage hr
  · exact .ite h ((h.pageDone hn).nextPage hr)

theorem Kept.execPageProgramDone {ok} (h : Kept P s) (hr : StableRoles P) (hn : StableNvm P) : Kept.Next P (execPageProgramDone ok s) :=
  .next (.ite (h.pageProgramDone hr hn) h)

theorem Kept.nvmErase (h : Kept P s) : Kept P (nvmErase s) := by
  unfold Machine.nvmErase
  split
  · exact h
  · exact .ite (.ite h h.upd.raiseHeath) h.upd.emit

theorem Kept.execNvmErase (h : Kept P s) : Kept.Next P (execNvmErase s) := .next (.ite h.nvmErase h)

theorem Kept.nvErase (h : Kept P s) : Kept P (nvErase s) := .ite h h.upd

theorem Kept.execNvErase (h : Kept P s) : Kept.Next P (execNvErase s) := .next (.ite h.nvErase h)

theorem Kept.recordAlways {code data} (h : Kept P s) : Kept P (s.recordAlways code data) := h.enqueue.ringPut

theorem Kept.evrClear (h : Kept P s) (hr : StableRoles P) : Kept P (evrClear s) := .ite h (h.recordAlways.upd.nextPage hr)

theorem Kept.execEvrClear (h : Kept P s) (hr : StableRoles P) : Kept.Next P (execEvrClear s) := .next (.ite (h.evrClear hr) h)

theorem Kept.evrCtrlWrite {v} (h : Kept P s) (hr : StableRoles P) : Kept P (evrCtrlWrite v s) := by
  unfold Machine.evrCtrlWrite
  extract_lets _ _ _ _ s1 s2 s3
  have h1 : Kept P s1 := h.store
  have h2 : Kept P s2 := .ite h1.upd h1
  have h3 : Kept P s3 := .ite (h2.evrClear hr) h2
  exact .ite h1 (.ite h3.nvErase h3)

theorem Kept.tokenRefill (h : Kept P s) : Kept P (tokenRefill s) := h.upd

theorem Kept.execTokenRefill (h : Kept P s) : Kept.Next P (execTokenRefill s) := .next (.ite h.tokenRefill h)

theorem Kept.evrTrig {v} (h : Kept P s) : Kept P (evrTrig v s) := h.store.raiseHeath

theorem Kept.execEvrTrig {v} (h : Kept P s) : Kept.Next P (execEvrTrig v s) := .next (.ite h.evrTrig h)

theorem Kept.cursorLoad {pos} (h : Kept P s) : Kept P (cursorLoad pos s) := by
  unfold Machine.cursorLoad
  extract_lets s1 _
  have h1 : Kept P s1 := h.wr
  exact .ite h1.upd (.ite h1.upd.emit h1.upd)

theorem Kept.execEvrCursorLoad {v} (h : Kept P s) : Kept.Next P (execEvrCursorLoad v s) := .next (.ite h.cursorLoad h)

theorem Kept.nvReadDone {bytes} (h : Kept P s) : Kept P (nvReadDone bytes s) := h.upd

theorem Kept.execNvReadDone {bytes} (h : Kept P s) : Kept.Next P (execNvReadDone bytes s) := .next (.ite h.nvReadDone h)

theorem Kept.win15 (h : Kept P s) : Kept P (win15 s) := h.cursorLoad

theorem Kept.execWin15Autoinc (h : Kept P s) : Kept.Next P (execWin15Autoinc s) := .next (.ite h.win15 h)

theorem Kept.startRun {r found} (h : Kept P s) : Kept P (s.startRun r found) := h.upd.recordAlways.upd

theorem Kept.recorderStart {dev} (h : Kept P s) : Kept P (recorderStart dev s) := by
  unfold Machine.recorderStart
  split
  · exact h.startRun.raiseHeath
  · exact .ite h.startRun h.startRun.raiseHeath

theorem Kept.execRecorderStart {dev} (h : Kept P s) : Kept.Next P (execRecorderStart dev s) := .next (.ite h.recorderStart h)

/-! ### Resets -/

theorem Kept.modHeath {side f} (h : Kept P s) (hr : StableRoles P) : Kept P (s.modHeath side f) := by
  unfold State.modHeath
  split
  · exact h.change hr
  · exact h.change hr

theorem Kept.cisternFresh (h : Kept P s) : Kept P { s with cist := { s.cist with data := [] } } :=
  ⟨h.stable, h.stable.cisternFresh h.holds⟩

theorem Kept.dropWork (h : Kept P s) (hr : StableRoles P) : Kept P s.dropWork :=
  h.cisternFresh.move hr ⟨rfl, rfl, rfl, rfl, rfl, rfl, rfl, fun _ => rfl⟩

theorem Kept.actFresh {held} (h : Kept P s) (hr : StableRoles P) : Kept P { s with act := HubCore.fresh s.act.side held } :=
  ⟨h.stable, hr.freshAct held h.holds⟩

theorem Kept.mirFresh {held} (h : Kept P s) (hr : StableRoles P) : Kept P { s with mir := HubCore.fresh s.mir.side held } :=
  ⟨h.stable, hr.freshMir held h.holds⟩

theorem Kept.freshAct (h : Kept P s) (hr : StableRoles P) : Kept P s.freshAct := by
  have hact : Kept P { (s.dropWork.modTap s.act.side fun d => { d with hold := none }) with act := HubCore.fresh s.act.side false } := by
    have hx := ((h.dropWork hr).modTap (side := s.act.side) (f := fun d => { d with hold := none }) hr).actFresh (held := false) hr
    rwa [State.modTap_act] at hx
  refine hact.move hr ⟨rfl, rfl, rfl, rfl, rfl, rfl, rfl, fun w => ?_⟩
  simp [State.freshAct, Well.store]

theorem Kept.resetAct (h : Kept P s) (hr : StableRoles P) : Kept P s.resetAct := by
  unfold State.resetAct
  extract_lets s1
  have h1 : Kept P s1 := h.trigger hr
  exact .ite h1 (.checkBypass (h1.freshAct hr))

theorem Kept.resetMir (h : Kept P s) (hr : StableRoles P) : Kept P s.resetMir := .mirFresh (h.mirrorGone hr) hr

theorem Kept.hubReset {side} (h : Kept P s) (hr : StableRoles P) : Kept P (hubReset side s) := by
  unfold Machine.hubReset
  exact .modHeath (.ite (h.resetAct hr) (h.resetMir hr)) hr

theorem Kept.execHubReset {side} (h : Kept P s) (hr : StableRoles P) : Kept.Next P (execHubReset side s) := .next (.ite h (h.hubReset hr))

theorem Kept.exchange (h : Kept P s) (hr : StableRoles P) : Kept P { s with act := s.mir, mir := s.act } :=
  ⟨h.stable, hr.exchange h.holds⟩

theorem Kept.takeRole {side} (h : Kept P s) (hr : StableRoles P) : Kept P (s.takeRole side) :=
  .checkBypass (.change (.ite h (h.exchange hr)) hr)

theorem Kept.selfTestDone {side pass} (h : Kept P s) (hr : StableRoles P) : Kept P (selfTestDone side pass s) := by
  unfold Machine.selfTestDone
  extract_lets s1 s2 src s3
  have h1 : Kept P s1 := h.changeHub hr
  have h2 : Kept P s2 := h1.changeHub hr
  have h3 : Kept P s3 := .ite h1.raiseHeath h1
  refine .ite (.ite h1 (h2.change hr).raiseHeath) ?_
  split
  · exact h3.takeRole hr
  · exact h3

theorem Kept.execSelfTestDone {side pass} (h : Kept P s) (hr : StableRoles P) : Kept.Next P (execSelfTestDone side pass s) :=
  .next (.ite (h.selfTestDone hr) h)

theorem Kept.leadFresh (h : Kept P s) (hr : StableRoles P) : Kept P s.leadFresh := h.change hr

theorem Kept.aonReset {side} (h : Kept P s) (hr : StableRoles P) : Kept P (aonReset side s) := by
  unfold Machine.aonReset
  extract_lets _ s1 s2
  have h1 : Kept P s1 := h.modHeath hr
  exact .ite ((h1.change hr).leadFresh hr) (h1.change hr)

theorem Kept.execAonReset {side} (h : Kept P s) (hr : StableRoles P) : Kept.Next P (execAonReset side s) := .next (h.aonReset hr)

theorem Kept.vaonSourceChange {side toBkup mv} (h : Kept P s) (hr : StableRoles P) : Kept P (vaonSourceChange side toBkup mv s) := by
  unfold Machine.vaonSourceChange
  extract_lets s1 s2
  have h1 : Kept P s1 := h.modHeath hr
  have h2 : Kept P s2 := h1.bump.raiseHeath
  exact .ite h2 (.ite ((h2.change hr).raiseHeath.powerFailFlush hr) (.ite h2 (h2.change hr)))

theorem Kept.execVaonSourceChange {side toBkup mv t} (h : Kept P s)
    (hr : StableRoles P) : Kept.Next P (execVaonSourceChange side toBkup mv t s) :=
  .next (.ite (h.at.vaonSourceChange hr) h)

theorem Kept.hubFault {side actCause mirCause hold} (h : Kept P s)
    (hr : StableRoles P) : Kept P (s.hubFault side actCause mirCause hold) :=
  .ite (.change (h.trigger hr) hr) (.change (h.mirrorGone hr) hr)

theorem Kept.vaonLoss {side} (h : Kept P s) (hr : StableRoles P) : Kept P (vaonLoss side s) := by
  unfold Machine.vaonLoss
  extract_lets _ s1 s2 s3
  have h1 : Kept P s1 := h.modHeath hr
  have h3 : Kept P s3 := by
    dsimp only [s3]
    exact .ite ((h1.change hr).leadFresh hr) (h1.change hr)
  exact h3.hubFault hr

theorem Kept.execVaonLoss {side} (h : Kept P s) (hr : StableRoles P) : Kept.Next P (execVaonLoss side s) := .next (.ite h (h.vaonLoss hr))

theorem Kept.execLeadHeathLoss (h : Kept P s) (hr : StableRoles P) : Kept.Next P (execLeadHeathLoss s) := .next (.ite h (h.change hr))

theorem Kept.vddHubLoss {side mv} (h : Kept P s) (hr : StableRoles P) : Kept P (vddHubLoss side mv s) :=
  .hubFault (.raiseHeath (h.modHeath hr)) hr

theorem Kept.execVddHubLoss {side mv} (h : Kept P s) (hr : StableRoles P) : Kept.Next P (execVddHubLoss side mv s) :=
  .next (.ite (h.vddHubLoss hr) h)

theorem Kept.cutSeq {w} (h : Kept P s) : Kept P (s.cutSeq w) := by
  unfold State.cutSeq
  extract_lets s1
  exact .ite h.upd.emit h.upd

theorem Kept.execVddWelLoss {w} (h : Kept P s) : Kept.Next P (execVddWelLoss w s) := .next h.cutSeq.wellAbsent.modWell

theorem Kept.dropWords {q} (h : Kept P s) : Kept P { s with cwin := s.cwin.filter q } := ⟨h.stable, h.stable.dropWords q h.holds⟩

theorem Kept.resetPage {w} (h : Kept P s) : Kept P (s.resetPage w) := by
  refine .upd h.dropWords (hmst := ?_)
  exact foldl_keeps (P := fun m : MirChan => m.mstate = s.mch.mstate) _ rfl fun m _ hm => (MirChan.push_mstate m _).trans hm

theorem Kept.welReset {w} (h : Kept P s) : Kept P (welReset w s) := h.cutSeq.wellAbsent.resetPage.modWell

theorem Kept.execWelReset {w} (h : Kept P s) : Kept.Next P (execWelReset w s) := .next h.welReset

theorem Kept.wellLinkTrained {w} (h : Kept P s) : Kept P (wellLinkTrained w s) := by
  unfold Machine.wellLinkTrained
  extract_lets s1
  have h1 : Kept P s1 := h.trainLink.modWell.idleFlits
  exact .ite h1.raiseFrom (.ite (.modWell (.rdmWindow (.foldl h1 fun ht _ => ht.echoCopy))) h1)

theorem Kept.wellLinkRetrained {w} (h : Kept P s) : Kept P (wellLinkRetrained w s) := h.modWell.idleFlits

theorem Kept.execWellLinkTrained {w} (h : Kept P s) : Kept.Next P (execWellLinkTrained w s) :=
  .next (.ite h.wellLinkTrained (.ite h.wellLinkRetrained h))

theorem Kept.execWellLinkRetrain {w lanes} (h : Kept P s) : Kept.Next P (execWellLinkRetrain w lanes s) := .next (.ite h.modWell.raise h)

theorem Kept.execWellLinkDown {w noLane} (h : Kept P s) : Kept.Next P (execWellLinkDown w noLane s) := .next (.ite h.raise.wellAbsent h)

theorem Kept.cfgReset {side} (h : Kept P s) : Kept P (cfgReset side s) := h.modHub.upd

theorem Kept.execCfgReset {side} (h : Kept P s) : Kept.Next P (execCfgReset side s) := .next h.cfgReset

/-! ### Residue failures and fences -/

theorem Kept.fence {part engine residue step} (h : Kept P s) : Kept P (s.fence part engine residue step) := by
  unfold State.fence
  extract_lets s1 before why src s2 s3
  have h2 : Kept P s2 := .dite (fun _ => h.wr.modWell) fun _ => h.wr.upd
  have h3 : Kept P s3 := h2.raiseFrom.rasIrq
  exact .dite (fun _ => .ite h3.wellAbsent h3) fun _ => h3

theorem Kept.setOnce {part b} (h : Kept P s) : Kept P (s.setOnce part b) := .dite (fun _ => h.modWell) fun _ => h.upd

theorem Kept.residueFailure {part engine cell} (h : Kept P s) : Kept P (residueFailure part engine cell s) := by
  unfold Machine.residueFailure
  extract_lets s1
  have h1 : Kept P s1 := h.bump.raiseFrom
  exact .ite h1.fence h1.setOnce

theorem Kept.execResidueFailure {part engine cell} (h : Kept P s) : Kept.Next P (execResidueFailure part engine cell s) :=
  .next (.ite h.residueFailure h)

theorem Kept.engineRelease {part v pass} (h : Kept P s) : Kept P (engineRelease part v pass s) := .foldl h fun ht _ => ht.unfence

theorem Kept.execEngineRelease {part v pass} (h : Kept P s) : Kept.Next P (execEngineRelease part v pass s) :=
  .next (.ite h.engineRelease h)

theorem Kept.uncorRead {u fixed} (h : Kept P s) : Kept P (s.uncorRead u fixed) := by
  unfold State.uncorRead
  extract_lets _ s1
  have h1 : Kept P s1 := h.uncor
  split
  · exact h1.uncorEvent
  · split
    · exact h1.uncorEvent.noticeLive
    · exact h1.uncorEvent

theorem Kept.colUncor {n} (h : Kept P s) : Kept P (s.colUncor n) := h.colAbortIf

theorem Kept.uncorrectableWord {u} (h : Kept P s) (hr : StableRoles P) : Kept P (uncorrectableWord u s) := by
  unfold Machine.uncorrectableWord
  extract_lets _ _
  refine .ite ?_ ?_
  · split
    · exact .dite (fun _ => h.uncorRead.voidAt) fun _ => h
    · exact .ite h.uncorRead.fence h
    · exact .ite h h.uncorRead.lineBad
    · exact .ite h h.uncorRead.lineBad
    · exact .ite h (h.uncor.hubFault hr)
    · exact .ite h h.uncorRead.colUncor
    · exact h.uncorRead
  · split
    · exact h.uncor.lineBad
    · exact h.uncor.lineBad
    · exact h.uncor.hubFault hr
    · exact h.uncor

theorem Kept.wordRead {u} (h : Kept P s) (hr : StableRoles P) : Kept P (wordRead u s) := by
  unfold Machine.wordRead
  extract_lets s1
  have h1 : Kept P s1 := h.plantWord
  split
  · exact h1
  · exact h1.wordFixed
  · exact h1.uncorrectableWord hr

theorem Kept.execUncorrectableWord {u} (h : Kept P s) (hr : StableRoles P) : Kept.Next P (execUncorrectableWord u s) :=
  .next (.ite (h.wordRead hr) h)

theorem Kept.releasedEvent {kind n c} (h : Kept P s) : Kept P (s.releasedEvent kind n c) := h.raise

theorem Kept.clearBit {f n} (h : Kept P s) : Kept P (s.clearBit f n) := h.wr

theorem Kept.ringAgain {c} (h : Kept P s) : Kept P (s.ringAgain c) := h.rejectRetire.completionRecordWrite.descriptorFetch

theorem Kept.masterRelease {m} (h : Kept P s) : Kept P (masterRelease m s) := by
  unfold Machine.masterRelease
  split
  · exact h.clearBit.releasedEvent.ringAgain
  · exact h.clearBit.releasedEvent.trainLink
  · exact .releasedEvent (.ite h.clearBit h.clearBit)
  · exact h.wr.releasedEvent
  · exact h

theorem Kept.execMasterRelease {m} (h : Kept P s) : Kept.Next P (execMasterRelease m s) := .next (.ite h.masterRelease h)

theorem Kept.execCoreWatchdogExpiry {side} (h : Kept P s) (hr : StableRoles P) : Kept.Next P (execCoreWatchdogExpiry side s) :=
  .next (.ite h (h.hubFault hr))

theorem Kept.execControlCoreAccessViolation {side off} (h : Kept P s)
    (hr : StableRoles P) : Kept.Next P (execControlCoreAccessViolation side off s) :=
  .next (.ite h (h.setFrozen.hubFault hr))

/-! ### Loading a template image -/

theorem Kept.tplError {c err len hdr} (h : Kept P s) : Kept P (s.tplError c err len hdr) := h.wr.raise

theorem Kept.tplCtrlWrite {v} (h : Kept P s) : Kept P (tplCtrlWrite v s) := by
  unfold Machine.tplCtrlWrite
  extract_lets s1 _ _ _ s2 s3 _ _
  have h1 : Kept P s1 := h.store
  have h2 : Kept P s2 := h1.upd.tplError
  have h3 : Kept P s3 := h1.wr.wr.wr.wrIf
  exact .ite h1 (.ite (.ite h2 h2.wr) h3.upd.hostRead)

theorem Kept.execTemplateLoad {v} (h : Kept P s) : Kept.Next P (execTemplateLoad v s) := .next (.ite h.tplCtrlWrite h)

theorem Kept.tplData {off bs err} (h : Kept P s) : Kept P (s.tplData off bs err) := by
  unfold State.tplData
  split
  · exact h
  · exact h.upd

theorem Kept.templateLoadEnd (h : Kept P s) : Kept P (templateLoadEnd s) := by
  unfold Machine.templateLoadEnd
  split
  · exact h
  · refine .ite h ?_
    extract_lets _ s1 _ s2 _ _ s3
    have h1 : Kept P s1 := h.dropReads.wr.wr
    have h3 : Kept P s3 := .ite h1.upd.upd.tplError (.ite h1.upd.setCore.wr h1.upd.tplError)
    exact h3.hold fun ht => ht.wr

theorem Kept.execTemplateLoadEnd (h : Kept P s) : Kept.Next P (execTemplateLoadEnd s) := .next (.ite h.templateLoadEnd h)

/-! ### The mirrored pair -/

theorem Kept.mirWord {off v} (h : Kept P s) : Kept P { s with mir := { s.mir with win := sput (resetWord s.build) s.mir.win off v } } :=
  ⟨h.stable, h.stable.mirWord off v h.holds⟩

/-- An update applied to the mirror is a write of one of its words or memories. -/
theorem Kept.applied {u} (h : Kept P s) : Kept P { s with mir := s.mir.apply s.build u } := by
  cases u with
  | reg off v => exact h.mirWord
  | router a bs => exact h.mirSram (.router a bs)
  | table a bs => exact h.mirSram (.table a bs)
  | core m => exact h.upd

theorem Kept.mirUpdate (h : Kept P s) : Kept P (mirUpdate s) := by
  unfold Machine.mirUpdate
  split
  · exact h
  · next n u rest _ =>
    have hu := h.applied (u := u)
    exact .emit (hu.same ⟨rfl, rfl, rfl, rfl, rfl, rfl, rfl, fun _ => rfl⟩ ⟨rfl, rfl, rfl, rfl, rfl, rfl, rfl, rfl, rfl, rfl, rfl, rfl⟩)

theorem Kept.execMirUpdate (h : Kept P s) : Kept.Next P (execMirUpdate s) := .next (.ite h.mirUpdate h)

theorem Kept.mirAck {n} (h : Kept P s) : Kept P (mirAck n s) := .ite h.upd.releaseEffects h

theorem Kept.execMirAck {useq} (h : Kept P s) : Kept.Next P (execMirAck useq s) := .next (.ite h.mirAck h)

theorem Kept.execMirBeatSend {side} (h : Kept P s) : Kept.Next P (execMirBeatSend side s) := .next (.ite h (.ite (.ite h h.emit) h.emit))

theorem Kept.mirBeatLoss {side} (h : Kept P s) (hr : StableRoles P) : Kept P (mirBeatLoss side s) :=
  .ite (.ite (h.trigger hr) h) (h.mirrorGone hr)

theorem Kept.execMirBeatLoss {side} (h : Kept P s) (hr : StableRoles P) : Kept.Next P (execMirBeatLoss side s) := .next (h.mirBeatLoss hr)

theorem Kept.sync (h : Kept P s) : Kept P { s with mir := copyHub s.build s.act s.cwin s.mir } := ⟨h.stable, h.stable.sync h.holds⟩

theorem Kept.startSync {t} (h : Kept P s) (hr : StableRoles P) : Kept P (startSync t s) :=
  .emit (.trainLink ((h.at (t := t)).sync.move hr ⟨rfl, rfl, rfl, rfl, rfl, rfl, rfl, fun _ => rfl⟩))

theorem Kept.endSync {t} (h : Kept P s) (hr : StableRoles P) : Kept P (endSync t s) := (h.at.change hr).emit.raise

theorem Kept.execMirSync {done t} (h : Kept P s) (hr : StableRoles P) : Kept.Next P (execMirSync done t s) :=
  .next (.ite (.ite (h.endSync hr) h) (.ite (h.startSync hr) h))

theorem Kept.execSync {t} (h : Kept P s) (hr : StableRoles P) : Kept.Next P (execSync t s) := .next (.ite (h.startSync hr) h)

theorem Kept.mirrorDisable (h : Kept P s) (hr : StableRoles P) : Kept P (mirrorDisable s) := h.wr.mirrorGone hr

theorem Kept.execMirrorDisable (h : Kept P s) (hr : StableRoles P) : Kept.Next P (execMirrorDisable s) :=
  .next (.ite (h.mirrorDisable hr) h)

theorem Kept.mirFetch {side space off} (h : Kept P s) : Kept P (mirFetch side space off s) := h.upd.emit

theorem Kept.execMirFetch {side space off} (h : Kept P s) : Kept.Next P (execMirFetch side space off s) := .next (.ite h.mirFetch h)

theorem Kept.mirData {side space off bad bytes} (h : Kept P s) : Kept P (mirData side space off bad bytes s) := by
  have hline : SramWrite fun k => k.putLine space off bytes := by
    unfold HubCore.putLine
    split
    · exact .router _ _
    · exact .table _ _
  exact .ite h.upd (h.upd.hubSram hline)

theorem Kept.execMirData {side space off bad bytes} (h : Kept P s) : Kept.Next P (execMirData side space off bad bytes s) :=
  .next (.ite h.mirData h)

theorem Kept.endHold {t why} (h : Kept P s) (hr : StableRoles P) : Kept P (s.endHold t why) := by
  unfold State.endHold
  split
  · exact h
  · exact .issueAll (.raise (.wr (h.modTap hr)))

theorem Kept.swapRoles {t} (h : Kept P s) (hr : StableRoles P) : Kept P (swapRoles t s) := by
  unfold Machine.swapRoles
  extract_lets s1
  have h1 : Kept P s1 := h.at
  exact .ite (h1.failoverStart hr) h1.raise

theorem Kept.execSwap {t} (h : Kept P s) (hr : StableRoles P) : Kept.Next P (execSwap t s) := .next (.ite (h.swapRoles hr) h)

theorem Kept.rejoin (h : Kept P s) (hr : StableRoles P) : Kept P (rejoin s) :=
  (h.mirFresh (held := false) hr).move hr ⟨rfl, rfl, rfl, rfl, rfl, rfl, rfl, fun _ => rfl⟩

theorem Kept.execRejoin (h : Kept P s) (hr : StableRoles P) : Kept.Next P (execRejoin s) := .next (.ite (h.rejoin hr) h)

/-- The roles change, and the Hub left behind is a copy of the new active one, or starts afresh. -/
theorem Kept.takeOver {fo} (h : Kept P s) (hr : StableRoles P) : Kept P (s.takeOver fo) := by
  have hx := (h.dropWork hr).exchange hr
  have ha : Kept P { s.dropWork with act := newActive s.mir s.act.seeding s.free, mir := s.act } :=
    hx.move hr ⟨rfl, rfl, rfl, rfl, rfl, rfl, rfl, fun _ => rfl⟩
  unfold State.takeOver
  by_cases hs : fo.swap = true
  · simp only [hs, if_true]
    exact ha.sync.move hr ⟨rfl, rfl, rfl, rfl, rfl, rfl, rfl, fun _ => rfl⟩
  · simp only [hs, if_false, Bool.false_eq_true]
    exact (ha.mirFresh (held := true) hr).move hr ⟨rfl, rfl, rfl, rfl, rfl, rfl, rfl, fun _ => rfl⟩

theorem Kept.loadsLost {l t} (h : Kept P s) : Kept P (s.loadsLost l t) := h.upd.loadEnd.templateLoadEnd

theorem Kept.colAnew {ch} (h : Kept P s) : Kept P (s.colAnew ch) := by
  unfold State.colAnew
  extract_lets _ _ s1
  have h1 : Kept P s1 := h.modChan
  exact .ite h1.colTryHeader (.ite h1.hostRead h1.markWaits)

theorem Kept.wellsAgain (h : Kept P s) : Kept P s.wellsAgain := .foldl h fun ht _ => .ite ht.modLink.trainLink ht

theorem Kept.portsAgain (h : Kept P s) : Kept P s.portsAgain := h.upd

theorem Kept.portCheck {p} (h : Kept P s) : Kept P (s.portCheck p) := .ite h.wr.raise.endRemoval.trainLink.modPort h.trainLink

theorem Kept.recordsAgain (h : Kept P s) : Kept P s.recordsAgain := .foldl h fun ht _ => .ite ht.setSteps ht

theorem Kept.phase4 (h : Kept P s) : Kept P s.phase4 := .foldl (.colAbortIf (.foldl h fun ht _ => ht.noticeLive)) fun ht _ => by
    split
    · exact ht.readyReport
    · exact ht

theorem Kept.mirrorTakeover {t fo} (h : Kept P s) (hr : StableRoles P) : Kept P (mirrorTakeover t fo s) := by
  unfold Machine.mirrorTakeover
  extract_lets s0 ev s1 s2 steps cols s3 s4 n src s5
  have h0 : Kept P s0 := h.at.endHold hr
  have h1 : Kept P s1 := (h0.takeOver hr).portsAgain.enqueue
  have h2 : Kept P s2 := h1.recordsAgain.wellsAgain.loadsLost
  have h3 : Kept P s3 := h2.foldl fun ht _ => ht.colAnew
  have h4 : Kept P s4 := h3.phase4.foldl fun ht _ => ht.portCheck
  clear_value s4 n
  have h5 : Kept P s5 := by
    dsimp only [s5]
    exact h4.upd
  exact h5.raise.checkBypass

theorem Kept.execMirrorTakeover {t} (h : Kept P s) (hr : StableRoles P) : Kept.Next P (execMirrorTakeover t s) := by
  refine .next ?_
  split
  · exact .ite h (h.mirrorTakeover hr)
  · exact h

/-! ### Step control messages -/

theorem Kept.ctlIn {p} (h : Kept P s) : Kept P (s.ctlIn p).1 := by
  unfold State.ctlIn
  split
  · next he => exact h.landCheck he
  · dsimp only
    split_ifs
    · exact h.takeLanded.staleAny
    · dsimp only
      exact h.takeLanded.bump
    · exact h.takeLanded

theorem Kept.atMaster {p f} (h : Kept P s) : Kept P (s.atMaster p f) := .ite h.ctlIn (.ite h.ctlIn.upd h.ctlIn.stalePkt)

theorem Kept.readyReportCmd {p} (h : Kept P s) : Kept P (Machine.readyReport p s) := h.atMaster

theorem Kept.execReadyReport {p} (h : Kept P s) : Kept.Next P (execReadyReport p s) := .next (.ite h.readyReportCmd h)

theorem Kept.progressBeacon {p} (h : Kept P s) : Kept P (progressBeacon p s) := h.atMaster

theorem Kept.execProgressBeacon {p} (h : Kept P s) : Kept.Next P (execProgressBeacon p s) := .next (.ite h.progressBeacon h)

theorem Kept.localDone {p} (h : Kept P s) : Kept P (localDone p s) := h.atMaster

theorem Kept.execLocalDone {p} (h : Kept P s) : Kept.Next P (execLocalDone p s) := .next (.ite h.localDone h)

theorem Kept.abortNotice {p} (h : Kept P s) : Kept P (abortNotice p s) := by
  unfold Machine.abortNotice
  extract_lets r src s1 c
  have hr : Kept P r.1 := h.ctlIn
  have h1 : Kept P s1 := .ite hr.upd hr
  refine .ite hr ?_
  split
  · exact h1.abortLive
  · exact .ite h1.lateNotice (.ite h1 h1.stalePkt)

theorem Kept.execAbortNotice {p} (h : Kept P s) : Kept.Next P (execAbortNotice p s) := .next (.ite h.abortNotice h)

theorem Kept.localFinish {c} (h : Kept P s) : Kept P (localFinish c s) := by
  unfold Machine.localFinish
  split
  · exact .ite h.modStep.sendMaster h
  · exact h

theorem Kept.execLocalFinish {c} (h : Kept P s) : Kept.Next P (execLocalFinish c s) := .next (.ite h.localFinish h)

/-! ### The host side of a stack -/

theorem Kept.targetRows {w ch bank row} (h : Kept P s) : Kept P (s.targetRows w ch bank row) := by
  unfold State.targetRows
  extract_lets _ s1 _ s2
  have h1 : Kept P s1 := h.modWell.bump
  have h2 : Kept P s2 := h.modWell
  exact .ite (.ite h1 h1.raiseFrom) (.foldl h2 fun ht _ => ht.emit.bump)

theorem Kept.rowServed {w ch bank row} (h : Kept P s) : Kept P (s.rowServed w ch bank row) := h.modWell

theorem Kept.hostEnergy {w fj} (h : Kept P s) : Kept P (s.hostEnergy w fj) := h.modWell

theorem Kept.mergeRead {w x} (h : Kept P s) : Kept P (s.mergeRead w x) := by
  unfold State.mergeRead
  extract_lets _ s1
  have h1 : Kept P s1 := by
    dsimp only [s1]
    split
    · exact h
    · exact h.correctedWord
    · exact h.bump
    · exact h.bump.bump
  exact h1.stackWrite

theorem Kept.keepBad {w x} (h : Kept P s) : Kept P (s.keepBad w x) := h.upd.stackSet

theorem Kept.hostStackWrite {w a bs} (h : Kept P s) : Kept P (s.hostStackWrite w a bs) :=
  .foldl (.stackWrite (.foldl h fun ht _ => ht.mergeRead)) fun ht _ => ht.keepBad

theorem Kept.hostStackRead {w a0} (h : Kept P s) : Kept P (s.hostStackRead w a0) := .emit (.foldl h.countFixed fun ht _ => by
    extract_lets s1
    have h1 : Kept P s1 := ht.bump
    exact .ite h1.bump h1)

theorem Kept.hostEffect {w cmd} (h : Kept P s) : Kept P (s.hostEffect w cmd) := by
  unfold State.hostEffect
  split
  · exact h.hostEnergy.activated.modWell
  · exact h.modWell
  · exact h.hostEnergy.hostStackRead
  · exact .ite h.hostEnergy.hostStackWrite h
  · exact h

theorem Kept.hostWait {w} (h : Kept P s) : Kept P (s.hostWait w) := .ite h h.upd.wr

theorem Kept.hostCommand {w cmd} (h : Kept P s) : Kept P (hostCommand w cmd s) := h.emit.hostEffect.modWell.hostWait

theorem Kept.hostRefresh {w ch bank} (h : Kept P s) : Kept P (hostRefresh w ch bank s) := by
  unfold Machine.hostRefresh
  extract_lets _ s1 s2 s3 s4
  have h2 : Kept P s2 := .emit (.ite h.upd.emit h.upd)
  have h3 : Kept P s3 := .ite h2.emit h2
  have h4 : Kept P s4 := .ite h3.emit h3
  exact h4.modWell.wrIf

theorem Kept.execHostRefresh {w ch bank} (h : Kept P s) : Kept.Next P (execHostRefresh w ch bank s) := .next h.hostRefresh

theorem Kept.refreshTakeover {w late} (h : Kept P s) : Kept P (refreshTakeover w late s) := h.modWell.upd.wr.bump.raiseFrom.emit

theorem Kept.execRefreshTakeover {w late} (h : Kept P s) : Kept.Next P (execRefreshTakeover w late s) := .next (.ite h.refreshTakeover h)

theorem Kept.pcapReached {w} (h : Kept P s) : Kept P (pcapReached w s) := h.wr.bump

theorem Kept.execPcapReached {w} (h : Kept P s) : Kept.Next P (execPcapReached w s) := .next (.ite h.pcapReached h)

theorem Kept.windowEnd {w} (h : Kept P s) : Kept P (s.windowEnd w) := by
  unfold State.windowEnd
  extract_lets _ _ s1 s2 s3
  have h1 : Kept P s1 := h.addPair
  have h2 : Kept P s2 := h1.wrIf.wrIf
  have h3 : Kept P s3 := .ite h2.raiseFrom h2
  exact h3.modWell

/-! ### What a write of each register does beyond the access codes of R7 -/

theorem Kept.rngKeep {on off v c} (h : Kept P s) : Kept P (s.rngKeep on off v c) := .ite h.raise h.store

theorem Kept.rngWrite {off v} (h : Kept P s) : Kept P (s.rngWrite off v) := by
  unfold State.rngWrite
  refine .ite (.ite h.eqCtrlWrite (.ite h.eqHeadWrite h.store)) ?_
  extract_lets _
  split
  · exact h.ctxCtrlWrite
  · exact h.doorbell
  · exact h.cqHeadWrite
  · exact h.rngKeep
  · exact h.store

theorem Kept.rteWrite {off v} (h : Kept P s) : Kept P (s.rteWrite off v) := by
  unfold State.rteWrite
  refine .ite (.ite h.loadCtrlWrite h.store) ?_
  refine .ite h.store ?_
  extract_lets _
  split
  · exact h.rteCfgWrite
  · exact h.swapCtrlWrite
  · exact h.store

theorem Kept.sfuWrite {off v} (h : Kept P s) : Kept P (s.sfuWrite off v) := .ite h.store (.ite h.raise h.store)

theorem Kept.admWrite {off v} (h : Kept P s) : Kept P (s.admWrite off v) := .ite h.store (.ite h.refuse (.ite h.store h.store))

theorem Kept.cstWrite {off v} (h : Kept P s) : Kept P (s.cstWrite off v) :=
  .ite h.cstEnable (.ite (.ite h.refuse (.ite h.noteLow.store.noteLow h.store)) h.store)

theorem Kept.pmpWrite {port off v} (h : Kept P s) : Kept P (s.pmpWrite port off v) := by
  unfold State.pmpWrite
  extract_lets _
  refine .ite h.qCtrlWrite ?_
  refine .ite (.ite h.refuse h.store.pumpWaiting) ?_
  split
  · exact h.store
  · exact .ite h.refuse h.store
  · exact .ite h.refuse h.store
  · exact h.lnkCtrlWrite
  · exact h.store

theorem Kept.cmbWrite {off v} (h : Kept P s) : Kept P (s.cmbWrite off v) := .ite h.store (.ite h.refuse h.store.setCore)

theorem Kept.welWrite {off v} (h : Kept P s) : Kept P (s.welWrite off v) := by
  unfold State.welWrite
  extract_lets w r c s1
  have h1 : Kept P s1 := h.store
  clear_value r
  by_cases hr : r < 0x1000
  · rw [if_pos hr]
    split
    · exact Kept.engineRelease h.upd
    all_goals exact h.store
  · rw [if_neg hr]
    exact .ite h.raiseFrom h1

theorem Kept.colWrite {off v} (h : Kept P s) : Kept P (s.colWrite off v) := by
  unfold State.colWrite
  refine .ite (.ite h.refuse h.store) ?_
  refine .ite h.store ?_
  refine .ite h.store ?_
  extract_lets _
  split
  · exact h.colChCtrlWrite
  · exact .ite h.refuse h.store
  · exact h.store

theorem Kept.ctxWrite {off v} (h : Kept P s) : Kept P (s.ctxWrite off v) := by
  unfold State.ctxWrite
  extract_lets c take
  have htake : ∀ v bad, Kept P (take v bad) := fun _ _ => .ite h.raise h.store
  clear_value take
  refine .ite h.store (.ite (.ite h.tplCtrlWrite h.store) (.ite h.store ?_))
  split
  · exact htake _ _
  · exact htake _ _
  · exact h.store
  · exact htake _ _
  · exact htake _ _
  · exact htake _ _
  · exact h.store

theorem Kept.svcWrite {off v} (h : Kept P s) : Kept P (s.svcWrite off v) := by
  refine .ite h.svcIdWrite (.ite h.svcCtrlWrite (.ite h.svcBypWrite ?_))
  exact .ite (.ite h.refuse h.store) (.ite (.ite h.refuse h.store) (.ite h.svcPortWrite h.store))

theorem Kept.releaseMasters {l} (h : Kept P s) : Kept P (s.releaseMasters l) := .foldl h fun ht _ => .ite ht.masterRelease ht

theorem Kept.rasWrite {off v} (h : Kept P s) : Kept P (s.rasWrite off v) := by
  have hfreeze {l} : Kept P (s.releaseMasters l) := h.releaseMasters
  exact .ite h.store (.ite h.upd.engineRelease (.ite hfreeze (.ite hfreeze (.ite hfreeze (.ite hfreeze (.ite h.store h.store))))))

theorem Kept.evrWrite {off v} (h : Kept P s) (hr : StableRoles P) : Kept P (s.evrWrite off v) :=
  .ite (h.evrCtrlWrite hr) (.ite h.store (.ite h.evrTrig (.ite h.cursorLoad (.ite h.store (.ite h.raiseHeath h.store)))))

theorem Kept.mirCtrlWrite {v} (h : Kept P s) (hr : StableRoles P) : Kept P (mirCtrlWrite v s) := by
  unfold Machine.mirCtrlWrite
  extract_lets _ s1 s2 s3 s4
  have h1 : Kept P s1 := h.store
  have h2 : Kept P s2 := .ite (h1.mirrorGone hr) h1
  have h3 : Kept P s3 := .ite (h2.rejoin hr) h2
  have h4 : Kept P s4 := .ite (h3.startSync hr) h3
  exact .ite (h4.swapRoles hr) h4

theorem Kept.tellWells {off} (h : Kept P s) : Kept P (s.tellWells off) := .foldl h fun ht _ => ht.emit

theorem Kept.storeTell {off v} (h : Kept P s) : Kept P (s.storeTell off v) := by
  unfold State.storeTell
  extract_lets s1
  have h1 : Kept P s1 := h.store
  exact .ite h1 h1.tellWells

theorem Kept.hthWrite {off v} (h : Kept P s) : Kept P (s.hthWrite off v) :=
  .ite h.store (.ite h.storeTell (.ite h.storeTell (.ite h.storeTell (.ite h.store (.ite h.store (.ite h.store (.ite h.store h.store)))))))

theorem Kept.dbgWrite {port off v} (h : Kept P s) : Kept P (s.dbgWrite port off v) := by
  unfold State.dbgWrite
  refine .ite ?_ h.store
  split
  · exact h.raise
  · exact .ite h.raise h.wr

theorem Kept.tckWrite {off v} (h : Kept P s) : Kept P (s.tckWrite off v) := .ite h.tckCtrlWrite (.ite h.tckPeriodWrite h.store)

theorem Kept.regWrite {port off v} (h : Kept P s) (hr : StableRoles P) : Kept P (regWrite port off v s) := by
  unfold Machine.regWrite
  split
  · exact h.tckWrite
  · exact h.rngWrite
  · exact h.rteWrite
  · exact h.sfuWrite
  · exact .ite h.admWrite h.cstWrite
  · exact h.pmpWrite
  · exact h.cmbWrite
  · exact h.welWrite
  · exact h.welWrite
  · exact h.welWrite
  · exact h.colWrite
  · exact h.ctxWrite
  · exact h.svcWrite
  · exact h.rasWrite
  · exact h.evrWrite hr
  · exact .ite (h.mirCtrlWrite hr) h.store
  · exact .ite h.nseCtrlWrite h.store
  · exact h.hthWrite
  · exact h.dbgWrite
  · exact h.store

theorem Kept.pairWrite {port lo off hi} (h : Kept P s) (hr : StableRoles P) : Kept P (pairWrite port lo off hi s) := by
  unfold Machine.pairWrite
  extract_lets put same c c' m
  have hput : Kept P (put s) := by
    dsimp only [put]
    cases lo with
    | none => exact h.regWrite hr
    | some l => exact (h.regWrite hr).regWrite hr
  refine .ite (.ite h.raise hput) (.ite (.ite h.raise hput) (.ite (.ite h.raise hput) (.ite ?_ hput)))
  cases lo with
  | none => exact h.svcAbsentWrite
  | some l => exact h.svcAbsentWrite.svcAbsentWrite

theorem Kept.dropLo {port off} (h : Kept P s) : Kept P (s.dropLo port off) := h.upd

theorem Kept.accessWrite {port off v} (h : Kept P s) (hr : StableRoles P) : Kept P (accessWrite port off v s) :=
  .ite h.dropLo.upd (.ite (h.dropLo.pairWrite hr) (h.regWrite hr))

/-! ### Register accesses -/

theorem Kept.putSide {side off v} (h : Kept P s) : Kept P (s.putSide side off v) := .ite h.setWord h.mirWord

theorem Kept.clearRead {side off} (h : Kept P s) : Kept P (s.clearRead side off) := by
  unfold State.clearRead
  refine .ite h.upd ?_
  refine .ite h.upd ?_
  refine .ite h.upd ?_
  refine .ite h.upd ?_
  split
  · exact h
  · exact .ite h h.putSide

theorem Kept.readEffect {port side off} (h : Kept P s) : Kept P (s.readEffect port side off) := by
  unfold State.readEffect
  extract_lets s1 s2
  have h1 : Kept P s1 := .ite h.modHub (.ite h.modHub h)
  have h2 : Kept P s2 := .ite h1 h1.clearRead
  exact .ite h2.win15 h2

theorem Kept.mirrorWrite {port off v} (h : Kept P s) (hr : StableRoles P) : Kept P (mirrorWrite port off v s) := by
  unfold Machine.mirrorWrite
  refine .ite (h.regWrite hr) ?_
  refine .ite (.ite h.putSide h) ?_
  refine .ite ?_ h
  split
  · exact h.raise
  · exact .ite h.raise h.putSide

theorem Kept.activeWrite {port off v} (h : Kept P s) (hr : StableRoles P) : Kept P (activeWrite port off v s) := by
  unfold Machine.activeWrite
  split
  · exact h.emit.accessWrite hr
  · exact h.accessWrite hr

theorem Kept.writeReady {side before} (h : Kept P s) : Kept P (s.writeReady side before) := .ite h.emit (h.hold fun ht => ht.emit)

theorem Kept.configWrite {side off v} (h : Kept P s) (hr : StableRoles P) : Kept P (configWrite side off v s) :=
  .ite (.ite h.upd (.writeReady (h.activeWrite hr))) (.ite h.emit (.emit (h.mirrorWrite hr)))

theorem Kept.configRead {side off} (h : Kept P s) : Kept P (configRead side off s) := h.readEffect.emit

theorem Kept.configAccess {side wr off0 v} (h : Kept P s) (hr : StableRoles P) : Kept P (configAccess side wr off0 v s) :=
  .ite h.emit (.ite (h.configWrite hr) h.configRead)

theorem Kept.execConfigAccess {side wr off v} (h : Kept P s) (hr : StableRoles P) : Kept.Next P (execConfigAccess side wr off v s) :=
  .next (.ite (h.configAccess hr) h)

theorem Kept.sidebandTimeout {side} (h : Kept P s) : Kept P (sidebandTimeout side s) := h.upd.emit

theorem Kept.execSidebandTimeout {side} (h : Kept P s) : Kept.Next P (execSidebandTimeout side s) := .next (.ite h.sidebandTimeout h)

theorem Kept.execRegisterWrite {off v} (h : Kept P s) (hr : StableRoles P) : Kept.Next P (execRegisterWrite off v s) :=
  .next (.ite (h.activeWrite hr) h)

theorem Kept.execSvcAbsentClear {hi v} (h : Kept P s) (hr : StableRoles P) : Kept.Next P (execSvcAbsentClear hi v s) :=
  .next (.ite (h.accessWrite hr) h)

end Sys2Proof.Machine
end

section
/-!
SUPPORT. Stable properties are kept by issue, reports, scrub, arbiters, debug ports and the Host Port.
-/

namespace Sys2Proof.Machine

open Sys2Proof

-- one theorem after the other: a thread for each of so many short ones does not fit the memory of the check
set_option Elab.async false

variable {P : State → Prop} {s t : State}

/-! ### Issue -/

theorem Kept.issueHost {c st e} (h : Kept P s) : Kept P (s.issueHost c st e) := by
  unfold State.issueHost
  split
  · exact h
  · exact .ite h h.upd.retryLanded

theorem Kept.formTile {w o q done} (h : Kept P s) : Kept P (s.formTile w o q done) := by
  rw [show @State.formTile = _ by delta State.formTile; rfl]
  extract_lets es t s1
  have h1 : Kept P s1 := by
    dsimp only [s1]
    exact h.modWell
  split
  · next he => exact h1.dirRead he
  · next s2 d he =>
    have h2 : Kept P s2 := h1.dirRead he
    exact .retryLanded (.wellGrant h2.modWell)

theorem Kept.issueWell {w c st e} (h : Kept P s) : Kept P (s.issueWell w c st e) := by
  unfold State.issueWell
  split
  · exact .ite h.formTile h
  · exact h

theorem Kept.issueTile {home c e} (h : Kept P s) : Kept P (issueTile home c e s) := by
  unfold Machine.issueTile
  split
  · exact h
  · refine .ite h ?_
    refine .ite h.issueHost ?_
    split
    · exact h.issueWell
    · exact h

theorem Kept.execIssueTile {home c e} (h : Kept P s) : Kept.Next P (execIssueTile home c e s) := .next (.ite h.issueTile h)

theorem Kept.partialTile {w} (h : Kept P s) : Kept P (partialTile w s) := by
  unfold Machine.partialTile
  refine .ite h ?_
  split
  · exact h
  · split
    · exact h
    · exact h.bump.formTile

theorem Kept.execPartialTile {w} (h : Kept P s) : Kept.Next P (execPartialTile w s) := .next (.ite h.partialTile h)

theorem Kept.handOut {sl src t} (h : Kept P s) : Kept P (s.handOut sl src t) := h.upd.upd.bump.emit.emit

theorem Kept.emptyTake {sl c} (h : Kept P s) : Kept P (s.emptyTake sl c) := h.upd.bump.emit.emit

theorem Kept.take {sl src c} (h : Kept P s) : Kept P (take sl src c s) := by
  unfold Machine.take
  split
  · exact h.handOut
  · exact h.emptyTake

theorem Kept.execTake {sl src c} (h : Kept P s) : Kept.Next P (execTake sl src c s) := .next (.ite h.take h)

theorem Kept.anyContextTake {sl src} (h : Kept P s) : Kept P (anyContextTake sl src s) := by
  unfold Machine.anyContextTake
  split
  · exact h.emptyTake
  · split
    · exact h.emptyTake
    · exact h.upd.handOut

theorem Kept.execAnyContextTake {sl src} (h : Kept P s) : Kept.Next P (execAnyContextTake sl src s) := .next (.ite h.anyContextTake h)

theorem Kept.hostReturn {t x} (h : Kept P s) : Kept P (s.hostReturn t x) := h.satHub.send

theorem Kept.releaseCopy {t j x} (h : Kept P s) : Kept P (s.releaseCopy t j x) := by
  unfold State.releaseCopy
  extract_lets _ _ _ s1 _ s2
  have h2 : Kept P s2 := by
    dsimp only [s2]
    exact .ite h.upd.progress h.upd
  refine .ite h2.release ?_
  split
  · exact h2.hostReturn
  · exact h2

theorem Kept.releaseWord {w} (h : Kept P s) : Kept P (releaseWord w s) := by
  unfold Machine.releaseWord
  extract_lets _ s1
  have h1 : Kept P s1 := h.release
  refine .ite h.bump.raise ?_
  split
  · exact h1
  · split
    · exact h1.releaseCopy
    · exact h1

theorem Kept.execReleaseWord {w} (h : Kept P s) : Kept.Next P (execReleaseWord w s) := .next (.ite h.releaseWord h)

theorem Kept.tileWeightWrite {n j dw} (h : Kept P s) : Kept P (tileWeightWrite n j dw s) := by
  unfold Machine.tileWeightWrite
  split
  · exact h.emit
  · exact h.upd.emit

theorem Kept.execTileWeightWrite {n j dw} (h : Kept P s) : Kept.Next P (execTileWeightWrite n j dw s) := .next (.ite h.tileWeightWrite h)

theorem Kept.withdrawTake {sl slot} (h : Kept P s) : Kept P (s.withdrawTake sl slot) := by
  unfold State.withdrawTake
  extract_lets s1 _
  have h1 : Kept P s1 := h.raise
  split
  · exact h1
  · exact .ite h1.releaseAll.upd h1.upd

theorem Kept.sliceReset {sl} (h : Kept P s) : Kept P (sliceReset sl s) := by
  unfold Machine.sliceReset
  split
  · exact h
  · extract_lets _ _ _ s1
    exact .ite (.foldl h.upd fun ht _ => ht.withdrawTake) h.upd

theorem Kept.execSliceReset {sl} (h : Kept P s) : Kept.Next P (execSliceReset sl s) := .next (.ite h.sliceReset h)

theorem Kept.hpRstRelease {sl} (h : Kept P s) : Kept P (hpRstRelease sl s) := by
  unfold Machine.hpRstRelease
  split
  · exact h
  · exact .ite h.upd.emit.issueAll h

theorem Kept.execHpRstRelease {sl} (h : Kept P s) : Kept.Next P (execHpRstRelease sl s) := .next (.ite h.hpRstRelease h)

theorem Kept.homesMoved (h : Kept P s) : Kept P s.homesMoved := by
  unfold State.homesMoved
  extract_lets _ _ s1 s2 s3 s4
  have h2 : Kept P s2 := .foldl h.upd fun ht _ => ht.modWell
  have h3 : Kept P s3 := .foldl h2 fun ht _ => ht.wellPump
  have h4 : Kept P s4 := .ite h3.retryLanded h3
  exact .foldl h4 fun ht _ => ht.wellReports

theorem Kept.execDispatch {p} (h : Kept P s) : Kept.Next P (execDispatch p s) := .next (.ite h.dispatch.homesMoved h)

theorem Kept.execEod {p} (h : Kept P s) : Kept.Next P (execEod p s) := .next (.ite h.eod.homesMoved h)

/-! ### What a Hub and its Wells exchange beside copies -/

theorem Kept.scoreLogits {w p} (h : Kept P s) : Kept P (scoreLogits w p s) := by
  unfold Machine.scoreLogits
  extract_lets s1
  have h1 : Kept P s1 := h.takeLanded
  refine .ite h1 ?_
  split
  · exact h1.stalePkt
  · split
    · exact h1.freezeWell
    · split
      · exact h1.freezeWell
      · exact h1.modTok.front.progress

theorem Kept.execScoreLogits {w p} (h : Kept P s) : Kept.Next P (execScoreLogits w p s) := .next (.ite h.scoreLogits h)

theorem Kept.ledgerStore {w p} (h : Kept P s) : Kept P (s.ledgerStore w p) := h.writeDram.modAtt

theorem Kept.ledgerFetch {w p} (h : Kept P s) : Kept P (s.ledgerFetch w p) := by
  unfold State.ledgerFetch
  dsimp only
  split
  · next he => exact h.touch.fst he
  · next s1 he =>
    have h1 : Kept P s1 := h.touch.fst he
    exact h1.accDram.landHere

theorem Kept.ledgerData {w p} (h : Kept P s) : Kept P (ledgerData w p s) := by
  unfold Machine.ledgerData
  extract_lets _ s1 _ _
  have h1 : Kept P s1 := h.takeLanded
  refine .ite h1 ?_
  split
  · exact h1.stalePkt
  · split
    · exact h1.freezeWell
    · exact h1.modAtt.modTok.progress

theorem Kept.execLedgerData {w p} (h : Kept P s) : Kept.Next P (execLedgerData w p s) := .next (.ite h.ledgerData h)

theorem Kept.wellReport {w p} (h : Kept P s) : Kept P (wellReport w p s) := by
  unfold Machine.wellReport
  extract_lets _ s1
  have h1 : Kept P s1 := h.takeLanded
  refine .ite h1 ?_
  split
  · exact h1.stalePkt
  · split
    · exact h1.progress
    · exact h1.modAtt
    · exact .ite h1.voidLedger h1
    · exact h1

theorem Kept.execWellReport {w p} (h : Kept P s) : Kept.Next P (execWellReport w p s) := .next (.ite h.wellReport h)

/-! ### Housekeeping collectives -/

theorem Kept.hkSend {kind tick bs} (h : Kept P s) : Kept P (s.hkSend kind tick bs) := by
  unfold State.hkSend
  split
  · exact h
  · exact h.send

theorem Kept.hkSlowest {k} (h : Kept P s) : Kept P (s.hkSlowest k) := by
  unfold State.hkSlowest
  split
  · split
    · exact h
    · exact h.setWord
  · exact h.upd.setWord

theorem Kept.hkRollup {k} (h : Kept P s) : Kept P (s.hkRollup k) := .ite h h.upd.hostWrite.hostWrite

theorem Kept.hkEnd {k} (h : Kept P s) : Kept P (s.hkEnd k) := .upd (.hkRollup (.hkSlowest (.foldl h fun ht _ => ht.bump.raise)))

theorem Kept.hkClose (h : Kept P s) : Kept P (hkClose s) := .foldl h fun ht _ => ht.hkEnd

theorem Kept.execHkClose (h : Kept P s) : Kept.Next P (execHkClose s) := .next (.ite h.hkClose h)

theorem Kept.hkStart (h : Kept P s) : Kept P (hkStart s) := .ite h.upd.hkSend h.hkSend

theorem Kept.execHkStart (h : Kept P s) : Kept.Next P (execHkStart s) := .next (.ite h.hkStart h)

theorem Kept.hkData {p} (h : Kept P s) : Kept P (hkData p s) := by
  unfold Machine.hkData
  extract_lets s1 _ _ _ _ _
  have h1 : Kept P s1 := h.takeLanded
  exact .ite h1.bump (.ite h1.upd (.ite h1.bump (.ite h1.upd (.ite h1.upd h1.bump))))

theorem Kept.execHkData {p} (h : Kept P s) : Kept.Next P (execHkData p s) := .next (.ite (h.checked fun ht => ht.hkData) h)

/-! ### Patrol scrub -/

theorem Kept.scrubBad {w x} (h : Kept P s) : Kept P (s.scrubBad w x) := h.bump.uncor.raiseFrom.voidAt

theorem Kept.scrubGood {w x} (h : Kept P s) : Kept P (s.scrubGood w x) := h.bump.correctedWord.stackWrite

theorem Kept.scrubBurst {w addr found} (h : Kept P s) : Kept P (s.scrubBurst w addr found) := by
  unfold State.scrubBurst
  extract_lets _ _ s1 _ _ s2
  have h1 : Kept P s1 := .foldl h.modWell fun ht _ => ht.stackSet
  have h2 : Kept P s2 := .ite h1 h1.modWell
  exact .foldl (.foldl h2 fun ht _ => ht.scrubGood) fun ht _ => ht.scrubBad

theorem Kept.writeBack {u} (h : Kept P s) : Kept P (s.writeBack u) := by
  unfold State.writeBack
  dsimp only
  split
  · exact h.hubSram (.table _ _)
  · exact h.hubSram (.router _ _)
  · exact h

theorem Kept.sramLost {u} (h : Kept P s) (hr : StableRoles P) : Kept P (s.sramLost u) := by
  unfold State.sramLost
  split
  · exact .ite h h.lineBad
  · exact .ite h h.lineBad
  · exact .ite h.fence h
  · exact .ite h (h.hubFault hr)
  · exact h

theorem Kept.sramScrub {u} (h : Kept P s) (hr : StableRoles P) : Kept P (sramScrub u s) := by
  unfold Machine.sramScrub
  extract_lets s1
  have h1 : Kept P s1 := h.plantWord
  split
  · exact h1
  · exact h1.bump.wordFixed.writeBack
  · exact h1.bump.uncor.raiseFrom.sramLost hr

theorem Kept.execSramScrub {part addr read} (h : Kept P s) (hr : StableRoles P) : Kept.Next P (execSramScrub part addr read s) :=
  .next (.ite (h.sramScrub hr) h)

theorem Kept.setHeathCap {w cap} (h : Kept P s) : Kept P (s.setHeathCap w cap) := .ite h.wrIf h.wr.wrIf.emit

theorem Kept.heatEvent {w old t limit crit} (h : Kept P s) : Kept P (s.heatEvent w old t limit crit) := .ite h.raiseHeath h

theorem Kept.tempOne {w r} (h : Kept P s) : Kept P (s.tempOne w r) := by
  unfold State.tempOne
  split
  · extract_lets _ _ s1 s2 _ s3
    have h1 : Kept P s1 := h.modWell.wrIf.wrIf
    have h2 : Kept P s2 := h1.setHeathCap
    have h3 : Kept P s3 := h2.heatEvent.heatEvent
    exact .ite h3.rasIrq h3
  · extract_lets _ s1
    have h1 : Kept P s1 := h.modWell
    exact .ite h1.wrIf.setHeathCap.raiseHeath h1

theorem Kept.tempSample {readings} (h : Kept P s) : Kept P (tempSample readings s) := .foldl h fun ht _ => ht.tempOne

theorem Kept.execTempSample {readings} (h : Kept P s) : Kept.Next P (execTempSample readings s) := .next (.ite h.tempSample h)

theorem Kept.telemetrySample {main bkup hubA hubB temps} (h : Kept P s)
    (hr : StableRoles P) : Kept P (telemetrySample main bkup hubA hubB temps s) := by
  unfold Machine.telemetrySample
  extract_lets s1 _ _ s2 s3
  have h1 : Kept P s1 := h.wr.wr
  have h3 : Kept P s3 := .foldl (h1.change hr) fun ht _ => by
    split
    · exact ht.wrIf.wrIf
    · exact ht
  exact .ite h3.hkSend h3

theorem Kept.execTelemetrySample {main bkup hubA hubB temps} (h : Kept P s) (hr : StableRoles P) :
    Kept.Next P (execTelemetrySample main bkup hubA hubB temps s) :=
  .next (.ite (h.telemetrySample hr) h)

/-! ### The channel arbiters of a Well -/

theorem Kept.dramRun {w x2} (h : Kept P s) : Kept P (s.dramRun w x2) := by
  unfold State.dramRun
  split
  · exact h.readIndex.wellPump.wellReports
  · exact h.ledgerStore
  · exact h.ledgerFetch
  · exact h.endTile
  · exact h.scrubBurst
  · exact h.targetRows

theorem Kept.dramServe {n w} (h : Kept P s) : Kept P (State.dramServe n w s) := by
  induction n generalizing s with
  | zero => exact h
  | succ n ih =>
    unfold State.dramServe
    split
    · exact h
    · exact ih h.modWell.dramRun

theorem Kept.dramCount {w} (h : Kept P s) : Kept P (s.dramCount w) := by
  unfold State.dramCount
  exact .modWell (.foldl h fun ht _ => ht.bump)

theorem Kept.dramPump {w} (h : Kept P s) : Kept P (s.dramPump w) := h.dramServe.dramCount.wellReports

theorem Kept.dramAsk {w y} (h : Kept P s) : Kept P (s.dramAsk w y) := h.modWell.dramPump

theorem Kept.stepOpen {w p} (h : Kept P s) : Kept P (stepOpen w p s) := .ite h (.ite h.openStep.dramAsk h.openStep.wellPump.wellReports)

theorem Kept.execStepOpen {w p} (h : Kept P s) : Kept.Next P (execStepOpen w p s) := .next (.ite h.stepOpen h)

theorem Kept.ledgerWrite {w p} (h : Kept P s) : Kept P (ledgerWrite w p s) := by
  unfold Machine.ledgerWrite
  split
  · exact h.stalePkt
  · exact h.dramAsk

theorem Kept.execLedgerWrite {w p} (h : Kept P s) : Kept.Next P (execLedgerWrite w p s) := .next (.ite h.ledgerWrite h)

theorem Kept.ledgerRead {w p} (h : Kept P s) : Kept P (ledgerRead w p s) := by
  unfold Machine.ledgerRead
  split
  · exact h.stalePkt
  · exact h.dramAsk

theorem Kept.execLedgerRead {w p} (h : Kept P s) : Kept.Next P (execLedgerRead w p s) := .next (.ite h.ledgerRead h)

theorem Kept.wellTileComplete {w cycles} (h : Kept P s) : Kept P (wellTileComplete w cycles s) := .ite h h.dramAsk

theorem Kept.execWellTileComplete {w cycles} (h : Kept P s) : Kept.Next P (execWellTileComplete w cycles s) :=
  .next (.ite h.wellTileComplete h)

theorem Kept.dramScrub {w addr found} (h : Kept P s) : Kept P (dramScrub w addr found s) := h.dramAsk

theorem Kept.execDramScrub {w addr found} (h : Kept P s) : Kept.Next P (execDramScrub w addr found s) := .next (.ite h.dramScrub h)

theorem Kept.rdmTrigger {w ch bank row} (h : Kept P s) : Kept P (rdmTrigger w ch bank row s) := h.rowServed.dramAsk

theorem Kept.execRdmTrigger {w ch bank row} (h : Kept P s) : Kept.Next P (execRdmTrigger w ch bank row s) := .next (.ite h.rdmTrigger h)

theorem Kept.execRdmWindowEnd {w} (h : Kept P s) : Kept.Next P (execRdmWindowEnd w s) := .next h.rdmWindow.dramPump

theorem Kept.execHostCommand {w cmd} (h : Kept P s) : Kept.Next P (execHostCommand w cmd s) := .next h.hostCommand.dramPump

theorem Kept.pcapWindowEnd {w} (h : Kept P s) : Kept P (pcapWindowEnd w s) := h.windowEnd.dramPump

theorem Kept.execPcapWindowEnd {w} (h : Kept P s) : Kept.Next P (execPcapWindowEnd w s) := .next (.ite h.pcapWindowEnd h)

/-! ### The debug ports of the two Hub macros -/

theorem Kept.setIr {side code} (h : Kept P s) (hr : StableRoles P) : Kept P (s.setIr side code) := h.modTap hr

theorem Kept.idcode {side} (h : Kept P s) (hr : StableRoles P) : Kept P (idcode side s) := .emit (h.setIr hr)

theorem Kept.execIdcode {side} (h : Kept P s) (hr : StableRoles P) : Kept.Next P (execIdcode side s) := .next (.ite h (h.idcode hr))

theorem Kept.tapBypass {side code} (h : Kept P s) (hr : StableRoles P) : Kept P (tapBypass side code s) := h.setIr hr

theorem Kept.execTapBypass {side code} (h : Kept P s) (hr : StableRoles P) : Kept.Next P (execTapBypass side code s) :=
  .next (.ite h (h.tapBypass hr))

theorem Kept.countRegacc {side} (h : Kept P s) : Kept P (s.countRegacc side) := .ite h h.putSide

theorem Kept.regaccWrite {side off v} (h : Kept P s) (hr : StableRoles P) : Kept P (regaccWrite side off v s) :=
  .ite (.ite h (h.activeWrite hr)) (.ite h (h.mirrorWrite hr))

theorem Kept.regacc {side wr off0 v} (h : Kept P s) (hr : StableRoles P) : Kept P (regacc side wr off0 v s) := by
  unfold Machine.regacc
  extract_lets s1 _
  have h1 : Kept P s1 := h.setIr hr
  exact .ite h1.putSide.emit (.ite (h1.countRegacc.regaccWrite hr) h1.readEffect.countRegacc.emit)

theorem Kept.execRegacc {side wr off v} (h : Kept P s) (hr : StableRoles P) : Kept.Next P (execRegacc side wr off v s) :=
  .next (.ite (h.regacc hr) (.ite h (h.setIr hr)))

theorem Kept.arbholdTake {t} (h : Kept P s) (hr : StableRoles P) : Kept P (arbholdTake t s) := by
  unfold Machine.arbholdTake
  extract_lets s1 arb take
  have h1 : Kept P s1 := h.at.setIr hr
  split
  · exact .ite h1 ((h1.endHold hr).modTap hr).raise
  · exact (h1.modTap hr).raise

theorem Kept.execArbholdTake {t} (h : Kept P s) (hr : StableRoles P) : Kept.Next P (execArbholdTake t s) :=
  .next (.ite (h.arbholdTake hr) (.ite h (h.setIr hr)))

theorem Kept.arbholdRelease {t} (h : Kept P s) (hr : StableRoles P) : Kept P (arbholdRelease t s) := .endHold (h.at.setIr hr) hr

theorem Kept.execArbholdRelease {t} (h : Kept P s) (hr : StableRoles P) : Kept.Next P (execArbholdRelease t s) :=
  .next (.ite (h.arbholdRelease hr) (.ite h (h.setIr hr)))

theorem Kept.debugHoldTimeout {since} (h : Kept P s) (hr : StableRoles P) : Kept P (debugHoldTimeout since s) := h.at.setFrozen.endHold hr

theorem Kept.execDebugHoldTimeout (h : Kept P s) (hr : StableRoles P) : Kept.Next P (execDebugHoldTimeout s) := by
  refine .next ?_
  split
  · exact h.debugHoldTimeout hr
  · exact h

theorem Kept.dbgTrst {side rst en t} (h : Kept P s) (hr : StableRoles P) : Kept P (dbgTrst side rst en t s) := by
  unfold Machine.dbgTrst
  extract_lets s1
  have h1 : Kept P s1 := h.at.modTap hr
  exact .ite (h1.endHold hr) h1

theorem Kept.execDbgTrst {side rst en t} (h : Kept P s) (hr : StableRoles P) : Kept.Next P (execDbgTrst side rst en t s) :=
  .next (h.dbgTrst hr)

/-! ### Read data and write responses of the Host Port's master half -/

theorem Kept.modTxn {tag f} (h : Kept P s) : Kept P (s.modTxn tag f) := h.upd

theorem Kept.deliver {why a bs} (h : Kept P s) : Kept P (s.deliver why a bs) := by
  unfold State.deliver
  split
  · exact h.fetched
  · split
    · exact .ite h.inputData h
    · exact h
  · split
    · exact .ite h.inputData h
    · exact h
  · exact h.loadData
  · exact h.tplData
  · exact h.modChan
  · exact h.colCounts
  · exact h.colInput
  · exact h

theorem Kept.readError {why} (h : Kept P s) : Kept P (s.readError why) := by
  unfold State.readError
  split
  · exact h.freezeRing
  · exact h.sendAbort
  · exact h.sendAbort
  · exact h.loadData
  · exact h.tplData
  · exact h.colReadError
  · exact h.colReadError
  · exact h.colReadError
  · exact h

theorem Kept.beatProgress {why} (h : Kept P s) : Kept P (s.beatProgress why) := by
  unfold State.beatProgress
  split
  · exact h.progress
  · exact h.progress
  · exact h

theorem Kept.hostReadData {tag data last err} (h : Kept P s) : Kept P (hostReadData tag data last err s) := by
  unfold Machine.hostReadData
  split
  · exact h
  · refine .ite h ?_
    refine .ite (.ite h.endTxn h) ?_
    refine .ite ?_ (.ite h.endTxn.beatProgress.deliver h.modTxn.beatProgress)
    extract_lets s1 s2
    have h1 : Kept P s1 := h.hostError
    have h2 : Kept P s2 := .ite h1.endTxn h1.modTxn
    exact h2.readError

theorem Kept.execHostReadData {tag data last err} (h : Kept P s) : Kept.Next P (execHostReadData tag data last err s) :=
  .next (.ite h.hostReadData h)

theorem Kept.writeError {why} (h : Kept P s) : Kept P (s.writeError why) := by
  unfold State.writeError
  split
  · exact h.sendAbort
  · exact h.sendAbort
  · exact h.colAbortSend
  · exact h.colAbortSend
  · exact h

theorem Kept.writeDone {why orphan bad} (h : Kept P s) : Kept P (s.writeDone why orphan bad) := by
  unfold State.writeDone
  split
  · exact .ite h.colTryHeader (.ite h.colWriteBad h.colWritten)
  · exact .ite h.colTryHeader h.colWritten
  · exact h

theorem Kept.hostWriteResponse {tag err} (h : Kept P s) : Kept P (hostWriteResponse tag err s) := by
  rw [show @Machine.hostWriteResponse = _ by delta Machine.hostWriteResponse; rfl]
  cases s.txnAt tag with
  | none => exact h
  | some x =>
    refine .ite h ?_
    cases x.req.why with
    | completion => exact .ite h.endTxn h.completionWriteResponse
    | event => exact .ite h.endTxn h.eventWriteResponse
    | _ =>
      have h1 {w} : Kept P (if err = 0 then s else s.hostError x err (s.txnCtx w).1 (s.txnCtx w).2) := .ite h h.hostError
      exact .writeDone (.ite h1.endTxn h1.endTxn.writeError)

theorem Kept.execHostWriteResponse {tag err} (h : Kept P s) : Kept.Next P (execHostWriteResponse tag err s) :=
  .next (.ite h.hostWriteResponse h)

/-! ### The slave window of the Host Port -/

theorem Kept.slaveWriteOf {off bs} (h : Kept P s) : Kept P (s.slaveWriteOf off bs) := by
  unfold State.slaveWriteOf
  refine .ite (.emit h.cistern) (.ite ?_ (.ite h.releaseWord.emit (.ite h.collectiveWord.emit h.emit)))
  split
  · exact .ite h.tileWeightWrite h.emit
  · exact h.emit

theorem Kept.execCisternDataAccess {wr off data} (h : Kept P s) : Kept.Next P (execCisternDataAccess wr off data s) :=
  .next (.ite (.ite h.slaveWriteOf h.emit) h)

theorem Kept.slaveDecodeError {sl op} (h : Kept P s) : Kept P (slaveDecodeError sl op s) := h.emit.emit

theorem Kept.execSlaveDecodeError {slice op off} (h : Kept P s) : Kept.Next P (execSlaveDecodeError slice op off s) :=
  .next (.ite h.slaveDecodeError h)

end Sys2Proof.Machine
end

section
/-!
SUPPORT. Every command keeps a stable property, and the invariant of O55 is one.
-/

namespace Sys2Proof.Machine

open Sys2Proof

-- one theorem after the other: a thread for each of so many short ones does not fit the memory of the check
set_option Elab.async false

variable {P : State → Prop} {s t : State}

/-- A command keeps a stable property; the end of a page program, which writes the nonvolatile area, keeps it where its writes do. -/
theorem Kept.exec {i} (h : Kept P s) (hr : StableRoles P) (hn : ∀ ok, i = .pageProgramDone ok → StableNvm P) :
    Kept.Next P (exec i s) := by
  cases i with
  | tckRunSet => exact h.execTckRunSet
  | tckRunClear => exact h.execTckRunClear
  | tckPeriodWrite => exact h.execTckPeriodWrite
  | masterEmission => exact h.execMasterEmission
  | tickWatchdog => exact h.execTickWatchdog
  | localTick => exact h.execLocalTick
  | starvedTest => exact h.execStarvedTest
  | tickInEdge => exact h.execTickInEdge
  | tickInHoldover => exact h.execTickInHoldover
  | tickOrderedSet => exact h.execTickOrderedSet
  | tickSetAtMaster port set => exact h.execTickSetAtMaster (_set := set)
  | followerHoldover => exact h.execFollowerHoldover
  | calibrationStale => exact h.execCalibrationStale
  | readyReport => exact h.execReadyReport
  | progressBeacon => exact h.execProgressBeacon
  | localDone => exact h.execLocalDone
  | abortNotice => exact h.execAbortNotice
  | localFinish => exact h.execLocalFinish
  | doorbell => exact h.execDoorbell
  | cqHeadWrite => exact h.execCqHeadWrite
  | eqHeadWrite => exact h.execEqHeadWrite
  | ctxRingEnable => exact h.execCtxRingEnable
  | ctxRingDisable => exact h.execCtxRingDisable
  | eqEnable => exact h.execEqEnable
  | descriptorFetch => exact h.execDescriptorFetch
  | descriptorCheck => exact h.execDescriptorCheck
  | rejectRetire => exact h.execRejectRetire
  | completionRecordWrite => exact h.execCompletionRecordWrite
  | completionWriteResponse => exact h.execCompletionWriteResponse
  | eventRecordWrite => exact h.execEventRecordWrite hr
  | eventWriteResponse => exact h.execEventWriteResponse
  | loadHomeTable => exact h.execLoadHomeTable
  | loadLayerEntries => exact h.execLoadLayerEntries
  | loadRouterRows => exact h.execLoadRouterRows
  | copyActiveSet => exact h.execCopyActiveSet
  | loadEnd => exact h.execLoadEnd
  | arm => exact h.execArm
  | disarm => exact h.execDisarm
  | reseed => exact h.execReseed
  | seedingDone => exact h.execSeedingDone
  | hostReadData => exact h.execHostReadData
  | hostWriteResponse => exact h.execHostWriteResponse
  | admissionWindow => exact h.execAdmissionWindow
  | cisternGrant => exact h.execCisternGrant
  | flitTransmit => exact h.execFlitTransmit
  | flitReceive => exact h.execFlitReceive hr
  | retryTimeout => exact h.execRetryTimeout hr
  | dispatch => exact h.execDispatch
  | eod => exact h.execEod
  | issueTile => exact h.execIssueTile
  | partialTile => exact h.execPartialTile
  | wellTileComplete => exact h.execWellTileComplete
  | returnPacket => exact h.execReturnPacket
  | rowNormalise => exact h.execRowNormalise
  | queueFlush => exact h.execQueueFlush
  | take => exact h.execTake
  | anyContextTake => exact h.execAnyContextTake
  | releaseWord => exact h.execReleaseWord
  | tileWeightWrite => exact h.execTileWeightWrite
  | cisternDataAccess => exact h.execCisternDataAccess
  | sliceReset => exact h.execSliceReset
  | collectiveStart => exact h.execCollectiveStart
  | collectiveReady => exact h.execCollectiveReady
  | colDescriptorCheck => exact h.execColDescriptorCheck
  | colReservationGrant => exact h.execColReservationGrant
  | colStart => exact h.execColStart
  | colData => exact h.execColData
  | colCredit => exact h.execColCredit
  | colHold => exact h.execColHold
  | colAbort => exact h.execColAbort
  | colFin => exact h.execColFin
  | colOutputsComplete => exact h.execColOutputsComplete
  | colStallCount => exact h.execColStallCount
  | colRestartDrained => exact h.execColRestartDrained
  | colChEnable => exact h.execColChEnable
  | hkStart => exact h.execHkStart
  | hkData => exact h.execHkData
  | hkClose => exact h.execHkClose
  | templateLoad => exact h.execTemplateLoad
  | templateLoadEnd => exact h.execTemplateLoadEnd
  | stepOpen => exact h.execStepOpen
  | stepClose => exact h.execStepClose
  | scoreRow => exact h.execScoreRow
  | scoreLogits => exact h.execScoreLogits
  | ledgerWrite => exact h.execLedgerWrite
  | ledgerRead => exact h.execLedgerRead
  | ledgerData => exact h.execLedgerData
  | wellReport => exact h.execWellReport
  | hostCommand => exact h.execHostCommand
  | hostRefresh => exact h.execHostRefresh
  | refreshTakeover => exact h.execRefreshTakeover
  | pcapWindowEnd => exact h.execPcapWindowEnd
  | pcapReached => exact h.execPcapReached
  | prsntInsert => exact h.execPrsntInsert
  | prsntRemove => exact h.execPrsntRemove
  | attnPress => exact h.execAttnPress
  | removalWindowClose => exact h.execRemovalWindowClose
  | removeRequest => exact h.execRemoveRequest
  | removeAgree => exact h.execRemoveAgree
  | removeRefuse => exact h.execRemoveRefuse
  | removeCancel => exact h.execRemoveCancel
  | removeDone => exact h.execRemoveDone
  | removeSilence => exact h.execRemoveSilence
  | removeDrained => exact h.execRemoveDrained
  | forceSafe => exact h.execForceSafe
  | linkRestart => exact h.execLinkRestart
  | phyLock => exact h.execPhyLock
  | trainTimeout => exact h.execTrainTimeout
  | lossOfLock => exact h.execLossOfLock
  | uncCodewordLimit => exact h.execUncCodewordLimit
  | beacon => exact h.execBeacon
  | beaconSend => exact h.execBeaconSend
  | beaconAbsence => exact h.execBeaconAbsence
  | absentSet => exact h.execAbsentSet
  | svcAbsentClear => exact h.execSvcAbsentClear hr
  | svcLeave => exact h.execSvcLeave
  | svcIdLock => exact h.execSvcIdLock
  | svcBypCtrlWrite => exact h.execSvcBypCtrlWrite
  | bypassHoldRelease => exact h.execBypassHoldRelease
  | calStart => exact h.execCalStart
  | calReq => exact h.execCalReq
  | calRsp => exact h.execCalRsp
  | calLost => exact h.execCalLost
  | eqAdaptation => exact h.execEqAdaptation
  | wellLinkRecal => exact h.execWellLinkRecal
  | dramScrub => exact h.execDramScrub
  | sramScrub => exact h.execSramScrub hr
  | tempSample => exact h.execTempSample
  | rdmTrigger => exact h.execRdmTrigger
  | rdmWindowEnd => exact h.execRdmWindowEnd
  | telemetrySample => exact h.execTelemetrySample hr
  | nvmErase => exact h.execNvmErase
  | aonReset => exact h.execAonReset hr
  | hubReset => exact h.execHubReset hr
  | selfTestDone => exact h.execSelfTestDone hr
  | welReset => exact h.execWelReset
  | cfgReset => exact h.execCfgReset
  | wellLinkTrained => exact h.execWellLinkTrained
  | wellLinkRetrain => exact h.execWellLinkRetrain
  | wellLinkDown => exact h.execWellLinkDown
  | configAccess => exact h.execConfigAccess hr
  | sidebandTimeout => exact h.execSidebandTimeout
  | registerWrite => exact h.execRegisterWrite hr
  | vaonSourceChange => exact h.execVaonSourceChange hr
  | vddHubLoss => exact h.execVddHubLoss hr
  | vddWelLoss => exact h.execVddWelLoss
  | leadHeathLoss => exact h.execLeadHeathLoss hr
  | residueFailure => exact h.execResidueFailure
  | engineRelease => exact h.execEngineRelease
  | uncorrectableWord => exact h.execUncorrectableWord hr
  | masterRelease => exact h.execMasterRelease
  | coreWatchdogExpiry => exact h.execCoreWatchdogExpiry hr
  | mirrorTakeover => exact h.execMirrorTakeover hr
  | mirBeatSend => exact h.execMirBeatSend
  | mirBeatLoss => exact h.execMirBeatLoss hr
  | mirUpdate => exact h.execMirUpdate
  | mirAck => exact h.execMirAck
  | mirFetch => exact h.execMirFetch
  | mirData => exact h.execMirData
  | mirSync => exact h.execMirSync hr
  | swap => exact h.execSwap hr
  | rejoin => exact h.execRejoin hr
  | sync => exact h.execSync hr
  | mirrorDisable => exact h.execMirrorDisable hr
  | debugHoldTimeout => exact h.execDebugHoldTimeout hr
  | tokenRefill => exact h.execTokenRefill
  | trickleFlush => exact h.execTrickleFlush hr
  | evrFlush => exact h.execEvrFlush
  | pageProgramDone => exact h.execPageProgramDone hr (hn _ rfl)
  | evrClear => exact h.execEvrClear hr
  | nvErase => exact h.execNvErase
  | evrCursorLoad => exact h.execEvrCursorLoad
  | nvReadDone => exact h.execNvReadDone
  | win15Autoinc => exact h.execWin15Autoinc
  | evrTrig => exact h.execEvrTrig
  | recorderStart => exact h.execRecorderStart
  | idcode => exact h.execIdcode hr
  | regacc => exact h.execRegacc hr
  | arbholdTake => exact h.execArbholdTake hr
  | arbholdRelease => exact h.execArbholdRelease hr
  | tapBypass => exact h.execTapBypass hr
  | dbgTrst => exact h.execDbgTrst hr
  | cstEnable => exact h.execCstEnable
  | vaonLoss => exact h.execVaonLoss hr
  | hpRstRelease => exact h.execHpRstRelease
  | slaveDecodeError => exact h.execSlaveDecodeError
  | controlCoreAccessViolation => exact h.execControlCoreAccessViolation hr

theorem SramWrite.role {f : HubCore → HubCore} (hf : SramWrite f) (h : HubCore) : (f h).role = h.role := by
  cases hf with
  | table | router => rfl
  | word space a w =>
    unfold HubCore.putWord
    split_ifs <;> simp only [HubCore.role]

theorem SramWrite.side {f : HubCore → HubCore} (hf : SramWrite f) (h : HubCore) : (f h).side = h.side := congrArg Prod.fst (hf.role h)

theorem State.setWord_mstate (s : State) (off : Nat) (v : Word) : (s.setWord off v).mch.mstate = s.mch.mstate := by
  have hpush : (if mirrored off && !accounting off then s.mch.push (.reg off v) else s.mch).mstate = s.mch.mstate := by
    split
    · exact MirChan.push_mstate _ _
    · rfl
  unfold State.setWord
  dsimp only
  split <;> exact hpush

/-- The invariant speaks of the build parameters and the sides of the two Hubs only. -/
theorem State.Inv.of_sides (h : s.Inv) (hb : t.build = s.build) (ha : t.act.side = s.act.side) (hm : t.mir.side = s.mir.side) :
    t.Inv := by
  obtain ⟨hlegal, hside⟩ := h
  exact ⟨hb ▸ hlegal, by rwa [ha, hm]⟩

theorem State.Inv.of_store (h : s.Inv) (hs : SameStore s t) : t.Inv :=
  h.of_sides hs.build (congrArg Prod.fst hs.act) (congrArg Prod.fst hs.mir)

theorem stable_inv : Stable State.Inv where
  rest hs _ h := h.of_store hs
  event _ h := h.of_sides rfl rfl rfl
  setWord off v h := by
    obtain ⟨_, _, _, he⟩ := State.setWord_eq _ off v
    rw [he]
    exact h.of_sides rfl rfl rfl
  mirWord _ _ h := h.of_sides rfl rfl rfl
  dropWords _ h := h.of_sides rfl rfl rfl
  actSram hf h := h.of_sides rfl (hf.side _) rfl
  mirSram hf h := h.of_sides rfl rfl (hf.side _)
  stack _ _ _ h := h.of_sides rfl rfl rfl
  cistern _ _ h := h.of_sides rfl rfl rfl
  cisternFresh h := h.of_sides rfl rfl rfl
  sync h := h.of_sides rfl rfl rfl

theorem stableRoles_inv : StableRoles State.Inv where
  rest hs h := h.of_store hs
  freshAct _ h := h.of_sides rfl rfl rfl
  freshMir _ h := h.of_sides rfl rfl rfl
  exchange h := ⟨h.1, h.2.symm⟩

theorem stableNvm_inv : StableNvm State.Inv where
  write _ _ h := h.of_sides rfl rfl rfl
  drop _ h := h.of_sides rfl rfl rfl

/-- A step executes the first command that waits, if there is one. -/
theorem step_keeps {P : State → Prop} (hP : Stable P) (hr : StableRoles P) (hn : StableNvm P)
    (hq : ∀ {s : State} q, P s → P { s with pending := q }) (h : P s) (he : step s = .next t) : P t := by
  unfold step at he
  split at he
  · exact Host.Outcome.next.inj he ▸ h
  · next c rest _ => exact (Kept.exec (P := P) ⟨hP, hq rest h⟩ hr (fun _ _ => hn) t he).holds

/-- Settles O55: the invariant is stable, and a step keeps every stable property. -/
theorem stepsKeepInvariant : Obligations.StepsKeepInvariant := by
  unfold Obligations.StepsKeepInvariant
  intro s t h he
  exact step_keeps stable_inv stableRoles_inv stableNvm_inv (fun _ hi => hi.of_sides rfl rfl rfl) h he

/-! ### What no operation but a change of roles changes -/

/-- A record that waits still waits behind more of them. -/
theorem Reports.later {r : State} {code : Nat} (hr : Reports r code s) (h : ∃ l, t.evq.waiting = s.evq.waiting ++ l) :
    Reports r code t := by
  intro hup hroom
  obtain ⟨l, e, hl, he, hcode⟩ := hr hup hroom
  obtain ⟨m, hm⟩ := h
  exact ⟨l ++ m, e, by rw [hm, hl, List.append_assoc], List.mem_append_left m he, hcode⟩

/-- `t` has the roles of `s`, and the event records of `s` still wait. -/
structure Onward (s t : State) : Prop where
  build : t.build = s.build
  active : t.active = s.active
  failover : t.failover = s.failover
  mstate : t.mch.mstate = s.mch.mstate
  act : t.act.role = s.act.role
  mir : t.mir.role = s.mir.role
  heathA : t.heathA = s.heathA
  heathB : t.heathB = s.heathB
  lead : t.lead = s.lead
  pfail : t.pfail = s.pfail
  tapA : t.tapA = s.tapA
  tapB : t.tapB = s.tapB
  waiting : ∃ l, t.evq.waiting = s.evq.waiting ++ l

namespace Onward

variable {r : State}

theorem refl (s : State) : Onward s s := ⟨rfl, rfl, rfl, rfl, rfl, rfl, rfl, rfl, rfl, rfl, rfl, rfl, [], (List.append_nil _).symm⟩

theorem stable (r : State) : Stable (Onward r) where
  rest hs hr h := ⟨hs.build.trans h.build, hr.active.trans h.active,
    hr.failover.trans h.failover, hr.mstate.trans h.mstate, hr.act.trans h.act,
    hr.mir.trans h.mir, hr.heathA.trans h.heathA, hr.heathB.trans h.heathB,
      hr.lead.trans h.lead, hr.pfail.trans h.pfail, hr.tapA.trans h.tapA,
    hr.tapB.trans h.tapB, hr.waiting ▸ h.waiting⟩
  event e h := by
    obtain ⟨l, hl⟩ := h.waiting
    exact { h with waiting := ⟨l ++ [e], by rw [hl, List.append_assoc]⟩ }
  setWord := fun {s} off v h => by
    have hm := State.setWord_mstate s off v
    obtain ⟨_, _, _, he⟩ := State.setWord_eq s off v
    rw [he] at hm ⊢
    exact { h with mstate := hm.trans h.mstate }
  mirWord _ _ h := { h with }
  dropWords _ h := { h with }
  actSram hf h := { h with act := (hf.role _).trans h.act }
  mirSram hf h := { h with mir := (hf.role _).trans h.mir }
  stack _ _ _ h := { h with }
  cistern _ _ h := { h with }
  cisternFresh h := { h with }
  sync h := { h with }

/-- To show that operations are onward from a state, show that they keep this. -/
theorem kept (s : State) : Kept (Onward s) s := ⟨stable s, refl s⟩

theorem trans {u : State} (h : Onward s t) (h' : Onward t u) : Onward s u :=
  ⟨h'.build.trans h.build, h'.active.trans h.active, h'.failover.trans h.failover, h'.mstate.trans h.mstate, h'.act.trans h.act,
    h'.mir.trans h.mir, h'.heathA.trans h.heathA, h'.heathB.trans h.heathB, h'.lead.trans h.lead, h'.pfail.trans h.pfail,
    h'.tapA.trans h.tapA, h'.tapB.trans h.tapB, by
      obtain ⟨l, hl⟩ := h.waiting
      obtain ⟨m, hm⟩ := h'.waiting
      exact ⟨l ++ m, by rw [hm, hl, List.append_assoc]⟩⟩

theorem reports {code : Nat} (hr : Reports r code s) (h : Onward s t) : Reports r code t := hr.later h.waiting

theorem actSide (h : Onward s t) : t.act.side = s.act.side := congrArg Prod.fst h.act

theorem mirSide (h : Onward s t) : t.mir.side = s.mir.side := congrArg Prod.fst h.mir

theorem mirInReset (h : Onward s t) : t.mir.inReset = s.mir.inReset := congrArg (·.2.1) h.mir

theorem actBistDone (h : Onward s t) : t.act.bistDone = s.act.bistDone := congrArg (·.2.2.1) h.act

theorem heath (h : Onward s t) (side : Side) : t.heath side = s.heath side := by
  cases side with
  | a => exact h.heathA
  | b => exact h.heathB

theorem tap (h : Onward s t) (side : Side) : t.tap side = s.tap side := by
  cases side with
  | a => exact h.tapA
  | b => exact h.tapB

end Onward

end Sys2Proof.Machine
end

section
/-!
SUPPORT. What a reset, a failover and the loss of the mirror leave as they were, and when the trigger of a failover only counts it.
-/

namespace Sys2Proof.Machine

open Sys2Proof

-- one theorem after the other: a thread for each of so many short ones does not fit the memory of the check
set_option Elab.async false

variable {s t : State}

/-! ### Reports -/

/-- A report is one of any state with the same Hub up and the same records waiting. -/
theorem Reports.of_same {r : State} {code : Nat} (h : Reports s code t) (hup : r.hubUp = s.hubUp) (hq : r.evq.waiting = s.evq.waiting) :
    Reports r code t := by
  unfold Reports at *
  rwa [hup, hq]

/-! ### Two sides -/

theorem Side.eq_of_ne_ne {x y z : Side} (hxy : x ≠ y) (hzy : z ≠ y) : x = z := by
  cases x <;> cases y <;> cases z <;> simp_all

/-- The mirror's side is the one that is not the active Hub's (R15). -/
theorem State.Inv.mirSide (h : s.Inv) {side : Side} (hside : side ≠ s.act.side) : s.mir.side = side := by
  obtain ⟨-, hne⟩ := h
  exact Side.eq_of_ne_ne hne.symm hside

theorem State.hub_act (s : State) : s.hub s.act.side = s.act := if_pos rfl

theorem State.hub_mir (s : State) {side : Side} (h : side ≠ s.act.side) : s.hub side = s.mir := if_neg h

theorem State.modHub_act (s : State) (f : HubCore → HubCore) : s.modHub s.act.side f = { s with act := f s.act } := if_pos rfl

theorem State.modHub_mir (s : State) (f : HubCore → HubCore) {side : Side} (h : side ≠ s.act.side) :
    s.modHub side f = { s with mir := f s.mir } := if_neg (Ne.symm h)

/-- A change of a Hub that leaves the sides reads back. -/
theorem State.hub_modHub (s : State) (side : Side) (f : HubCore → HubCore) (hf : ∀ k, (f k).side = k.side) :
    (s.modHub side f).hub side = f (s.hub side) := by
  by_cases h : side = s.act.side
  · rw [h, State.modHub_act, State.hub_act]
    exact if_pos (hf _).symm
  · rw [State.modHub_mir s f h, State.hub_mir s h]
    exact if_neg h

theorem State.heath_modHeath (s : State) (side : Side) (f : Heath → Heath) : (s.modHeath side f).heath side = f (s.heath side) := by
  cases side <;> rfl

theorem State.modHeath_eq (s : State) (side : Side) (f : Heath → Heath) :
    ∃ a b, s.modHeath side f = { s with heathA := a, heathB := b } := by
  cases side
  · exact ⟨_, s.heathB, rfl⟩
  · exact ⟨s.heathA, _, rfl⟩

/-! ### A trigger and the loss of the mirror (R402, R407) -/

theorem MirChan.serves_iff (m : MirChan) : m.serves = true ↔ m.mstate = .syncing ∨ m.mstate = .inSync := by
  simp [MirChan.serves]

/-- What is left of the roles when a mirror in service goes out of it: nothing waits for it, and no failover to it goes on. -/
def State.mirrorLess (s : State) : State := { s with failover := none, mch := { s.mch with mstate := .out } }

theorem State.mirrorOut_onward (s : State) (cause : Nat) (h : s.mch.serves = true) :
    Onward { s with mch := { s.mch with mstate := .out } } (s.mirrorOut cause) := by
  have hkept : Kept (Onward { s with mch := { s.mch with mstate := .out } }) { s with mch := { s.mch with
      mstate := .out, cause := cause, sent := [], acked := s.mch.useq, onLink := s.mch.useq, fetch := [] } } := (Onward.kept _).upd
  unfold State.mirrorOut
  rcases (MirChan.serves_iff _).mp h with hm | hm
  all_goals
    rw [hm]
    exact (hkept.raiseHeath.rasIrq.releaseEffects).holds

theorem State.mirrorGone_onward (s : State) (cause : Nat) (h : s.mch.serves = true) : Onward s.mirrorLess (s.mirrorGone cause) := by
  have hout := s.mirrorOut_onward cause h
  unfold State.mirrorGone State.failoverLost
  rw [if_pos ((MirChan.serves_iff _).mp h)]
  split
  · have hnone : Onward s.mirrorLess { s.mirrorOut cause with failover := none } := { hout with failover := rfl }
    exact hnone.trans (Onward.kept _).checkBypass.holds
  · next hf => exact { hout with failover := Option.not_isSome_iff_eq_none.mp hf }

theorem State.mirrorGone_unserved (s : State) (cause : Nat) (h : s.mch.serves = false) : s.mirrorGone cause = s := by
  refine if_neg fun hm => ?_
  rw [(MirChan.serves_iff _).mpr hm] at h
  exact Bool.noConfusion h

theorem State.mirrorGone_serves (s : State) (cause : Nat) : (s.mirrorGone cause).mch.serves = false := by
  cases h : s.mch.serves with
  | true => rw [MirChan.serves, (s.mirrorGone_onward cause h).mstate]; rfl
  | false => rw [s.mirrorGone_unserved cause h, h]

/-- The side of the mirror stays where it is. -/
theorem State.mirrorGone_mirSide (s : State) (cause : Nat) : (s.mirrorGone cause).mir.side = s.mir.side := by
  cases h : s.mch.serves with
  | true => exact (s.mirrorGone_onward cause h).mirSide
  | false => rw [s.mirrorGone_unserved cause h]

section
variable {cause : Nat}

theorem State.trigger_inactive (hnone : s.failover = none) (h : s.active = false) : s.trigger cause = s := by
  unfold State.trigger
  rw [hnone]
  dsimp only
  rw [if_pos (by simp [h])]

theorem State.trigger_inSync (hnone : s.failover = none) (h : s.active = true) (hsync : s.mch.mstate = .inSync) :
    s.trigger cause = s.failoverStart cause s.now := by
  unfold State.trigger
  rw [hnone]
  dsimp only
  rw [if_neg (by simp [h]), if_pos hsync]

/-- The chip whose active Hub has failed while no mirror can take its place (R402). -/
def State.headless (s : State) : State := { s with active := false, act := { s.act with inReset := true } }

theorem State.trigger_unmirrored (hnone : s.failover = none) (h : s.active = true) (hsync : s.mch.mstate ≠ .inSync) :
    Onward s.headless (s.trigger cause) := by
  have hkept : Kept (Onward s.headless) { s.headless with mch := { s.mch with cause := cause } } := (Onward.kept _).upd
  have hb := hkept.checkBypass.holds
  unfold State.trigger
  rw [hnone]
  dsimp only
  rw [if_neg (by simp [h]), if_neg hsync, ← hnone]
  exact hb

/-- The roles as a failover for a cause starts at a time (R402, R403). -/
def State.failing (s : State) (cause t : Nat) : State := { s with
  failover := some { cause := cause, at_ := t, swap := cause == 7 }
  active := s.active && cause == 7
  act := { s.act with inReset := s.act.inReset || cause != 7 } }

theorem State.failoverStart_onward (s : State) (cause t : Nat) : Onward (s.failing cause t) (s.failoverStart cause t) := by
  have hkept : Kept (Onward s) (((s.record (s.failoverEvent cause)).rasIrq RAS_IRQ_STATUS.FAILOVER).bump MIR_FAILOVER_CNT.COUNT) :=
    (Onward.kept s).record.rasIrq.bump
  have h := hkept.holds
  exact { h with
    failover := rfl
    active := congrArg (· && cause == 7) h.active
    act := congrArg (fun r : Side × Bool × Bool × Bool => (r.1, r.2.1 || cause != 7, r.2.2)) h.act }
end

end Sys2Proof.Machine
end

section
/-!
SUPPORT. The state after reset: O54.
-/

namespace Sys2Proof.Machine

open Sys2Proof

-- one theorem after the other: a thread for each of so many short ones does not fit the memory of the check
set_option Elab.async false

theorem State.reset_wells (w : WellNo) : State.reset.wells[w] = Well.fresh := by
  have h : State.reset.wells = Vector.replicate 24 Well.fresh := rfl
  simp [h]

theorem State.reset_inv : State.reset.Inv := ⟨by decide, by decide⟩

theorem State.reset_memWf : State.reset.memWf = true := by
  rw [State.memWf_iff]
  exact ⟨swf_nil _, swf_nil _, swf_nil _, swf_nil _, swf_nil _, swf_nil _, swf_nil _, swf_nil _, swf_nil _, swf_nil _, swf_nil _, swf_nil _,
    swf_nil _, State.reset_stacks_wf⟩

/-- No field of a port's `PMP_LNK_STATUS` has a reset value (R326). -/
theorem State.reset_portState : ∀ p : Port, State.reset.portState p = 0 := by decide +kernel

/-- Settles O54: each part is read off the state after reset. -/
theorem resetMeetsInvariants : Obligations.ResetMeetsInvariants := by
  unfold Obligations.ResetMeetsInvariants
  refine ⟨State.reset_inv, State.reset_memWf, rfl, rfl, rfl, rfl, fun w => ?_, State.reset_portState⟩
  rw [State.reset_wells]
  rfl

end Sys2Proof.Machine
end

section
/-!
SUPPORT. Resets, self-test and the loss of a Hub: O41.
-/

namespace Sys2Proof.Machine

open Sys2Proof

-- one theorem after the other: a thread for each of so many short ones does not fit the memory of the check
set_option Elab.async false

section
variable {s : State} {side : Side}

theorem hubReset_mirror (hInv : s.Inv) (hup : (s.heath side).inReset = false) (hside : side ≠ s.act.side) :
    Answers (.hubReset side) s fun t => t.mir = HubCore.fresh side (t.mch.mstate == .held) ∧ t.mch.serves = false := by
  refine ⟨hubReset side s, congrArg Host.Outcome.next (if_neg (by simp [hup])), ?_⟩
  unfold hubReset State.resetMir
  rw [if_neg hside]
  obtain ⟨_, _, he⟩ := State.modHeath_eq { s.mirrorGone 12 with
    mir := HubCore.fresh (s.mirrorGone 12).mir.side ((s.mirrorGone 12).mch.mstate == .held) } side fun h => { h with hubGood := true }
  dsimp only
  rw [he]
  exact ⟨by rw [State.mirrorGone_mirSide, hInv.mirSide hside], State.mirrorGone_serves s 12⟩

/-- A reset of the Hub that would be active is a trigger, and a Hub that no failover replaces starts afresh. -/
theorem hubReset_act (h : side = s.act.side) : ∃ a b, hubReset side s = { s.resetAct with heathA := a, heathB := b } := by
  unfold hubReset
  rw [if_pos h]
  exact State.modHeath_eq _ _ _

theorem hubReset_failover (hup : (s.heath side).inReset = false) (hside : side = s.act.side) (hactive : s.active = true)
    (hnone : s.failover = none) (hsync : s.mch.mstate = .inSync) :
    Answers (.hubReset side) s fun t => t.active = false ∧ t.failover = some { cause := 3, at_ := s.now, swap := false } := by
  refine ⟨hubReset side s, congrArg Host.Outcome.next (if_neg (by simp [hup])), ?_⟩
  obtain ⟨_, _, he⟩ := hubReset_act hside
  have hstart := s.failoverStart_onward 3 s.now
  have hact : s.resetAct = s.failoverStart 3 s.now := by
    unfold State.resetAct
    rw [State.trigger_inSync hnone hactive hsync]
    exact if_pos (by rw [hstart.failover]; rfl)
  rw [he, hact]
  exact ⟨hstart.active.trans (Bool.and_false _), hstart.failover⟩

/-- After a trigger that no mirror answers there is neither an active Hub nor a failover. -/
theorem State.trigger_alone (cause : Nat) (hnone : s.failover = none) (hsync : s.mch.mstate ≠ .inSync) :
    (s.trigger cause).active = false ∧ (s.trigger cause).failover = none ∧ (s.trigger cause).act.side = s.act.side := by
  cases hactive : s.active with
  | false =>
    rw [State.trigger_inactive hnone hactive]
    exact ⟨hactive, hnone, rfl⟩
  | true =>
    have h := State.trigger_unmirrored (cause := cause) hnone hactive hsync
    exact ⟨h.active, h.failover.trans hnone, h.actSide⟩

theorem hubReset_alone (hup : (s.heath side).inReset = false) (hside : side = s.act.side) (hnone : s.failover = none)
    (hsync : s.mch.mstate ≠ .inSync) :
    Answers (.hubReset side) s fun t => t.active = false ∧ t.act.side = side ∧ t.act.bistDone = false := by
  refine ⟨hubReset side s, congrArg Host.Outcome.next (if_neg (by simp [hup])), ?_⟩
  obtain ⟨_, _, he⟩ := hubReset_act hside
  obtain ⟨hactive, hfail, hact⟩ := State.trigger_alone 3 hnone hsync
  have hfresh : s.resetAct = (s.trigger 3).freshAct.checkBypass := if_neg (by rw [hfail]; exact Bool.noConfusion)
  have hb := (Onward.kept (s.trigger 3).freshAct).checkBypass.holds
  rw [he, hfresh]
  refine ⟨hb.active.trans ?_, hb.actSide.trans (hact.trans hside.symm), hb.actBistDone⟩
  rw [← hactive]
  cases h : (s.trigger 3).act.side <;> simp [State.freshAct, State.modTap, State.dropWork, h]

/-- The side that takes the active role has it (R16). -/
theorem State.takeRole_roles (h : s.act.side ≠ s.mir.side) (side : Side)
    : (s.takeRole side).active = true ∧ (s.takeRole side).act.side = side := by
  unfold State.takeRole
  dsimp only
  by_cases hside : side = s.act.side
  · have hb := (Onward.kept ({ s with active := true } : State)).checkBypass.holds
    rw [if_pos hside]
    exact ⟨hb.active, hb.actSide.trans hside.symm⟩
  · have hb := (Onward.kept ({ s with act := s.mir, mir := s.act, active := true } : State)).checkBypass.holds
    rw [if_neg hside]
    exact ⟨hb.active, hb.actSide.trans (Side.eq_of_ne_ne h.symm hside)⟩

theorem State.modHub_eq (s : State) (side : Side) (f : HubCore → HubCore) : ∃ a m, s.modHub side f = { s with act := a, mir := m } := by
  by_cases h : side = s.act.side
  · exact ⟨_, s.mir, by rw [h, State.modHub_act]⟩
  · exact ⟨s.act, _, by rw [State.modHub_mir s f h]⟩

theorem State.modHub_sides (h : s.act.side ≠ s.mir.side) (side : Side) (f : HubCore → HubCore) (hf : ∀ k, (f k).side = k.side) :
    (s.modHub side f).act.side ≠ (s.modHub side f).mir.side := by
  by_cases hside : side = s.act.side
  · rw [hside, State.modHub_act]
    exact fun e => h ((hf _).symm.trans e)
  · rw [State.modHub_mir s f hside]
    exact fun e => h (e.trans (hf _))

/-- A Hub whose self-test has ended. -/
def HubCore.tested (pass : Bool) (h : HubCore) : HubCore := { h with bistDone := true, bistPass := pass }

theorem selfTestDone_roles (hInv : s.Inv) (hactive : s.active = false) (hnone : s.failover = none) (hup : (s.hub .a).inReset = false)
    (hdone : (s.hub .a).bistDone = false) : Answers (.selfTestDone .a true) s fun t => t.active = true ∧ t.act.side = .a := by
  refine ⟨selfTestDone .a true s, congrArg Host.Outcome.next (if_pos (by simp [hup, hdone])), ?_⟩
  have hrole : (s.modHub .a (HubCore.tested true)).roleOf = some .a := by
    refine if_pos ?_
    rw [State.hub_modHub s .a (HubCore.tested true) fun _ => rfl]
    simp [HubCore.able, HubCore.tested, hup]
  have hdue : selfTestDone .a true s = (s.modHub .a (HubCore.tested true)).takeRole .a := by
    obtain ⟨_, _, he⟩ := State.modHub_eq s .a (HubCore.tested true)
    have hidle : ¬((s.modHub .a (HubCore.tested true)).active = true ∨ (s.modHub .a (HubCore.tested true)).failover.isSome = true) := by
      rw [he]
      simp [hactive, hnone]
    unfold selfTestDone
    rw [show (fun h : HubCore => { h with bistDone := true, bistPass := true }) = HubCore.tested true from rfl]
    dsimp only
    rw [if_neg hidle, if_neg (by simp), hrole]
  rw [hdue]
  exact State.takeRole_roles (State.modHub_sides hInv.2 .a (HubCore.tested true) fun _ => rfl) .a

theorem selfTestDone_mirrorFails (hactive : s.active = true) (hside : side ≠ s.act.side) (hup : s.mir.inReset = false)
    (hdone : s.mir.bistDone = false) :
    Answers (.selfTestDone side false) s fun t => t.mir.inReset = true ∧ t.mch.mstate = .held ∧ Reports s 0x0F05 t := by
  have hmir := s.hub_mir hside
  refine ⟨selfTestDone side false s, congrArg Host.Outcome.next (if_pos (by simp [hmir, hup, hdone])), ?_⟩
  have hheld : selfTestDone side false s = State.raiseHeath { s with
      mir := { s.mir.tested false with inReset := true }, mch := { s.mch with mstate := .held } } 0x0F05 2 [sideNo side] := by
    unfold selfTestDone
    rw [State.modHub_mir s _ hside]
    dsimp only
    rw [if_pos (.inl hactive), if_neg Bool.false_ne_true, State.modHub_mir _ _ (by exact hside)]
    rfl
  have hfire := (Onward.kept ({ s with
      mir := { s.mir.tested false with inReset := true }, mch := { s.mch with mstate := .held } } : State)).raiseHeath
    (code := 0x0F05) (sev := 2) (data := [sideNo side]) (addr := 0) |>.holds
  rw [hheld]
  exact ⟨hfire.mirInReset, hfire.mstate, (State.raiseHeath_reports _ _ _ _ _).of_same rfl rfl⟩

/-- A Hub whose Config Port interface is at reset. -/
def HubCore.portReset (h : HubCore) : HubCore := { h with
  loHeld := h.loHeld.filter fun x => x.1 != .config, shadow := h.shadow.filter fun x => x.1 != .config }

theorem cfgReset_ends (side : Side) : Answers (.cfgReset side) s fun t => (∀ x, x ∈ t.cfgWait → x.1 ≠ side) ∧
    ∀ x, x ∈ (t.hub side).loHeld → x.1 ≠ .config := by
  refine ⟨cfgReset side s, rfl, fun x hx => ?_, fun x hx => ?_⟩
  · simpa using (List.mem_filter.mp hx).2
  · have hhub : (cfgReset side s).hub side = (s.hub side).portReset := State.hub_modHub s side HubCore.portReset fun _ => rfl
    rw [hhub] at hx
    simpa using (List.mem_filter.mp hx).2

/-- Settles O41: what a reset of each Hub, the end of a self-test, and CFG_RST_N do. -/
theorem hubsResetAndStart : Obligations.HubsResetAndStart := by
  unfold Obligations.HubsResetAndStart
  intro s hInv
  exact ⟨fun _ => hubReset_mirror hInv, fun _ => hubReset_failover, fun _ => hubReset_alone, selfTestDone_roles hInv,
    fun _ => selfTestDone_mirrorFails, cfgReset_ends⟩

end

end Sys2Proof.Machine
end

section
/-!
SUPPORT. The Heaths and their supplies: O42.
-/

namespace Sys2Proof.Machine

open Sys2Proof

-- one theorem after the other: a thread for each of so many short ones does not fit the memory of the check
set_option Elab.async false

section
variable {s t : State} {side : Side} {toBkup : Bool} {mv : Nat}

/-! ### What the loss of a Hub leaves -/

/-- What the loss of a Hub leaves: the Heaths, the sides, and the event records that wait. -/
structure Beside (s t : State) : Prop where
  heath : ∀ side, t.heath side = s.heath side
  lead : t.lead = s.lead
  actSide : t.act.side = s.act.side
  waiting : ∃ l, t.evq.waiting = s.evq.waiting ++ l

theorem Onward.beside (h : Onward s t) : Beside s t := ⟨h.heath, h.lead, h.actSide, h.waiting⟩

theorem Beside.refl (s : State) : Beside s s := (Onward.refl s).beside

theorem Beside.reports {r : State} {code : Nat} (hr : Reports r code s) (h : Beside s t) : Reports r code t := hr.later h.waiting

/-- The loss of the mirror, as a trigger, changes the roles only. -/
theorem State.mirrorGone_beside (s : State) (cause : Nat) : Beside s (s.mirrorGone cause) := by
  cases h : s.mch.serves with
  | true => exact { (s.mirrorGone_onward cause h).beside with }
  | false => rw [s.mirrorGone_unserved cause h]; exact Beside.refl s

theorem State.trigger_beside (s : State) (cause : Nat) : Beside s (s.trigger cause) := by
  cases hfo : s.failover with
  | some fo =>
    unfold State.trigger
    rw [hfo]
    exact { Beside.refl s with }
  | none =>
    cases hactive : s.active with
    | false => rw [State.trigger_inactive hfo hactive]; exact Beside.refl s
    | true =>
      by_cases hsync : s.mch.mstate = .inSync
      · rw [State.trigger_inSync hfo hactive hsync]
        exact { (s.failoverStart_onward cause s.now).beside with }
      · exact { (State.trigger_unmirrored (cause := cause) hfo hactive hsync).beside with }

variable {actCause mirCause : Nat}

theorem State.hubFault_beside (s : State) (side : Side) (hold : Bool) : Beside s (s.hubFault side actCause mirCause hold) := by
  unfold State.hubFault
  split
  · exact { s.trigger_beside actCause with }
  · exact { s.mirrorGone_beside mirCause with }

/-- The Heath holds the failed Hub in reset. -/
theorem State.hubFault_held (s : State) (side : Side) : ((s.hubFault side actCause mirCause true).hub side).inReset = true := by
  by_cases h : side = s.act.side
  · have hside := h.trans (s.trigger_beside actCause).actSide.symm
    unfold State.hubFault
    rw [if_pos h]
    exact (congrArg HubCore.inReset (if_pos hside)).trans (Bool.or_true _)
  · have hside : ¬side = (s.mirrorGone mirCause).act.side := fun e => h (e.trans (s.mirrorGone_beside mirCause).actSide)
    unfold State.hubFault
    rw [if_neg h]
    exact (congrArg HubCore.inReset (if_neg hside)).trans (Bool.or_true _)

/-! ### AON_RESET, VAON_LOSS, the loss of the lead Heath and of VDD_HUB -/

theorem aonReset_done (s : State) (side : Side) : Answers (.aonReset side) s fun t =>
    (t.heath side).inReset = false ∧ (side = .a → t.lead = .a) ∧ (side = s.lead → t.evr.ring = []) := by
  refine ⟨aonReset side s, rfl, ?_, ?_, ?_⟩
  · unfold aonReset
    cases side <;> dsimp only <;> split <;> rfl
  · rintro rfl
    unfold aonReset
    dsimp only
    split <;> rfl
  · rintro rfl
    unfold aonReset
    rw [if_pos (by simp)]
    rfl

theorem vaonLoss_done (hup : (s.heath side).inReset = false) : Answers (.vaonLoss side) s fun t =>
    (t.heath side).inReset = true ∧ (t.hub side).inReset = true ∧
      ∀ other, other ≠ side → s.lead = side → (s.heath other).inReset = false → t.lead = other := by
  refine ⟨vaonLoss side s, congrArg Host.Outcome.next (if_neg (by simp [hup])), ?_⟩
  unfold vaonLoss
  extract_lets led s1 s2 s3
  have hs3 : s3.heath side = s1.heath side ∧ s3.lead = s1.leadOf := by
    unfold s3
    split
    · cases side <;> exact ⟨rfl, rfl⟩
    · cases side <;> exact ⟨rfl, rfl⟩
  have hb : Beside s3 (s3.hubFault side 3 12 true) := State.hubFault_beside s3 side true
  refine ⟨?_, State.hubFault_held s3 side, fun other hne hlead hother => ?_⟩
  · rw [hb.heath, hs3.1, State.heath_modHeath]
  · rw [hb.lead, hs3.2]
    cases side <;> cases other
    · exact absurd rfl hne
    · exact if_pos ⟨rfl, congrArg (!·) hother⟩
    · exact if_neg fun h => Bool.noConfusion (hother.symm.trans h.1)
    · exact absurd rfl hne

theorem leadHeathLoss_done {other : Side} (hne : other ≠ s.lead) (hup : (s.heath other).inReset = false) :
    Answers .leadHeathLoss s fun t => t = { s with lead := other } := by
  refine ⟨{ s with lead := other }, congrArg Host.Outcome.next ?_, rfl⟩
  cases hl : s.lead <;> cases other
  · exact absurd hl.symm hne
  · exact if_neg (by simp [hup])
  · exact if_neg (by simp [hup])
  · exact absurd hl.symm hne

theorem vddHubLoss_done (hup : (s.heath side).inReset = false) (hgood : (s.heath side).hubGood = true) :
    Answers (.vddHubLoss side mv) s fun t => (t.heath side).hubGood = false ∧ (t.heath side).hubMv = mv ∧
      (t.hub side).inReset = true ∧ Reports s 0x0C12 t := by
  refine ⟨vddHubLoss side mv s, congrArg Host.Outcome.next (if_pos (by simp [hup, hgood])), ?_⟩
  unfold vddHubLoss
  obtain ⟨a, b, he⟩ := s.modHeath_eq side fun h => { h with hubGood := false, hubMv := mv }
  have hheath := s.heath_modHeath side fun h => { h with hubGood := false, hubMv := mv }
  have hrep : Reports s 0x0C12
      ((s.modHeath side fun h => { h with hubGood := false, hubMv := mv }).raiseHeath 0x0C12 2 [sideNo side, mv]) :=
    (State.raiseHeath_reports _ _ _ _ _).of_same (by rw [he]; rfl) (by rw [he])
  have hfire := (Onward.kept (s.modHeath side fun h => { h with hubGood := false, hubMv := mv })).raiseHeath
    (code := 0x0C12) (sev := 2) (data := [sideNo side, mv]) (addr := 0) |>.holds
  generalize (s.modHeath side fun h => { h with hubGood := false, hubMv := mv }).raiseHeath 0x0C12 2 [sideNo side, mv] = u at hrep hfire ⊢
  have hb : Beside u (u.hubFault side 2 12 true) := State.hubFault_beside u side true
  have hside := (hb.heath side).trans ((hfire.heath side).trans hheath)
  exact ⟨by rw [hside], by rw [hside], State.hubFault_held u side, hb.reports hrep⟩

/-! ### VAON_SOURCE_CHANGE -/

theorem Recorder.startPage_flush {r : Recorder} {k : FlushKind} (h : r.startPage.flush = some k) : r.flush = some k := by
  unfold Recorder.startPage at h
  dsimp only at h
  split at h
  · split at h
    · exact absurd h (by simp)
    · exact h
  · exact h

/-- A fault flush does not displace a power-fail flush, and does not become one (R418). -/
theorem Recorder.faultFlush_powerFail {r : Recorder} (h : r.faultFlush.flush = some .powerFail) : r.flush = some .powerFail := by
  unfold Recorder.faultFlush at h
  split at h
  · exact h
  · split at h
    · exact h
    · exact absurd (Recorder.startPage_flush h) (by simp)

theorem State.ringPut_flush (s : State) (e : RecEntry) : (s.ringPut e).evr.flush = s.evr.flush := by
  unfold State.ringPut
  dsimp only
  split
  · split <;> rfl
  · rfl

/-- An event starts no power-fail flush. -/
theorem State.record_powerFail {e : Event} (h : (s.record e).evr.flush = some .powerFail) : s.evr.flush = some .powerFail := by
  have key : ∀ (p : Prop) [Decidable p] (t : State), t.evr.flush = s.evr.flush →
      (if p then { t with evr := t.evr.faultFlush } else t).evr.flush = some .powerFail → s.evr.flush = some .powerFail := by
    intro p _ t ht h
    split at h
    · exact ht ▸ Recorder.faultFlush_powerFail h
    · exact ht ▸ h
  unfold State.record at h
  cases hlead : s.leadUp
  · simpa [hlead] using h
  · simp only [hlead, Bool.not_true, Bool.false_eq_true, if_false] at h
    split at h
    all_goals
      split at h
      · exact h
      · refine key _ _ ?_ h
        split
        · rfl
        · exact State.ringPut_flush _ _

theorem State.raiseHeath_powerFail {code sev : Nat} {data : List Nat} {addr : Nat}
    (h : (s.raiseHeath code sev data addr).evr.flush = some .powerFail) : s.evr.flush = some .powerFail := by
  have hr := State.record_powerFail (s := s.enqueue _) h
  obtain ⟨_, _, _, he⟩ := s.enqueue_eq
    { code := code, sev := sev, ctx := none, seq := 0, tick := s.tickNow, source := s.source 26 0, addr := addr, data := data }
  rwa [he] at hr

/-- A power-fail flush changes the recorder, and keeps PFAIL while the lead Heath draws from its backup. -/
theorem State.powerFailFlush_eq (s : State) :
    ∃ r p, s.powerFailFlush = { s with evr := r, pfail := p } ∧ (s.pfail = true → s.leadHeath.onBkup = true → p = true) := by
  have hnext : ∀ u : State, ∃ r p, u.nextPage = { u with evr := r, pfail := p } ∧
      (u.pfail = true → u.leadHeath.onBkup = true → p = true) := by
    intro u
    unfold State.nextPage
    dsimp only
    split
    · exact ⟨_, _, rfl, fun hp hb => Bool.and_eq_true_iff.mpr ⟨hp, hb⟩⟩
    · exact ⟨_, u.pfail, rfl, fun hp _ => hp⟩
  unfold State.powerFailFlush
  split
  · obtain ⟨r, p, he, hp⟩ := hnext { s with evr := { s.evr with flush := some .powerFail, pfBudget := s.rd EVR_CTRL.PF_MAX } }
    exact ⟨r, p, he, hp⟩
  · exact ⟨s.evr, s.pfail, rfl, fun hp _ => hp⟩

/-- A Heath on one of its two supplies. -/
def Heath.drawing (toBkup : Bool) (h : Heath) : Heath := { h with mainGood := !toBkup, onBkup := toBkup }

/-- A Heath has changed its supply, which is counted and reported (R361). -/
def State.switched (s : State) (side : Side) (toBkup : Bool) (mv : Nat) : State :=
  ((s.modHeath side (Heath.drawing toBkup)).bump HTH_SW_CNT.COUNT).raiseHeath 0x0C10 1 [bitNat (!toBkup), mv]

theorem vaonSourceChange_eq (side : Side) (toBkup : Bool) (mv : Nat) (s : State) : vaonSourceChange side toBkup mv s =
    if side ≠ (s.switched side toBkup mv).lead then s.switched side toBkup mv
    else if toBkup then (({ s.switched side toBkup mv with pfail := true } : State).raiseHeath 0x0C11 3
      [(s.switched side toBkup mv).evr.unflushed.length]).powerFailFlush
    else if (s.switched side toBkup mv).evr.flush = some .powerFail then s.switched side toBkup mv
    else { s.switched side toBkup mv with pfail := false } := rfl

/-- What a change of the supply has done by the state `t`. -/
structure Switched (s : State) (side : Side) (toBkup : Bool) (t : State) : Prop where
  onBkup : (t.heath side).onBkup = toBkup
  counted : Counted s t HTH_SW_CNT.COUNT 1
  reports : Reports s 0x0C10 t

theorem Switched.later {u : State} (h : Switched s side toBkup t) (hb : Beside t u) (hw : u.word HTH_SW_CNT.reg = t.word HTH_SW_CNT.reg) :
    Switched s side toBkup u where
  onBkup := (congrArg Heath.onBkup (hb.heath side)).trans h.onBkup
  counted := (congrArg HTH_SW_CNT.COUNT.get hw).trans h.counted
  reports := hb.reports h.reports

theorem State.switched_onward (s : State) (side : Side) (toBkup : Bool) (mv : Nat) :
    Onward (s.modHeath side (Heath.drawing toBkup)) (s.switched side toBkup mv) := (Onward.kept _).bump.raiseHeath.holds

theorem State.switched_lead (s : State) (side : Side) (toBkup : Bool) (mv : Nat) : (s.switched side toBkup mv).lead = s.lead := by
  rw [(s.switched_onward side toBkup mv).lead]
  cases side <;> rfl

theorem State.switched_done (s : State) (side : Side) (toBkup : Bool) (mv : Nat) : Switched s side toBkup (s.switched side toBkup mv) := by
  have hon := (s.switched_onward side toBkup mv).heath side
  rw [State.heath_modHeath] at hon
  obtain ⟨a, b, he⟩ := s.modHeath_eq side (Heath.drawing toBkup)
  refine ⟨congrArg Heath.onBkup hon, ?_, ?_⟩
  · unfold Counted State.switched
    rw [State.rd, State.raiseHeath_word_ne _ _ _ _ _ (by decide), ← State.rd, State.bump_rd _ _ (by decide), he]
    rfl
  · have hrep := State.raiseHeath_reports ((s.modHeath side (Heath.drawing toBkup)).bump HTH_SW_CNT.COUNT) 0x0C10 1
      [bitNat (!toBkup), mv] 0
    refine hrep.of_same ?_ ?_
    · rw [State.bump_hubUp, he]; rfl
    · rw [State.bump_evq, he]

theorem State.switched_powerFail (s : State) (side : Side) (toBkup : Bool) (mv : Nat)
    (h : (s.switched side toBkup mv).evr.flush = some .powerFail) : s.evr.flush = some .powerFail := by
  have h2 := State.raiseHeath_powerFail h
  rw [State.bump_evr] at h2
  cases side <;> exact h2

/-- The power-fail flush that the lead Heath starts on its backup supply. -/
theorem State.powerFail_done (h : Switched s side true t) (hlead : side = t.lead) (n : Nat) :
    Switched s side true (({ t with pfail := true } : State).raiseHeath 0x0C11 3 [n]).powerFailFlush ∧
      (({ t with pfail := true } : State).raiseHeath 0x0C11 3 [n]).powerFailFlush.pfail = true := by
  have hfire := (Onward.kept ({ t with pfail := true } : State)).raiseHeath (code := 0x0C11) (sev := 3) (data := [n]) (addr := 0) |>.holds
  have hword := State.raiseHeath_word_ne ({ t with pfail := true } : State) 0x0C11 3 [n] 0 (off := HTH_SW_CNT.reg) (by decide)
  generalize ({ t with pfail := true } : State).raiseHeath 0x0C11 3 [n] = u at hfire hword ⊢
  obtain ⟨r, p, he, hp⟩ := u.powerFailFlush_eq
  have hbkup : u.leadHeath.onBkup = true := by
    have hl : u.leadHeath = u.heath side := by rw [hlead, ← hfire.lead]; rfl
    rw [hl, hfire.heath side]
    exact h.onBkup
  rw [he]
  exact ⟨h.later { hfire.beside with } hword, hp hfire.pfail hbkup⟩

theorem vaonSourceChange_backup {a : Nat} (hup : (s.heath side).inReset = false) (hon : (s.heath side).onBkup = false)
    (hgood : (s.heath side).bkupGood = true) : Answers (.vaonSourceChange side true mv a) s fun t =>
      (t.heath side).onBkup = true ∧ Counted s t HTH_SW_CNT.COUNT 1 ∧ Reports s 0x0C10 t ∧ (side = s.lead → t.pfail = true) := by
  refine ⟨vaonSourceChange side true mv (s.at a), congrArg Host.Outcome.next (if_pos (by simp [hup, hon, hgood])), ?_⟩
  have hsw := (s.at a).switched_done side true mv
  have hlead := (s.at a).switched_lead side true mv
  rw [vaonSourceChange_eq]
  split
  · next hne => exact ⟨hsw.onBkup, hsw.counted, hsw.reports, fun h => absurd (h.trans hlead.symm) hne⟩
  · next heq =>
    obtain ⟨hpf, hp⟩ := State.powerFail_done hsw (not_not.mp heq) ((s.at a).switched side true mv).evr.unflushed.length
    exact ⟨hpf.onBkup, hpf.counted, hpf.reports, fun _ => hp⟩

theorem vaonSourceChange_main {a : Nat} (hup : (s.heath side).inReset = false) (hon : (s.heath side).onBkup = true) :
    Answers (.vaonSourceChange side false mv a) s fun t => (t.heath side).onBkup = false ∧ Counted s t HTH_SW_CNT.COUNT 1 ∧
      (side = s.lead → s.evr.flush ≠ some .powerFail → t.pfail = false) := by
  refine ⟨vaonSourceChange side false mv (s.at a), congrArg Host.Outcome.next (if_pos (by simp [hup, hon])), ?_⟩
  have hsw := (s.at a).switched_done side false mv
  have hlead := (s.at a).switched_lead side false mv
  rw [vaonSourceChange_eq]
  split
  · next hne => exact ⟨hsw.onBkup, hsw.counted, fun h => absurd (h.trans hlead.symm) hne⟩
  · rw [if_neg Bool.false_ne_true]
    split
    · next hpf => exact ⟨hsw.onBkup, hsw.counted, fun _ h => absurd ((s.at a).switched_powerFail side false mv hpf) h⟩
    · exact ⟨hsw.onBkup, hsw.counted, fun _ _ => rfl⟩

/-- Settles O42: what a reset, a change and a loss of each supply of a Heath do. -/
theorem heathSupplies : Obligations.HeathSupplies := by
  unfold Obligations.HeathSupplies
  intro s side
  exact ⟨aonReset_done s side, fun _ _ => vaonSourceChange_backup, fun _ _ => vaonSourceChange_main, vaonLoss_done,
    fun _ => leadHeathLoss_done, fun _ => vddHubLoss_done⟩

end

end Sys2Proof.Machine
end

section
/-!
SUPPORT. Swap, takeover and rejoin: O46.
-/

namespace Sys2Proof.Machine

open Sys2Proof

-- one theorem after the other: a thread for each of so many short ones does not fit the memory of the check
set_option Elab.async false

section
variable {s : State}

/-! ### The debug ports -/

theorem State.tap_modTap (s : State) (side : Side) (f : DebugPort → DebugPort) : (s.modTap side f).tap side = f (s.tap side) := by
  cases side <;> rfl

theorem State.modTap_eq (s : State) (side : Side) (f : DebugPort → DebugPort) :
    ∃ a b, s.modTap side f = { s with tapA := a, tapB := b } := by
  cases side
  · exact ⟨_, s.tapB, rfl⟩
  · exact ⟨s.tapA, _, rfl⟩

/-- A debug port that holds no arbiter. -/
def DebugPort.unheld (d : DebugPort) : DebugPort := { d with hold := none }

theorem State.endHold_none (t why : Nat) (h : s.dbg.hold = none) : s.endHold t why = s := by
  unfold State.endHold
  rw [h]

/-- The end of an arbiter hold, whatever ends it (R439). -/
theorem State.endHold_onward {x : Nat × Nat} (s : State) (t why : Nat) (h : s.dbg.hold = some x) :
    Onward (s.modTap s.act.side DebugPort.unheld) (s.endHold t why) := by
  unfold State.endHold
  rw [h]
  exact (Onward.kept _).wr.raise.issueAll.holds

theorem State.endHold_sides (s : State) (t why : Nat) :
    (s.endHold t why).act.side = s.act.side ∧ (s.endHold t why).mir.side = s.mir.side := by
  cases h : s.dbg.hold with
  | none =>
    rw [State.endHold_none t why h]
    exact ⟨rfl, rfl⟩
  | some x =>
    have he := s.endHold_onward t why h
    obtain ⟨_, _, hm⟩ := s.modTap_eq s.act.side DebugPort.unheld
    rw [hm] at he
    exact ⟨he.actSide, he.mirSide⟩

/-! ### Swap and rejoin -/

theorem State.busUp_active {code : Nat} (h : s.busUp code = true) : s.active = true := by
  unfold State.busUp State.hubUp at h
  simp only [Bool.and_eq_true] at h
  exact h.1.1

theorem swap_starts {a : Nat} (hup : s.busUp 0 = true) (hnone : s.failover = none) (hsync : s.mch.mstate = .inSync) :
    Answers (.swap a) s fun t => t.active = true ∧ t.failover = some { cause := 7, at_ := a, swap := true } := by
  have hstart := (s.at a).failoverStart_onward 7 a
  refine ⟨(s.at a).failoverStart 7 a, congrArg Host.Outcome.next ?_, ?_, hstart.failover⟩
  · rw [if_pos (by simp [hup, hnone])]
    exact if_pos hsync
  · exact hstart.active.trans (by simp [State.failing, State.busUp_active hup])

theorem swap_unmirrored {a : Nat} (hup : s.busUp 0 = true) (hnone : s.failover = none) (hsync : s.mch.mstate ≠ .inSync) :
    Answers (.swap a) s fun t => t.active = true ∧ t.failover = none ∧ Reports s 0x0F06 t := by
  have hfire := (Onward.kept (s.at a)).raise (code := 0x0F06) (sev := 1) (data := [s.mch.mstate.code]) (c := none) (seq := 0)
    (addr := 0) |>.holds
  refine ⟨(s.at a).raise 0x0F06 1 [s.mch.mstate.code], congrArg Host.Outcome.next ?_, hfire.active.trans (State.busUp_active hup),
    hfire.failover.trans hnone, (State.raise_reports _ _ _ _ _ _ _).of_same rfl rfl⟩
  rw [if_pos (by simp [hup, hnone])]
  exact if_neg hsync

theorem swap_underWay {a : Nat} {fo : Failover} (h : s.failover = some fo) : Answers (.swap a) s fun t => t = s :=
  ⟨s, congrArg Host.Outcome.next (if_neg (by simp [h])), rfl⟩

theorem rejoin_done (hup : s.busUp 0 = true) (hheld : s.mch.mstate = .held) :
    Answers .rejoin s fun t => t.mch.mstate = .out ∧ t.mir = HubCore.fresh s.mir.side false :=
  ⟨rejoin s, congrArg Host.Outcome.next (if_pos ⟨hup, hheld⟩), rfl, rfl⟩

/-! ### Takeover -/

theorem execMirrorTakeover_of {a : Nat} {fo : Failover} (h : s.failover = some fo) :
    execMirrorTakeover a s = .next (if s.mir.inReset || (fo.swap && !s.atIdle) then s else mirrorTakeover a fo s) := by
  unfold execMirrorTakeover
  rw [h]

theorem mirrorTakeover_waits {a : Nat} {fo : Failover} (h : s.failover = some fo) (hswap : fo.swap = true) (hidle : s.atIdle = false) :
    Answers (.mirrorTakeover a) s fun t => t = s :=
  ⟨s, (execMirrorTakeover_of h).trans (congrArg Host.Outcome.next (if_pos (by simp [hswap, hidle]))), rfl⟩

/-- What follows the change of the roles, phases 3 and 4 of R403, leaves them. -/
theorem mirrorTakeover_onward (a : Nat) (fo : Failover) (s : State) :
    Onward (((s.at a).endHold (max a s.now) 3).takeOver fo) (mirrorTakeover a fo s) := by
  unfold mirrorTakeover
  extract_lets s0 ev s1 s2 steps cols s3 s4 n src s5
  have h1 : Kept (Onward (s0.takeOver fo)) s1 := (Onward.kept _).portsAgain.enqueue
  have h2 := (h1.recordsAgain.wellsAgain.loadsLost (l := s0.work.load) (t := s0.work.tload)).foldl (fun ht x => ht.colAnew (ch := x))
    (l := List.finRange 16)
  have h4 : Kept (Onward (s0.takeOver fo)) s4 := h2.phase4.foldl fun ht x => ht.portCheck (p := x)
  clear_value s4 n
  have h5 : Kept (Onward (s0.takeOver fo)) s5 := h4.upd
  exact h5.raise.checkBypass.holds

theorem State.takeOver_mirSide (s : State) (fo : Failover) : (s.takeOver fo).mir.side = s.act.side := by
  unfold State.takeOver
  dsimp only
  split <;> rfl

theorem mirrorTakeover_roles {a : Nat} {fo : Failover} (h : s.failover = some fo) (hmir : s.mir.inReset = false)
    (hidle : fo.swap = true → s.atIdle = true) : Answers (.mirrorTakeover a) s fun t => t.active = true ∧ t.failover = none ∧
      t.act.side = s.mir.side ∧ t.mir.side = s.act.side ∧ t.mch.mstate = if fo.swap then .inSync else .held := by
  have hgo : ¬(s.mir.inReset || (fo.swap && !s.atIdle)) = true := by
    cases hswap : fo.swap with
    | false => simp [hmir]
    | true => simp [hmir, hidle hswap]
  have hrun := mirrorTakeover_onward a fo s
  obtain ⟨hact, hold⟩ := (s.at a).endHold_sides (max a s.now) 3
  generalize (s.at a).endHold (max a s.now) 3 = u at hrun hact hold
  exact ⟨mirrorTakeover a fo s, (execMirrorTakeover_of h).trans (congrArg Host.Outcome.next (if_neg hgo)), hrun.active, hrun.failover,
    hrun.actSide.trans hold, hrun.mirSide.trans ((u.takeOver_mirSide fo).trans hact), hrun.mstate⟩

/-- Settles O46: what SWAP, REJOIN and MIRROR_TAKEOVER do with the roles. -/
theorem rolesChange : Obligations.RolesChange := by
  unfold Obligations.RolesChange
  intro s
  exact ⟨fun _ hup hnone => ⟨swap_starts hup hnone, swap_unmirrored hup hnone⟩, fun _ _ => swap_underWay, rejoin_done,
    fun _ _ => mirrorTakeover_waits, fun _ _ => mirrorTakeover_roles⟩

end

end Sys2Proof.Machine
end

section
/-!
SUPPORT. The debug ports and the ends of an arbiter hold: O48.
-/

namespace Sys2Proof.Machine

open Sys2Proof

-- one theorem after the other: a thread for each of so many short ones does not fit the memory of the check
set_option Elab.async false

section
variable {s : State} {side : Side}

/-! ### Instructions -/

theorem idcode_done (hrst : (s.tap side).trst = false) :
    Answers (.idcode side) s fun t => (t.tap side).ir = 0x01 ∧ Drives t (.tdo (s.viewOf side DBG_IDCODE.reg)) :=
  ⟨idcode side s, congrArg Host.Outcome.next (if_neg (by simp [hrst])), congrArg DebugPort.ir (s.tap_modTap side _), List.mem_cons_self⟩

theorem tapBypass_done {code : Byte} (hrst : (s.tap side).trst = false) :
    Answers (.tapBypass side code) s fun t => (t.tap side).ir = code :=
  ⟨tapBypass side code s, congrArg Host.Outcome.next (if_neg (by simp [hrst])), congrArg DebugPort.ir (s.tap_modTap side _)⟩

theorem regacc_read {off : Nat} {v : Word} (hacts : s.debugActs side = true) (hdec : decodes (wordOff off) = true) :
    Answers (.regacc side false off v) s fun t => Drives t (.tdo ((s.setIr side 0x20).readWord .debug side (wordOff off))) := by
  refine ⟨regacc side false off v s, congrArg Host.Outcome.next (if_pos hacts), ?_⟩
  unfold regacc
  dsimp only
  rw [if_neg (by simp [hdec]), if_neg Bool.false_ne_true]
  exact List.mem_cons_self

theorem regacc_masked {wr : Bool} {off : Nat} {v : Word} (hacts : s.debugActs side = false) (hrst : (s.tap side).trst = false) :
    Answers (.regacc side wr off v) s fun t => t = s.setIr side 0x20 :=
  ⟨s.setIr side 0x20, congrArg Host.Outcome.next (by simp [hacts, hrst]), rfl⟩

/-! ### The end of a hold -/

/-- The ports after the end of a hold: that of the active Hub holds no arbiter. -/
theorem State.endHold_tap (s : State) (t why : Nat) (side : Side) :
    (s.endHold t why).tap side = if side = s.act.side then (s.tap side).unheld else s.tap side := by
  cases h : s.dbg.hold with
  | none =>
    rw [State.endHold_none t why h]
    split
    · next hside =>
      have hold : (s.tap side).hold = none := by rw [hside]; exact h
      unfold DebugPort.unheld
      rw [← hold]
    · rfl
  | some x =>
    rw [(s.endHold_onward t why h).tap side]
    cases side <;> cases hact : s.act.side <;> rfl

theorem State.endHold_released (s : State) (t why : Nat) : (s.endHold t why).dbg.hold = none := by
  unfold State.dbg
  rw [(s.endHold_sides t why).1, s.endHold_tap t why, if_pos rfl]
  rfl

theorem State.issueAll_traffic (s : State) : UpToTraffic s s.issueAll :=
  UpToTraffic.trans (t := { s with host := { s.host with queue := [] } }) (.of_same (fun _ => rfl) rfl rfl rfl rfl)
    (UpToTraffic.foldl _ _ State.issueOne_traffic)

/-- The end of a hold in its parts: the hold's time, event 0x0112, and the requests of the owner that goes on. -/
theorem State.endHold_traffic {x : Nat × Nat} (s : State) (t why : Nat) (h : s.dbg.hold = some x) : ∃ v data,
    UpToTraffic (((s.modTap s.act.side DebugPort.unheld).wr DBG_HOLD_MAX.NS v).raise 0x0112 0 data) (s.endHold t why) := by
  unfold State.endHold
  rw [h]
  exact ⟨_, _, State.issueAll_traffic _⟩

theorem State.endHold_reports {x : Nat × Nat} (s : State) (t why : Nat)
    (h : s.dbg.hold = some x) : Reports s 0x0112 (s.endHold t why) := by
  obtain ⟨v, data, htraffic⟩ := s.endHold_traffic t why h
  obtain ⟨_, _, hm⟩ := s.modTap_eq s.act.side DebugPort.unheld
  refine htraffic.reports ((State.raise_reports _ _ _ _ _ _ _).of_same ?_ ?_)
  · rw [State.wr_hubUp, hm]
    rfl
  · rw [State.wr_evq, hm]

/-- The end of a hold leaves the registers, but for the longest hold and what traffic counts. -/
theorem State.endHold_rd (s : State) (t why : Nat) (f : Fld) (hmax : f.off ≠ DBG_HOLD_MAX.reg) (hlost : f.off ≠ RNG_EQ_LOST.reg)
    (hacc : accounting f.off = false) : (s.endHold t why).rd f = s.rd f := by
  cases h : s.dbg.hold with
  | none => rw [State.endHold_none t why h]
  | some x =>
    obtain ⟨v, data, htraffic⟩ := s.endHold_traffic t why h
    obtain ⟨_, _, hm⟩ := s.modTap_eq s.act.side DebugPort.unheld
    rw [htraffic.rd f hlost hacc, (State.raise_traffic _ _ _ _ _ _ _).rd f hlost hacc, State.wr_rd_ne _ _ _ _ hmax, hm]
    rfl

/-! ### ARBHOLD -/

/-- The chip as the ARBHOLD instruction reaches it at a time. -/
def State.arbhold (s : State) (t : Nat) : State := (s.at t).setIr s.act.side 0x21

theorem State.arbhold_eq (s : State) (t : Nat) : ∃ a b, s.arbhold t = { s with now := max s.now t, tapA := a, tapB := b } :=
  (s.at t).modTap_eq s.act.side fun d => { d with ir := 0x21 }

theorem State.arbhold_hold (s : State) (t : Nat) : (s.arbhold t).dbg.hold = s.dbg.hold := by
  unfold State.dbg State.arbhold State.setIr
  cases h : s.act.side <;> simp [State.modTap, State.tap, h]

theorem arbholdTake_done {a : Nat} (hacts : s.debugActs s.act.side = true) (hnone : s.dbg.hold = none) :
    Answers (.arbholdTake a) s fun t => t.dbg.hold = some (s.rd DBG_ARBSEL.ARB, max s.now a) ∧ Reports s 0x0111 t := by
  obtain ⟨p, q, he⟩ := s.arbhold_eq a
  have hold : (s.arbhold a).dbg.hold = none := (s.arbhold_hold a).trans hnone
  have htake : arbholdTake a s = ((s.arbhold a).modTap s.act.side fun d => { d with
      hold := some (s.rd DBG_ARBSEL.ARB, max s.now a) }).raise 0x0111 1 [s.rd DBG_ARBSEL.ARB] := by
    unfold arbholdTake
    rw [show (s.at a).setIr s.act.side 0x21 = s.arbhold a from rfl]
    dsimp only
    rw [hold, he]
    rfl
  refine ⟨arbholdTake a s, congrArg Host.Outcome.next (if_pos hacts), ?_⟩
  obtain ⟨x, y, hm⟩ := (s.arbhold a).modTap_eq s.act.side fun d => { d with hold := some (s.rd DBG_ARBSEL.ARB, max s.now a) }
  have htap := (s.arbhold a).tap_modTap s.act.side fun d => { d with hold := some (s.rd DBG_ARBSEL.ARB, max s.now a) }
  have hfire := (Onward.kept ((s.arbhold a).modTap s.act.side fun d => { d with hold := some (s.rd DBG_ARBSEL.ARB, max s.now a) })).raise
    (code := 0x0111) (sev := 1) (data := [s.rd DBG_ARBSEL.ARB]) (c := none) (seq := 0) (addr := 0) |>.holds
  rw [htake]
  refine ⟨?_, (State.raise_reports _ _ _ _ _ _ _).of_same (by rw [hm, he]; rfl) (by rw [hm, he])⟩
  have hside : ((s.arbhold a).modTap s.act.side fun d => { d with hold := some (s.rd DBG_ARBSEL.ARB, max s.now a) }).act.side =
      s.act.side := by rw [hm, he]
  unfold State.dbg
  rw [hfire.actSide, hfire.tap, hside, htap]

theorem arbholdRelease_done {a : Nat} {x : Nat × Nat} (hacts : s.debugActs s.act.side = true) (hold : s.dbg.hold = some x) :
    Answers (.arbholdRelease a) s fun t => t.dbg.hold = none ∧ Reports s 0x0112 t := by
  obtain ⟨p, q, he⟩ := s.arbhold_eq a
  refine ⟨(s.arbhold a).endHold (s.arbhold a).now 0, congrArg Host.Outcome.next (if_pos hacts), State.endHold_released _ _ _,
    (State.endHold_reports _ _ _ ((s.arbhold_hold a).trans hold)).of_same ?_ ?_⟩
  · rw [he]
    rfl
  · rw [he]

/-! ### Freeze and mask -/

theorem State.rasIrq_rd_ne (s : State) (f g : Fld) (h : g.off ≠ f.off) : (s.rasIrq f).rd g = s.rd g := by
  unfold State.rasIrq
  split
  · dsimp only
    split
    · exact State.wr_rd_ne s f g 1 h
    · exact State.wr_rd_ne s f g 1 h
  · rfl

theorem State.setFrozen_debug (s : State) (d : Nat) : s.setFrozen .debug d =
    ((s.wr RAS_FREEZE.DEBUG 1).raiseFrom s.hubPart 0 0x0D07 3 [3, 0, d]).rasIrq RAS_IRQ_STATUS.FREEZE := rfl

theorem State.setFrozen_debug_rd (s : State) (d : Nat) : (s.setFrozen .debug d).rd RAS_FREEZE.DEBUG = 1 := by
  rw [State.setFrozen_debug, State.rasIrq_rd_ne _ _ _ (by decide), State.rd,
    State.raiseFrom_word_ne _ _ _ _ _ _ _ _ _ (by decide), ← State.rd, State.wr_rd _ _ _ (by decide)]
  rfl

theorem State.setFrozen_debug_reports (s : State) (d : Nat) : Reports s 0x0D07 (s.setFrozen .debug d) := by
  have hirq := (Onward.kept ((s.wr RAS_FREEZE.DEBUG 1).raiseFrom s.hubPart 0 0x0D07 3 [3, 0, d])).rasIrq
    (f := RAS_IRQ_STATUS.FREEZE) |>.holds
  rw [State.setFrozen_debug]
  refine hirq.reports ((State.raiseFrom_reports _ _ _ _ _ _ _ _ _).of_same ?_ ?_)
  · exact (State.wr_hubUp _ _ _).symm
  · exact (congrArg EventQueue.waiting (State.wr_evq _ _ _)).symm

theorem debugHoldTimeout_done {x : Nat × Nat} (hold : s.dbg.hold = some x) :
    Answers .debugHoldTimeout s fun t => t.dbg.hold = none ∧ t.rd RAS_FREEZE.DEBUG = 1 ∧ Reports s 0x0D07 t := by
  obtain ⟨arb, since⟩ := x
  have hexec : execDebugHoldTimeout s = .next (debugHoldTimeout since s) := by
    unfold execDebugHoldTimeout
    rw [hold]
  refine ⟨debugHoldTimeout since s, hexec, ?_⟩
  unfold debugHoldTimeout
  extract_lets u
  have hfrozen : Onward u (u.setFrozen .debug DBG_ARBSEL.reg) := (Onward.kept u).setFrozen.holds
  have hrd := u.setFrozen_debug_rd DBG_ARBSEL.reg
  have hrep : Reports s 0x0D07 (u.setFrozen .debug DBG_ARBSEL.reg) := (u.setFrozen_debug_reports DBG_ARBSEL.reg).of_same rfl rfl
  generalize u.setFrozen .debug DBG_ARBSEL.reg = v at hfrozen hrd hrep ⊢
  have hheld : v.dbg.hold = some (arb, since) := by
    unfold State.dbg
    rw [hfrozen.actSide, hfrozen.tap]
    exact hold
  refine ⟨State.endHold_released _ _ _, ?_, ?_⟩
  · rw [State.endHold_rd _ _ _ _ (by decide) (by decide) (by decide), hrd]
  · obtain ⟨_, _, hm⟩ := v.modTap_eq v.act.side DebugPort.unheld
    have hon := v.endHold_onward u.now 1 hheld
    rw [hm] at hon
    have hb : Beside v (v.endHold u.now 1) := { hon.beside with }
    exact hb.reports hrep

/-- A debug port at its two pins. -/
def DebugPort.pinned (rst en : Bool) (d : DebugPort) : DebugPort := { d with en := en, trst := rst, ir := if rst then 0xFF else d.ir }

theorem dbgTrst_eq (side : Side) (rst en : Bool) (a : Nat) (s : State) : dbgTrst side rst en a s =
    if side = ((s.at a).modTap side (DebugPort.pinned rst en)).act.side ∧ (rst ∨ !en) then
      ((s.at a).modTap side (DebugPort.pinned rst en)).endHold ((s.at a).modTap side (DebugPort.pinned rst en)).now 2
    else (s.at a).modTap side (DebugPort.pinned rst en) := rfl

theorem dbgTrst_done (s : State) (side : Side) (rst en : Bool) (a : Nat) : Answers (.dbgTrst side rst en a) s fun t =>
    (t.tap side).en = en ∧ (t.tap side).trst = rst ∧ (rst = true → (t.tap side).ir = 0xFF) ∧
      (side = s.act.side → rst = true ∨ en = false → t.dbg.hold = none) := by
  refine ⟨dbgTrst side rst en a s, rfl, ?_⟩
  have htap := (s.at a).tap_modTap side (DebugPort.pinned rst en)
  have hact : ((s.at a).modTap side (DebugPort.pinned rst en)).act.side = s.act.side := by
    obtain ⟨_, _, hm⟩ := (s.at a).modTap_eq side (DebugPort.pinned rst en)
    rw [hm]
    rfl
  dsimp only
  rw [dbgTrst_eq]
  generalize (s.at a).modTap side (DebugPort.pinned rst en) = u at htap hact ⊢
  have hir : rst = true → (u.tap side).ir = 0xFF := fun h => by rw [htap, h]; rfl
  split
  · next hmask =>
    obtain ⟨hside, -⟩ := hmask
    rw [u.endHold_tap, if_pos hside]
    exact ⟨by rw [htap]; rfl, by rw [htap]; rfl, hir, fun _ _ => u.endHold_released _ _⟩
  · next hmask =>
    exact ⟨by rw [htap]; rfl, by rw [htap]; rfl, hir, fun hs hm => absurd ⟨hs.trans hact.symm, by simpa using hm⟩ hmask⟩

/-- Settles O48: what each instruction of the debug ports does, and how a hold ends. -/
theorem debugPorts : Obligations.DebugPorts := by
  unfold Obligations.DebugPorts
  intro s side
  exact ⟨idcode_done, fun _ => tapBypass_done, fun _ _ => regacc_read, fun _ _ _ => regacc_masked, fun _ => arbholdTake_done,
    fun _ _ => arbholdRelease_done, fun _ => debugHoldTimeout_done, dbgTrst_done s side⟩

end

end Sys2Proof.Machine
end

section
/-!
SUPPORT. Residue failures, fences, uncorrectable words and core faults: O44.
-/

namespace Sys2Proof.Machine

open Sys2Proof

-- one theorem after the other: a thread for each of so many short ones does not fit the memory of the check
set_option Elab.async false

section
variable {s t u : State} {f g : Fld} {l : List Nat}

/-! ### What reports and counts leave -/

/-- The states differ in registers, in what the mirror is sent of them, and in what is driven. -/
def WordsOnly (s t : State) : Prop := ∃ o a x m, t = { s with out := o, act := { s.act with win := a }, cwin := x, mch := m }

namespace WordsOnly

theorem refl (s : State) : WordsOnly s s := ⟨s.out, s.act.win, s.cwin, s.mch, rfl⟩

theorem trans (h : WordsOnly s t) (h' : WordsOnly t u) : WordsOnly s u := by
  obtain ⟨_, _, _, _, rfl⟩ := h
  obtain ⟨o, a, x, m, rfl⟩ := h'
  exact ⟨o, a, x, m, rfl⟩

theorem wr (h : WordsOnly s t) (v : Nat) : WordsOnly s (t.wr f v) := by
  obtain ⟨a, x, m, he⟩ := State.setWord_eq t f.off (f.put (t.word f.off) v)
  exact h.trans ⟨t.out, a, x, m, he⟩

theorem emit (h : WordsOnly s t) (e : Emission) : WordsOnly s (t.emit e) := h.trans ⟨_, t.act.win, t.cwin, t.mch, rfl⟩

theorem ite {p : Prop} [Decidable p] (ht : WordsOnly s t) (hu : WordsOnly s u) : WordsOnly s (if p then t else u) := by
  split
  · exact ht
  · exact hu

theorem rasIrq (h : WordsOnly s t) : WordsOnly s (t.rasIrq f) := ite (ite ((h.wr 1).emit _) (h.wr 1)) h

theorem bump (h : WordsOnly s t) : WordsOnly s (t.bump f) := h.wr _

theorem wells (h : WordsOnly s t) : t.wells = s.wells := by obtain ⟨_, _, _, _, rfl⟩ := h; rfl

theorem now (h : WordsOnly s t) : t.now = s.now := by obtain ⟨_, _, _, _, rfl⟩ := h; rfl

/-- What is reported after a write of registers is reported since before it. -/
theorem reports {code : Nat} (h : WordsOnly s t) (hr : Reports t code u) : Reports s code u := by
  obtain ⟨_, _, _, _, rfl⟩ := h
  exact hr.of_same rfl rfl

end WordsOnly

/-- The registers outside the list are untouched, the accounting counters and the counter of lost records apart. -/
def Untouched (l : List Nat) (s t : State) : Prop :=
  ∀ off, off ∉ l → off ≠ RNG_EQ_LOST.reg → accounting off = false → t.word off = s.word off

namespace Untouched

theorem of_word (h : ∀ off, t.word off = s.word off) : Untouched l s t := fun off _ _ _ => h off

theorem refl (s : State) : Untouched l s s := of_word fun _ => rfl

theorem trans (h : Untouched l s t) (h' : Untouched l t u) : Untouched l s u :=
  fun off h1 h2 h3 => (h' off h1 h2 h3).trans (h off h1 h2 h3)

theorem traffic (h : Untouched l s t) (h' : UpToTraffic t u) : Untouched l s u := h.trans fun off _ h2 h3 => h'.word off h2 h3

theorem ite {p : Prop} [Decidable p] (ht : Untouched l s t) (hu : Untouched l s u) : Untouched l s (if p then t else u) := by
  split
  · exact ht
  · exact hu

theorem foldl {β : Type} {k : State → β → State} {xs : List β} (h : Untouched l s t)
    (hk : ∀ {v : State}, Untouched l s v → ∀ x, Untouched l s (k v x)) : Untouched l s (xs.foldl k t) :=
  foldl_keeps (P := Untouched l s) xs h fun _ x hv => hk hv x

theorem wr (h : Untouched l s t) (v : Nat) (hf : f.off ∈ l) : Untouched l s (t.wr f v) :=
  h.trans fun _ h1 _ _ => State.wr_word_ne t f v fun he => h1 (he ▸ hf)

theorem wrIf (h : Untouched l s t) (v : Nat) (hf : f.off ∈ l) : Untouched l s (t.wrIf f v) := ite h (h.wr v hf)

theorem bump (h : Untouched l s t) (hf : f.off ∈ l) : Untouched l s (t.bump f) := h.wr _ hf

theorem rasIrq (h : Untouched l s t) (hf : f.off ∈ l) : Untouched l s (t.rasIrq f) := ite (ite (h.wr 1 hf) (h.wr 1 hf)) h

theorem raiseFrom {part num code sev : Nat} {data : List Nat} {c : Option Ctx} {seq : Word} {addr : Nat} (h : Untouched l s t) :
    Untouched l s (t.raiseFrom part num code sev data c seq addr) := h.traffic (State.raiseEv_traffic t _)

theorem wellAbsent (h : Untouched l s t) (w : WellNo) : Untouched l s (t.wellAbsent w) := by
  obtain ⟨v, k, hv, -, ht⟩ := State.wellAbsent_eq t w
  have hmod : Untouched l s (v.modWell w k) := (h.traffic hv).trans (of_word fun _ => rfl)
  exact hmod.traffic ht

theorem rd (h : Untouched l s t) (h1 : f.off ∉ l) (h2 : f.off ≠ RNG_EQ_LOST.reg) (h3 : accounting f.off = false) : t.rd f = s.rd f :=
  congrArg f.get (h f.off h1 h2 h3)

theorem counted {r : State} {n : Nat} (h : Untouched l s t) (hc : Counted r s f n) (h1 : f.off ∉ l) (h2 : f.off ≠ RNG_EQ_LOST.reg)
    (h3 : accounting f.off = false) : Counted r t f n := (h.rd h1 h2 h3).trans hc

end Untouched

/-! ### Fences (R385, R386) -/

/-- The accounting counters lie in the CTX block. -/
theorem accounting_outside {off : Nat} (h : off < 0x0D1000 ∨ 0x0D1800 ≤ off) : accounting off = false := by
  unfold accounting
  rw [Bool.and_eq_false_iff, decide_eq_false_iff_not]
  omega

theorem fenceFld_apart (part : Nat) : (fenceFld part).off ∉ [RAS_IRQ_STATUS.reg] ∧ (fenceFld part).off ≠ RNG_EQ_LOST.reg ∧
    accounting (fenceFld part).off = false := by
  unfold fenceFld
  split
  · have hoff : (WEL_FENCE.FENCED part).off = 0x080010 + 0x2000 * part := rfl
    refine ⟨?_, ?_, accounting_outside (by omega)⟩
    · rw [List.mem_singleton, hoff, show RAS_IRQ_STATUS.reg = 0x0F0044 from rfl]
      omega
    · rw [hoff, show RNG_EQ_LOST.reg = 0x020014 from rfl]
      omega
  · decide

theorem fenceFld_len (part : Nat) : (fenceFld part).len = partEngines part := by
  unfold fenceFld partEngines
  split <;> rfl

theorem fenceFld_fits (part : Nat) : (fenceFld part).lo + (fenceFld part).len ≤ 32 := by
  unfold fenceFld
  split
  · exact (by decide : 0 + 16 ≤ 32)
  · decide

section
variable {part engine : Nat} {residue : Bool} {step : Option (Ctx × Word)}

/-- Beside the bit of its engine a fence changes RAS_IRQ_STATUS only. -/
theorem State.fence_untouched (s : State) : Untouched [RAS_IRQ_STATUS.reg] (s.wr (fenceFld part) (s.rd (fenceFld part) ||| 2 ^ engine))
    (s.fence part engine residue step) := by
  unfold State.fence
  extract_lets s1 before why w2 s2 s3
  have h2 : Untouched [RAS_IRQ_STATUS.reg] s1 s2 := by
    unfold s2
    split
    · exact .of_word fun _ => rfl
    · exact .of_word fun _ => rfl
  have h3 : Untouched [RAS_IRQ_STATUS.reg] s1 s3 := h2.raiseFrom.rasIrq (List.mem_singleton.mpr rfl)
  split
  · exact (h3.wellAbsent _).ite h3
  · exact h3

theorem State.fence_fenced (s : State) (h : engine < partEngines part) :
    ((s.fence part engine residue step).rd (fenceFld part)).testBit engine = true := by
  obtain ⟨h1, h2, h3⟩ := fenceFld_apart part
  rw [s.fence_untouched.rd h1 h2 h3, State.wr_rd _ _ _ (fenceFld_fits part), Nat.testBit_mod_two_pow, fenceFld_len, Nat.testBit_or,
    Nat.testBit_two_pow_self]
  simp [h]

/-- The residue counter is no fence. -/
theorem residueCnt_apart (part : Nat) : RAS_RESIDUE_CNT.COUNT.off ≠ (fenceFld part).off := by
  unfold fenceFld
  split
  · have hoff : (WEL_FENCE.FENCED part).off = 0x080010 + 0x2000 * part := rfl
    have hcnt : RAS_RESIDUE_CNT.COUNT.off = 0x0F0010 := rfl
    omega
  · decide

theorem State.setOnce_failedOnce (s : State) (part : Nat) (b : Bool) : (s.setOnce part b).failedOnce part = b := by
  unfold State.setOnce State.failedOnce
  by_cases h : part < 24
  · rw [dif_pos h, dif_pos h, State.modWell_same]
  · rw [dif_neg h, dif_neg h]

theorem State.setOnce_word (s : State) (part : Nat) (b : Bool) (off : Nat) : (s.setOnce part b).word off = s.word off := by
  unfold State.setOnce
  split <;> rfl

/-- A residue failure as it is counted and reported. -/
def State.residueSeen (s : State) (part engine cell : Nat) : State :=
  (s.bump RAS_RESIDUE_CNT.COUNT).raiseFrom part engine 0x0D04 1 [part, engine, cell]

theorem State.residueSeen_counted (s : State) (part engine cell : Nat) :
    Counted s (s.residueSeen part engine cell) RAS_RESIDUE_CNT.COUNT 1 :=
  ((Untouched.refl (l := []) (s.bump RAS_RESIDUE_CNT.COUNT)).raiseFrom).counted (State.bump_rd _ _ (by decide)) (by decide) (by decide)
    (by decide)

theorem State.residueSeen_reports (s : State) (part engine cell : Nat) : Reports s 0x0D04 (s.residueSeen part engine cell) :=
  (WordsOnly.refl s).bump.reports (State.raiseFrom_reports _ _ _ _ _ _ _ _ _)

theorem residueFailure_eq (part engine cell : Nat) (s : State) : residueFailure part engine cell s =
    if s.failedOnce part then (s.residueSeen part engine cell).fence part engine true none
    else (s.residueSeen part engine cell).setOnce part true := rfl

theorem residueFailure_done {cell : Nat} (hup : s.hubUp = true) (hruns : s.tileRuns part = true) (heng : engine < partEngines part)
    (hbit : (s.rd (fenceFld part)).testBit engine = false) :
    Answers (.residueFailure part engine cell) s fun t => Counted s t RAS_RESIDUE_CNT.COUNT 1 ∧ Reports s 0x0D04 t ∧
      (s.failedOnce part = false → t.failedOnce part = true) ∧
      (s.failedOnce part = true → (t.rd (fenceFld part)).testBit engine = true) := by
  refine ⟨residueFailure part engine cell s, congrArg Host.Outcome.next (if_pos (by simp [hup, hruns, heng, hbit])), ?_⟩
  have hcount := s.residueSeen_counted part engine cell
  have hrep := s.residueSeen_reports part engine cell
  rw [residueFailure_eq]
  generalize s.residueSeen part engine cell = r at hcount hrep ⊢
  cases honce : s.failedOnce part with
  | false =>
    rw [if_neg Bool.false_ne_true]
    refine ⟨?_, ?_, fun _ => r.setOnce_failedOnce part true, fun h => Bool.noConfusion h⟩
    · exact (congrArg RAS_RESIDUE_CNT.COUNT.get (r.setOnce_word part true _)).trans hcount
    · have hset : Onward r (r.setOnce part true) := (Onward.kept r).setOnce.holds
      exact hset.reports hrep
  | true =>
    rw [if_pos rfl]
    have hfence : Onward r (r.fence part engine true none) := (Onward.kept r).fence.holds
    refine ⟨?_, hfence.reports hrep, fun h => Bool.noConfusion h, fun _ => r.fence_fenced heng⟩
    exact (r.fence_untouched.counted ((State.wr_rd_ne _ _ _ _ (residueCnt_apart part)).trans hcount) (by decide) (by decide) (by decide))

/-- The bits that an engine leaves in the fences of its part. -/
def restMask (part engine : Nat) : Nat := if part < 24 then 0xFFFF ^^^ 2 ^ engine else 0xF ^^^ 2 ^ engine

theorem restMask_testBit (h : engine < partEngines part) : (restMask part engine).testBit engine = false := by
  unfold restMask
  unfold partEngines at h
  split
  · rw [if_pos ‹_›] at h
    rw [Nat.testBit_xor, Nat.testBit_two_pow_self, show 0xFFFF = 2 ^ 16 - 1 from rfl, Nat.testBit_two_pow_sub_one]
    simp [h]
  · rw [if_neg ‹_›] at h
    rw [Nat.testBit_xor, Nat.testBit_two_pow_self, show 0xF = 2 ^ 4 - 1 from rfl, Nat.testBit_two_pow_sub_one]
    simp [h]

theorem State.unfence_untouched (s : State) (part engine : Nat) :
    Untouched [RAS_IRQ_STATUS.reg] (s.wr (fenceFld part) (s.rd (fenceFld part) &&& restMask part engine)) (s.unfence part engine) := by
  unfold State.unfence fenceFld restMask
  extract_lets w1 s1
  have h1 : Untouched [RAS_IRQ_STATUS.reg] (s.wr (if part < 24 then WEL_FENCE.FENCED part else RAS_FENCE_HUB.FENCED)
      (s.rd (if part < 24 then WEL_FENCE.FENCED part else RAS_FENCE_HUB.FENCED) &&&
        if part < 24 then 0xFFFF ^^^ 2 ^ engine else 0xF ^^^ 2 ^ engine)) s1 := by
    unfold s1
    by_cases h : part < 24
    · rw [dif_pos h, if_pos h, if_pos h]
      exact .of_word fun _ => by simp only [State.wr, State.setWord]; split <;> rfl
    · rw [dif_neg h, if_neg h, if_neg h]
      exact .of_word fun _ => rfl
  exact h1.raiseFrom.rasIrq (List.mem_singleton.mpr rfl)

theorem State.unfence_testBit (s : State) (part engine i : Nat) : ((s.unfence part engine).rd (fenceFld part)).testBit i =
    (decide (i < partEngines part) && ((s.rd (fenceFld part)).testBit i && (restMask part engine).testBit i)) := by
  obtain ⟨h1, h2, h3⟩ := fenceFld_apart part
  rw [(s.unfence_untouched part engine).rd h1 h2 h3, State.wr_rd _ _ _ (fenceFld_fits part), Nat.testBit_mod_two_pow, fenceFld_len,
    Nat.testBit_and]

/-- An engine that is out of its fence, or comes out of it, is out of it at the end. -/
theorem State.unfence_all {i : Nat} (hi : i < partEngines part) (xs : List Nat) (h : i ∈ xs ∨ (s.rd (fenceFld part)).testBit i = false) :
    ((xs.foldl (fun (s : State) (i : Nat) => s.unfence part i) s).rd (fenceFld part)).testBit i = false := by
  induction xs generalizing s with
  | nil => exact h.resolve_left List.not_mem_nil
  | cons x xs ih =>
    refine ih ?_
    rw [State.unfence_testBit]
    rcases h with h | h
    · rcases List.mem_cons.mp h with rfl | h
      · exact .inr (by rw [restMask_testBit hi, Bool.and_false, Bool.and_false])
      · exact .inl h
    · exact .inr (by rw [h, Bool.false_and, Bool.and_false])

theorem engineRelease_done {v : Word} {pass : BitVec 16} {i : Nat} (hup : s.hubUp = true) (harb : s.arbHeld 0 = false)
    (hpart : part < 24 ∨ part = s.hubPart) (hi : i < partEngines part) (hv : v.getLsbD i = true) (hpass : pass.getLsbD i = true) :
    Answers (.engineRelease part v pass) s fun t => (t.rd (fenceFld part)).testBit i = false := by
  refine ⟨engineRelease part v pass s, congrArg Host.Outcome.next (if_pos ⟨by simp [State.busUp, hup, harb], hpart⟩), ?_⟩
  refine State.unfence_all hi _ ?_
  cases hbit : (s.rd (fenceFld part)).testBit i with
  | false => exact .inr rfl
  | true => exact .inl (List.mem_filter.mpr ⟨List.mem_range.mpr hi, by simp [hv, hpass, hbit]⟩)
end

/-! ### Uncorrectable words (R387, R390, R391) -/

section
variable {part mem addr : Nat} {mis fixed : Bool} {w : WordRead}

theorem State.uncor_wordsOnly (s : State) (part mem addr : Nat) (mis : Bool) : WordsOnly s (s.uncor part mem addr mis) := by
  have h := (WordsOnly.refl s).bump (f := RAS_UNC_CNT.COUNT)
  exact WordsOnly.rasIrq (.wr (.wr (.wr (.wr (.ite h.bump h) _) _) _) _)

theorem State.uncor_counted (s : State) (part mem addr : Nat) (mis : Bool) : Counted s (s.uncor part mem addr mis) RAS_UNC_CNT.COUNT 1 := by
  have h : Untouched [RAS_ADDRMIS_CNT.reg, RAS_UE_ADDR_LO.reg, RAS_UE_ADDR_HI.reg, RAS_IRQ_STATUS.reg] (s.bump RAS_UNC_CNT.COUNT)
      (s.uncor part mem addr mis) := by
    have h0 := Untouched.refl (l := [RAS_ADDRMIS_CNT.reg, RAS_UE_ADDR_LO.reg, RAS_UE_ADDR_HI.reg, RAS_IRQ_STATUS.reg])
      (s.bump RAS_UNC_CNT.COUNT)
    have h1 := Untouched.ite (p := mis = true) (h0.bump (f := RAS_ADDRMIS_CNT.COUNT) (by decide)) h0
    exact .rasIrq (.wr (.wr (.wr (.wr h1 _ (by decide)) _ (by decide)) _ (by decide)) _ (by decide)) (by decide)
  exact h.counted (State.bump_rd _ _ (by decide)) (by decide) (by decide) (by decide)

/-- The read of an uncorrectable word counts it; its event and its abort are traffic. -/
theorem State.uncorRead_traffic (s : State) (w : WordRead) (fixed : Bool) :
    UpToTraffic (s.uncor w.part (memCode w.mem) w.addr ((wordVerdict w) == .mismatch)) (s.uncorRead w fixed) := by
  unfold State.uncorRead
  dsimp only
  generalize s.uncor w.part (memCode w.mem) w.addr ((wordVerdict w) == .mismatch) = r
  split
  · exact State.raise_traffic _ _ _ _ _ _ _
  · split
    · exact (State.raise_traffic _ _ _ _ _ _ _).trans (State.noticeLive_traffic _ _ _ _)
    · exact State.raise_traffic _ _ _ _ _ _ _

theorem State.uncorRead_reports (s : State) (w : WordRead) (fixed : Bool) : Reports s 0x0D02 (s.uncorRead w fixed) := by
  refine (s.uncor_wordsOnly w.part (memCode w.mem) w.addr ((wordVerdict w) == .mismatch)).reports ?_
  unfold State.uncorRead
  dsimp only
  generalize s.uncor w.part (memCode w.mem) w.addr ((wordVerdict w) == .mismatch) = r
  split
  · exact State.raise_reports _ _ _ _ _ _ _
  · split
    · exact (State.noticeLive_traffic _ _ _ _).reports (State.raise_reports _ _ _ _ _ _ _)
    · exact State.raise_reports _ _ _ _ _ _ _

theorem State.uncorRead_counted (s : State) (w : WordRead) (fixed : Bool) : Counted s (s.uncorRead w fixed) RAS_UNC_CNT.COUNT 1 :=
  ((Untouched.refl (l := []) _).traffic (s.uncorRead_traffic w fixed)).counted (s.uncor_counted _ _ _ _) (by decide) (by decide) (by decide)

/-- The states agree in their registers, and in what a Well's stack holds. -/
structure SameStack (k : WellNo) (s t : State) : Prop where
  word : ∀ off, t.word off = s.word off
  stack : t.wells[k].stack = s.wells[k].stack
  flips : t.wells[k].flips = s.wells[k].flips

theorem SameStack.trans {k : WellNo} (h : SameStack k s t) (h' : SameStack k t u) : SameStack k s u :=
  ⟨fun off => (h'.word off).trans (h.word off), h'.stack.trans h.stack, h'.flips.trans h.flips⟩

theorem State.voidLedger_sameStack (s : State) (k : WellNo) (c : Ctx) (p : LedgerEntry → Bool) : SameStack k s (s.voidLedger c p) := by
  unfold State.voidLedger
  dsimp only
  split <;> exact ⟨fun _ => rfl, rfl, rfl⟩

theorem State.modLog_sameStack (s : State) (k v : WellNo) (c : Ctx) (p : List LogEntry → List LogEntry) :
    SameStack k s (s.modLog v c p) := by
  by_cases h : k = v
  · subst h
    exact ⟨fun _ => rfl, by simp [State.modLog], by simp [State.modLog]⟩
  · have hne : (v : Nat) ≠ k := fun e => h (Fin.ext e.symm)
    exact ⟨fun _ => rfl, by simp [State.modLog, hne], by simp [State.modLog, hne]⟩

/-- Entries become invalid, registers and stacks stay. -/
theorem State.voidAt_sameStack (s : State) (k v : WellNo) (a : Nat) : SameStack k s (s.voidAt v a) := by
  unfold State.voidAt
  refine foldl_keeps (P := SameStack k s) _ ⟨fun _ => rfl, rfl, rfl⟩ fun r c hr => ?_
  dsimp only
  split
  · exact hr.trans (r.voidLedger_sameStack k c _)
  · exact (hr.trans (r.voidLedger_sameStack k c _)).trans (State.modLog_sameStack _ k v c _)

theorem storedWord_put (m : List (Nat × Byte)) (dflt : Nat → Byte) (fl : Flips) (a : Nat) (v : BitVec 80) :
    storedWord m dflt (Flips.put fl m dflt a v) a = v := by
  unfold storedWord Flips.put
  rw [sget_sput_same, ← BitVec.xor_assoc, BitVec.xor_self, BitVec.zero_xor]

theorem State.stackSet_stackWord (s : State) (k : WellNo) (a : Nat) (v : BitVec 80) : (s.stackSet k a v).stackWord k (a / 8 * 8) = v := by
  unfold State.stackWord State.stackSet
  rw [State.modWell_same]
  exact storedWord_put _ _ _ _ _

theorem wordRead_bad (s : State) (h : (wordVerdict w).bad = true) : wordRead w s = uncorrectableWord w (s.plantWord w) := by
  unfold wordRead
  cases hv : wordVerdict w with
  | clean => rw [hv] at h; exact Bool.noConfusion h
  | corrected v => rw [hv] at h; exact Bool.noConfusion h
  | uncorrectable => rfl
  | mismatch => rfl

theorem wordRead_corrected (s : State) {v : BitVec 80} (h : wordVerdict w = .corrected v) : wordRead w s = (s.plantWord w).wordFixed w := by
  unfold wordRead
  rw [h]

theorem execUncorrectableWord_of (hup : s.hubUp = true) (hpart : w.part < 26) : execUncorrectableWord w s = .next (wordRead w s) :=
  congrArg Host.Outcome.next (if_pos ⟨hup, hpart⟩)

theorem State.plantWord_stack (s : State) {k : WellNo} (hpart : w.part = k.val) (hmem : w.mem = .stack) :
    s.plantWord w = s.stackSet k w.addr w.word := by
  have hk : w.part < 24 := hpart ▸ k.isLt
  unfold State.plantWord
  rw [hmem]
  dsimp only
  rw [dif_pos hk]
  congr 1
  exact Fin.ext hpart

theorem uncorrectableWord_stack (s : State) {k : WellNo} (hpart : w.part = k.val) (hmem : w.mem = .stack) :
    uncorrectableWord w s = (s.uncorRead w false).voidAt k (w.addr / 8 * 8) := by
  have hk : w.part < 24 := hpart ▸ k.isLt
  have hfin : (⟨w.part, hk⟩ : WellNo) = k := Fin.ext hpart
  unfold uncorrectableWord
  dsimp only
  rw [if_pos (.inl hk), hmem]
  dsimp only
  rw [dif_pos hk, hfin]

theorem uncorrectable_stack {k : WellNo} (hup : s.hubUp = true) (hpart : w.part = k.val) (hmem : w.mem = .stack)
    (hbad : (wordVerdict w).bad = true) : Answers (.uncorrectableWord w) s fun t => Counted s t RAS_UNC_CNT.COUNT 1 ∧ Reports s 0x0D02 t ∧
      t.stackWord k (w.addr / 8 * 8) = w.word := by
  have hk : w.part < 26 := by have := k.isLt; omega
  refine ⟨wordRead w s, execUncorrectableWord_of hup hk, ?_⟩
  rw [wordRead_bad s hbad, s.plantWord_stack hpart hmem, uncorrectableWord_stack _ hpart hmem]
  have hset := s.stackSet_stackWord k w.addr w.word
  have hcount : Counted s ((s.stackSet k w.addr w.word).uncorRead w false) RAS_UNC_CNT.COUNT 1 := by
    have hrd : (s.stackSet k w.addr w.word).rd RAS_UNC_CNT.COUNT = s.rd RAS_UNC_CNT.COUNT := rfl
    unfold Counted
    rw [← hrd]
    exact State.uncorRead_counted _ _ _
  have hrep : Reports s 0x0D02 ((s.stackSet k w.addr w.word).uncorRead w false) := (State.uncorRead_reports _ _ _).of_same rfl rfl
  obtain ⟨_, hwell⟩ := (State.uncorRead_traffic (s.stackSet k w.addr w.word) w false).well k
  rw [(State.uncor_wordsOnly _ _ _ _ _).wells] at hwell
  generalize s.stackSet k w.addr w.word = p at hset hcount hrep hwell ⊢
  have hvoid := (p.uncorRead w false).voidAt_sameStack k k (w.addr / 8 * 8)
  have hon : Onward (p.uncorRead w false) ((p.uncorRead w false).voidAt k (w.addr / 8 * 8)) := (Onward.kept _).voidAt.holds
  refine ⟨(congrArg RAS_UNC_CNT.COUNT.get (hvoid.word _)).trans hcount, hon.reports hrep, ?_⟩
  rw [← hset]
  unfold State.stackWord
  rw [hvoid.stack, hvoid.flips, hwell]

/-- A word that a part delivers corrected is counted (R382). -/
theorem State.correctedWord_counted (s : State) (part : Nat) : Counted s (s.correctedWord part) RAS_COR_CNT.COUNT 1 := by
  have h : Untouched [] (s.bump RAS_COR_CNT.COUNT) (s.correctedWord part) := by
    unfold State.correctedWord
    dsimp only
    exact .ite (.raiseFrom (.of_word fun _ => rfl)) (.of_word fun _ => rfl)
  exact h.counted (State.bump_rd _ _ (by decide)) (by decide) (by decide) (by decide)

/-- Beside the counter of corrected words, a corrected word of a part touches no register. -/
theorem State.correctedWord_rd (s : State) (part : Nat) (h1 : f.off ≠ RAS_COR_CNT.reg) (h2 : f.off ≠ RNG_EQ_LOST.reg)
    (h3 : accounting f.off = false) : (s.correctedWord part).rd f = s.rd f := by
  have h : Untouched [RAS_COR_CNT.reg] s (s.correctedWord part) := by
    have hb : Untouched [RAS_COR_CNT.reg] s (s.bump RAS_COR_CNT.COUNT) := (Untouched.refl s).bump (List.mem_singleton.mpr rfl)
    unfold State.correctedWord
    dsimp only
    exact .ite (.raiseFrom (hb.trans (.of_word fun _ => rfl))) (hb.trans (.of_word fun _ => rfl))
  exact h.rd (by simpa using h1) h2 h3

theorem corrected_stack {k : WellNo} {v : BitVec 80} (hup : s.hubUp = true) (hpart : w.part = k.val) (hmem : w.mem = .stack)
    (hv : wordVerdict w = .corrected v) : Answers (.uncorrectableWord w) s fun t => Counted s t RAS_COR_CNT.COUNT 1 := by
  have hk : w.part < 26 := by have := k.isLt; omega
  refine ⟨wordRead w s, execUncorrectableWord_of hup hk, ?_⟩
  rw [wordRead_corrected s hv, s.plantWord_stack hpart hmem]
  unfold State.wordFixed
  rw [hmem]
  exact State.correctedWord_counted (s.stackSet k w.addr w.word) w.part

theorem State.hubPart_lt (s : State) : 24 ≤ s.hubPart ∧ s.hubPart < 26 := by
  unfold State.hubPart
  split <;> decide

/-- A word of a circular buffer is counted by the buffer, and by the part. -/
theorem corrected_buffer {v : BitVec 80} (hup : s.hubUp = true) (hpart : w.part = s.hubPart) (hv : wordVerdict w = .corrected v)
    (hplant : s.plantWord w = s) (hcnt : ∀ r : State, r.countBuffer w.mem = r.bump f) (hfit : f.lo + f.len ≤ 32)
    (hcor : f.off ≠ RAS_COR_CNT.reg) (hlost : f.off ≠ RNG_EQ_LOST.reg) (hacc : accounting f.off = false) :
    Answers (.uncorrectableWord w) s fun t => Counted s t f 1 ∧ Counted s t RAS_COR_CNT.COUNT 1 := by
  refine ⟨wordRead w s, execUncorrectableWord_of hup (hpart ▸ s.hubPart_lt.2), ?_⟩
  rw [wordRead_corrected s hv, hplant]
  unfold State.wordFixed
  rw [hcnt]
  constructor
  · unfold Counted
    rw [State.bump_rd _ _ hfit, State.correctedWord_rd s w.part hcor hlost hacc]
  · exact (State.wr_rd_ne _ _ _ _ hcor.symm).trans (s.correctedWord_counted w.part)

theorem corrected_queues {v : BitVec 80} (hup : s.hubUp = true) (hpart : w.part = s.hubPart) (hv : wordVerdict w = .corrected v)
    (hmem : w.mem = .queues) :
    Answers (.uncorrectableWord w) s fun t => Counted s t PMP_Q_COR_CNT.COUNT 1 ∧ Counted s t RAS_COR_CNT.COUNT 1 :=
  corrected_buffer hup hpart hv (by unfold State.plantWord; rw [hmem]) (fun _ => by rw [hmem]; rfl) (by decide) (by decide) (by decide)
    (by decide)

theorem corrected_receive {v : BitVec 80} {p : Port} (hup : s.hubUp = true) (hpart : w.part = s.hubPart)
    (hv : wordVerdict w = .corrected v) (hmem : w.mem = .receive p) :
    Answers (.uncorrectableWord w) s fun t => Counted s t (PMP_RBUF_COR_CNT.COUNT p.val) 1 ∧ Counted s t RAS_COR_CNT.COUNT 1 := by
  have hp := p.isLt
  have hoff : (PMP_RBUF_COR_CNT.COUNT p.val).off = 0x06002C + 0x1000 * p.val := rfl
  have hfit : (PMP_RBUF_COR_CNT.COUNT p.val).lo + (PMP_RBUF_COR_CNT.COUNT p.val).len ≤ 32 := Nat.le_refl 32
  exact corrected_buffer hup hpart hv (by unfold State.plantWord; rw [hmem]) (fun _ => by rw [hmem]; rfl) hfit
    (by rw [hoff, show RAS_COR_CNT.reg = 0x0F0004 from rfl]; omega) (by rw [hoff, show RNG_EQ_LOST.reg = 0x020014 from rfl]; omega)
    (accounting_outside (by omega))

theorem corrected_park {v : BitVec 80} (hup : s.hubUp = true) (hpart : w.part = s.hubPart) (hv : wordVerdict w = .corrected v)
    (hmem : w.mem = .park) :
    Answers (.uncorrectableWord w) s fun t => Counted s t CMB_PARK_COR_CNT.COUNT 1 ∧ Counted s t RAS_COR_CNT.COUNT 1 :=
  corrected_buffer hup hpart hv (by unfold State.plantWord; rw [hmem]) (fun _ => by rw [hmem]; rfl) (by decide) (by decide) (by decide)
    (by decide)

theorem State.lineBad_asks (s : State) (side : Side) (space addr : Nat) (h : s.mch.mstate = .inSync) :
    (side, space, addr / 64 * 64) ∈ (s.lineBad side space addr).mch.fetch := by
  unfold State.lineBad
  rw [if_pos h]
  unfold State.askLine
  split
  · next hasked => exact List.contains_iff_mem.mp hasked
  · exact List.mem_append_right _ List.mem_cons_self

theorem State.partSide_hubPart (s : State) : partSide s.hubPart = s.act.side := by
  unfold State.hubPart
  cases s.act.side <;> rfl

theorem uncorrectable_table (hup : s.hubUp = true) (hpart : w.part = s.hubPart) (hbad : (wordVerdict w).bad = true)
    (hmem : w.mem = .table) :
    Answers (.uncorrectableWord w) s fun t => Reports s 0x0D02 t ∧
      (s.mch.mstate = .inSync → (s.act.side, 2, w.addr / 64 * 64) ∈ t.mch.fetch) := by
  have hlow : ¬w.part < 24 := by have := s.hubPart_lt.1; omega
  refine ⟨wordRead w s, execUncorrectableWord_of hup (hpart ▸ s.hubPart_lt.2), ?_⟩
  have hplant : s.plantWord w = { s with act := s.act.putWord 2 (w.addr / 8 * 8) w.word } := by
    unfold State.plantWord
    rw [hmem]
    dsimp only
    rw [if_neg hlow, hpart, s.partSide_hubPart, State.modHub_act]
  have hrole : (s.act.putWord 2 (w.addr / 8 * 8) w.word).role = s.act.role := (SramWrite.word 2 (w.addr / 8 * 8) w.word).role s.act
  have hside : (s.act.putWord 2 (w.addr / 8 * 8) w.word).side = s.act.side := congrArg Prod.fst hrole
  have hreset : (s.act.putWord 2 (w.addr / 8 * 8) w.word).inReset = s.act.inReset := congrArg (·.2.1) hrole
  rw [wordRead_bad s hbad, hplant]
  generalize s.act.putWord 2 (w.addr / 8 * 8) w.word = a at hside hreset ⊢
  have hread : uncorrectableWord w { s with act := a } = (State.uncorRead { s with act := a } w
      (State.lineCopy { s with act := a } a.side 2 w.addr)).lineBad a.side 2 w.addr := by
    have hp : w.part < 24 ∨ w.part = State.hubPart { s with act := a } := .inr (hpart.trans (by unfold State.hubPart; rw [hside]))
    unfold uncorrectableWord
    dsimp only
    rw [if_pos hp, hmem]
    dsimp only
    rw [if_neg hlow]
  rw [hread]
  generalize State.lineCopy { s with act := a } a.side 2 w.addr = fixed
  have hrep : Reports s 0x0D02 (State.uncorRead { s with act := a } w fixed) :=
    (State.uncorRead_reports _ _ _).of_same (by unfold State.hubUp; rw [hreset]) rfl
  have hon : Onward { s with act := a } (State.uncorRead { s with act := a } w fixed) := (Onward.kept _).uncorRead.holds
  have hmst : (State.uncorRead { s with act := a } w fixed).mch.mstate = s.mch.mstate := hon.mstate
  generalize State.uncorRead { s with act := a } w fixed = r at hrep hmst ⊢
  have hline : Onward r (r.lineBad a.side 2 w.addr) := (Onward.kept r).lineBad.holds
  refine ⟨hline.reports hrep, fun hsync => ?_⟩
  rw [← hside]
  exact r.lineBad_asks a.side 2 w.addr (hmst.trans hsync)

/-- A fault of the active Hub starts a failover to a mirror that is IN_SYNC (R402). -/
theorem State.hubFault_failover (s : State) (cause mirCause : Nat) (hactive : s.active = true) (hnone : s.failover = none)
    (hsync : s.mch.mstate = .inSync) :
    (s.hubFault s.act.side cause mirCause false).failover = some { cause := cause, at_ := s.now, swap := cause == 7 } := by
  unfold State.hubFault
  rw [if_pos rfl]
  dsimp only
  rw [State.trigger_inSync hnone hactive hsync]
  exact (s.failoverStart_onward cause s.now).failover

theorem State.hubUp_active (h : s.hubUp = true) : s.active = true := by
  unfold State.hubUp at h
  exact (Bool.and_eq_true_iff.mp h).1

theorem State.hubUp_inReset (h : s.hubUp = true) : s.act.inReset = false := by
  unfold State.hubUp at h
  simpa using (Bool.and_eq_true_iff.mp h).2

theorem uncorrectable_core (hup : s.hubUp = true) (hpart : w.part = s.hubPart) (hbad : (wordVerdict w).bad = true) (hmem : w.mem = .core)
    (hnone : s.failover = none) (hsync : s.mch.mstate = .inSync) :
    Answers (.uncorrectableWord w) s fun t => t.failover = some { cause := 4, at_ := s.now, swap := false } := by
  have hlow : ¬w.part < 24 := by have := s.hubPart_lt.1; omega
  refine ⟨wordRead w s, execUncorrectableWord_of hup (hpart ▸ s.hubPart_lt.2), ?_⟩
  have hplant : s.plantWord w = s := by
    unfold State.plantWord
    rw [hmem]
  have hread : uncorrectableWord w s =
      (s.uncor w.part 6 w.addr ((wordVerdict w) == .mismatch)).hubFault s.act.side 4 11 false := by
    unfold uncorrectableWord
    dsimp only
    rw [if_pos (.inr hpart), hmem]
    dsimp only
    rw [if_neg hlow]
  rw [wordRead_bad s hbad, hplant, hread]
  generalize ((wordVerdict w) == Verdict.mismatch) = mis
  have hon : Onward s (s.uncor w.part 6 w.addr mis) := (Onward.kept s).uncor.holds
  rw [← hon.actSide, ← (s.uncor_wordsOnly w.part 6 w.addr mis).now]
  exact State.hubFault_failover _ 4 11 (hon.active.trans (State.hubUp_active hup)) (hon.failover.trans hnone) (hon.mstate.trans hsync)

theorem wordRead_clean (hup : s.hubUp = true) (hpart : w.part < 26) (hv : wordVerdict w = .clean) (hstack : w.mem ≠ .stack)
    (htable : w.mem ≠ .table) (hrouter : w.mem ≠ .router) : Answers (.uncorrectableWord w) s fun t => t = s := by
  refine ⟨wordRead w s, execUncorrectableWord_of hup hpart, ?_⟩
  unfold wordRead
  rw [hv]
  unfold State.plantWord
  dsimp only
  split
  · exact absurd ‹_› hstack
  · exact absurd ‹_› htable
  · exact absurd ‹_› hrouter
  · rfl
end

/-! ### Released masters (R396) -/

section
variable {n : Nat}

theorem State.clearBit_wordsOnly (s : State) (f : Fld) (n : Nat) : WordsOnly s (s.clearBit f n) := (WordsOnly.refl s).wr _

theorem State.clearBit_testBit (s : State) (n : Nat) (h : f.lo + f.len ≤ 32) : ((s.clearBit f n).rd f).testBit n = false := by
  unfold State.clearBit
  rw [State.wr_rd _ _ _ h, Nat.testBit_mod_two_pow, Nat.testBit_and]
  by_cases hn : n < f.len
  · rw [Nat.sub_sub, Nat.add_comm 1, Nat.testBit_two_pow_sub_succ (Nat.pow_lt_pow_right (by decide) hn), Nat.testBit_two_pow_self]
    simp
  · simp [hn]

/-- A release that clears words and raises event 0x0D08 reports it. -/
theorem State.releasedEvent_reports (h : WordsOnly s t) (kind n : Nat) (c : Option Ctx) : Reports s 0x0D08 (t.releasedEvent kind n c) :=
  h.reports (State.raise_reports _ _ _ _ _ _ _)

theorem State.releasedEvent_untouched (s : State) (kind n : Nat) (c : Option Ctx) : Untouched [] s (s.releasedEvent kind n c) :=
  (Untouched.refl s).raiseFrom

theorem execMasterRelease_of {m : Master} (hup : s.hubUp = true) (harb : s.arbHeld 0 = false) (hfrozen : s.isFrozen m = true) :
    execMasterRelease m s = .next (masterRelease m s) :=
  congrArg Host.Outcome.next (if_pos ⟨by simp [State.busUp, hup, harb], hfrozen⟩)

theorem State.accDram_untouched (s : State) (w : WellNo) (c : Ctx) (a rdB wrB : Nat) : Untouched l s (s.accDram w c a rdB wrB) := by
  unfold State.accDram
  dsimp only
  refine Untouched.traffic (Untouched.traffic (.of_word fun _ => State.modWell_word _ _ _ _) (State.addPair_traffic _ _ _ _ ?_ ?_))
    (State.accEnergy_traffic _ _ _)
  · exact accounting_at c (k := 0x38) (by decide) (by decide)
  · exact accounting_at c (k := 0x3C) (by decide) (by decide)

theorem State.writeEcho_untouched (s : State) (c : Ctx) (layer : Nat) (counts : List (Nat × Nat)) :
    Untouched l s (s.writeEcho c layer counts) := by
  unfold State.writeEcho
  refine (Untouched.refl s).foldl fun {v} hv k => ?_
  dsimp only
  have hzero : Untouched l s (v.stackZero k (v.echoBase k c + 8192 + 32768 * layer) 32768) :=
    hv.trans (.of_word fun _ => State.modWell_word _ _ _ _)
  exact (hzero.trans (State.accDram_untouched _ k c _ 0 32768)).foldl fun hr _ => hr.trans (.of_word fun _ => State.modWell_word _ _ _ _)

/-- The record of a step changes the flag of a full completion ring only. -/
theorem State.recordStep_untouched (s : State) (c : Ctx) (st : Step) :
    Untouched [(RNG_CTX_STATUS.CQ_FULL c).off] s (s.recordStep c st) := by
  have h0 := Untouched.refl (l := [(RNG_CTX_STATUS.CQ_FULL c).off]) s
  have hmem : (RNG_CTX_STATUS.CQ_FULL c).off ∈ [(RNG_CTX_STATUS.CQ_FULL c).off] := List.mem_singleton.mpr rfl
  unfold State.recordStep
  dsimp only
  refine .ite h0 (.ite (h0.wrIf 1 hmem) (Untouched.traffic ?_ (State.hostWrite_traffic _ _ _ _)))
  have hecho : Untouched [(RNG_CTX_STATUS.CQ_FULL c).off] s
      (if st.state = .committed ∧ st.opcode = 1 then s.writeEcho c st.layer st.echo else s) := .ite (s.writeEcho_untouched _ _ _) h0
  exact (hecho.wrIf 0 hmem).trans (.of_word fun _ => rfl)

theorem State.ringAgain_untouched (s : State) (c : Ctx) : Untouched [(RNG_CTX_STATUS.CQ_FULL c).off] s (s.ringAgain c) := by
  have h1 : Untouched [(RNG_CTX_STATUS.CQ_FULL c).off] s (rejectRetire c s) := by
    unfold rejectRetire
    split
    · exact .ite (s.recordStep_untouched c _) (.refl s)
    · exact .refl s
  have h2 : Untouched [(RNG_CTX_STATUS.CQ_FULL c).off] s (completionRecordWrite c (rejectRetire c s)) := by
    unfold completionRecordWrite
    split
    · exact h1.trans (State.recordStep_untouched _ c _)
    · exact h1
  exact .ite (h2.traffic (UpToTraffic.foldl _ _ fun r _ => State.issueOne_traffic r _)) h2

theorem cqFull_ne_freeze (c : Ctx) : RAS_FREEZE.CTX.off ∉ [(RNG_CTX_STATUS.CQ_FULL c).off] := by
  have := c.isLt
  simp only [RAS_FREEZE.CTX, RNG_CTX_STATUS.CQ_FULL, List.mem_singleton]
  omega

theorem masterRelease_ring (s : State) (c : Ctx) :
    (masterRelease (.ring c) s).isFrozen (.ring c) = false ∧ Reports s 0x0D08 (masterRelease (.ring c) s) := by
  have hclear := s.clearBit_testBit (f := RAS_FREEZE.CTX) c.val (by decide)
  have hrep := State.releasedEvent_reports (s.clearBit_wordsOnly RAS_FREEZE.CTX c.val) 0 c.val (some c)
  have hrd := (State.releasedEvent_untouched (s.clearBit RAS_FREEZE.CTX c.val) 0 c.val (some c)).rd (f := RAS_FREEZE.CTX) (by decide)
    (by decide) (by decide)
  unfold masterRelease State.isFrozen State.ringFrozen
  dsimp only
  generalize (s.clearBit RAS_FREEZE.CTX c.val).releasedEvent 0 c.val (some c) = r at hrep hrd ⊢
  have hon : Onward r (r.ringAgain c) := (Onward.kept r).rejectRetire.completionRecordWrite.descriptorFetch.holds
  refine ⟨?_, hon.reports hrep⟩
  rw [(r.ringAgain_untouched c).rd (cqFull_ne_freeze c) (by decide) (by decide), hrd]
  exact hclear

theorem masterRelease_well (s : State) (w : WellNo) :
    (masterRelease (.well w) s).isFrozen (.well w) = false ∧ Reports s 0x0D08 (masterRelease (.well w) s) := by
  have hclear := s.clearBit_testBit (f := RAS_FREEZE_WELL.WELLS) w.val (by decide)
  have hrep := State.releasedEvent_reports (s.clearBit_wordsOnly RAS_FREEZE_WELL.WELLS w.val) 1 w.val none
  have htrain := State.modLink_traffic ((s.clearBit RAS_FREEZE_WELL.WELLS w.val).releasedEvent 1 w.val none) (.well w)
    fun k => { Link.fresh with txq := k.txq, credits := Vector.ofFn fun i : Fin 8 => shareCredits resetShare i.val }
  have hrd := ((State.releasedEvent_untouched (s.clearBit RAS_FREEZE_WELL.WELLS w.val) 1 w.val none).traffic htrain).rd
    (f := RAS_FREEZE_WELL.WELLS) (by decide) (by decide) (by decide)
  exact ⟨(congrArg (Nat.testBit · w.val) hrd).trans hclear, htrain.reports hrep⟩

/-- The freeze register of a peer chip. -/
def peerFld (d : Chip) : Fld := if d.val < 32 then RAS_FREEZE_PEER_LO.CHIPS else RAS_FREEZE_PEER_HI.CHIPS

/-- The two registers hold the peer chips in order. -/
theorem State.peerFrozen_eq (s : State) (d : Chip) :
    s.peerFrozen d = (s.rd (peerFld d)).testBit (if d.val < 32 then d.val else d.val - 32) := by
  have hlo : s.rd RAS_FREEZE_PEER_LO.CHIPS < 2 ^ 32 := Fld.get_lt RAS_FREEZE_PEER_LO.CHIPS _
  have hpair : s.rd2 RAS_FREEZE_PEER_LO.CHIPS RAS_FREEZE_PEER_HI.CHIPS =
      2 ^ 32 * s.rd RAS_FREEZE_PEER_HI.CHIPS + s.rd RAS_FREEZE_PEER_LO.CHIPS := by
    unfold State.rd2
    rw [Nat.add_comm, Nat.mul_comm]
    rfl
  unfold State.peerFrozen peerFld
  rw [hpair, Nat.testBit_two_pow_mul_add _ hlo]
  split <;> rfl

theorem masterRelease_peer (s : State) (d : Chip) :
    (masterRelease (.peer d) s).isFrozen (.peer d) = false ∧ Reports s 0x0D08 (masterRelease (.peer d) s) := by
  have heq : masterRelease (.peer d) s =
      (s.clearBit (peerFld d) (if d.val < 32 then d.val else d.val - 32)).releasedEvent 2 d.val none := by
    unfold masterRelease peerFld
    dsimp only
    split <;> rfl
  have hfit : (peerFld d).lo + (peerFld d).len ≤ 32 := by
    unfold peerFld
    split <;> decide
  have hoff : (peerFld d).off ≠ RNG_EQ_LOST.reg ∧ accounting (peerFld d).off = false := by
    unfold peerFld
    split <;> decide
  rw [heq]
  refine ⟨?_, State.releasedEvent_reports (s.clearBit_wordsOnly _ _) 2 d.val none⟩
  unfold State.isFrozen
  dsimp only
  rw [State.peerFrozen_eq, (State.releasedEvent_untouched _ _ _ _).rd List.not_mem_nil hoff.1 hoff.2]
  exact s.clearBit_testBit _ hfit

theorem masterRelease_debug (s : State) :
    (masterRelease .debug s).isFrozen .debug = false ∧ Reports s 0x0D08 (masterRelease .debug s) := by
  refine ⟨?_, State.releasedEvent_reports ((WordsOnly.refl s).wr 0) 3 0 none⟩
  unfold masterRelease State.isFrozen
  dsimp only
  rw [(State.releasedEvent_untouched _ _ _ _).rd (by decide) (by decide) (by decide), State.wr_rd _ _ _ (by decide)]
  rfl

theorem masterRelease_done {m : Master} (hup : s.hubUp = true) (harb : s.arbHeld 0 = false) (hfrozen : s.isFrozen m = true) :
    Answers (.masterRelease m) s fun t => t.isFrozen m = false ∧ Reports s 0x0D08 t := by
  refine ⟨masterRelease m s, execMasterRelease_of hup harb hfrozen, ?_⟩
  cases m with
  | ring c => exact masterRelease_ring s c
  | well w => exact masterRelease_well s w
  | peer d => exact masterRelease_peer s d
  | debug => exact masterRelease_debug s
  | core => exact Bool.noConfusion hfrozen
end

/-! ### Control cores (R33, R394, R402) -/

theorem coreWatchdogExpiry_failover (hup : s.hubUp = true) (hnone : s.failover = none) (hsync : s.mch.mstate = .inSync) :
    Answers (.coreWatchdogExpiry s.act.side) s fun t => t.failover = some { cause := 1, at_ := s.now, swap := false } :=
  ⟨s.hubFault s.act.side 1 8 false, congrArg Host.Outcome.next (if_neg (by simp [State.hub_act, State.hubUp_inReset hup])),
    s.hubFault_failover 1 8 (State.hubUp_active hup) hnone hsync⟩

theorem State.setFrozen_core (s : State) (d part : Nat) : s.setFrozen .core d part =
    (s.raiseFrom part 0 0x0D07 3 [4, 0, d]).rasIrq RAS_IRQ_STATUS.FREEZE := rfl

theorem coreViolation_failover {off : Nat} (hup : s.hubUp = true) (hnone : s.failover = none) (hsync : s.mch.mstate = .inSync) :
    Answers (.controlCoreAccessViolation s.act.side off) s fun t =>
      t.failover = some { cause := 5, at_ := s.now, swap := false } ∧ Reports s 0x0D07 t := by
  refine ⟨(s.setFrozen .core off (24 + sideNo s.act.side)).hubFault s.act.side 5 11 false,
    congrArg Host.Outcome.next (if_neg (by simp [State.hub_act, State.hubUp_inReset hup])), ?_⟩
  have hon : Onward s (s.setFrozen .core off (24 + sideNo s.act.side)) := (Onward.kept s).setFrozen.holds
  have hirq : Onward (s.raiseFrom (24 + sideNo s.act.side) 0 0x0D07 3 [4, 0, off]) (s.setFrozen .core off (24 + sideNo s.act.side)) :=
    (Onward.kept _).rasIrq.holds
  have hrep := hirq.reports (State.raiseFrom_reports s (24 + sideNo s.act.side) 0 0x0D07 3 [4, 0, off] none 0 0)
  have hnow : (s.setFrozen .core off (24 + sideNo s.act.side)).now = s.now := by
    obtain ⟨_, _, _, _, he⟩ := State.raiseFrom_eq s (24 + sideNo s.act.side) 0 0x0D07 3 [4, 0, off] none 0 0
    rw [State.setFrozen_core, (WordsOnly.rasIrq (.refl _)).now, he]
  generalize s.setFrozen .core off (24 + sideNo s.act.side) = r at hon hrep hnow ⊢
  have hb : Beside r (r.hubFault s.act.side 5 11 false) := r.hubFault_beside s.act.side false
  refine ⟨?_, hb.reports hrep⟩
  rw [← hon.actSide, ← hnow]
  exact r.hubFault_failover 5 11 (hon.active.trans (State.hubUp_active hup)) (hon.failover.trans hnone) (hon.mstate.trans hsync)

/-- Settles O44: what each error does in its place. -/
theorem containment : Obligations.Containment := by
  unfold Obligations.Containment
  intro s hup
  exact ⟨fun _ _ _ => residueFailure_done hup, fun _ _ _ _ => engineRelease_done hup,
    fun _ _ hpart hmem => ⟨uncorrectable_stack hup hpart hmem, fun _ => corrected_stack hup hpart hmem⟩,
    fun _ _ hpart hv => ⟨corrected_queues hup hpart hv, fun _ => corrected_receive hup hpart hv, corrected_park hup hpart hv⟩,
    fun _ hpart hbad => ⟨uncorrectable_table hup hpart hbad, uncorrectable_core hup hpart hbad⟩,
    fun _ => wordRead_clean hup, fun _ => masterRelease_done hup,
    fun hnone hsync => ⟨coreWatchdogExpiry_failover hup hnone hsync, fun _ => coreViolation_failover hup hnone hsync⟩⟩

end

end Sys2Proof.Machine
end

section
/-!
SUPPORT. Calibration in the background, adaptation and recalibration (O35).
-/

namespace Sys2Proof.Machine

open Sys2Proof

set_option Elab.async false

/-! ### Rules of the register operations -/

/-- A field that is written when it differs holds the value afterwards. -/
theorem State.wrIf_rd (s : State) (f : Fld) {v : Nat} (h : f.lo + f.len ≤ 32) (hv : v < 2 ^ f.len) : (s.wrIf f v).rd f = v := by
  unfold State.wrIf
  split
  · next he => exact he
  · exact (State.wr_rd s f v h).trans (Nat.mod_eq_of_lt hv)

/-- An event leaves every field but the count of lost ones. -/
theorem State.raise_rd (s : State) (code sev : Nat) (data : List Nat) (c : Option Ctx) (seq : Word) (addr : Nat) (f : Fld)
    (h : f.off ≠ RNG_EQ_LOST.reg) : (s.raise code sev data c seq addr).rd f = s.rd f :=
  congrArg f.get (State.raise_word_ne s code sev data c seq addr h)

theorem State.raise_ports (s : State) (code sev : Nat) (data : List Nat) (c : Option Ctx) (seq : Word) (addr : Nat) :
    (s.raise code sev data c seq addr).ports = s.ports := by
  obtain ⟨_, _, _, _, he⟩ := State.raise_eq s code sev data c seq addr
  rw [he]

theorem State.modPort_same (s : State) (p : Port) (f : PortState → PortState) : (s.modPort p f).ports[p] = f s.ports[p] :=
  Vector.getElem_set_self _

/-! ### Calibration exchanges -/

theorem State.calPort_of_up {s : State} {p : Port} (hup : s.portState p = 3) (hrem : s.ports[p].removed = false) : s.calPort p = true := by
  unfold State.calPort
  rw [hup, hrem]
  rfl

theorem calStart_answers {s : State} {p : Port} {a : Nat} (hlead : s.leadUp = true) (hport : s.calPort p = true) :
    Answers (.calStart p a) s fun t => t.ports[p].cal = some (s.ports[p].calSeq % 2 ^ 16, a % 2 ^ 48) ∧
      Drives t (setOut p 2 false (BitVec.ofNat 192 (a % 2 ^ 48 + s.ports[p].calSeq % 2 ^ 16 * 2 ^ 48))) := by
  refine ⟨_, congrArg Host.Outcome.next (if_pos ⟨hlead, hport⟩), ?_, State.emit_drives (s.at a) _⟩
  unfold calStart
  rw [State.modPort_same]

theorem calReq_answers {s : State} {p : Port} {x : BitVec 192} {a t3 : Nat} (hlead : s.leadUp = true) (hby : s.intBypass = false)
    (hport : s.calPort p = true) : Answers (.calReq p x a t3) s fun t => Drives t (setOut p 3 false (BitVec.ofNat 192
      (bitsOf x.toNat 0 48 + a % 2 ^ 48 * 2 ^ 48 + t3 % 2 ^ 48 * 2 ^ 96 + bitsOf x.toNat 48 16 * 2 ^ 144))) := by
  have hexec : exec (.calReq p x a t3) s = .next (calReq p x a t3 s) := by
    show execCalReq p x a t3 s = _
    simp only [execCalReq, hlead, hby, hport, Bool.not_true, Bool.false_eq_true, if_false, if_true]
  exact ⟨_, hexec, State.emit_drives _ _⟩

/-! ### The parent hop's residual (R46, R367) -/

theorem State.alignBy_ports (s : State) (p : Port) (r : Int) : (s.alignBy p r).ports = s.ports := by
  unfold State.alignBy
  dsimp only
  split
  · rw [State.raise_ports, State.wrIf_ports, State.wrIf_ports]
  · rw [State.wrIf_ports, State.wrIf_ports]

theorem State.alignBy_rd (s : State) (p : Port) (r : Int) (f : Fld) (h1 : f.off ≠ TCK_SKEW.reg) (h2 : f.off ≠ TCK_STATUS.reg)
    (h3 : f.off ≠ RNG_EQ_LOST.reg) : (s.alignBy p r).rd f = s.rd f := by
  unfold State.alignBy
  dsimp only
  split
  · rw [State.raise_rd _ _ _ _ _ _ _ f h3, State.wrIf_rd_ne _ _ f _ h2, State.wrIf_rd_ne _ _ f _ h1]
  · rw [State.wrIf_rd_ne _ _ f _ h2, State.wrIf_rd_ne _ _ f _ h1]

/-- ALIGNED is set within 0.75 ns. -/
theorem State.alignBy_aligned (s : State) (p : Port) (r : Int) :
    (s.alignBy p r).rd TCK_STATUS.ALIGNED = if r < -750 ∨ 750 < r then 0 else 1 := by
  unfold State.alignBy
  dsimp only
  split
  · rw [State.raise_rd _ _ _ _ _ _ _ _ (by decide), State.wrIf_rd _ _ (by decide) (by decide)]
  · rw [State.wrIf_rd _ _ (by decide) (by decide)]

/-- ALIGNED by two latencies of the parent hop. -/
theorem aligned_between (ps old : Nat) : (if (ps : Int) - old < -750 ∨ 750 < (ps : Int) - old then 0 else 1) =
    if ps ≤ old + 750 ∧ old ≤ ps + 750 then 1 else 0 := by
  split <;> split <;> omega

/-! ### CAL_RSP -/

theorem State.latency_lt (s : State) (ps : Nat) : s.latency ps < 2 ^ 20 := by
  unfold State.latency
  split
  · assumption
  · exact Nat.mod_lt _ (Nat.two_pow_pos 20)

theorem State.latency_of_lt {s : State} {ps : Nat} (h : ps < 2 ^ 20) : s.latency ps = ps := if_pos h

/-- The latency in ps that the four times of an exchange give (R305). -/
def rspPs (x : BitVec 192) (t4 : Nat) : Nat :=
  ((t4 + 2 ^ 48 - bitsOf x.toNat 0 48) % 2 ^ 48 - (bitsOf x.toNat 96 48 + 2 ^ 48 - bitsOf x.toNat 48 48) % 2 ^ 48) * 625 / 2

/-- The latency of an exchange is stored. -/
def State.calDone (s : State) (p : Port) (ps t4 : Nat) : State :=
  (({ s.at t4 with free := s.free + 1 } : State).wr (PMP_LNK_LAT.PS p) ps).modPort p fun y =>
    { y with cal := none, lat := some ps, calAt := t4 }

/-- The response that an exchange waits for stores its latency; that of the parent hop sets ALIGNED by the one before. -/
theorem calRsp_eq {s : State} {p : Port} {x : BitVec 192} {t4 : Nat}
    (hcal : s.ports[p].cal = some (bitsOf x.toNat 144 16, bitsOf x.toNat 0 48)) :
    calRsp p x t4 s =
      if s.parentPort = some p then
        match s.ports[p].lat with
        | some old => (s.calDone p (s.latency (rspPs x t4)) t4).alignBy p ((s.latency (rspPs x t4) : Int) - (old : Int))
        | none => s.calDone p (s.latency (rspPs x t4)) t4
      else s.calDone p (s.latency (rspPs x t4)) t4 := if_neg fun h => h hcal

theorem State.calDone_port (s : State) (p : Port) (ps t4 : Nat) : (s.calDone p ps t4).ports[p].cal = none ∧
    (s.calDone p ps t4).ports[p].lat = some ps := by
  unfold State.calDone
  rw [State.modPort_same]
  exact ⟨rfl, rfl⟩

theorem State.calDone_rd (s : State) (p : Port) {ps : Nat} (t4 : Nat) (h : ps < 2 ^ 20) :
    (s.calDone p ps t4).rd (PMP_LNK_LAT.PS p) = ps :=
  (State.wr_rd _ (PMP_LNK_LAT.PS p) ps (by decide : 0 + 20 ≤ 32)).trans (Nat.mod_eq_of_lt h)

theorem pmpLnkLat_off (p : Port) : (PMP_LNK_LAT.PS p).off ≠ TCK_SKEW.reg ∧ (PMP_LNK_LAT.PS p).off ≠ TCK_STATUS.reg ∧
    (PMP_LNK_LAT.PS p).off ≠ RNG_EQ_LOST.reg := by
  revert p
  decide

/-- After a response the exchange is over, and the latency is in the port's register and memory. -/
theorem calRsp_stores {s : State} {p : Port} {x : BitVec 192} {t4 : Nat}
    (hcal : s.ports[p].cal = some (bitsOf x.toNat 144 16, bitsOf x.toNat 0 48)) :
    (calRsp p x t4 s).ports[p].cal = none ∧ (calRsp p x t4 s).ports[p].lat = some (s.latency (rspPs x t4)) ∧
      (calRsp p x t4 s).rd (PMP_LNK_LAT.PS p) = s.latency (rspPs x t4) := by
  obtain ⟨hskew, hstatus, hlost⟩ := pmpLnkLat_off p
  obtain ⟨hnone, hlat⟩ := s.calDone_port p (s.latency (rspPs x t4)) t4
  have hrd := s.calDone_rd p t4 (s.latency_lt (rspPs x t4))
  rw [calRsp_eq hcal]
  split
  · split
    · simp only [State.alignBy_ports, State.alignBy_rd _ _ _ _ hskew hstatus hlost]
      exact ⟨hnone, hlat, hrd⟩
    · exact ⟨hnone, hlat, hrd⟩
  · exact ⟨hnone, hlat, hrd⟩

theorem calRsp_aligned {s : State} {p : Port} {x : BitVec 192} {t4 old : Nat}
    (hcal : s.ports[p].cal = some (bitsOf x.toNat 144 16, bitsOf x.toNat 0 48)) (hpar : s.parentPort = some p)
    (hold : s.ports[p].lat = some old) (hps : rspPs x t4 < 2 ^ 20) :
    (calRsp p x t4 s).rd TCK_STATUS.ALIGNED = if rspPs x t4 ≤ old + 750 ∧ old ≤ rspPs x t4 + 750 then 1 else 0 := by
  rw [calRsp_eq hcal, if_pos hpar, hold]
  dsimp only
  rw [State.alignBy_aligned, State.latency_of_lt hps]
  exact aligned_between _ _

theorem calRsp_answers {s : State} {p : Port} {x : BitVec 192} {t4 : Nat} (hlead : s.leadUp = true) (hby : s.intBypass = false)
    (hcal : s.ports[p].cal = some (bitsOf x.toNat 144 16, bitsOf x.toNat 0 48)) :
    Answers (.calRsp p x t4) s fun t => t.ports[p].cal = none ∧ t.ports[p].lat = some (t.rd (PMP_LNK_LAT.PS p)) ∧
      ∀ ps, ps = rspPs x t4 → ps < 2 ^ 20 → t.rd (PMP_LNK_LAT.PS p) = ps ∧
        (s.parentPort = some p → ∀ old, s.ports[p].lat = some old →
          t.rd TCK_STATUS.ALIGNED = if ps ≤ old + 750 ∧ old ≤ ps + 750 then 1 else 0) := by
  have hexec : exec (.calRsp p x t4) s = .next (calRsp p x t4 s) := by
    show execCalRsp p x t4 s = _
    simp only [execCalRsp, hlead, hby, Bool.not_true, Bool.false_eq_true, if_false]
  obtain ⟨hnone, hlat, hrd⟩ := calRsp_stores hcal
  refine ⟨_, hexec, hnone, hlat.trans (congrArg some hrd.symm), ?_⟩
  rintro ps rfl hps
  exact ⟨hrd.trans (State.latency_of_lt hps), fun hpar old hold => calRsp_aligned hcal hpar hold hps⟩

theorem calLost_answers {s : State} {p : Port} (hlead : s.leadUp = true) :
    Answers (.calLost p) s fun t => t.ports[p].cal = none ∧ t.ports[p].lat = s.ports[p].lat := by
  refine ⟨_, congrArg Host.Outcome.next (if_pos hlead), ?_⟩
  dsimp only
  rw [State.modPort_same]
  exact ⟨rfl, rfl⟩

/-! ### Turns (R368) -/

/-- A turn that is at a number of the list takes it. -/
theorem nextOf_at {l : List Nat} {turn n : Nat} (hn : 0 < n) (h : turn % n ∈ l) : nextOf l turn n = some (turn % n) := by
  obtain ⟨m, rfl⟩ := Nat.exists_eq_succ_of_ne_zero hn.ne'
  unfold nextOf
  rw [List.range_succ_eq_map, List.map_cons, Nat.add_zero]
  exact List.find?_cons_of_pos (List.contains_iff_mem.mpr h)

theorem eqAdaptation_answers {s : State} (hlead : s.leadUp = true) (hper : s.rd HTH_CAL.EQ_PERIOD_MS ≠ 0)
    (hwired : s.build.portsWired.getLsbD (s.eqTurn % 16) = true) :
    Answers .eqAdaptation s fun t => t.eqTurn = s.eqTurn % 16 + 1 ∧
      Drives t (.phyAdapt ⟨s.eqTurn % 16, Nat.mod_lt _ (by decide)⟩) := by
  have hnext : nextOf (bitsSet 16 s.build.portsWired.toNat) s.eqTurn 16 = some (s.eqTurn % 16) :=
    nextOf_at (by decide) (mem_bitsSet.mpr ⟨Nat.mod_lt _ (by decide), (BitVec.testBit_toNat _).trans hwired⟩)
  refine ⟨_, congrArg Host.Outcome.next (if_pos ⟨hlead, hper⟩), ?_⟩
  unfold eqAdaptation
  rw [hnext]
  refine ⟨rfl, ?_⟩
  convert State.emit_drives _ _ using 2
  exact Fin.ext (Nat.mod_mod _ _).symm

theorem mem_serviceWells {s : State} {w : WellNo} (h : s.wells[w].inService = true) : w ∈ s.serviceWells :=
  List.mem_filter.mpr ⟨List.mem_finRange w, h⟩

theorem wellLinkRecal_answers {s : State} {w : WellNo} (hup : s.hubUp = true) (hper : s.rd HTH_CAL.WL_RECAL_MS ≠ 0)
    (hw : s.wells[w].inService = true) (hturn : s.wlTurn % 24 = w.val) :
    Answers .wellLinkRecal s fun t => t.wlTurn = w.val + 1 ∧ Drives t (.wellRecal w) := by
  have hnext : nextOf (s.serviceWells.map (·.val)) s.wlTurn 24 = some w.val := by
    rw [← hturn]
    exact nextOf_at (by decide) (List.mem_map.mpr ⟨w, mem_serviceWells hw, hturn.symm⟩)
  refine ⟨_, congrArg Host.Outcome.next (if_pos ⟨hup, hper⟩), ?_⟩
  unfold wellLinkRecal
  rw [hnext]
  refine ⟨rfl, ?_⟩
  convert State.emit_drives _ _ using 2
  exact Fin.ext (Nat.mod_eq_of_lt w.isLt).symm

/-- Settles O35: the exchange's messages, the latency that a response stores and the turns of adaptation and recalibration. -/
theorem backgroundCalibration : Obligations.BackgroundCalibration := by
  unfold Obligations.BackgroundCalibration
  intro s p hlead hby
  refine ⟨fun a hup hrem => ?_, fun x t4 hcal => calRsp_answers hlead hby hcal, calLost_answers hlead,
    fun hper hwired => eqAdaptation_answers hlead hper hwired, fun w hup hper hw hturn => wellLinkRecal_answers hup hper hw hturn⟩
  have hport := State.calPort_of_up hup hrem
  exact ⟨calStart_answers hlead hport, fun x t3 => calReq_answers hlead hby hport⟩

end Sys2Proof.Machine
end

section
/-!
SUPPORT. What starts, stops and times the ticks of a master (O1).
-/

namespace Sys2Proof.Machine

open Sys2Proof

set_option Elab.async false

/-! ### `TCK_CTRL` and `TCK_PERIOD` -/

/-- The lock bit that governs a register is set. -/
def State.lockHeld (s : State) (off : Nat) : Bool :=
  match lockOf off with
  | some f => s.rd f == 1
  | none => false

/-- What a register outside the count of locked writes holds after a write, its lock bit as it stood. -/
theorem State.store_word (s : State) {off : Nat} (v : Word) {r : RegRow} (hr : findReg off = some r)
    (hne : off ≠ RAS_LOCKED_WR_CNT.COUNT.off) : (s.store off v).word off = (writeRow r.fields off (s.lockHeld off) (s.word off) v).1 := by
  let w := writeRow r.fields off (s.lockHeld off) (s.word off) v
  let s1 : State := if w.2 then s.bump RAS_LOCKED_WR_CNT.COUNT else s
  have he : s.store off v = if w.1 = s.word off then s1 else s1.setWord off w.1 := by
    unfold State.store
    rw [hr]
    rfl
  have h1 : s1.word off = s.word off := by
    unfold s1
    split
    · exact State.setWord_word_ne s _ hne
    · rfl
  rw [he]
  split
  · next h => exact h1.trans h.symm
  · exact State.setWord_word_same s1 off w.1

/-- A write of a register lies beside the time. -/
theorem State.store_now (s : State) (off : Nat) (v : Word) : (s.store off v).now = s.now := by
  unfold State.store
  split
  · rfl
  · extract_lets _ _ w s1
    have h1 : s1.now = s.now := by
      unfold s1
      split
      · exact State.bump_now s _
      · rfl
    split
    · exact h1
    · exact (State.setWord_now s1 off w.1).trans h1

theorem findReg_tckCtrl : findReg TCK_CTRL.reg =
    some ⟨0x010000, [], [⟨0, 1, .rw, 0⟩, ⟨1, 2, .rwl, 1⟩, ⟨3, 1, .rw, 0⟩, ⟨4, 8, .rw, 10⟩, ⟨31, 1, .w1s, 0⟩]⟩ := by decide +kernel

theorem findReg_tckPeriod : findReg TCK_PERIOD.reg = some ⟨0x010004, [], [⟨0, 16, .rw, 1000⟩, ⟨16, 16, .ro, 0⟩]⟩ := by decide +kernel

/-- RUN reads what was written, whether SRC is locked or not. -/
theorem tckCtrl_store_run (s : State) (v : Word) : (s.store TCK_CTRL.reg v).rd TCK_CTRL.RUN = TCK_CTRL.RUN.get v := by
  have hw := s.store_word v findReg_tckCtrl (by decide)
  have hother : ∀ (f : Fld) (w : Word) (n : Nat), TCK_CTRL.RUN.lo + TCK_CTRL.RUN.len ≤ f.lo →
      TCK_CTRL.RUN.get (f.put w n) = TCK_CTRL.RUN.get w :=
    fun f w n h => Fld.get_put_other f _ w n (.inr h) (by decide)
  calc (s.store TCK_CTRL.reg v).rd TCK_CTRL.RUN
      = TCK_CTRL.RUN.get (TCK_CTRL.RUN.put (s.word TCK_CTRL.reg) (TCK_CTRL.RUN.get v)) := by
        unfold State.rd
        refine (congrArg _ hw).trans ?_
        unfold writeRow
        simp only [List.foldl_cons, List.foldl_nil]
        rw [hother _ _ _ (by decide), hother _ _ _ (by decide), hother _ _ _ (by decide), hother _ _ _ (by decide)]
        rfl
    _ = TCK_CTRL.RUN.get v := by
        rw [Fld.get_put _ _ _ (by decide)]
        exact Nat.mod_eq_of_lt (Fld.get_lt _ _)

/-- The word that a write of `TCK_CTRL` stores: SRC as it stands when 0b11 is written (R59). -/
def State.ctrlWord (s : State) (v : Word) : Word := if TCK_CTRL.SRC.get v = 3 then s.keep TCK_CTRL.SRC v else v

theorem State.ctrlWord_run (s : State) (v : Word) : TCK_CTRL.RUN.get (s.ctrlWord v) = TCK_CTRL.RUN.get v := by
  unfold State.ctrlWord
  split
  · exact Fld.get_put_other _ _ v _ (.inr (by decide)) (by decide)
  · rfl

theorem State.ctrlStore_run (s : State) (v : Word) : (s.store TCK_CTRL.reg (s.ctrlWord v)).rd TCK_CTRL.RUN = TCK_CTRL.RUN.get v :=
  (tckCtrl_store_run s _).trans (s.ctrlWord_run v)

theorem tckCtrlWrite_set {s : State} {v : Word} (h0 : s.rd TCK_CTRL.RUN = 0) (h1 : TCK_CTRL.RUN.get v = 1) :
    tckCtrlWrite v s = (s.store TCK_CTRL.reg (s.ctrlWord v)).runSet :=
  if_pos ⟨h0, (s.ctrlStore_run v).trans h1⟩

theorem tckCtrlWrite_clear {s : State} {v : Word} (h1 : s.rd TCK_CTRL.RUN = 1) (h0 : TCK_CTRL.RUN.get v = 0) :
    tckCtrlWrite v s = (s.store TCK_CTRL.reg (s.ctrlWord v)).runClear :=
  (if_neg fun h => by rw [h1] at h; exact absurd h.1 (by decide)).trans (if_pos ⟨h1, (s.ctrlStore_run v).trans h0⟩)

theorem tckRunSet_answers {s : State} {v : Word} (hup : s.busUp 0 = true) (h0 : s.rd TCK_CTRL.RUN = 0) (h1 : TCK_CTRL.RUN.get v = 1) :
    Answers (.tckRunSet v) s fun t => t.rd TCK_CTRL.RUN = 1 ∧ t.tick.first = true ∧ t.tick.set = none ∧ t.tick.master = none ∧
      t.tick.due = if t.rd TCK_CTRL.SRC = 0 then some (s.now + t.rd TCK_PERIOD.PERIOD_US * usUnits) else none := by
  refine ⟨_, congrArg Host.Outcome.next ((if_pos ⟨hup, h0, h1⟩).trans (tckCtrlWrite_set h0 h1)), ?_, rfl, rfl, rfl, ?_⟩
  · exact (s.ctrlStore_run v).trans h1
  · rw [← State.store_now s TCK_CTRL.reg (s.ctrlWord v)]
    rfl

theorem State.runClear_rd (s : State) (f : Fld) : s.runClear.rd f = s.rd f := by
  unfold State.runClear
  split <;> rfl

theorem tckRunClear_answers {s : State} {v : Word} (hup : s.busUp 0 = true) (h1 : s.rd TCK_CTRL.RUN = 1) (h0 : TCK_CTRL.RUN.get v = 0) :
    Answers (.tckRunClear v) s fun t => t.rd TCK_CTRL.RUN = 0 ∧ (t.isMaster = true → t.tick.stop = true) ∧
      (t.isMaster = false → t.tick.set = none) := by
  refine ⟨_, congrArg Host.Outcome.next ((if_pos ⟨hup, h1, h0⟩).trans (tckCtrlWrite_clear h1 h0)), ?_, ?_⟩
  · rw [State.runClear_rd]
    exact (s.ctrlStore_run v).trans h0
  · unfold State.runClear
    split
    · next h => exact ⟨fun _ => rfl, fun h' => absurd (h.symm.trans h') (by decide)⟩
    · next h => exact ⟨fun h' => absurd h' h, fun _ => rfl⟩

/-- The word that a write of `TCK_PERIOD` stores: a period below 2 us as 2 (R60). -/
theorem tckPeriod_stored (s : State) (v : Word) :
    (s.store TCK_PERIOD.reg v).rd TCK_PERIOD.PERIOD_US = TCK_PERIOD.PERIOD_US.get v ∧
      (s.store TCK_PERIOD.reg v).rd TCK_PERIOD.CUR_US = s.rd TCK_PERIOD.CUR_US := by
  have hw := s.store_word v findReg_tckPeriod (by decide)
  have hword : (s.store TCK_PERIOD.reg v).word TCK_PERIOD.reg =
      TCK_PERIOD.CUR_US.put (TCK_PERIOD.PERIOD_US.put (s.word TCK_PERIOD.reg) (TCK_PERIOD.PERIOD_US.get v)) (s.rd TCK_PERIOD.CUR_US) := hw
  constructor
  · calc TCK_PERIOD.PERIOD_US.get ((s.store TCK_PERIOD.reg v).word TCK_PERIOD.reg)
        = TCK_PERIOD.PERIOD_US.get v % 2 ^ TCK_PERIOD.PERIOD_US.len := by
          rw [hword, Fld.get_put_other _ _ _ _ (.inr (by decide)) (by decide), Fld.get_put _ _ _ (by decide)]
      _ = TCK_PERIOD.PERIOD_US.get v := Nat.mod_eq_of_lt (Fld.get_lt _ _)
  · calc TCK_PERIOD.CUR_US.get ((s.store TCK_PERIOD.reg v).word TCK_PERIOD.reg)
        = s.rd TCK_PERIOD.CUR_US % 2 ^ TCK_PERIOD.CUR_US.len := by rw [hword, Fld.get_put _ _ _ (by decide)]
      _ = s.rd TCK_PERIOD.CUR_US := Nat.mod_eq_of_lt (Fld.get_lt _ _)

theorem tckPeriodWrite_answers {s : State} {v : Word} (hup : s.busUp 0 = true) :
    Answers (.tckPeriodWrite v) s fun t => t.rd TCK_PERIOD.PERIOD_US = max 2 (TCK_PERIOD.PERIOD_US.get v) ∧
      t.rd TCK_PERIOD.CUR_US = s.rd TCK_PERIOD.CUR_US := by
  refine ⟨_, congrArg Host.Outcome.next (if_pos hup), ?_⟩
  unfold tckPeriodWrite
  split
  · next h =>
    obtain ⟨hper, hcur⟩ := tckPeriod_stored s (TCK_PERIOD.PERIOD_US.put v 2)
    refine ⟨hper.trans ?_, hcur⟩
    rw [Fld.get_put _ _ _ (by decide), max_eq_left (Nat.le_of_lt h)]
    rfl
  · next h =>
    obtain ⟨hper, hcur⟩ := tckPeriod_stored s v
    exact ⟨hper.trans (max_eq_right (by omega)).symm, hcur⟩

/-! ### TICK_IN -/

/-- The window of an edge of TICK_IN about the instant expected (R38). -/
theorem tickInEdge_accepted {s : State} {z : Nat} (h : ∀ e, s.edgeExpected = some e →
    e ≤ s.pinEdge z + s.rd TCK_PERIOD.CUR_US * 100 ∧ s.pinEdge z ≤ e + s.rd TCK_PERIOD.CUR_US * 100) :
    tickInEdge z s = { s with now := max s.now z
                              tick := { s.tick with edge := some (s.pinEdge z), due := some (s.pinEdge z + s.effLead), holdover := false } } := by
  refine if_pos ?_
  split
  · rfl
  · next e he => exact decide_eq_true (h e he)

theorem tickInEdge_outside {s : State} {z e : Nat} (he : s.edgeExpected = some e)
    (h : ¬(e ≤ s.pinEdge z + s.rd TCK_PERIOD.CUR_US * 100 ∧ s.pinEdge z ≤ e + s.rd TCK_PERIOD.CUR_US * 100)) : tickInEdge z s = s.at z := by
  refine if_neg ?_
  rw [he]
  exact fun hd => h (of_decide_eq_true hd)

theorem State.edgeExpected_of_edge {s : State} {e : Nat} (he : s.tick.edge = some e) :
    s.edgeExpected = some (e + s.rd TCK_PERIOD.CUR_US * 1600) := congrArg (Option.map _) he

/-- An edge in its window is the origin of the next tick. -/
theorem tickInEdge_answers {s : State} {z : Nat} (hm : s.tickInMaster = true) (h : ∀ e, s.edgeExpected = some e →
    e ≤ s.pinEdge z + s.rd TCK_PERIOD.CUR_US * 100 ∧ s.pinEdge z ≤ e + s.rd TCK_PERIOD.CUR_US * 100) :
    Answers (.tickInEdge z) s fun t => t.tick.edge = some (s.pinEdge z) ∧ t.tick.due = some (s.pinEdge z + s.effLead) ∧
      t.tick.holdover = false :=
  ⟨_, congrArg Host.Outcome.next ((if_pos hm).trans (tickInEdge_accepted h)), rfl, rfl, rfl⟩

theorem tickInEdge_discarded {s : State} {z e : Nat} (hm : s.tickInMaster = true) (he : s.edgeExpected = some e)
    (h : ¬(e ≤ s.pinEdge z + s.rd TCK_PERIOD.CUR_US * 100 ∧ s.pinEdge z ≤ e + s.rd TCK_PERIOD.CUR_US * 100)) :
    Answers (.tickInEdge z) s fun t => t.tick = s.tick :=
  ⟨_, congrArg Host.Outcome.next ((if_pos hm).trans (tickInEdge_outside he h)), rfl⟩

/-- Without an edge the master generates the tick and counts it. -/
theorem tickInHoldover_answers {s : State} {e : Nat} (hm : s.tickInMaster = true) (he : s.edgeExpected = some e) (hd : s.tick.due = none)
    (hs : s.tick.set = none) : Answers .tickInHoldover s fun t => t.tick.edge = some e ∧ t.tick.holdover = true ∧
      Counted s t TCK_HOLD_CNT.COUNT 1 := by
  have hbody : tickInHoldover s =
      let s1 : State := (s.at (e + s.rd TCK_PERIOD.CUR_US * 100)).bump TCK_HOLD_CNT.COUNT
      { s1 with tick := { s1.tick with edge := some e, due := some (e + s.effLead), holdover := true } } := by
    unfold tickInHoldover
    rw [he]
  exact ⟨_, congrArg Host.Outcome.next ((if_pos ⟨hm, hd, hs⟩).trans hbody), rfl, rfl,
    (State.bump_rd (s.at (e + s.rd TCK_PERIOD.CUR_US * 100)) TCK_HOLD_CNT.COUNT (by decide))⟩

/-- Settles O1: the two registers by what a write stores in their words, TICK_IN by the window about the expected instant. -/
theorem tickSources : Obligations.TickSources := by
  unfold Obligations.TickSources
  refine ⟨fun s v hup => ⟨tckRunSet_answers hup, tckRunClear_answers hup, tckPeriodWrite_answers hup⟩, fun s z x hm hx => ?_⟩
  subst hx
  refine ⟨fun hnone => tickInEdge_answers hm fun e he => ?_, fun e hedge hlo hhi => tickInEdge_answers hm fun e' he => ?_,
    fun e hedge hout => tickInEdge_discarded hm (State.edgeExpected_of_edge hedge) (by omega),
    fun e hedge hd hs => tickInHoldover_answers hm (State.edgeExpected_of_edge hedge) hd hs⟩
  · rw [State.edgeExpected, hnone] at he
    cases he
  · cases (State.edgeExpected_of_edge hedge).symm.trans he
    exact ⟨hlo, hhi⟩

end Sys2Proof.Machine
end

section
/-!
SUPPORT. What the master records of step control packets (O5).
-/

namespace Sys2Proof.Machine

open Sys2Proof

set_option Elab.async false

/-! ### Step control packets that arrive (R394, R441) -/

/-- Taking a packet leaves every register field. -/
theorem State.takeLanded_rd (s : State) (p : Pkt) (f : Fld) : (s.takeLanded p).rd f = s.rd f := congrArg f.get (State.takeLanded_word s p f.off)

theorem State.takeLanded_isMaster (s : State) (p : Pkt) : (s.takeLanded p).isMaster = s.isMaster := by
  unfold State.isMaster
  rw [State.takeLanded_rd]

theorem State.takeLanded_ctxSet (s : State) (p : Pkt) (c : Ctx) : (s.takeLanded p).ctxSet c = s.ctxSet c := by
  unfold State.ctxSet State.rd2
  rw [State.takeLanded_rd, State.takeLanded_rd]

theorem State.takeLanded_tick (s : State) (p : Pkt) : (s.takeLanded p).tick = s.tick := by
  obtain ⟨_, _, _, _, _, _, _, he⟩ := State.takeLanded_eq s p
  rw [he]

/-- A packet that passes its checks is taken; at the master, of a member. -/
theorem State.ctlIn_taken {s : State} {p : Pkt} (hcheck : s.landCheck p = none) (hbad : ctlBad p = false)
    (hmem : s.isMaster = true → (s.ctxSet (ctxOf p)).testBit (srcOf p).val = true) : s.ctlIn p = (s.takeLanded p, true) := by
  have hnot : ¬((s.takeLanded p).isMaster = true ∧ (!((s.takeLanded p).ctxSet (ctxOf p)).testBit (srcOf p).val) = true) := by
    rw [State.takeLanded_isMaster, State.takeLanded_ctxSet]
    rintro ⟨hm, hn⟩
    rw [hmem hm] at hn
    exact absurd hn (by decide)
  unfold State.ctlIn
  rw [hcheck]
  dsimp only
  rw [if_neg (by rw [hbad]; decide), if_neg hnot]

/-- The master records what it is told. -/
theorem State.atMaster_tick {s : State} {p : Pkt} (f : TickBlock → TickBlock) (hm : s.isMaster = true) (hcheck : s.landCheck p = none)
    (hbad : ctlBad p = false) (hmem : (s.ctxSet (ctxOf p)).testBit (srcOf p).val = true) : (s.atMaster p f).tick = f s.tick := by
  unfold State.atMaster
  rw [State.ctlIn_taken hcheck hbad fun _ => hmem]
  dsimp only
  rw [if_neg (by decide), if_pos ((s.takeLanded_isMaster p).trans hm)]
  exact congrArg f (s.takeLanded_tick p)

theorem mem_addOnce (l : List CtlRec) (r : CtlRec) : r ∈ addOnce l r := by
  unfold addOnce
  split
  · next h => exact List.contains_iff_mem.mp h
  · exact List.mem_append_right _ (List.mem_singleton.mpr rfl)

/-- Of a member and a context the master keeps the last report. -/
theorem mem_lastReport {l : List CtlRec} {p : Pkt} {r : CtlRec}
    (hr : r ∈ (l.filter fun r => !(r.chip == srcOf p && r.ctx == ctxOf p)) ++ [ctlRec p]) (hchip : r.chip = srcOf p)
    (hctx : r.ctx = ctxOf p) : r = ctlRec p := by
  rcases List.mem_append.mp hr with h | h
  · have hne := (List.mem_filter.mp h).2
    rw [hchip, hctx, beq_self_eq_true, beq_self_eq_true] at hne
    exact absurd hne (by decide)
  · exact List.mem_singleton.mp h

/-- Settles O5: a packet that passes its checks reaches the list that its kind names. -/
theorem masterRecords : Obligations.MasterRecords := by
  unfold Obligations.MasterRecords
  intro s p hup hm hcheck hbad hmem
  have htick : ∀ f : TickBlock → TickBlock, (s.atMaster p f).tick = f s.tick := fun f => State.atMaster_tick f hm hcheck hbad hmem
  refine ⟨fun ht => ⟨_, congrArg Host.Outcome.next (if_pos ⟨hup, ht⟩), ?_⟩,
    fun ht => ⟨_, congrArg Host.Outcome.next (if_pos ⟨hup, ht⟩), ?_⟩,
    fun ht => ⟨_, congrArg Host.Outcome.next (if_pos ⟨hup, ht⟩), ?_⟩⟩
  · dsimp only [readyReport]
    rw [htick]
    exact ⟨List.mem_append_right _ (List.mem_singleton.mpr rfl), fun r hr => mem_lastReport hr⟩
  · dsimp only [progressBeacon]
    rw [htick]
    exact mem_addOnce _ _
  · dsimp only [localDone]
    rw [htick]
    exact ⟨mem_addOnce _ _, mem_addOnce _ _⟩

end Sys2Proof.Machine
end

section
/-!
SUPPORT. Abort notices and local finish (O6).
-/

namespace Sys2Proof.Machine

open Sys2Proof

set_option Elab.async false

/-! ### The steps of a context under the operations that end one -/

theorem State.modStep_steps (s : State) (c : Ctx) (hit : Step → Bool) (f : Step → Step) :
    (s.modStep c hit f).steps c = (s.steps c).map fun st => if hit st then f st else st := Vector.getElem_set_self _

theorem State.raise_steps (s : State) (code sev : Nat) (data : List Nat) (x : Option Ctx) (seq : Word) (addr : Nat) (c : Ctx) :
    (s.raise code sev data x seq addr).steps c = s.steps c := by
  obtain ⟨_, _, _, _, he⟩ := State.raise_eq s code sev data x seq addr
  rw [he]
  rfl

theorem State.stepEvents_steps (s : State) (c : Ctx) (st : Step) : (s.stepEvents c st).steps c = s.steps c := by
  have hite : ∀ (n : Nat) (t u : State), t.steps c = s.steps c → u.steps c = s.steps c → (if n = 0 then t else u).steps c = s.steps c := by
    intro n t u ht hu
    split
    · exact ht
    · exact hu
  unfold State.stepEvents
  extract_lets s1 s2 s3
  have h1 : s1.steps c = s.steps c := hite _ _ _ rfl (State.raise_steps ..)
  have h2 : s2.steps c = s.steps c := hite _ _ _ h1 ((State.raise_steps ..).trans h1)
  have h3 : s3.steps c = s.steps c := hite _ _ _ h2 ((State.raise_steps ..).trans h2)
  exact hite _ _ _ h3 ((State.raise_steps ..).trans h3)

theorem State.sendMaster_steps (s : State) (ptype : Nat) (x : Ctx) (seq : Word) (att w1 : Nat) (c : Ctx) :
    (s.sendMaster ptype x seq att w1).steps c = s.steps c := by
  obtain ⟨_, _, _, _, _, _, _, _, _, _, _, he⟩ := State.sendMaster_eq s ptype x seq att w1
  rw [he]
  rfl

theorem State.takeLanded_steps (s : State) (p : Pkt) (c : Ctx) : (s.takeLanded p).steps c = s.steps c := by
  obtain ⟨_, _, _, _, _, _, _, he⟩ := State.takeLanded_eq s p
  rw [he]
  rfl

theorem State.holdReport_steps (s : State) (x c : Ctx) (seq : Word) (again : Bool) (att : Nat) :
    (s.hold (.readyReport x seq again) fun s => s.readyReport x seq att).steps c = s.steps c := by
  have hnow : (s.readyReport x seq att).steps c = s.steps c := State.sendMaster_steps _ _ _ _ _ _ _
  unfold State.hold
  split
  · split
    · exact hnow
    · rfl
  · split
    · exact hnow
    · rfl
  · exact hnow
  · exact hnow

/-! ### The end of the live step -/

/-- No step with a sequence number is live in a context. -/
def State.Ended (s : State) (c : Ctx) (seq : Word) : Prop := ∀ x, x ∈ s.steps c → x.seq = seq → x.live = false

theorem State.Ended.of_steps {s t : State} {c : Ctx} {seq : Word} (h : s.Ended c seq) (ht : t.steps c = s.steps c) : t.Ended c seq :=
  fun x hx => h x (ht ▸ hx)

/-- A change of the live steps with a sequence number that ends each of them. -/
theorem State.modStep_ended (s : State) (c : Ctx) (seq : Word) {f : Step → Step} (hf : ∀ x, (f x).live = false) :
    (s.modStep c (fun x => x.live && x.seq == seq) f).Ended c seq := by
  intro x hx hseq
  rw [State.modStep_steps] at hx
  obtain ⟨y, -, rfl⟩ := List.mem_map.mp hx
  split at hseq
  · next hit => rw [if_pos hit]; exact hf y
  · next hit =>
    rw [if_neg hit]
    exact Bool.eq_false_iff.mpr fun hl => hit (by rw [hl, hseq, beq_self_eq_true]; rfl)

/-- An outcome that ends the live steps with a sequence number. -/
theorem State.outcome_ended (s : State) (c : Ctx) (seq : Word) {f : Step → Step} (hf : ∀ x, (f x).live = false) :
    (s.outcome c (fun x => x.live && x.seq == seq) f).Ended c seq := by
  unfold State.outcome
  split
  · next hnone =>
    intro x hx hseq
    have hnot := List.find?_eq_none.mp hnone x hx
    exact Bool.eq_false_iff.mpr fun hl => hnot (by rw [hl, hseq, beq_self_eq_true]; rfl)
  · exact (s.modStep_ended c seq hf).of_steps (State.stepEvents_steps _ _ _)

/-- The live step that is aborted is replayed or retires: either way it is not live. -/
theorem State.abortLive_ended {s : State} {c : Ctx} {st : Step} (cause detail : Nat) (hlive : s.liveStep c = some st) :
    (s.abortLive c cause detail).Ended c st.seq := by
  unfold State.abortLive
  rw [hlive]
  dsimp only
  split
  · exact (State.modStep_ended _ c st.seq fun _ => rfl).of_steps (State.holdReport_steps ..)
  · exact State.outcome_ended _ c st.seq fun _ => rfl

theorem abortNotice_eq {s : State} {p : Pkt} {st : Step} (hcheck : s.landCheck p = none) (hbad : ctlBad p = false)
    (hm : s.isMaster = false) (hcur : s.current p = some st) :
    abortNotice p s = (s.takeLanded p).abortLive (ctxOf p) (bitsOf p.w1.toNat 0 4) (bitsOf p.w1.toNat 4 8) := by
  have hcur' : (s.takeLanded p).current p = some st := by
    unfold State.current
    rw [State.takeLanded_steps]
    exact hcur
  unfold abortNotice
  rw [State.ctlIn_taken hcheck hbad fun h => absurd (hm.symm.trans h) (by decide)]
  dsimp only
  rw [if_neg (by decide), if_neg (by rw [State.takeLanded_isMaster, hm]; decide), hcur']

/-- A step whose local conditions hold is finished. -/
theorem localFinish_finished {s : State} {c : Ctx} {st : Step} {a : Attempt} (hlive : s.liveStep c = some st) (hatt : s.work.att[c] = some a)
    (hfin : s.finishes c st a = true) : { st with finished := true } ∈ (localFinish c s).steps c := by
  have heq : localFinish c s = (s.modStep c (fun x => x.live) fun x => { x with finished := true }).sendMaster 0x0A c st.seq st.replays 0 := by
    unfold localFinish
    rw [hlive, hatt]
    exact if_pos hfin
  rw [heq, State.sendMaster_steps, State.modStep_steps]
  exact List.mem_map.mpr ⟨st, List.mem_of_find?_eq_some hlive, if_pos (List.find?_some hlive)⟩

/-- Settles O6: an abort leaves no live step of the sequence number, whichever way it ends, and a finish marks the live step. -/
theorem stepEnds : Obligations.StepEnds := by
  unfold Obligations.StepEnds
  intro s hup
  refine ⟨fun p st ht hcheck hbad hm hlive hcur => ⟨_, congrArg Host.Outcome.next (if_pos ⟨hup, ht⟩), ?_⟩,
    fun c st a hlive hatt hfin => ⟨_, congrArg Host.Outcome.next (if_pos hup), _, localFinish_finished hlive hatt hfin, rfl, rfl⟩⟩
  dsimp only
  rw [abortNotice_eq hcheck hbad hm hcur]
  refine State.abortLive_ended _ _ ?_
  unfold State.liveStep
  rw [State.takeLanded_steps]
  exact hlive

end Sys2Proof.Machine
end

section
/-!
SUPPORT. Slice resets, read data and write responses of the Host Port (O21).
-/

namespace Sys2Proof.Machine

open Sys2Proof

set_option Elab.async false

/-! ### Slices (R350, R352) -/

theorem State.raise_host (s : State) (code sev : Nat) (data : List Nat) (c : Option Ctx) (seq : Word) (addr : Nat) :
    (s.raise code sev data c seq addr).host = s.host := by
  obtain ⟨_, _, _, _, he⟩ := State.raise_eq s code sev data c seq addr
  rw [he]

theorem State.releaseAll_host (s : State) (hs : List Nat) : (s.releaseAll hs).host = s.host := by
  obtain ⟨_, _, _, he⟩ := State.releaseAll_eq s hs
  rw [he]

theorem State.withdrawTake_host (s : State) (sl slot : Nat) : (s.withdrawTake sl slot).host = s.host := by
  unfold State.withdrawTake
  extract_lets s1 hs
  have h1 : s1.host = s.host := State.raise_host ..
  split
  · exact h1
  · split
    · exact (State.releaseAll_host s1 _).trans h1
    · exact h1

/-- A slice of the Host Port that is set stands there. -/
theorem slices_set {l : List Slice} {sl : Nat} {x : Slice} (y : Slice) (h : l[sl]? = some x) : (l.set sl y)[sl]? = some y := by
  obtain ⟨hlt, -⟩ := List.getElem?_eq_some_iff.mp h
  exact List.getElem?_set_self hlt

/-- A slice that is reset holds nothing, whatever takes it had. -/
theorem sliceReset_slice {s : State} {sl : Nat} {x : Slice} (h : s.host.slices[sl]? = some x) :
    (sliceReset sl s).host.slices[sl]? = some { inReset := true, credits := 0, takes := [] } := by
  unfold sliceReset
  rw [h]
  have h1 : (s.host.slices.set sl { inReset := true, credits := 0, takes := [] })[sl]? =
      some { inReset := true, credits := 0, takes := [] } := slices_set _ h
  dsimp only
  split
  · exact foldl_keeps (P := fun t : State => t.host.slices[sl]? = some { inReset := true, credits := 0, takes := [] }) _ h1
      fun t n ht => by rw [State.withdrawTake_host]; exact ht
  · exact h1

/-- The slices stand and what is driven stays so. -/
structure Issues (s t : State) : Prop where
  slices : t.host.slices = s.host.slices
  out : ∀ e, Drives s e → Drives t e

theorem Issues.refl (s : State) : Issues s s := ⟨rfl, fun _ he => he⟩

theorem State.accIssue_issues (s : State) (r : HostReq) : Issues s (s.accIssue r) := by
  obtain ⟨_, _, _, _, he⟩ := State.accIssue_eq s r
  rw [he]
  exact ⟨rfl, fun _ h => h⟩

/-- A request that is issued, or waits, leaves the slices. -/
theorem Issues.issueOne {s t : State} (h : Issues s t) (r : HostReq) : Issues s (t.issueOne r) := by
  unfold State.issueOne
  extract_lets sl
  split
  · next tag _ =>
    split
    · exact ⟨h.slices, h.out⟩
    · let t1 : State := { t with host := { t.host with txns := t.host.txns ++ [{ tag := tag, req := r, got := [], orphan := false }] } }
      have h1 := t1.accIssue_issues r
      exact ⟨h1.slices.trans h.slices, fun e he => List.mem_cons_of_mem _ (h1.out e (h.out e he))⟩
  · exact ⟨h.slices, h.out⟩

theorem State.issueAll_issues (s : State) : Issues s s.issueAll :=
  foldl_keeps (P := Issues s) s.host.queue ⟨rfl, fun _ he => he⟩ fun _ r h => h.issueOne r

theorem hpRstRelease_slice {s : State} {sl : Nat} {x : Slice} (h : s.host.slices[sl]? = some x) (hrst : x.inReset = true) :
    (hpRstRelease sl s).host.slices[sl]? = some { x with inReset := false, credits := s.build.crdInit } ∧
      Drives (hpRstRelease sl s) (.credit sl s.build.crdInit) := by
  let s1 : State := { s with host := { s.host with
    slices := s.host.slices.set sl { x with inReset := false, credits := s.build.crdInit } } }
  have heq : hpRstRelease sl s = (s1.emit (.credit sl s.build.crdInit)).issueAll := by
    unfold hpRstRelease
    rw [h]
    exact if_pos hrst
  obtain ⟨hslices, hout⟩ := (s1.emit (.credit sl s.build.crdInit)).issueAll_issues
  rw [heq, hslices]
  exact ⟨slices_set _ h, hout _ (State.emit_drives _ _)⟩

/-! ### Read data (R58, R331, R404) -/

theorem State.sendMaster_host (s : State) (ptype : Nat) (c : Ctx) (seq : Word) (att w1 : Nat) :
    (s.sendMaster ptype c seq att w1).host = s.host := by
  obtain ⟨_, _, _, _, _, _, _, _, _, _, _, he⟩ := State.sendMaster_eq s ptype c seq att w1
  rw [he]

theorem State.progress_host (s : State) (c : Ctx) : (s.progress c).host = s.host := by
  unfold State.progress
  split
  · split
    · rfl
    · exact State.sendMaster_host ..
  · rfl

theorem State.beatProgress_host (s : State) (why : Purpose) : (s.beatProgress why).host = s.host := by
  unfold State.beatProgress
  split
  · exact State.progress_host ..
  · exact State.progress_host ..
  · rfl

/-- The transaction of a tag that is changed stands changed under its tag. -/
theorem State.modTxn_txnAt {s : State} {tag : Fin 1024} {x : HostTxn} (f : HostTxn → HostTxn) (hf : ∀ y, (f y).tag = y.tag)
    (h : s.txnAt tag = some x) : (s.modTxn tag f).txnAt tag = some (f x) := by
  have hpred : ((fun t : HostTxn => t.tag == tag) ∘ fun t => if t.tag = tag then f t else t) = fun t => t.tag == tag := by
    funext t
    dsimp only [Function.comp]
    split
    · rw [hf]
    · rfl
  have hx : x.tag = tag := eq_of_beq (List.find?_some (p := fun t : HostTxn => t.tag == tag) h)
  calc (s.modTxn tag f).txnAt tag
      = (s.txnAt tag).map fun t => if t.tag = tag then f t else t := by
        unfold State.txnAt State.modTxn
        rw [List.find?_map, hpred]
    _ = some (f x) := by
        rw [h, Option.map_some, if_pos hx]

theorem State.txnAt_of_host {s t : State} (h : t.host = s.host) (tag : Fin 1024) : t.txnAt tag = s.txnAt tag := by
  unfold State.txnAt
  rw [h]

section
variable {s : State} {tag : Fin 1024} {x : HostTxn} {d : BitVec 512}

/-- The bytes of a beat in its natural lanes. -/
def HostTxn.beat (x : HostTxn) (d : BitVec 512) : List Byte :=
  slice (toBytes 64 d.toNat) ((x.req.addr + x.got.length) % 64) (min (64 - (x.req.addr + x.got.length) % 64) (x.req.len - x.got.length))

theorem hostReadData_gathers (h : s.txnAt tag = some x) (hw : x.req.write = false) (ho : x.orphan = false) :
    (hostReadData tag d false 0 s).txnAt tag = some { x with got := x.got ++ x.beat d } := by
  have heq : hostReadData tag d false 0 s = (s.modTxn tag fun y => { y with got := x.got ++ x.beat d }).beatProgress x.req.why := by
    unfold hostReadData
    rw [h]
    simp only [hw, ho, Bool.false_eq_true, if_false, ne_eq, not_true_eq_false]
    rfl
  rw [heq, State.txnAt_of_host (State.beatProgress_host _ _)]
  exact State.modTxn_txnAt _ (fun _ => rfl) h

theorem hostReadData_orphan {err : Nat} (h : s.txnAt tag = some x) (hw : x.req.write = false) (ho : x.orphan = true) :
    hostReadData tag d true err s = s.endTxn x := by
  unfold hostReadData
  rw [h]
  simp only [hw, ho, Bool.false_eq_true, if_false, if_true]

theorem State.hostError_reports (s : State) (x : HostTxn) (err : Nat) (c : Option Ctx) (seq : Word) :
    Reports s 0x0101 (s.hostError x err c seq) := State.raise_reports _ _ _ _ _ _ _

/-- What follows the report of a read error leaves the report waiting. -/
theorem hostReadData_error {last : Bool} {err : Nat} (h : s.txnAt tag = some x) (hw : x.req.write = false) (ho : x.orphan = false)
    (herr : err ≠ 0) : Reports s 0x0101 (hostReadData tag d last err s) := by
  let s1 := s.hostError x err (s.txnCtx x.req.why).1 (s.txnCtx x.req.why).2
  have heq : hostReadData tag d last err s =
      (if last then s1.endTxn x else s1.modTxn tag fun y => { y with orphan := true }).readError x.req.why := by
    unfold hostReadData
    rw [h]
    simp only [hw, ho, herr, Bool.false_eq_true, if_false, if_true, ne_eq, not_false_eq_true]
    rfl
  have hkept : Kept (Onward s1) (hostReadData tag d last err s) := by
    rw [heq]
    exact .readError (.ite (Onward.kept s1).endTxn (Onward.kept s1).modTxn)
  exact Onward.reports (s.hostError_reports x err _ _) hkept.holds

/-! ### Write responses (R332, R338) -/

/-- The response of a write other than of a completion or event record. -/
theorem hostWriteResponse_eq {err : Nat} (h : s.txnAt tag = some x) (hw : x.req.write = true) (hc : ∀ c i, x.req.why ≠ .completion c i)
    (he : x.req.why ≠ .event) :
    hostWriteResponse tag err s =
      let s1 : State := if err = 0 then s else s.hostError x err (s.txnCtx x.req.why).1 (s.txnCtx x.req.why).2
      let s2 : State := s1.endTxn x
      let s3 : State := if err = 0 ∨ x.orphan then s2 else s2.writeError x.req.why
      s3.writeDone x.req.why x.orphan (err != 0) := by
  delta hostWriteResponse
  rw [h]
  refine (if_neg (by rw [hw]; decide)).trans ?_
  cases hwhy : x.req.why with
  | completion c i => exact absurd hwhy (hc c i)
  | event => exact absurd hwhy he
  | _ => rfl

/-- A step's write that succeeds ends with its transaction. -/
theorem hostWriteResponse_step {c : Ctx} {q : Word} {att : Nat} (h : s.txnAt tag = some x) (hw : x.req.write = true)
    (hwhy : x.req.why = .output c q att ∨ x.req.why = .aux c q att) : hostWriteResponse tag 0 s = s.endTxn x := by
  rcases hwhy with hwhy | hwhy
  all_goals
    rw [hostWriteResponse_eq h hw (by rw [hwhy]; exact fun _ _ => nofun) (by rw [hwhy]; nofun), hwhy]
    simp only [if_true, true_or]
    rfl

theorem hostWriteResponse_error {err : Nat} (h : s.txnAt tag = some x) (hw : x.req.write = true) (hc : ∀ c i, x.req.why ≠ .completion c i)
    (he : x.req.why ≠ .event) (herr : err ≠ 0) : Reports s 0x0101 (hostWriteResponse tag err s) := by
  let s1 := s.hostError x err (s.txnCtx x.req.why).1 (s.txnCtx x.req.why).2
  have hkept : Kept (Onward s1) (hostWriteResponse tag err s) := by
    rw [hostWriteResponse_eq h hw hc he]
    dsimp only
    rw [if_neg herr]
    have h2 := (Onward.kept s1).endTxn (t := x)
    exact .writeDone (.ite h2 h2.writeError)
  exact Onward.reports (s.hostError_reports x err _ _) hkept.holds

end

/-- Settles O21: slices by what resets and issues leave of them, transfers by the branch of their answer. -/
theorem hostPort : Obligations.HostPort := by
  unfold Obligations.HostPort
  refine ⟨fun s sl x hlt h => ⟨⟨_, congrArg Host.Outcome.next (if_pos hlt), sliceReset_slice h⟩,
    fun hrst => ⟨_, congrArg Host.Outcome.next (if_pos hlt), hpRstRelease_slice h hrst⟩⟩,
    fun s tag x hup h => ⟨fun hw => ?_, fun hw hc he => ?_⟩⟩
  · exact ⟨fun d ho => ⟨_, congrArg Host.Outcome.next (if_pos hup), _, hostReadData_gathers h hw ho, rfl, rfl⟩,
      fun d err ho => ⟨_, congrArg Host.Outcome.next (if_pos hup), hostReadData_orphan h hw ho⟩,
      fun d last err ho herr => ⟨_, congrArg Host.Outcome.next (if_pos hup), hostReadData_error h hw ho herr⟩⟩
  · exact ⟨fun c q att hwhy => ⟨_, congrArg Host.Outcome.next (if_pos hup), hostWriteResponse_step h hw hwhy⟩,
      fun err herr => ⟨_, congrArg Host.Outcome.next (if_pos hup), hostWriteResponse_error h hw hc he herr⟩⟩

end Sys2Proof.Machine
end

section
/-!
SUPPORT. What most operations leave: the time, the tick, what the Wells have sent and the attempts they hold open. The stable properties
of `Kept` do not see the time, the tick block or the landed packets, so these have a relation of their own, with a rule per operation.
-/

namespace Sys2Proof.Machine

open Sys2Proof

set_option Elab.async false

/-! ### The relation -/

/-- The tick block without the packets held for a master, the counts of stale packets and the steps last reported. -/
def TickBlock.clock (k : TickBlock) : TickBlock :=
  { k with held := [], stale := [], stalePlain := 0, stalePtype := 0, reported := Vector.replicate 16 none }

/-- The attempts that a Well holds open. -/
def Well.keys (k : Well) : List (Ctx × Word × Nat) := k.opens.map fun o => (o.ctx, o.seq, o.att)

/-- A packet is among the landed ones. -/
def State.HasLanded (s : State) (p : Pkt) : Prop := ∃ l ∈ s.landed, l.pkt = p

/-- `t` has the time and the tick of `s` (but for what a member holds and counts between ticks), its Wells hold the same attempts open, and
what the Wells of `s` have sent their Hub is still landed. -/
structure Steady (s t : State) : Prop where
  now : t.now = s.now
  clock : t.tick.clock = s.tick.clock
  landed : ∀ p, 0x30 ≤ ptypeOf p → s.HasLanded p → t.HasLanded p
  wells : ∀ w : WellNo, t.wells[w].keys = s.wells[w].keys

variable {base s t : State}

theorem Steady.refl (s : State) : Steady s s := ⟨rfl, rfl, fun _ _ hl => hl, fun _ => rfl⟩

theorem Steady.trans {u : State} (h : Steady s t) (h' : Steady t u) : Steady s u :=
  ⟨h'.now.trans h.now, h'.clock.trans h.clock, fun p hp hl => h'.landed p hp (h.landed p hp hl), fun w => (h'.wells w).trans (h.wells w)⟩

/-- An update of what lies beside the time, the landed packets and the roles. -/
theorem Steady.upd {out free act mir cwin mch tick commits evq evr host cfgWait ports routeWait wells work cist chan hk corrected}
    (h : Steady base s) (ht : tick.clock = s.tick.clock := by rfl)
    (hw : ∀ w : WellNo, wells[w].keys = s.wells[w].keys := by exact fun _ => rfl) :
    Steady base { s with
      out := out, free := free, act := act, mir := mir, cwin := cwin, mch := mch, tick := tick, commits := commits, evq := evq, evr := evr
      host := host, cfgWait := cfgWait, ports := ports, routeWait := routeWait, wells := wells, work := work
      cist := cist, chan := chan, hk := hk, corrected := corrected } :=
  h.trans ⟨rfl, ht, fun _ _ hl => hl, hw⟩

/-- A change of the landed packets that leaves what the Wells have sent. -/
theorem Steady.setLanded {l} (h : Steady base s) (hl : ∀ p, 0x30 ≤ ptypeOf p → s.HasLanded p → ∃ x ∈ l, x.pkt = p) :
    Steady base { s with landed := l } := h.trans ⟨rfl, rfl, hl, fun _ => rfl⟩

theorem Steady.ite {c : Prop} [Decidable c] (ht : Steady base t) (hs : Steady base s) : Steady base (if c then t else s) := by
  split
  · exact ht
  · exact hs

theorem Steady.fst {α : Type} {x : State × α} {a : α} (h : Steady base x.1) (he : x = (t, a)) : Steady base t := by
  rw [he] at h
  exact h

theorem Steady.foldl {β : Type} {f : State → β → State} {l : List β} (h : Steady base s)
    (hf : ∀ {t : State}, Steady base t → ∀ x, Steady base (f t x)) : Steady base (l.foldl f s) :=
  foldl_keeps (P := Steady base) l h fun _ x ht => hf ht x

/-! ### Registers, steps and events -/

theorem Steady.setWord {off v} (h : Steady base s) : Steady base (s.setWord off v) := by
  obtain ⟨_, _, _, he⟩ := State.setWord_eq s off v
  rw [he]
  exact h.upd

theorem Steady.wr {f v} (h : Steady base s) : Steady base (s.wr f v) := h.setWord

theorem Steady.bumpBy {f n} (h : Steady base s) : Steady base (s.bumpBy f n) := h.wr

theorem Steady.bump {f} (h : Steady base s) : Steady base (s.bump f) := h.bumpBy

theorem Steady.wrIf {f v} (h : Steady base s) : Steady base (s.wrIf f v) := .ite h h.wr

theorem Steady.wr2 {lo hi v} (h : Steady base s) : Steady base (s.wr2 lo hi v) := h.wr.wr

theorem Steady.setCore {m} (h : Steady base s) : Steady base (s.setCore m) := h.upd

theorem Steady.setSteps {c l} (h : Steady base s) : Steady base (s.setSteps c l) := h.setCore

theorem Steady.modStep {c p f} (h : Steady base s) : Steady base (s.modStep c p f) := h.setSteps

theorem Steady.emit {e} (h : Steady base s) : Steady base (s.emit e) := h.upd

theorem Steady.raiseEv {e} (h : Steady base s) : Steady base (s.raiseEv e) := by
  obtain ⟨_, _, _, _, he⟩ := State.raiseEv_eq s e
  rw [he]
  exact h.upd

theorem Steady.raiseFrom {part num code sev data c seq addr} (h : Steady base s) : Steady base (s.raiseFrom part num code sev data c seq addr) :=
  h.raiseEv

theorem Steady.raise {code sev data c seq addr} (h : Steady base s) : Steady base (s.raise code sev data c seq addr) := h.raiseFrom

theorem Steady.rasIrq {f} (h : Steady base s) : Steady base (s.rasIrq f) := by
  unfold State.rasIrq
  refine .ite ?_ h
  extract_lets s1
  have h1 : Steady base s1 := h.wr
  exact .ite h1.emit h1

theorem Steady.setFrozen {m data2 part} (h : Steady base s) : Steady base (s.setFrozen m data2 part) := by
  unfold State.setFrozen
  refine .rasIrq (.raiseFrom ?_)
  cases m with
  | peer d =>
    dsimp only
    exact .ite h.wr h.wr
  | core => exact h
  | ring c | well w | debug =>
    dsimp only
    exact h.wr

theorem Steady.addPair {lo hi n} (h : Steady base s) : Steady base (s.addPair lo hi n) := h.wr2

theorem Steady.accCyc {c n} (h : Steady base s) : Steady base (s.accCyc c n) := h.addPair

theorem Steady.accEnergy {c fj} (h : Steady base s) : Steady base (s.accEnergy c fj) := h.upd.addPair

theorem Steady.accMacs {c n} (h : Steady base s) : Steady base (s.accMacs c n) := h.accEnergy

theorem Steady.modWell {w f} (h : Steady base s) (hf : ∀ k, (f k).keys = k.keys := by exact fun _ => rfl) : Steady base (s.modWell w f) := by
  have hw : ∀ v : WellNo, (s.modWell w f).wells[v].keys = s.wells[v].keys := fun v => by
    by_cases hv : v = w
    · rw [hv, State.modWell_same]
      exact hf _
    · rw [State.modWell_ne s f hv]
  exact h.upd (hw := hw)

theorem Steady.hostRead {why addr len} (h : Steady base s) : Steady base (s.hostRead why addr len) := by
  obtain ⟨_, _, _, _, _, _, he⟩ := State.hostRead_eq s why addr len
  rw [he]
  exact h.upd

theorem Steady.hostWrite {why addr bytes} (h : Steady base s) : Steady base (s.hostWrite why addr bytes) := by
  obtain ⟨_, _, _, _, _, _, he⟩ := State.hostWrite_eq s why addr bytes
  rw [he]
  exact h.upd

theorem Steady.orphan {c seq att} (h : Steady base s) : Steady base (s.orphan c seq att) := by
  unfold State.orphan
  extract_lets _ _ _ s1
  exact .ite h.upd h.upd.bumpBy

theorem Steady.modLink {l f} (h : Steady base s) : Steady base (s.modLink l f) := by
  cases l with
  | port p => exact h.upd
  | well w => exact h.modWell (w := w) (f := fun k => { k with link := f k.link })
  | mirror => exact h.upd

theorem Steady.enqueueOn {l pkt sub release mask} (h : Steady base s) : Steady base (s.enqueueOn l pkt sub release mask) := by
  unfold State.enqueueOn
  exact h.modLink

theorem Steady.landHere {pkt hold release} (h : Steady base s) : Steady base (s.landHere pkt hold release) :=
  h.setLanded fun _ _ ⟨x, hx, hp⟩ => ⟨x, List.mem_append_left _ hx, hp⟩

theorem Steady.release {n} (h : Steady base s) : Steady base (s.release n) := by
  unfold State.release
  split
  · exact h.upd
  · exact .ite h.upd h.upd

theorem Steady.releaseAll {hs} (h : Steady base s) : Steady base (s.releaseAll hs) := .foldl h fun ht _ => ht.release

theorem Steady.releaseOpt {x} (h : Steady base s) : Steady base (s.releaseOpt x) := by
  unfold State.releaseOpt
  split
  · exact h.release
  · exact h

/-! ### Packets that leave and abort notices -/

theorem Steady.sendRaw {t} (h : Steady base s) : Steady base (s.sendRaw t).1 := by
  unfold State.sendRaw
  dsimp only
  by_cases hc : (dstOf t.pkt).val = s.chip
  · simp only [hc, if_true]
    exact h.landHere
  · simp only [hc, if_false]
    split
    · exact h
    · split_ifs
      · exact h.upd
      · dsimp only
        exact h.enqueueOn

theorem Steady.sendNotice {p} (h : Steady base s) : Steady base (s.sendNotice p) := by
  unfold State.sendNotice
  split
  · next he => exact (h.sendRaw.fst he).raise
  · next he => exact h.sendRaw.fst he

theorem Steady.abortTo {src dsts c seq att cause detail} (h : Steady base s) : Steady base (s.abortTo src dsts c seq att cause detail) := by
  unfold State.abortTo
  extract_lets _ _ s1 _
  have h1 : Steady base s1 := .foldl h fun ht _ => ht.sendNotice
  exact .ite h1 h1.upd

theorem Steady.sendAbort {c seq att cause detail} (h : Steady base s) : Steady base (s.sendAbort c seq att cause detail) := .ite h h.abortTo

theorem Steady.noticeAs {name c seq att cause detail} (h : Steady base s) : Steady base (s.noticeAs name c seq att cause detail) := by
  unfold State.noticeAs
  split
  · exact h.sendAbort
  · exact h.abortTo

theorem Steady.routeAbort {p} (h : Steady base s) : Steady base (s.routeAbort p) := h.noticeAs

theorem Steady.send {pkt release sub} (h : Steady base s) : Steady base (s.send pkt release sub) := by
  unfold State.send
  split
  · next s1 he =>
    have h1 : Steady base s1 := h.sendRaw.fst he
    exact .ite h1.releaseAll.raise.routeAbort h1.releaseAll.raise
  · next he => exact h.sendRaw.fst he

theorem Steady.sendWell {w pkt release} (h : Steady base s) : Steady base (s.sendWell w pkt release) := .ite h.releaseAll h.enqueueOn

theorem Steady.sendMaster {ptype c seq att w1} (h : Steady base s) : Steady base (s.sendMaster ptype c seq att w1) := by
  unfold State.sendMaster
  extract_lets _ _
  refine .ite h.landHere ?_
  split
  · exact h.send
  · exact h.upd

theorem Steady.sendHeld {m} (h : Steady base s) : Steady base (s.sendHeld m) := .foldl h.upd fun ht _ => ht.send

/-! ### Landed packets that are taken -/

theorem Steady.freeHold {x} (h : Steady base s) : Steady base (s.freeHold x) := by
  unfold State.freeHold
  split
  · exact .ite h.modLink h.modLink
  · exact h

theorem Steady.takeRaw {p} (h : Steady base s) (hp : ptypeOf p < 0x30) : Steady base (s.takeRaw p).1 := by
  unfold State.takeRaw
  split
  · next l he =>
    have hl : l.pkt = p := eq_of_beq (List.find?_some (p := fun l : Landed => l.pkt == p) he)
    refine h.setLanded fun q hq ⟨x, hx, hxq⟩ => ⟨x, (List.mem_erase_of_ne ?_).mpr hx, hxq⟩
    rintro rfl
    rw [← hxq, hl] at hq
    omega
  · exact h

theorem Steady.takeWith {p} (h : Steady base s) (hp : ptypeOf p < 0x30) : Steady base (s.takeWith p).1 := (h.takeRaw hp).freeHold

theorem Steady.takeLanded {p} (h : Steady base s) (hp : ptypeOf p < 0x30) : Steady base (s.takeLanded p) := (h.takeWith hp).releaseAll

theorem Steady.stalePkt {p} (h : Steady base s) : Steady base (s.stalePkt p) := h.bump.upd

theorem Steady.progress {c} (h : Steady base s) : Steady base (s.progress c) := by
  unfold State.progress
  split
  · exact .ite h h.modStep.sendMaster
  · exact h

theorem Steady.hold {e now} (h : Steady base s) (hnow : ∀ {t}, Steady base t → Steady base (now t)) : Steady base (s.hold e now) := by
  unfold State.hold
  split
  · exact .ite (hnow h) h.upd
  · exact .ite (hnow h) h.upd
  · exact hnow h
  · exact hnow h

theorem Steady.readyReport {c seq att} (h : Steady base s) : Steady base (s.readyReport c seq att) := h.upd.sendMaster

theorem Steady.colAll {ch ptype w1 w2} (h : Steady base s) : Steady base (s.colAll ch ptype w1 w2) := .foldl h fun ht _ => ht.send

theorem Steady.colAbortSend {ch cause newatt} (h : Steady base s) : Steady base (s.colAbortSend ch cause newatt) := .ite h h.colAll

/-! ### The stacks of the Wells -/

theorem Steady.correctedWord {part} (h : Steady base s) : Steady base (s.correctedWord part) := by
  unfold State.correctedWord
  extract_lets _ _ s1 s2
  have h1 : Steady base s1 := h.bump
  exact .ite h1.upd.raise h1.upd

theorem Steady.stackWrite {w a bs} (h : Steady base s) : Steady base (s.stackWrite w a bs) := h.modWell

theorem Steady.stackZero {w a n} (h : Steady base s) : Steady base (s.stackZero w a n) := h.modWell

theorem Steady.countFixed {w a n} (h : Steady base s) : Steady base (s.countFixed w a n) := .foldl h fun ht _ => ht.correctedWord

theorem Steady.accDram {w c a rdB wrB} (h : Steady base s) : Steady base (s.accDram w c a rdB wrB) := h.modWell.addPair.accEnergy

theorem Steady.writeDram {w c a bs} (h : Steady base s) : Steady base (s.writeDram w c a bs) := h.stackWrite.accDram

theorem Steady.writePlacement {c seq l host} (h : Steady base s) : Steady base (s.writePlacement c seq l host).1 := by
  unfold State.writePlacement
  split
  · exact h
  · exact .foldl h fun ht _ => ht.writeDram

theorem Steady.zeroRows {c w} (h : Steady base s) : Steady base (s.zeroRows c w) := h.stackZero.accDram

theorem Steady.zeroEcho {c} (h : Steady base s) : Steady base (s.zeroEcho c) := .foldl h fun ht _ => ht.zeroRows

/-! ### The end of an attempt -/

theorem Steady.markWaits (h : Steady base s) : Steady base s.markWaits := .upd (.ite h h.bumpBy)

theorem Steady.cistAsk {q n why} (h : Steady base s) : Steady base (s.cistAsk q n why) := h.upd.markWaits

theorem Steady.withdraw {c} (h : Steady base s) : Steady base (s.withdraw c) := .foldl h.upd fun ht _ => by
    split
    · exact ht.freeHold
    · exact ht

theorem Steady.flushTx {hit} (h : Steady base s) : Steady base (s.flushTx hit) := .foldl h fun ht _ => ht.modLink.releaseAll

theorem Steady.flushLanded {hit} (h : Steady base s) (hhit : ∀ p, hit p = true → ptypeOf p < 0x30) : Steady base (s.flushLanded hit) := by
  refine .foldl (h.setLanded fun q hq ⟨x, hx, hxq⟩ => ⟨x, List.mem_filter.mpr ⟨hx, ?_⟩, hxq⟩) fun ht _ => ht.freeHold.releaseAll
  rw [hxq, Bool.not_eq_true']
  exact Bool.eq_false_iff.mpr fun ht => absurd (hhit q ht) (by omega)

theorem Steady.flushQueues {c} (h : Steady base s) : Steady base (s.flushQueues c) := h.releaseAll.upd

theorem Steady.flushTiles {c} (h : Steady base s) : Steady base (s.flushTiles c) := h.releaseAll.upd

theorem Steady.flushMeadow {c} (h : Steady base s) : Steady base (s.flushMeadow c) := h.releaseAll.upd

theorem Steady.closeWells {c seq att reason} (h : Steady base s) : Steady base (s.closeWells c seq att reason) := .foldl h fun ht _ => ht.sendWell

theorem Steady.dropTentative {c seq} (h : Steady base s) : Steady base (s.dropTentative c seq) := .ite h.setCore h

theorem Steady.countDrops {c} (h : Steady base s) : Steady base (s.countDrops c) := by
  unfold State.countDrops
  split
  · extract_lets s1
    have h1 : Steady base s1 := .ite h h.bumpBy.bumpBy
    exact .ite h1 h1.bumpBy.bumpBy

theorem Steady.absorbAtt {c seq} (h : Steady base s) : Steady base (s.absorbAtt c seq) := by
  unfold State.absorbAtt
  split
  · exact h
  · exact h.modStep

theorem Steady.stepEvents {c st} (h : Steady base s) : Steady base (s.stepEvents c st) := by
  unfold State.stepEvents
  extract_lets s1 s2 s3
  have h1 : Steady base s1 := .ite h h.raise
  have h2 : Steady base s2 := .ite h1 h1.raise
  have h3 : Steady base s3 := .ite h2 h2.raise
  exact .ite h3 h3.raise

theorem Steady.outcome {c hit f} (h : Steady base s) : Steady base (s.outcome c hit f) := by
  unfold State.outcome
  split
  · exact h
  · exact h.modStep.stepEvents

theorem ofAttempt_ptype (c seq att p) (hp : ofAttempt c seq att p = true) : ptypeOf p < 0x30 := by
  simp only [ofAttempt, Bool.and_eq_true, decide_eq_true_eq] at hp
  omega

theorem Steady.endAttempt {c st reason} (h : Steady base s) : Steady base (s.endAttempt c st reason) := by
  unfold State.endAttempt
  extract_lets _ _ s1 s2 s3 s4 _ s5 _ s6
  have h1 : Steady base s1 := h.absorbAtt.countDrops
  have h2 : Steady base s2 := .ite h1 h1.orphan
  have h3 : Steady base s3 := h2.withdraw.releaseAll.flushTx
  have h4 : Steady base s4 := (h3.flushLanded (ofAttempt_ptype _ _ _)).flushQueues.flushTiles.flushMeadow
  have h6 : Steady base s6 := h4.upd.releaseAll
  exact .closeWells (.ite h6 h6.dropTentative)

theorem Steady.retireLive {c status detail} (h : Steady base s) : Steady base (s.retireLive c status detail) := by
  unfold State.retireLive
  split
  · exact h
  · exact h.endAttempt.outcome

theorem Steady.abortLive {c cause detail} (h : Steady base s) : Steady base (s.abortLive c cause detail) := by
  unfold State.abortLive
  split
  · exact h
  · extract_lets _ s1
    have h1 : Steady base s1 := h.endAttempt.modStep
    split
    · exact .ite (h1.hold fun ht => ht.readyReport) h.endAttempt.outcome

theorem Steady.noticeLive {c cause detail} (h : Steady base s) : Steady base (s.noticeLive c cause detail) := by
  unfold State.noticeLive
  split
  · exact h.sendAbort
  · exact h

theorem Steady.freezeRing {c d2} (h : Steady base s) : Steady base (s.freezeRing c d2) :=
  .ite h (.foldl h.setFrozen.noticeLive fun ht _ => .ite ht.colAbortSend ht)

theorem Steady.freezePeer {d d2} (h : Steady base s) : Steady base (s.freezePeer d d2) :=
  .ite h (.foldl h.setFrozen fun ht _ => .ite ht.noticeLive ht)

/-! ### The work of an attempt -/

theorem Steady.modAtt {c f} (h : Steady base s) : Steady base (s.modAtt c f) := h.upd

theorem Steady.modTok {c t f} (h : Steady base s) : Steady base (s.modTok c t f) := h.modAtt

theorem Steady.emitRow {c t els} (h : Steady base s) : Steady base (s.emitRow c t els) := by
  unfold State.emitRow
  split
  · exact h
  · exact h.hostWrite.modTok.progress

theorem Steady.satHub {n} (h : Steady base s) : Steady base (s.satHub n) := .ite h h.bumpBy

theorem Steady.emit32 {c t row} (h : Steady base s) : Steady base (s.emit32 c t row) := h.satHub.emitRow

theorem Steady.writeAux {c t dws} (h : Steady base s) : Steady base (s.writeAux c t dws) := by
  unfold State.writeAux
  split
  · split
    · exact h
    · exact h.satHub.hostWrite
  · exact h

theorem Steady.dropMead {c t} (h : Steady base s) : Steady base (s.dropMead c t) := h.upd

theorem Steady.finishTok {c m} (h : Steady base s) : Steady base (s.finishTok c m) := by
  unfold State.finishTok
  split
  · exact h
  · refine .ite h.upd ?_
    extract_lets s1 s2
    have h1 : Steady base s1 := h.emit32
    have h2 : Steady base s2 := .ite h1.writeAux h1
    exact h2.dropMead

theorem Steady.combineStarts {c} (h : Steady base s) : Steady base (s.combineStarts c) := by
  unfold State.combineStarts
  split
  · exact h
  · refine .ite h ?_
    extract_lets _ s1
    have h1 : Steady base s1 := h.modStep
    exact .ite h1.raise h1

theorem Steady.addRank {p} (h : Steady base s) : Steady base (s.addRank p) := by
  unfold State.addRank
  split
  · exact h
  · extract_lets _ _ s1
    exact .ite h.upd.finishTok h.upd

theorem Steady.pumpParked {n} (h : Steady base s) : Steady base (s.pumpParked n) := by
  induction n generalizing s with
  | zero => exact h
  | succ n ih =>
    unfold State.pumpParked
    split
    · exact h
    · exact ih (.addRank (.releaseOpt h.upd))

theorem Steady.park {m p bf hold} (h : Steady base s) : Steady base (s.park m p bf hold) := .ite h.freeHold.upd h.bump.cistAsk

theorem Steady.meadReturn {st p hold} (h : Steady base s) : Steady base (s.meadReturn st p hold) := by
  rw [show @State.meadReturn = _ by delta State.meadReturn; rfl]
  extract_lets c token rank ranks x bad
  have hbad : Steady base (bad s) := h.freeHold.bump.raise
  cases s.mead c x with
  | none => exact hbad
  | some m => exact .ite hbad (.ite h.freeHold.addRank.pumpParked h.park)

theorem Steady.countError {p home expert filled landed kind} (h : Steady base s) : Steady base (s.countError p home expert filled landed kind) :=
  h.bump.raise.sendAbort

theorem Steady.heldRelease {c} (h : Steady base s) : Steady base (s.heldRelease c) := .ite h.wr h

theorem Steady.swapAt {c tick} (h : Steady base s) : Steady base (s.swapAt c tick) := .ite h.wr.wr.wr.modStep.zeroEcho.raise h

/-! ### Words in error -/

theorem Steady.uncor {part mem addr mis} (h : Steady base s) : Steady base (s.uncor part mem addr mis) := by
  unfold State.uncor
  extract_lets s1 s2 s3
  have h1 : Steady base s1 := h.bump
  have h2 : Steady base s2 := .ite h1.bump h1
  have h3 : Steady base s3 := h2.wr.wr.wr.wr
  exact h3.rasIrq

theorem Steady.uncorEvent {mem addr mis fixed c seq} (h : Steady base s) : Steady base (s.uncorEvent mem addr mis fixed c seq) := h.raise

theorem Steady.uncorLive {part mem addr mis c} (h : Steady base s) : Steady base (s.uncorLive part mem addr mis c) := by
  unfold State.uncorLive
  split
  · exact h.uncor.uncorEvent.noticeLive
  · exact h.uncor.uncorEvent

theorem Steady.voidLedger {c p} (h : Steady base s) : Steady base (s.voidLedger c p) := .ite h.setCore h

theorem Steady.modLog {w c f} (h : Steady base s) : Steady base (s.modLog w c f) :=
  h.modWell (w := w) (f := fun k => { k with actlog := k.actlog.set c (f k.actlog[c]) })

theorem Steady.voidAt {w a} (h : Steady base s) : Steady base (s.voidAt w a) := .foldl h fun ht _ => by
    extract_lets _ _ _ _ _ s1
    have h1 : Steady base s1 := ht.voidLedger
    exact .ite h1 h1.modLog

theorem Steady.touch {w a n c} (h : Steady base s) : Steady base (s.touch w a n c).1 := by
  unfold State.touch
  cases s.badIn w a n with
  | none => exact h.countFixed
  | some x =>
    dsimp only
    exact h.countFixed.uncorLive.voidAt

theorem Steady.askLine {side space line} (h : Steady base s) : Steady base (s.askLine side space line) := .ite h h.upd.emit

theorem Steady.lineBad {side space addr} (h : Steady base s) : Steady base (s.lineBad side space addr) := .ite h.askLine h

theorem Steady.touchSram {space a n c} (h : Steady base s) : Steady base (s.touchSram space a n c).1 := by
  unfold State.touchSram
  extract_lets s1
  have h1 : Steady base s1 := .foldl h fun ht _ => ht.correctedWord
  split
  · exact h1
  · extract_lets _ _ s1 s2
    have h1 : Steady base s1 := h1.uncor.uncorEvent
    have h2 : Steady base s2 := .ite h1.noticeLive h1
    exact h2.lineBad

/-! ### Intake, the ledger and the copies sent -/

theorem Steady.intakeToken {c st t} (h : Steady base s) : Steady base (s.intakeToken c st t) := by
  unfold State.intakeToken
  extract_lets _ s1 _
  have h1 : Steady base s1 := h.hostRead
  exact .ite h1.hostRead h1

theorem Steady.ledgerAsk {c st e t} (h : Steady base s) : Steady base (s.ledgerAsk c st e t) := by
  unfold State.ledgerAsk
  split
  · exact h
  · exact h.modAtt.sendWell

theorem Steady.startAttempt {c st} (h : Steady base s) : Steady base (s.startAttempt c st) := by
  unfold State.startAttempt
  extract_lets _ s1 s2 s3 s4
  have h2 : Steady base s2 := .foldl h.upd fun ht _ => .ite ht ht.sendWell
  have h3 : Steady base s3 := .foldl h2 fun ht _ => ht.intakeToken
  have h4 : Steady base s4 := by
    dsimp only [s4]
    refine .ite ?_ h3
    split
    · exact .foldl h3.modAtt fun ht _ => ht.ledgerAsk
    · exact h3
  exact .ite h4.modStep.bump.raise h4

theorem Steady.ledgerSend {c st w a bs} (h : Steady base s) : Steady base (s.ledgerSend c st w a bs) := .foldl h fun ht _ => ht.modAtt.sendWell

theorem Steady.writeLedger {c st} (h : Steady base s) : Steady base (s.writeLedger c st) := .ite h.raise (.foldl h.setCore fun ht _ => ht.ledgerSend)

theorem Steady.sendCopy {c st t x n} (h : Steady base s) : Steady base (s.sendCopy c st t x n) := h.send

theorem Steady.pump {c n} (h : Steady base s) : Steady base (State.pump c n s) := by
  induction n generalizing s with
  | zero => exact h
  | succ n ih =>
    unfold State.pump
    split
    · exact ih h.modAtt.sendCopy
    · exact h

theorem Steady.sendEods {c} (h : Steady base s) : Steady base (s.sendEods c) := .ite h (.foldl h fun ht _ => by
    split
    · exact .ite ht ht.modAtt.send
    · exact ht)

theorem Steady.pumpCtx {c} (h : Steady base s) : Steady base (s.pumpCtx c) := h.pump.sendEods

/-! ### Packets that arrive -/

theorem Steady.landCheck {p} (h : Steady base s) (hp : ptypeOf p < 0x30) (he : s.landCheck p = some t) : Steady base t := by
  unfold State.landCheck at he
  dsimp only at he
  split_ifs at he
  · exact Option.some.inj he ▸ (h.takeLanded hp)
  all_goals exact Option.some.inj he ▸ (h.takeLanded hp).freezePeer

theorem Steady.keepLanded {p queue} (h : Steady base s) : Steady base (s.keepLanded p queue) := by
  unfold State.keepLanded
  extract_lets s1 s2
  have h1 : Steady base s1 := .ite h h.landHere
  have h2 : Steady base s2 := .ite h1.bump h1
  refine h2.setLanded fun q _ ⟨x, hx, hxq⟩ => ⟨_, List.mem_map_of_mem hx, ?_⟩
  split
  · exact hxq
  · exact hxq

theorem Steady.mismatch {p x e r} (h : Steady base s) : Steady base (s.mismatch p x e r) := h.countError

theorem Steady.errorOpen {p x kind} (h : Steady base s) : Steady base (s.errorOpen p x kind) := h.upd.countError

theorem Steady.returnPacket {p} (h : Steady base s) (hp : ptypeOf p < 0x30) : Steady base (returnPacket p s) := by
  unfold Machine.returnPacket
  refine .ite h.keepLanded ?_
  extract_lets hold r s0
  have h0 : Steady base s0 := (h.takeRaw hp).releaseAll
  split
  · exact h0.freeHold.stalePkt
  · exact .ite h0.freeHold.errorOpen h0.meadReturn.progress

theorem Steady.dispatchHost {p} (h : Steady base s) (hp : ptypeOf p < 0x30) : Steady base (s.dispatchHost p) :=
  .ite h (.ite (h.takeLanded hp).mismatch (.ite h.keepLanded h.keepLanded.cistAsk.progress))

theorem Steady.passWell {w p} (h : Steady base s) (hp : ptypeOf p < 0x30) : Steady base (s.passWell w p) := by
  unfold State.passWell
  exact (h.takeWith hp).sendWell.modWell

theorem Steady.malformedAt {p x e} (h : Steady base s) : Steady base (s.malformedAt p x e) := h.countError

theorem Steady.dispatchAbsent {p} (h : Steady base s) (hp : ptypeOf p < 0x30) : Steady base (s.dispatchAbsent p) := by
  unfold State.dispatchAbsent
  extract_lets _ s1
  have h1 : Steady base s1 := h.takeLanded hp
  split
  · exact h1
  · exact .ite h1 h1.modAtt.sendAbort

theorem Steady.dispatch {p} (h : Steady base s) (hp : ptypeOf p < 0x30) : Steady base (dispatch p s) := by
  unfold Machine.dispatch
  split
  · next he => exact h.landCheck hp he
  · refine .ite h.keepLanded ?_
    split
    · exact (h.takeLanded hp).stalePkt
    · refine .ite (h.takeLanded hp).malformedAt (.ite (h.dispatchHost hp) ?_)
      split
      · exact .ite (h.takeLanded hp) (h.passWell hp)
      · exact h.dispatchAbsent hp

theorem Steady.wellSays {c seq att kind code} (h : Steady base s) : Steady base (s.wellSays c seq att kind code) := h.landHere

theorem Steady.retryHub (h : Steady base s) : Steady base s.retryHub := by
  refine List.foldlRecOn _ _ h fun t ht l hl => ?_
  have hp : ptypeOf l.pkt < 0x30 := by
    have hw := (List.mem_filter.mp hl).2
    simp only [Bool.and_eq_true, decide_eq_true_eq] at hw
    omega
  exact .ite (ht.dispatch hp) (ht.returnPacket hp)

/-! ### Collectives and absent members -/

theorem Steady.modChan {ch f} (h : Steady base s) : Steady base (s.modChan ch f) := h.upd

theorem Steady.dropReads {hit} (h : Steady base s) : Steady base (s.dropReads hit) := h.upd

theorem Steady.colTryHeader {ch} (h : Steady base s) : Steady base (s.colTryHeader ch) := by
  unfold State.colTryHeader
  split
  · exact h
  · exact .ite h h.modChan.hostWrite

theorem ofColAttempt_ptype (ch seq att p) (hp : ofColAttempt ch seq att p = true) : ptypeOf p < 0x30 := by
  simp only [ofColAttempt, Bool.and_eq_true, decide_eq_true_eq] at hp
  omega

theorem Steady.colDrop {ch} (h : Steady base s) : Steady base (s.colDrop ch) := (h.flushTx.flushLanded (ofColAttempt_ptype _ _ _)).upd.dropReads

theorem Steady.colFail {ch cause} (h : Steady base s) : Steady base (s.colFail ch cause) := by
  unfold State.colFail
  split
  · exact h.colDrop.raise.modChan.colTryHeader

theorem Steady.sendSet {ps ostype payload} (h : Steady base s) : Steady base (s.sendSet ps ostype payload) := .foldl h fun ht _ => ht.emit

theorem Steady.absentSetOut (h : Steady base s) : Steady base s.absentSetOut := h.sendSet

theorem Steady.colAbortIf {cause hit} (h : Steady base s) : Steady base (s.colAbortIf cause hit) := .foldl h fun ht _ => .ite ht.colAbortSend ht

theorem Steady.colAbsent {hit} (h : Steady base s) : Steady base (s.colAbsent hit) := .foldl h.colAbortIf fun ht _ => .ite ht.colFail ht

theorem Steady.declareAbsent {mask reason} (h : Steady base s) : Steady base (s.declareAbsent mask reason) := by
  unfold State.declareAbsent
  dsimp only
  split
  · exact h
  · refine .colAbsent (.foldl (.absentSetOut (.foldl h.wr2 fun ht _ => ht.raise)) fun ht _ => ?_)
    exact .ite ht.noticeLive ht

/-! ### Attempts on a Well -/

/-- The names of the open attempts stand when their entries change. -/
theorem keys_map (l : List WellOpen) {f : WellOpen → WellOpen} (hf : ∀ o, ((f o).ctx, (f o).seq, (f o).att) = (o.ctx, o.seq, o.att)) :
    (l.map f).map (fun o => (o.ctx, o.seq, o.att)) = l.map fun o => (o.ctx, o.seq, o.att) := by
  rw [List.map_map]
  exact List.map_congr_left fun o _ => hf o

theorem Steady.modOpen {w c seq att f} (h : Steady base s)
    (hf : ∀ o, ((f o).ctx, (f o).seq, (f o).att) = (o.ctx, o.seq, o.att) := by exact fun _ => rfl) : Steady base (s.modOpen w c seq att f) :=
  h.modWell fun k => keys_map k.opens fun o => by
    split
    · exact hf o
    · rfl

theorem Steady.wellEvent {w code sev data c seq att} (h : Steady base s) : Steady base (s.wellEvent w code sev data c seq att) := h.raiseFrom.wellSays

theorem Steady.writeActLog {w o} (h : Steady base s) : Steady base (s.writeActLog w o) := .ite h (.ite h.wellEvent h.voidLedger.modLog.writeDram)

theorem Steady.closeGlog {w o} (h : Steady base s) : Steady base (s.closeGlog w o) := by
  unfold State.closeGlog
  extract_lets _ _ _ s1
  have h1 : Steady base s1 := h.writeDram
  exact .ite h (.ite h1 h1.wellEvent)

theorem Steady.wellReports {w} (h : Steady base s) : Steady base (s.wellReports w) := .foldl h fun ht _ => by
    extract_lets _ _ s1 s2
    have h1 : Steady base s1 := .ite ht ht.wellSays.modOpen
    have h2 : Steady base s2 := h1.writeActLog.closeGlog.wellSays
    exact .ite ht (.ite h1 h2.modOpen)

theorem Steady.wellSwitch {w c} (h : Steady base s) : Steady base (s.wellSwitch w c) := by
  unfold State.wellSwitch
  split
  · exact h.modWell
  · exact .ite h h.bumpBy.wr.accCyc.modWell

theorem Steady.wellGrant {w} (h : Steady base s) : Steady base (s.wellGrant w) := by
  unfold State.wellGrant
  extract_lets _ _ _
  refine .ite h ?_
  split
  · exact h
  · split
    · exact h
    · exact h.modWell.wellSwitch

theorem Steady.wellIdle {w} (h : Steady base s) : Steady base (s.wellIdle w) := h.modWell

theorem Steady.scoreRowTake {w p} (h : Steady base s) : Steady base (s.scoreRowTake w p) := h.modWell.wellGrant

/-- A record that lands joins its attempt and leaves the names of the open ones. -/
theorem landed_keys (l : List WellOpen) (o : WellOpen) (r : Nat × Nat × Nat × List Byte) :
    (l.map fun x => if x = o then { x with recs := x.recs ++ [r] } else x).map (fun o => (o.ctx, o.seq, o.att))
      = l.map fun o => (o.ctx, o.seq, o.att) :=
  keys_map l fun x => by
    split
    · rfl
    · rfl

theorem Steady.wellLand {w p} (h : Steady base s) (he : s.wellLand w p = .taken t) : Steady base t := by
  unfold State.wellLand at he
  dsimp only at he
  split at he
  · exact Rx.taken.inj he ▸ h.stalePkt
  · split at he
    · cases he
    · split_ifs at he
      · exact Rx.taken.inj he ▸ h.mismatch
      · exact Rx.taken.inj he ▸ h.mismatch
      · exact Rx.taken.inj he ▸ .progress (h.modWell fun k => landed_keys k.opens _ _)
      · exact Rx.taken.inj he ▸ .progress h.modWell

theorem Steady.rxHead {w p} (h : Steady base s) (he : s.rxHead w p = .taken t) : Steady base t := by
  unfold State.rxHead at he
  split at he
  · split at he
    · exact Rx.taken.inj he ▸ h.stalePkt
    · split_ifs at he
      exact Rx.taken.inj he ▸ h.scoreRowTake
  · exact h.wellLand he

theorem Steady.rxPump {n w} (h : Steady base s) : Steady base (State.rxPump n w s) := by
  induction n generalizing s with
  | zero => exact h
  | succ n ih =>
    unfold State.rxPump
    split
    · exact h
    · split
      · next he => exact ih (h.modWell.rxHead he)
      · exact h
      · exact .ite h h.bump.modWell

theorem Steady.wellPump {w} (h : Steady base s) : Steady base (s.wellPump w) := h.rxPump

theorem Steady.retryLanded (h : Steady base s) : Steady base s.retryLanded := .foldl h.retryHub fun ht _ => ht.wellPump

/-! ### Tiles -/

theorem Steady.scoreTileRun {w t} (h : Steady base s) : Steady base (s.scoreTileRun w t) := by
  unfold State.scoreTileRun
  dsimp only
  split
  · exact h
  · split
    · exact h
    · split
      · next he => exact h.touch.fst he
      · next s1 he =>
        have h1 : Steady base s1 := h.touch.fst he
        exact .accMacs (.accDram (.foldl h1 fun ht _ => .ite ht ht.landHere))

theorem Steady.dirViolation {w c seq att layer e entry} (h : Steady base s) : Steady base (s.dirViolation w c seq att layer e entry) :=
  h.upd.bump.wellEvent.freezeRing

theorem Steady.dirRead {w x bank d} (h : Steady base s) (he : s.dirRead w x bank = (t, d)) : Steady base t := by
  rw [show @State.dirRead = _ by delta State.dirRead; rfl] at he
  split at he
  · exact (Prod.mk.inj he).1 ▸ h.dirViolation
  · split at he
    · next he1 => exact (Prod.mk.inj he).1 ▸ h.touch.fst he1
    · next s0 he1 =>
      have h0 : Steady base s0 := h.touch.fst he1
      dsimp only at he
      split at he
      · split at he
        · exact (Prod.mk.inj he).1 ▸ h0.accDram
        · exact (Prod.mk.inj he).1 ▸ h0.accDram.dirViolation
      · exact (Prod.mk.inj he).1 ▸ h0.accDram.dirViolation

theorem Steady.wellReturn {w t x bf els dw weight} (h : Steady base s) : Steady base (s.wellReturn w t x bf els dw weight) := .ite h h.send

theorem Steady.satWell {w n} (h : Steady base s) : Steady base (s.satWell w n) := .ite h h.bumpBy

theorem Steady.fwdCopy {w t e bf x} (h : Steady base s) : Steady base (s.fwdCopy w t e bf x) := h.satWell.wellReturn

theorem Steady.writeGrad {w o r} (h : Steady base s) : Steady base (s.writeGrad w o r) := by
  unfold State.writeGrad
  extract_lets _ _
  refine .ite h ?_
  split
  · exact h
  · exact .ite h.modOpen h.satWell.writeDram.modOpen

theorem Steady.bwdCopy {w t o e bf x} (h : Steady base s) : Steady base (s.bwdCopy w t o e bf x) := by
  unfold State.bwdCopy
  split
  · exact h
  · dsimp only
    split
    · next he => exact h.touch.fst he
    · next s1 he =>
      have h1 : Steady base s1 := h.touch.fst he
      exact .wellReturn (.writeGrad (.accDram (.satWell h1.upd)))

theorem Steady.tileRun {w t} (h : Steady base s) : Steady base (s.tileRun w t) := by
  fun_cases State.tileRun s w t
  · next he => exact h.dirRead he
  · next he _ _ _ hb => exact (h.dirRead he).touch.fst hb
  · next he _ _ _ hb _ _ => exact .foldl ((h.dirRead he).touch.fst hb).accDram.accMacs fun ht _ => .ite ht.bwdCopy ht.fwdCopy
  · exact h

/-! ### The tick -/

theorem Steady.starveMark (h : Steady base s) : Steady base s.starveMark := h.upd

theorem Steady.quotaAbort {c st detail} (h : Steady base s) : Steady base (s.quotaAbort c st detail) := h.raise.noticeLive

theorem Steady.sendTick {x hops fire path} (h : Steady base s) : Steady base (s.sendTick x hops fire path) := .foldl h fun ht _ => ht.emit.emit

theorem Steady.beaconsDue (h : Steady base s) : Steady base s.beaconsDue := .foldl h fun ht _ => .ite ht.modStep ht

theorem Steady.ledgerCommit {c seq} (h : Steady base s) : Steady base (s.ledgerCommit c seq) := by
  unfold State.ledgerCommit
  split
  · exact h
  · exact .foldl h.setCore fun ht _ => ht.writeDram

theorem Steady.commitStep {c st} (h : Steady base s) : Steady base (s.commitStep c st) := by
  unfold State.commitStep
  dsimp only
  refine .outcome (.ledgerCommit (.endAttempt ?_))
  exact h.upd

theorem Steady.cycle1 {x c} (h : Steady base s) : Steady base (s.cycle1 x c) := by
  unfold State.cycle1
  split
  · exact h
  · exact .ite h.raise.abortLive (.ite h.commitStep (.ite (.retireLive (.ite h.bump h)) (.ite h.modStep.bump h.retireLive)))

theorem Steady.rebind {c st} (h : Steady base s) : Steady base (s.rebind c st).1 := by
  unfold State.rebind
  dsimp only
  split_ifs
  · exact h.writePlacement
  · exact h

theorem Steady.launchBar {c st} (h : Steady base s) (he : s.launchBar c st = some t) : Steady base t := by
  unfold State.launchBar at he
  dsimp only at he
  split_ifs at he
  · exact Option.some.inj he ▸ h.noticeLive
  · exact Option.some.inj he ▸ h.quotaAbort
  · exact Option.some.inj he ▸ h.quotaAbort
  · exact Option.some.inj he ▸ h.noticeLive
  · exact Option.some.inj he ▸ h.touchSram

theorem Steady.begin {c st} (h : Steady base s) : Steady base (s.begin c st) := by
  unfold State.begin
  extract_lets s1
  have h1 : Steady base s1 := h.startAttempt
  exact .pumpCtx (.ite h1.combineStarts.writeLedger h1)

theorem Steady.launchStep {c seq} (h : Steady base s) : Steady base (s.launchStep c seq) := by
  unfold State.launchStep
  split
  · exact h
  · next st _ =>
    extract_lets isIt now r st1 st2 s2 s3
    have hr : Steady base r.1 := h.rebind
    have h3 : Steady base s3 := .ite hr.modStep.bump hr.modStep
    refine .ite h.outcome (.ite hr.outcome ?_)
    split
    · next he => exact h3.launchBar he
    · exact h3.begin

theorem Steady.reportNext {c} (h : Steady base s) : Steady base (s.reportNext c) := by
  unfold State.reportNext
  split
  · exact .ite h h.readyReport
  · exact h

theorem Steady.staleReport (h : Steady base s) : Steady base s.staleReport := by
  unfold State.staleReport
  extract_lets _ _ s1 _
  have h1 : Steady base s1 := .foldl h.upd fun ht _ => .ite ht ht.raise
  exact .ite h1 h1.upd.raise

theorem Steady.heldReport (h : Steady base s) : Steady base s.heldReport := .foldl h fun ht _ => by
    split
    · exact ht.wrIf.raise
    · exact ht

theorem Steady.mirrorAcc (h : Steady base s) : Steady base s.mirrorAcc :=
  .foldl h fun ht _ => .ite ht (ht.upd)

theorem Steady.tickDuties {inst} (h : Steady base s) : Steady base (s.tickDuties inst) := .heldReport (.staleReport (.starveMark (.ite h.emit h)))

theorem Steady.dramCount {w} (h : Steady base s) : Steady base (s.dramCount w) := by
  unfold State.dramCount
  exact .modWell (.foldl h fun ht _ => ht.bump)

end Sys2Proof.Machine
end

section
/-!
SUPPORT. Local ticks, holdover and the starvation test (O3).
-/

namespace Sys2Proof.Machine

open Sys2Proof

set_option Elab.async false

variable {s t : State}

/-! ### What a steady operation leaves of the tick block -/

theorem Steady.set (h : Steady s t) : t.tick.set = s.tick.set :=
  show t.tick.clock.set = s.tick.clock.set from congrArg _ h.clock

theorem Steady.first (h : Steady s t) : t.tick.first = s.tick.first :=
  show t.tick.clock.first = s.tick.clock.first from congrArg _ h.clock

theorem Steady.lastFire (h : Steady s t) : t.tick.lastFire = s.tick.lastFire :=
  show t.tick.clock.lastFire = s.tick.clock.lastFire from congrArg _ h.clock

theorem Steady.seen (h : Steady s t) : t.tick.seen = s.tick.seen :=
  show t.tick.clock.seen = s.tick.clock.seen from congrArg _ h.clock

theorem Steady.master (h : Steady s t) : t.tick.master = s.tick.master :=
  show t.tick.clock.master = s.tick.clock.master from congrArg _ h.clock

theorem Steady.beats (h : Steady s t) : t.tick.beats = s.tick.beats :=
  show t.tick.clock.beats = s.tick.clock.beats from congrArg _ h.clock

theorem Steady.wdAbort (h : Steady s t) : t.tick.wdAbort = s.tick.wdAbort :=
  show t.tick.clock.wdAbort = s.tick.clock.wdAbort from congrArg _ h.clock

/-! ### The local tick (R37, R40) -/

/-- The boundary takes the set and its instant; nothing that the tick brings touches them. -/
theorem State.boundary_clock (s : State) (x : BitVec 192) (inst : Nat) : (s.boundary x inst).tick.set = none ∧
    (s.boundary x inst).tick.first = false ∧ (s.boundary x inst).tick.lastFire = inst := by
  unfold State.boundary
  extract_lets again s1 s2 s3 src s4 s5 s6 s7 s8 s9
  have h5 : Steady s4 s5 := (Steady.refl s4).tickDuties
  have h6 : Steady s4 s6 := .foldl h5 fun ht _ => ht.cycle1
  have h7 : Steady s4 s7 := .foldl h6 fun ht _ => ht.swapAt
  have h8 : Steady s4 s8 := .foldl h7 fun ht _ => .ite ht.launchStep.reportNext ht
  have h9 : Steady s4 s9 := .foldl h8 fun ht _ => ht.heldRelease
  have h : Steady s4 s9.mirrorAcc := h9.mirrorAcc
  exact ⟨h.set, h.first, h.lastFire⟩

theorem localTick_answers {x : BitVec 192} {d : Nat} (hup : s.hubUp = true) (hset : s.tick.set = some (x, d)) :
    Answers .localTick s fun t => t.tick.set = none ∧ t.tick.first = false ∧ t.tick.lastFire = max s.now d := by
  have heq : localTick s = s.boundary x (max s.now d) := by
    unfold localTick
    rw [hset]
  exact ⟨_, congrArg Host.Outcome.next ((if_pos hup).trans heq), s.boundary_clock x (max s.now d)⟩

/-! ### Holdover (R44) -/

theorem followerHoldover_clock (e : Nat) (s : State) :
    (followerHoldover e s).tick.lastFire = e ∧ s.now ≤ (followerHoldover e s).now := by
  unfold followerHoldover
  extract_lets inst n s1 src s2 s3 s4
  have h3 : Steady s2 s3 := (Steady.refl s2).tickDuties.raise
  have h4 : Steady s2 s4 := h3.declareAbsent
  have h : Steady s2 (((List.finRange 16).foldl (fun (s : State) (c : Ctx) => s.swapAt c n) s4).mirrorAcc) :=
    .mirrorAcc (.foldl h4 fun ht _ => ht.swapAt)
  have hnow : s2.now = max s.now inst := ((Steady.refl (s.at inst)).wr2.wrIf (f := TCK_STATUS.HOLDOVER) (v := 1)).now
  refine ⟨h.lastFire, ?_⟩
  rw [h.now, hnow]
  exact Nat.le_max_left _ _

theorem followerHoldover_answers {e : Nat} (hdue : s.holdoverDue = some e) :
    Answers .followerHoldover s fun t => t.tick.lastFire = e ∧ s.now ≤ t.now := by
  have heq : exec .followerHoldover s = .next (followerHoldover e s) := by
    show execFollowerHoldover s = _
    unfold execFollowerHoldover
    rw [hdue]
  exact ⟨_, heq, followerHoldover_clock e s⟩

/-! ### The starvation test (R172) -/

theorem State.raise_cist (s : State) (code sev : Nat) (data : List Nat) (c : Option Ctx) (seq : Word) (addr : Nat) :
    (s.raise code sev data c seq addr).cist = s.cist := by
  obtain ⟨_, _, _, _, he⟩ := State.raise_eq s code sev data c seq addr
  rw [he]

theorem State.noticeLive_cist (s : State) (c : Ctx) (cause detail : Nat) : (s.noticeLive c cause detail).cist = s.cist := by
  unfold State.noticeLive
  split
  · next st _ =>
    obtain ⟨_, _, _, _, _, _, _, _, he⟩ := State.sendAbort_eq s c st.seq st.replays cause detail
    rw [he]
  · rfl

theorem State.quotaAbort_cist (s : State) (c : Ctx) (st : Step) (detail : Nat) : (s.quotaAbort c st detail).cist = s.cist :=
  (State.noticeLive_cist _ _ _ _).trans (State.raise_cist ..)

/-- The test uses up what the tick marked. -/
theorem starvedTest_starved (s : State) : (starvedTest s).cist.starved = [] := by
  refine foldl_keeps (P := fun t : State => t.cist.starved = []) s.cist.starved rfl fun t c ht => ?_
  split
  · split
    · rw [State.quotaAbort_cist]
      exact ht
    · exact ht
  · exact ht

/-! ### A set at a master, a stale calibration (R36, R46) -/

theorem State.raise_tick (s : State) (code sev : Nat) (data : List Nat) (c : Option Ctx) (seq : Word) (addr : Nat) :
    (s.raise code sev data c seq addr).tick = s.tick := by
  obtain ⟨_, _, _, _, he⟩ := State.raise_eq s code sev data c seq addr
  rw [he]

theorem tickSetAtMaster_answers {p : Port} {x : BitVec 192} (hlead : s.leadUp = true) (hup : s.hubUp = true) (hm : s.isMaster = true) :
    Answers (.tickSetAtMaster p x) s fun t => Reports s 0x0201 t ∧ t.tick = s.tick :=
  ⟨_, congrArg Host.Outcome.next (if_pos ⟨hlead, hup, hm⟩),
    (State.raise_reports _ 0x0201 1 [p.val] none 0 0).of_same (State.bump_hubUp s _).symm (congrArg EventQueue.waiting (State.bump_evq s _).symm),
    (State.raise_tick ..).trans (State.bump_tick s _)⟩

theorem State.wrIf_hubUp (s : State) (f : Fld) (v : Nat) : (s.wrIf f v).hubUp = s.hubUp := by
  unfold State.wrIf
  split
  · rfl
  · exact State.wr_hubUp s f v

theorem calibrationStale_news (p : Port) (s : State) :
    (calibrationStale p s).rd TCK_STATUS.ALIGNED = 0 ∧ Reports s 0x0203 (calibrationStale p s) := by
  unfold calibrationStale
  extract_lets s1 src
  constructor
  · rw [State.raise_rd _ _ _ _ _ _ _ _ (by decide)]
    exact State.wrIf_rd _ TCK_STATUS.ALIGNED (by decide) (by decide)
  · have hup : s1.hubUp = s.hubUp := State.wrIf_hubUp _ _ _
    have hq : s1.evq = s.evq := State.wrIf_evq _ _ _
    exact Reports.of_same (s := { s1 with tick := { src with staleCal := some (p, s.ports[p].calAt) } }) (State.raise_reports _ _ _ _ _ _ _)
      hup.symm (congrArg _ hq.symm)

theorem calibrationStale_answers {p : Port} (hlead : s.leadUp = true) (hup : s.hubUp = true) (hpar : s.parentPort = some p) :
    (s.staleNews p = true → Answers .calibrationStale s fun t => t.rd TCK_STATUS.ALIGNED = 0 ∧ Reports s 0x0203 t) ∧
      (s.staleNews p = false → Answers .calibrationStale s fun t => t = s) := by
  have heq : exec .calibrationStale s = .next (if s.leadUp ∧ s.hubUp ∧ s.staleNews p then calibrationStale p s else s) := by
    show execCalibrationStale s = _
    unfold execCalibrationStale
    rw [hpar]
  refine ⟨fun hnews => ⟨_, heq.trans (congrArg Host.Outcome.next (if_pos ⟨hlead, hup, hnews⟩)), calibrationStale_news p s⟩,
    fun hold => ⟨_, heq.trans (congrArg Host.Outcome.next (if_neg fun h => ?_)), rfl⟩⟩
  exact absurd (hold.symm.trans h.2.2) (by decide)

/-- Settles O3: what a tick brings is steady, so the set that the boundary takes stays taken and its instant stands. -/
theorem localTicks : Obligations.LocalTicks := by
  unfold Obligations.LocalTicks
  exact ⟨fun s hup => ⟨fun x d hset => localTick_answers hup hset, fun e hdue => followerHoldover_answers hdue,
      _, congrArg Host.Outcome.next (if_pos hup), starvedTest_starved s⟩,
    fun s hlead hup => ⟨fun p x hm => tickSetAtMaster_answers hlead hup hm, fun p hpar => calibrationStale_answers hlead hup hpar⟩⟩

end Sys2Proof.Machine
end

section
/-!
SUPPORT. The set that a master forms, and the tick watchdog (O2).
-/

namespace Sys2Proof.Machine

open Sys2Proof

set_option Elab.async false

/-! ### Fields of a set that the master forms (R41) -/

theorem bitNat_lt (b : Bool) : bitNat b < 2 := by
  unfold bitNat
  split
  · decide
  · decide

theorem bitNat_eq_one (b : Bool) : decide (bitNat b = 1) = b := by
  cases b
  · rfl
  · rfl

section
variable (tick period launch commit abort hops fire path master : Nat) (hold stop : Bool)

/-- The payload as a number: its fields do not reach beyond it. -/
theorem mkSet_toNat : (mkSet tick period launch commit abort hops hold stop fire path master).toNat =
    tick % 2 ^ 48 + period % 2 ^ 16 * 2 ^ 48 + launch % 2 ^ 16 * 2 ^ 64 + commit % 2 ^ 16 * 2 ^ 80 +
      abort % 2 ^ 16 * 2 ^ 96 + hops % 2 ^ 4 * 2 ^ 112 + bitNat hold * 2 ^ 116 + bitNat stop * 2 ^ 117 +
      fire % 2 ^ 24 * 2 ^ 120 + path % 2 ^ 24 * 2 ^ 144 + master % 2 ^ 6 * 2 ^ 168 := by
  have hh := bitNat_lt hold
  have hs := bitNat_lt stop
  unfold mkSet
  rw [BitVec.toNat_ofNat, Nat.mod_eq_of_lt]
  omega

theorem setTick_mkSet : setTick (mkSet tick period launch commit abort hops hold stop fire path master) = tick % 2 ^ 48 := by
  have hh := bitNat_lt hold
  have hs := bitNat_lt stop
  unfold setTick setBits bitsOf
  rw [mkSet_toNat, Nat.shiftRight_eq_div_pow]
  omega

theorem setHops_mkSet : setHops (mkSet tick period launch commit abort hops hold stop fire path master) = hops % 2 ^ 4 := by
  have hh := bitNat_lt hold
  have hs := bitNat_lt stop
  unfold setHops setBits bitsOf
  rw [mkSet_toNat, Nat.shiftRight_eq_div_pow]
  omega

theorem setPath_mkSet : setPath (mkSet tick period launch commit abort hops hold stop fire path master) = path % 2 ^ 24 := by
  have hh := bitNat_lt hold
  have hs := bitNat_lt stop
  unfold setPath setBits bitsOf
  rw [mkSet_toNat, Nat.shiftRight_eq_div_pow]
  omega

theorem setStop_mkSet : setStop (mkSet tick period launch commit abort hops hold stop fire path master) = stop := by
  have hh := bitNat_lt hold
  have hs := bitNat_lt stop
  have hbit : (mkSet tick period launch commit abort hops hold stop fire path master).toNat / 2 ^ 117 % 2 = bitNat stop := by
    rw [mkSet_toNat]
    omega
  unfold setStop
  rw [← BitVec.testBit_toNat, Nat.testBit_eq_decide_div_mod_eq, hbit, bitNat_eq_one]

end

/-! ### The tick watchdog (R54) -/

section
variable {s t : State}

/-- A silent step is marked to be aborted, counted, and reported by a master that is not a member of its context. -/
def State.mark (s : State) (c : Ctx) (r : MasterRun) : State :=
  let s1 : State := { s with tick := { s.tick with wdAbort := s.tick.wdAbort ++ [c] } }
  let s2 : State := s1.bump TCK_WD_CNT.COUNT
  if (s.ctxSet c).testBit s.chip then s2 else s2.raise 0x0206 2 [r.launch % 2 ^ 32, 1] c r.seq

/-- What the watchdog does for one context. -/
def State.watch (s : State) (c : Ctx) : State :=
  match s.tick.running[c] with
  | none => s
  | some r =>
    if s.tick.wdAbort.contains c || (s.tick.beats.any fun b => b.ctx == c && b.seq == r.seq) || s.allDone c r then s else s.mark c r

theorem tickWatchdog_eq (s : State) : tickWatchdog s = if s.rd TCK_WD.ENABLE = 0 then s else (List.finRange 16).foldl State.watch s := rfl

/-- The watchdog marks steps, counts and reports; all else of the tick block stands, and so does every register but its counter. -/
structure Watched (s t : State) : Prop where
  tick : ∃ l, s.tick.wdAbort ⊆ l ∧ t.tick = { s.tick with wdAbort := l }
  words : Untouched [TCK_WD_CNT.reg] s t

theorem Watched.refl (s : State) : Watched s s := ⟨⟨_, fun _ h => h, rfl⟩, .refl s⟩

theorem Watched.trans {u : State} (h : Watched s t) (h' : Watched t u) : Watched s u := by
  obtain ⟨l, hl, ht⟩ := h.tick
  obtain ⟨m, hm, hu⟩ := h'.tick
  rw [ht] at hm hu
  exact ⟨⟨m, fun _ h => hm (hl h), hu⟩, h.words.trans h'.words⟩

theorem Watched.mem {c : Ctx} (h : Watched s t) (hc : c ∈ s.tick.wdAbort) : c ∈ t.tick.wdAbort := by
  obtain ⟨l, hl, ht⟩ := h.tick
  rw [ht]
  exact hl hc

theorem Watched.tickNow (h : Watched s t) : t.tickNow = s.tickNow := by
  unfold State.tickNow State.rd2
  rw [h.words.rd (f := TCK_NOW_LO.TICK) (by decide) (by decide) (by decide),
    h.words.rd (f := TCK_NOW_HI.TICK) (by decide) (by decide) (by decide)]

/-- The words that name the members of a context are none that the watchdog writes. -/
theorem tckCtxset_off (c : Ctx) : ((TCK_CTXSET_LO.CHIPS c).off ∉ [TCK_WD_CNT.reg] ∧ (TCK_CTXSET_LO.CHIPS c).off ≠ RNG_EQ_LOST.reg ∧
      accounting (TCK_CTXSET_LO.CHIPS c).off = false) ∧
    (TCK_CTXSET_HI.CHIPS c).off ∉ [TCK_WD_CNT.reg] ∧ (TCK_CTXSET_HI.CHIPS c).off ≠ RNG_EQ_LOST.reg ∧
      accounting (TCK_CTXSET_HI.CHIPS c).off = false := by
  revert c
  decide

theorem Watched.ctxSet (h : Watched s t) (c : Ctx) : t.ctxSet c = s.ctxSet c := by
  obtain ⟨⟨l1, l2, l3⟩, h1, h2, h3⟩ := tckCtxset_off c
  unfold State.ctxSet State.rd2
  rw [h.words.rd l1 l2 l3, h.words.rd h1 h2 h3]

theorem Watched.allDone (h : Watched s t) (c : Ctx) (r : MasterRun) : t.allDone c r = s.allDone c r := by
  obtain ⟨l, -, ht⟩ := h.tick
  unfold State.allDone
  rw [h.ctxSet c, ht]

theorem State.mark_tick (s : State) (c : Ctx) (r : MasterRun) :
    (s.mark c r).tick = { s.tick with wdAbort := s.tick.wdAbort ++ [c] } := by
  unfold State.mark
  extract_lets src s1 s2
  have h2 : s2.tick = { s.tick with wdAbort := s.tick.wdAbort ++ [c] } := State.bump_tick s1 _
  split
  · exact h2
  · exact (State.raise_tick ..).trans h2

theorem State.mark_words (s : State) (c : Ctx) (r : MasterRun) : Untouched [TCK_WD_CNT.reg] s (s.mark c r) := by
  unfold State.mark
  extract_lets src s1 s2
  have h2 : Untouched [TCK_WD_CNT.reg] s s2 := Untouched.bump (.of_word fun _ => rfl) (by decide)
  exact .ite h2 h2.raiseFrom

theorem State.watch_watched (s : State) (c : Ctx) : Watched s (s.watch c) := by
  unfold State.watch
  split
  · exact .refl s
  · split
    · exact .refl s
    · exact ⟨⟨_, List.subset_append_left _ [c], s.mark_tick c _⟩, s.mark_words c _⟩

/-- A running step that has sent nothing and is not done is marked. -/
theorem State.watch_marks {c : Ctx} {r : MasterRun} (hrun : s.tick.running[c] = some r)
    (hbeat : (s.tick.beats.any fun b => b.ctx == c && b.seq == r.seq) = false) (hdone : s.allDone c r = false) :
    c ∈ (s.watch c).tick.wdAbort := by
  unfold State.watch
  rw [hrun]
  dsimp only
  rw [hbeat, hdone, Bool.or_false, Bool.or_false]
  split
  · next h => exact List.contains_iff_mem.mp h
  · rw [State.mark_tick]
    exact List.mem_append_right _ (List.mem_singleton.mpr rfl)

theorem watchFold_watched (l : List Ctx) (s : State) : Watched s (l.foldl State.watch s) :=
  foldl_keeps (P := Watched s) l (.refl s) fun t c h => h.trans (t.watch_watched c)

/-- The turn of a context marks its step, whatever the turns before and after it did. -/
theorem watchFold_marks {l : List Ctx} {c : Ctx} {r : MasterRun} (hc : c ∈ l) (hrun : s.tick.running[c] = some r)
    (hbeat : (s.tick.beats.any fun b => b.ctx == c && b.seq == r.seq) = false) (hdone : s.allDone c r = false) :
    c ∈ (l.foldl State.watch s).tick.wdAbort := by
  obtain ⟨before, after, rfl⟩ := List.append_of_mem hc
  have h := watchFold_watched before s
  rw [List.foldl_append, List.foldl_cons]
  refine (watchFold_watched after _).mem (State.watch_marks (r := r) ?_ ?_ ((h.allDone c r).trans hdone))
  all_goals
    obtain ⟨m, -, ht⟩ := h.tick
    rw [ht]
    assumption

theorem tickWatchdog_watched (s : State) : Watched s (tickWatchdog s) := by
  rw [tickWatchdog_eq]
  split
  · exact .refl s
  · exact watchFold_watched _ s

theorem tickWatchdog_answers {d : Nat} (hdue : s.emissionDue = some d) :
    Answers .tickWatchdog s fun t => (s.rd TCK_WD.ENABLE = 0 → t = s) ∧
      (s.rd TCK_WD.ENABLE = 1 → ∀ (c : Ctx) (r : MasterRun), s.tick.running[c] = some r →
        (s.tick.beats.any fun b => b.ctx == c && b.seq == r.seq) = false → s.allDone c r = false → c ∈ t.tick.wdAbort) := by
  refine ⟨_, congrArg Host.Outcome.next (if_pos (by rw [hdue]; rfl)), fun h0 => if_pos h0, fun h1 c r hrun hbeat hdone => ?_⟩
  rw [tickWatchdog_eq, if_neg (by rw [h1]; decide)]
  exact watchFold_marks (List.mem_finRange c) hrun hbeat hdone

/-! ### The emission (R52) -/

/-- The set formed at an emission stands when it has been sent. -/
theorem masterEmission_clock (d : Nat) (s : State) : ∃ x, (masterEmission d s).tick.set = some (x, d) ∧
    setTick x = (s.tickNow + 1) % 2 ^ 48 ∧ setStop x = s.tick.stop ∧ setHops x = 0 ∧ setPath x = 0 ∧
    (masterEmission d s).tick.beats = [] ∧ (masterEmission d s).tick.wdAbort = [] := by
  unfold masterEmission
  extract_lets s0 n ds mask x s1 gone kept src s2
  have h0 : Watched (s.at (d - s.effLead)) s0 := tickWatchdog_watched _
  have hstop : s0.tick.stop = s.tick.stop := by
    obtain ⟨l, -, ht⟩ := h0.tick
    rw [ht]
    rfl
  have hnow : s0.tickNow = s.tickNow := h0.tickNow
  have h : Steady s2 (((s2.sendTick x 0 (d - s0.now) 0).beaconsDue).sendHeld s2.ownChip) := (Steady.refl s2).sendTick.beaconsDue.sendHeld
  refine ⟨x, h.set, ?_, ?_, setHops_mkSet .., setPath_mkSet .., h.beats, h.wdAbort⟩
  · rw [← hnow]
    exact setTick_mkSet ..
  · rw [← hstop]
    exact setStop_mkSet ..

theorem masterEmission_answers {d : Nat} (hdue : s.emissionDue = some d) :
    Answers .masterEmission s fun t => ∃ x, t.tick.set = some (x, d) ∧ setTick x = (s.tickNow + 1) % 2 ^ 48 ∧
      setStop x = s.tick.stop ∧ setHops x = 0 ∧ setPath x = 0 ∧ t.tick.beats = [] ∧ t.tick.wdAbort = [] := by
  have heq : exec .masterEmission s = .next (masterEmission d s) := by
    show execMasterEmission s = _
    unfold execMasterEmission
    rw [hdue]
  exact ⟨_, heq, masterEmission_clock d s⟩

end

/-- Settles O2: the fields of the set that is formed, and the fold of the watchdog over the contexts. -/
theorem masterForms : Obligations.MasterForms := by
  unfold Obligations.MasterForms
  exact fun s d hdue => ⟨masterEmission_answers hdue, tickWatchdog_answers hdue⟩

end Sys2Proof.Machine
end

section
/-!
SUPPORT. Tick sets that a follower accepts (O4).
-/

namespace Sys2Proof.Machine

open Sys2Proof

set_option Elab.async false

variable {s : State} {p : Port} {x : BitVec 192} {a : Nat}

/-! ### A set that a follower accepts (R42, R43) -/

/-- What the path registers hold for a set accepted on a port: an upper bound in 10 ns, of 12 bits (log entry 98). -/
def State.pathUnits (s : State) (p : Port) (x : BitVec 192) : Nat :=
  min 0xFFF ((setPath x * 625 + s.rd (PMP_LNK_LAT.PS p) + 9999) / 10000)

/-- An accepted set is sent on and its path stored, whether or not the follower runs. -/
def State.forwardSet (s : State) (p : Port) (x : BitVec 192) (a : Nat) : State :=
  let s1 : State := (s.at a).sendTick x (setHops x + 1) (a + setFire x - s.hop p - max s.now a) (setPath x + s.hop p)
  let s2 : State := (s1.wrIf TCK_STATUS.HOPS (setHops x)).wrIf TCK_STATUS.PATH (s.pathUnits p x)
  { s2 with tick := { s2.tick with seen := some (setTick x) } }

theorem State.pathUnits_lt (s : State) (p : Port) (x : BitVec 192) : s.pathUnits p x < 2 ^ TCK_STATUS.PATH.len :=
  lt_of_le_of_lt (Nat.min_le_left _ _) (by decide)

theorem setHops_lt (x : BitVec 192) : setHops x < 2 ^ TCK_STATUS.HOPS.len := Nat.mod_lt _ (by decide)

/-- Sending a set on leaves the set that waits. -/
theorem State.forwardSet_set (s : State) (p : Port) (x : BitVec 192) (a : Nat) : (s.forwardSet p x a).tick.set = s.tick.set := by
  unfold State.forwardSet
  extract_lets s1 s2
  have h : Steady (s.at a) s2 := (Steady.refl (s.at a)).sendTick.wrIf.wrIf
  exact h.set

theorem State.forwardSet_rd (s : State) (p : Port) (x : BitVec 192) (a : Nat) :
    (s.forwardSet p x a).rd TCK_STATUS.PATH = s.pathUnits p x ∧ (s.forwardSet p x a).rd TCK_STATUS.HOPS = setHops x := by
  unfold State.forwardSet
  extract_lets s1 s2
  have hhops : s2.rd TCK_STATUS.HOPS = setHops x := by
    unfold s2
    rw [State.wrIf_rd_other _ TCK_STATUS.PATH TCK_STATUS.HOPS _ rfl (.inr (by decide)) (by decide)]
    exact State.wrIf_rd s1 TCK_STATUS.HOPS (by decide) (setHops_lt x)
  exact ⟨State.wrIf_rd _ TCK_STATUS.PATH (by decide) (s.pathUnits_lt p x), hhops⟩

/-- A follower that does not run only sends the set on. -/
theorem State.acceptSet_stopped (hrun : s.rd TCK_CTRL.RUN = 0) : s.acceptSet p x a = s.forwardSet p x a := if_pos hrun

theorem localTick_none {s : State} (h : s.tick.set = none) : localTick s = s := by
  unfold localTick
  rw [h]

/-- A follower that runs takes the instant and the master of a set that is not late. -/
def State.takeSet (s : State) (x : BitVec 192) (due : Nat) (m : Chip) : State :=
  let s1 : State := { s with tick := { s.tick with set := some (x, due), master := some m } }
  s1.beaconsDue.sendHeld m

theorem State.takeSet_tick (s : State) (x : BitVec 192) (due : Nat) (m : Chip) : (s.takeSet x due m).tick.seen = s.tick.seen ∧
    (s.takeSet x due m).tick.set = some (x, due) ∧ (s.takeSet x due m).tick.master = some m := by
  unfold State.takeSet
  extract_lets src s1
  have h : Steady s1 (s1.beaconsDue.sendHeld m) := (Steady.refl s1).beaconsDue.sendHeld
  exact ⟨h.seen, h.set, h.master⟩

theorem State.acceptSet_running (hrun : s.rd TCK_CTRL.RUN = 1) (hset : s.tick.set = none) (hfire : s.hop p ≤ setFire x) :
    s.acceptSet p x a = ((s.forwardSet p x a).wrIf TCK_STATUS.HOLDOVER 0).takeSet x (max a (a + setFire x - s.hop p))
      ⟨setMaster x % 64, Nat.mod_lt _ (by decide)⟩ := by
  have hlocal : localTick (s.forwardSet p x a) = s.forwardSet p x a := localTick_none ((s.forwardSet_set p x a).trans hset)
  have hnot : ¬(s.at a).rd TCK_CTRL.RUN = 0 := by
    rw [State.at_rd, hrun]
    decide
  unfold State.acceptSet
  extract_lets s0 hop due ps s1 s2 src3 s3 s4 m src5 s5 s6
  have h4 : s4 = (s.forwardSet p x a).wrIf TCK_STATUS.HOLDOVER 0 := congrArg (State.wrIf · TCK_STATUS.HOLDOVER 0) hlocal
  have hfire' : ¬setFire x < hop := Nat.not_lt.mpr hfire
  rw [if_neg hnot, if_neg hfire', ← h4]
  rfl

/-! ### A set on the parent port -/

theorem tickOrderedSet_eq {copy : Bool} (hlead : s.leadUp = true) (hup : s.hubUp = true) (hby : s.intBypass = false)
    (hport : s.portState p = 3) (hrem : s.ports[p].removed = false) (hm : s.isMaster = false) (hv : s.rd TCK_TREE.PARENT_V = 1)
    (hpar : s.rd TCK_TREE.PARENT = p.val) :
    exec (.tickOrderedSet p copy x a) s =
      .next (if s.tick.seen = some (setTick x) then s.at a else s.acceptSet p x a) := by
  have hbody : tickOrderedSet p x a s = if s.tick.seen = some (setTick x) then s.at a else s.acceptSet p x a := by
    unfold tickOrderedSet
    rw [if_neg (by rw [hm]; decide), if_neg (by rw [hv, hpar]; simp)]
  show execTickOrderedSet p copy x a s = _
  unfold execTickOrderedSet
  rw [if_neg (by rw [hlead]; decide), if_neg (by rw [hby]; decide), if_pos ⟨hup, hport, by rw [hrem]; rfl⟩, hbody]

/-- Settles O4: a follower sends an accepted set on and stores its path; one that runs then takes it. -/
theorem followerAccepts : Obligations.FollowerAccepts := by
  unfold Obligations.FollowerAccepts
  intro s p copy x a hlead hup hby hport hrem hm hv hpar
  have hexec := tickOrderedSet_eq (x := x) (a := a) (copy := copy) hlead hup hby hport hrem hm hv hpar
  refine ⟨fun hseen => ⟨_, hexec, if_pos hseen⟩, fun hseen hrun => ⟨_, hexec, ?_⟩, fun hseen hrun hset hfire => ⟨_, hexec, ?_⟩⟩
  · rw [if_neg hseen, State.acceptSet_stopped hrun]
    obtain ⟨hpath, hhops⟩ := s.forwardSet_rd p x a
    exact ⟨rfl, s.forwardSet_set p x a, hpath, hhops⟩
  · rw [if_neg hseen, State.acceptSet_running hrun hset hfire, max_eq_right (by omega)]
    obtain ⟨hseen', hset', hmaster⟩ := ((s.forwardSet p x a).wrIf TCK_STATUS.HOLDOVER 0).takeSet_tick x (a + setFire x - s.hop p)
      ⟨setMaster x % 64, Nat.mod_lt _ (by decide)⟩
    exact ⟨hseen'.trans (congrArg TickBlock.seen (State.wrIf_tick _ _ _)), hset', hmaster⟩

end Sys2Proof.Machine
end

section
/-!
SUPPORT. Words of packets that a chip forms.
-/

namespace Sys2Proof.Machine

open Sys2Proof

set_option Elab.async false

section
variable (ptype : Nat) (c : Ctx) (att : Nat) (fmt : Bool) (src dst : Nat) (seq : Word)

/-- Word 0 as a number: its fields do not reach beyond it. -/
theorem mkW0_toNat : (mkW0 ptype c att fmt src dst seq).toNat =
    ptype % 256 + c.val * 2 ^ 8 + (att % 8) * 2 ^ 12 + bitNat fmt * 2 ^ 15 + (src % 64) * 2 ^ 16 +
      (dst % 64) * 2 ^ 22 + 3 * 2 ^ 28 + seq.toNat * 2 ^ 32 := by
  have hc := c.isLt
  have hseq : seq.toNat < 2 ^ 32 := seq.isLt
  have hfmt := bitNat_lt fmt
  unfold mkW0
  rw [BitVec.toNat_ofNat, Nat.mod_eq_of_lt]
  omega

end

section
variable {p : Pkt} {ptype : Nat} {c : Ctx} {att : Nat} {fmt : Bool} {src dst : Nat} {seq : Word}

theorem ptypeOf_mkW0 (h : p.w0 = mkW0 ptype c att fmt src dst seq) : ptypeOf p = ptype % 256 := by
  unfold ptypeOf bitsOf
  rw [h, mkW0_toNat, Nat.shiftRight_eq_div_pow]
  omega

theorem ctxOf_mkW0 (h : p.w0 = mkW0 ptype c att fmt src dst seq) : ctxOf p = c := by
  have hc := c.isLt
  apply Fin.ext
  unfold ctxOf bitsOf
  dsimp only
  rw [h, mkW0_toNat, Nat.shiftRight_eq_div_pow]
  omega

theorem seqOf_mkW0 (h : p.w0 = mkW0 ptype c att fmt src dst seq) : seqOf p = seq := by
  have hc := c.isLt
  have hfmt := bitNat_lt fmt
  have hseq : seq.toNat < 2 ^ 32 := seq.isLt
  apply BitVec.eq_of_toNat_eq
  unfold seqOf
  rw [BitVec.toNat_ofNat, h, mkW0_toNat, Nat.shiftRight_eq_div_pow]
  omega

end

end Sys2Proof.Machine
end

section
/-!
SUPPORT. Ledger accesses, reports and tile ends of a Well (O24).
-/

namespace Sys2Proof.Machine

open Sys2Proof

set_option Elab.async false

variable {s t : State} {w : WellNo} {p : Pkt}

/-! ### Requests of a Well and what they read of it -/

theorem State.modWell_congr {f g : Well → Well} (h : f s.wells[w] = g s.wells[w]) : s.modWell w f = s.modWell w g := by
  unfold State.modWell
  rw [h]

/-- The Well with other requests, and other turns of its arbiters. -/
def Well.withDram (k : Well) (d : List DramReq) (l : Vector Nat 4) : Well := { k with dram := d, dramLast := l }

section
variable {d : List DramReq} {l : Vector Nat 4}

/-- The state with other requests of a Well. -/
def State.withDram (s : State) (w : WellNo) (d : List DramReq) (l : Vector Nat 4) : State := s.modWell w fun k => k.withDram d l

theorem State.withDram_well (s : State) (w : WellNo) (d : List DramReq) (l : Vector Nat 4) :
    (s.withDram w d l).wells[w] = s.wells[w].withDram d l := State.modWell_same s w _

theorem State.withDram_wellOpen (c : Ctx) (seq : Word) (att : Nat) : (s.withDram w d l).wellOpen w c seq att = s.wellOpen w c seq att := by
  unfold State.wellOpen
  rw [State.withDram_well]
  rfl

theorem State.withDram_stackRead (a n : Nat) : (s.withDram w d l).stackRead w a n = s.stackRead w a n := by
  unfold State.stackRead
  rw [State.withDram_well]
  rfl

theorem State.withDram_logEntry (c : Ctx) (seq : Word) : (s.withDram w d l).logEntry w c seq = s.logEntry w c seq := by
  unfold State.logEntry
  rw [State.withDram_well]
  rfl

theorem State.withDram_rd (f : Fld) : (s.withDram w d l).rd f = s.rd f := rfl

theorem State.withDram_hid (c : Ctx) : (s.withDram w d l).hid c = s.hid c := rfl

theorem State.withDram_layer (c : Ctx) (bank i : Nat) : (s.withDram w d l).layer c bank i = s.layer c bank i := rfl

theorem State.withDram_logRecord (c : Ctx) (seq : Word) (token rank : Nat) :
    (s.withDram w d l).logRecord w c seq token rank = s.logRecord w c seq token rank := by
  unfold State.logRecord State.logBase
  simp only [State.withDram_logEntry, State.withDram_stackRead, State.withDram_hid, State.withDram_rd]

theorem State.withDram_dirAddr (c : Ctx) (bank i e : Nat) : (s.withDram w d l).dirAddr w c bank i e = s.dirAddr w c bank i e := by
  have hrd : (s.withDram w d l).rd = s.rd := rfl
  unfold State.dirAddr
  rw [hrd]

theorem State.withDram_tileRanges : (s.withDram w d l).tileRanges w = s.tileRanges w := by
  unfold State.tileRanges
  have hrun : (s.withDram w d l).wells[w].running = s.wells[w].running := by
    rw [State.withDram_well]
    rfl
  simp only [hrun, State.withDram_wellOpen, State.withDram_stackRead, State.withDram_hid, State.withDram_layer, State.withDram_logRecord,
    State.withDram_dirAddr]

theorem State.withDram_hostHolds (x : Nat × Nat) : (s.withDram w d l).hostHolds w x = s.hostHolds w x := by
  unfold State.hostHolds
  rw [State.withDram_well]
  rfl

theorem State.withDram_bankSpent (x : Nat × Nat) : (s.withDram w d l).bankSpent w x = s.bankSpent w x := by
  unfold State.bankSpent State.rdmBudget
  rw [State.withDram_well]
  rfl

theorem State.withDram_banksFree (a n : Nat) : (s.withDram w d l).banksFree w a n = s.banksFree w a n := by
  have hrows : (s.withDram w d l).wells[w].hostRows = s.wells[w].hostRows ∧ (s.withDram w d l).wells[w].rows = s.wells[w].rows := by
    rw [State.withDram_well]
    exact ⟨rfl, rfl⟩
  unfold State.banksFree
  simp only [hrows, State.withDram_hostHolds, State.withDram_bankSpent]
  rfl

theorem State.withDram_dramRanges (y : DramWhy) : (s.withDram w d l).dramRanges w y = s.dramRanges w y := by
  unfold State.dramRanges State.logBase
  simp only [State.withDram_wellOpen, State.withDram_logEntry, State.withDram_tileRanges, State.withDram_rd]

/-- What may be granted does not depend on what else waits. -/
theorem State.withDram_dramFree (y : DramWhy) : (s.withDram w d l).dramFree w y = s.dramFree w y := by
  unfold State.dramFree State.throttled
  simp only [State.withDram_hostHolds, State.withDram_dramRanges, State.withDram_banksFree, State.withDram_rd]

end

/-! ### A request that the channels grant at once (R239) -/

/-- The only request that waits is the next one when it may be granted. -/
theorem State.dramNext_single {y : DramWhy} {x : Bool} (hd : s.wells[w].dram = [⟨y, x⟩]) (hfree : s.dramFree w y = true) :
    s.dramNext w = some ⟨y, x⟩ := by
  unfold State.dramNext
  rw [hd]
  simp [hfree]

/-- A request of a Well with no other waiting runs at once when it may be granted. -/
theorem State.dramAsk_free {y : DramWhy} (hd : s.wells[w].dram = []) (hfree : s.dramFree w y = true) :
    ∃ l, s.dramAsk w y = (((s.withDram w [] l).dramRun w y).dramCount w).wellReports w := by
  let s1 : State := s.withDram w [⟨y, false⟩] s.wells[w].dramLast
  have hask : (s.modWell w fun k => { k with dram := k.dram ++ [⟨y, false⟩] }) = s1 :=
    State.modWell_congr (by rw [hd]; rfl)
  have hdram : s1.wells[w].dram = [⟨y, false⟩] := by
    rw [State.withDram_well]
    rfl
  have hnext : s1.dramNext w = some ⟨y, false⟩ := State.dramNext_single hdram ((State.withDram_dramFree y).trans hfree)
  let l : Vector Nat 4 := Vector.ofFn fun i : Fin 4 => if i.val = s1.dramPrio w y.kind then y.kind else s1.wells[w].dramLast[i]
  have hgrant : (s1.modWell w fun k => { k with
      dram := k.dram.erase ⟨y, false⟩
      dramLast := Vector.ofFn fun i : Fin 4 => if i.val = s1.dramPrio w y.kind then y.kind else k.dramLast[i] }) = s.withDram w [] l := by
    refine (State.modWell_congr (g := fun k => k.withDram [] l) ?_).trans (State.modWell_modWell ..)
    rw [hdram, List.erase_cons_head]
    rfl
  refine ⟨l, ?_⟩
  unfold State.dramAsk State.dramPump
  rw [hask, hdram]
  unfold State.dramServe
  simp only [List.length_singleton, hnext, hgrant]
  rfl

/-! ### LEDGER_WRITE (R212, R238) -/

theorem padTo_length (bs : List Byte) : padTo bs.length bs = bs := by
  unfold padTo slice
  simp

/-- Bytes that hold no word in error read as they stand. -/
theorem eccRead_clean {m : Mem} {fl : Flips} {a n : Nat} (d : Nat → Byte) (h : fl.within a n = []) : eccRead m d fl a n = mread d m a n := by
  unfold eccRead
  rw [h]
  rfl

/-- A write leaves no word in error where there was none. -/
theorem Flips.within_written {fl : Flips} {a n : Nat} (h : fl.within a n = []) (b k : Nat) : (fl.written b k).within a n = [] := by
  unfold Flips.within Flips.written at *
  rw [List.filter_filter]
  exact List.filter_eq_nil_iff.mpr fun x hx hand => List.filter_eq_nil_iff.mp h x hx (Bool.and_eq_true_iff.mp hand).1

/-- The account of an access changes the Well's energy and its row counters. -/
theorem State.accDram_well (s : State) (w : WellNo) (c : Ctx) (a rdB wrB : Nat) :
    ∃ fj rows, (s.accDram w c a rdB wrB).wells[w] = { s.wells[w] with wellFJ := fj, rows := rows } := by
  have hmod : ∃ f : Well → Well, (s.accDram w c a rdB wrB).wells = (s.modWell w f).wells ∧
      ∀ k, ∃ fj rows, f k = { k with wellFJ := fj, rows := rows } :=
    ⟨_, (State.accEnergy_wells _ _ _).trans (State.addPair_wells _ _ _ _), fun k => ⟨_, _, rfl⟩⟩
  obtain ⟨f, hwells, hf⟩ := hmod
  obtain ⟨fj, rows, hk⟩ := hf s.wells[w]
  refine ⟨fj, rows, ?_⟩
  simp only [hwells]
  exact (State.modWell_same s w f).trans hk

/-- What a Well has written stands in its stack; its requests and open attempts are as they were. -/
theorem State.writeDram_well (s : State) (w : WellNo) (c : Ctx) (a : Nat) (bs : List Byte) :
    ∃ fj rows, (s.writeDram w c a bs).wells[w] = { s.wells[w] with
      stack := mwrite zeroByte s.wells[w].stack a bs, flips := Flips.written s.wells[w].flips a bs.length, wellFJ := fj, rows := rows } := by
  obtain ⟨fj, rows, h⟩ := (s.stackWrite w a bs).accDram_well w c a 0 bs.length
  refine ⟨fj, rows, h.trans ?_⟩
  unfold State.stackWrite
  rw [State.modWell_same]

/-- A count of the waiting requests where none waits leaves the Well. -/
theorem State.dramCount_well (hd : s.wells[w].dram = []) : (s.dramCount w).wells[w] = s.wells[w] ∧ (s.dramCount w).chip = s.chip := by
  have heq : s.dramCount w = s.modWell w fun k => { k with
      dram := k.dram.map fun x => if x ∈ ([] : List DramReq) then { x with counted := true } else x } := by
    unfold State.dramCount
    rw [hd]
    rfl
  rw [heq]
  refine ⟨?_, rfl⟩
  rw [State.modWell_same, hd]
  exact congrArg (fun d => { s.wells[w] with dram := d }) hd.symm

/-- A Well whose complete attempts have reported has nothing to report. -/
theorem State.wellReports_quiet (h : s.wellQuiet w = true) : s.wellReports w = s := by
  have hall := List.all_eq_true.mp (Bool.and_eq_true_iff.mp h).2
  refine List.foldlRecOn (motive := fun t => t = s) _ _ rfl fun t ht o ho => ?_
  rw [ht]
  have hq := hall o ho
  by_cases hc : (homeRec s.wells[w].homes (mkHome s.chip w.val) o.ctx o.seq o.att).complete = true
  · rw [hc] at hq
    obtain ⟨hhome, hfin⟩ := Bool.and_eq_true_iff.mp hq
    simp only [hc, hhome, hfin, Bool.not_true, Bool.false_eq_true, Bool.true_or, if_false, if_true]
  · simp only [hc, Bool.not_false, if_true]

theorem State.wellQuiet_of (hd : t.wells[w].dram = []) (ho : t.wells[w].opens = s.wells[w].opens) (hh : t.wells[w].homes = s.wells[w].homes)
    (hc : t.chip = s.chip) (h : s.wellQuiet w = true) : t.wellQuiet w = true := by
  unfold State.wellQuiet at *
  rw [hd, ho, hh, hc]
  exact Bool.and_eq_true_iff.mpr ⟨rfl, (Bool.and_eq_true_iff.mp h).2⟩

theorem State.writeDram_chip (s : State) (w : WellNo) (c : Ctx) (a : Nat) (bs : List Byte) : (s.writeDram w c a bs).chip = s.chip := by
  have h : Untouched [] (s.stackWrite w a bs) (s.writeDram w c a bs) := State.accDram_untouched _ _ _ _ _ _
  exact h.rd (f := SVC_ID.CHIP) (by decide) (by decide) (by decide)

theorem ledgerWrite_stored (hq : s.wellQuiet w = true) (hfree : s.dramFree w (.ledgerWrite p) = true)
    (hlen : p.body.length = bitsOf p.w2.toNat 0 24)
    (hclean : Flips.within s.wells[w].flips (bitsOf p.w1.toNat 0 37) (bitsOf p.w2.toNat 0 24) = []) :
    (s.dramAsk w (.ledgerWrite p)).stackRead w (bitsOf p.w1.toNat 0 37) p.body.length = p.body := by
  have hd : s.wells[w].dram = [] := eq_of_beq (Bool.and_eq_true_iff.mp hq).1
  obtain ⟨l, hask⟩ := State.dramAsk_free hd hfree
  let s1 : State := s.withDram w [] l
  let s2 : State := s1.ledgerStore w p
  have hpad : padTo (bitsOf p.w2.toNat 0 24) p.body = p.body := by
    rw [← hlen]
    exact padTo_length _
  have hstore : s2.wells = (s1.writeDram w (ctxOf p) (bitsOf p.w1.toNat 0 37) p.body).wells :=
    congrArg (fun bs => (s1.writeDram w (ctxOf p) (bitsOf p.w1.toNat 0 37) bs).wells) hpad
  obtain ⟨fj, rows, hwell⟩ := s1.writeDram_well w (ctxOf p) (bitsOf p.w1.toNat 0 37) p.body
  rw [State.withDram_well] at hwell
  have h2 : s2.wells[w] = { s.wells[w].withDram [] l with
      stack := mwrite zeroByte s.wells[w].stack (bitsOf p.w1.toNat 0 37) p.body
      flips := Flips.written s.wells[w].flips (bitsOf p.w1.toNat 0 37) p.body.length, wellFJ := fj, rows := rows } := by
    simp only [hstore]
    exact hwell
  have hchip : s2.chip = s.chip := s1.writeDram_chip w (ctxOf p) _ _
  obtain ⟨h3, hchip3⟩ := State.dramCount_well (s := s2) (w := w) (by rw [h2]; rfl)
  have hquiet : (s2.dramCount w).wellQuiet w = true :=
    State.wellQuiet_of (by rw [h3, h2]; rfl) (by rw [h3, h2]; rfl) (by rw [h3, h2]; rfl) (hchip3.trans hchip) hq
  rw [hask]
  show (((s2.dramCount w).wellReports w).stackRead w _ _) = _
  rw [State.wellReports_quiet hquiet]
  unfold State.stackRead
  rw [h3, h2]
  dsimp only
  rw [eccRead_clean zeroByte (Flips.within_written (by rw [hlen]; exact hclean) _ _)]
  exact mread_mwrite_same ..

/-! ### LEDGER_READ (R213) and its data -/

theorem State.HasLanded.landHere (s : State) (q : Pkt) (hold : Option (LinkId × Fin 8 × Nat)) (rel : List Nat) :
    (s.landHere q hold rel).HasLanded q := ⟨_, List.mem_append_right _ (List.mem_singleton.mpr rfl), rfl⟩

/-- A read that meets no word in error is good, and changes nothing. -/
theorem State.touch_clean {a n : Nat} (c : Ctx) (h : Flips.within s.wells[w].flips a n = []) : s.touch w a n c = (s, true) := by
  have hnone : ∀ q, wordsThat q s.wells[w].stack zeroByte s.wells[w].flips a n = [] := fun q => by
    unfold wordsThat
    rw [h]
    rfl
  unfold State.touch State.countFixed State.badIn State.badWords
  rw [hnone, hnone]
  rfl

/-- The answer to a read of the ledger. -/
def State.ledgerAnswer (s : State) (w : WellNo) (p : Pkt) : Pkt :=
  { w0 := mkW0 0x36 (ctxOf p) (attOf p) false s.chip s.chip (seqOf p), w1 := BitVec.ofNat 64 (bitsOf p.w1.toNat 0 37)
    w2 := BitVec.ofNat 64 (bitsOf p.w2.toNat 0 24), w3 := 0
    body := s.stackRead w (bitsOf p.w1.toNat 0 37) (bitsOf p.w2.toNat 0 24) }

theorem State.ledgerAnswer_ptype (s : State) (w : WellNo) (p : Pkt) : ptypeOf (s.ledgerAnswer w p) = 0x36 % 256 := ptypeOf_mkW0 rfl

theorem State.ledgerFetch_clean
    (h : Flips.within s.wells[w].flips (bitsOf p.w1.toNat 0 37) (bitsOf p.w2.toNat 0 24) = []) :
    s.ledgerFetch w p = (s.accDram w (ctxOf p) (bitsOf p.w1.toNat 0 37) (bitsOf p.w2.toNat 0 24) 0).landHere (s.ledgerAnswer w p) := by
  unfold State.ledgerFetch
  dsimp only
  rw [State.touch_clean _ h]
  rfl

/-- What follows a grant leaves what the Wells have sent. -/
theorem State.granted_landed {q : Pkt} (h : s.HasLanded q) (hq : 0x30 ≤ ptypeOf q) : ((s.dramCount w).wellReports w).HasLanded q :=
  ((Steady.refl s).dramCount.wellReports).landed q hq h

theorem ledgerRead_answered (hd : s.wells[w].dram = []) (hfree : s.dramFree w (.ledgerRead p) = true)
    (hclean : Flips.within s.wells[w].flips (bitsOf p.w1.toNat 0 37) (bitsOf p.w2.toNat 0 24) = []) :
    (s.dramAsk w (.ledgerRead p)).HasLanded (s.ledgerAnswer w p) := by
  obtain ⟨l, hask⟩ := State.dramAsk_free hd hfree
  have hclean1 : Flips.within (s.withDram w [] l).wells[w].flips (bitsOf p.w1.toNat 0 37) (bitsOf p.w2.toNat 0 24) = [] := by
    rw [State.withDram_well]
    exact hclean
  have hans : (s.withDram w [] l).ledgerAnswer w p = s.ledgerAnswer w p := by
    unfold State.ledgerAnswer
    rw [State.withDram_stackRead]
    rfl
  have hland : ((s.withDram w [] l).ledgerFetch w p).HasLanded (s.ledgerAnswer w p) := by
    rw [State.ledgerFetch_clean hclean1, hans]
    exact State.HasLanded.landHere _ _ _ _
  rw [hask]
  exact State.granted_landed hland (by rw [s.ledgerAnswer_ptype]; decide)

theorem State.modAtt_att {c : Ctx} {a : Attempt} (f : Attempt → Attempt) (h : s.work.att[c] = some a) :
    (s.modAtt c f).work.att[c] = some (f a) := by
  have hset : (s.modAtt c f).work.att[c] = (s.work.att[c]).map f := Vector.getElem_set_self _
  rw [hset, h]
  rfl

theorem State.progress_work (s : State) (c : Ctx) : (s.progress c).work = s.work := by
  unfold State.progress
  split
  · next st _ =>
    split
    · rfl
    · obtain ⟨_, _, _, _, _, _, _, _, _, _, _, he⟩ := State.sendMaster_eq
        (s.modStep c (fun x => x.live) fun x => { x with beaconSent := true }) 0x09 c st.seq st.replays 0
      rw [he]
      rfl
  · rfl

theorem State.takeLanded_work (s : State) (p : Pkt) : (s.takeLanded p).work = s.work := by
  obtain ⟨_, _, _, _, _, _, _, he⟩ := State.takeLanded_eq s p
  rw [he]

theorem State.takeLanded_current (s : State) (p q : Pkt) : (s.takeLanded p).current q = s.current q := by
  unfold State.current
  rw [State.takeLanded_steps]

theorem State.takeLanded_wellFrozen (s : State) (p : Pkt) (w : WellNo) : (s.takeLanded p).wellFrozen w = s.wellFrozen w := by
  unfold State.wellFrozen
  rw [State.takeLanded_rd]

section
variable {st : Step} {a : Attempt}

/-- The record of a token that was asked for. -/
theorem ledgerData_wanted {y : Nat × Nat × Nat × Nat} (hfr : s.wellFrozen w = false) (hcur : s.current p = some st)
    (hatt : s.work.att[ctxOf p] = some a)
    (hy : (a.ledWait.find? fun y => y.1 == w.val && y.2.1 == bitsOf p.w1.toNat 0 37 && y.2.2.1 == bitsOf p.w2.toNat 0 24) = some y) :
    ∃ b, (ledgerData w p s).work.att[ctxOf p] = some b ∧ b.ledWait = a.ledWait.erase y := by
  let s0 := s.takeLanded p
  have hatt0 : s0.work.att[ctxOf p] = some a := by
    simp only [s0, State.takeLanded_work]
    exact hatt
  have heq : ledgerData w p s = ((s0.modAtt (ctxOf p) fun x => { x with ledWait := x.ledWait.erase y }).modTok (ctxOf p) y.2.2.2
      (recordToken (padTo (bitsOf p.w2.toNat 0 24) p.body))).progress (ctxOf p) := by
    unfold ledgerData
    dsimp only
    rw [if_neg (by rw [State.takeLanded_wellFrozen, hfr]; decide), State.takeLanded_current, hcur, hatt0]
    dsimp only
    rw [Option.bind_some, hy]
  rw [heq]
  simp only [State.progress_work]
  exact ⟨_, State.modAtt_att _ (State.modAtt_att _ hatt0), rfl⟩

theorem State.setFrozen_well (s : State) (w : WellNo) (d : Nat) : s.setFrozen (.well w) d =
    ((s.wr RAS_FREEZE_WELL.WELLS (s.rd RAS_FREEZE_WELL.WELLS ||| 2 ^ w.val)).raiseFrom s.hubPart 0 0x0D07 3 [1, w.val, d]).rasIrq
      RAS_IRQ_STATUS.FREEZE := rfl

theorem State.setFrozen_wellFrozen (s : State) (w : WellNo) (d : Nat) : (s.setFrozen (.well w) d).wellFrozen w = true := by
  unfold State.wellFrozen
  rw [State.setFrozen_well, State.rasIrq_rd_ne _ _ _ (by decide), State.rd, State.raiseFrom_word_ne _ _ _ _ _ _ _ _ _ (by decide), ← State.rd,
    State.wr_rd _ _ _ (by decide), Nat.testBit_mod_two_pow, Nat.testBit_or, Nat.testBit_two_pow_self, Bool.or_true, Bool.and_true]
  exact decide_eq_true w.isLt

/-- A Well link that freezes is frozen once the notices have gone. -/
theorem State.freezeWell_wellFrozen (s : State) (w : WellNo) (d : Nat) : (s.freezeWell w d).wellFrozen w = true := by
  unfold State.freezeWell
  split
  · assumption
  · refine foldl_keeps (P := fun t : State => t.wellFrozen w = true) _ (s.setFrozen_wellFrozen w d) fun t c ht => ?_
    split
    · unfold State.wellFrozen at *
      rw [(t.noticeLive_traffic c 3 0x22).rd RAS_FREEZE_WELL.WELLS (by decide) (by decide)]
      exact ht
    · exact ht

/-- Data that nothing asked for freezes the Well link (R394). -/
theorem ledgerData_unwanted (hcur : s.current p = some st) (hatt : s.work.att[ctxOf p] = some a) (hnone : a.ledWait = []) :
    (ledgerData w p s).wellFrozen w = true := by
  have hatt0 : (s.takeLanded p).work.att[ctxOf p] = some a := by
    simp only [State.takeLanded_work]
    exact hatt
  unfold ledgerData
  dsimp only
  split
  · assumption
  · rw [State.takeLanded_current, hcur, hatt0]
    dsimp only
    rw [Option.bind_some, hnone]
    exact State.freezeWell_wellFrozen ..

/-! ### WELL_REPORT (R50, R238) -/

theorem wellReport_finish (hfr : s.wellFrozen w = false) (hcur : s.current p = some st) (hatt : s.work.att[ctxOf p] = some a)
    (hkind : bitsOf p.w1.toNat 0 4 = 2) : ∃ b, (wellReport w p s).work.att[ctxOf p] = some b ∧ w.val ∈ b.wellDone := by
  let f (a : Attempt) : Attempt := { a with wellDone := if a.wellDone.contains w.val then a.wellDone else a.wellDone ++ [w.val] }
  have hatt0 : (s.takeLanded p).work.att[ctxOf p] = some a := by
    simp only [State.takeLanded_work]
    exact hatt
  have heq : wellReport w p s = (s.takeLanded p).modAtt (ctxOf p) f := by
    unfold wellReport
    dsimp only
    rw [if_neg (by rw [State.takeLanded_wellFrozen, hfr]; decide), State.takeLanded_current, hcur, hkind]
    rfl
  have hmem : w.val ∈ (f a).wellDone := by
    dsimp only [f]
    split
    · next h => exact List.contains_iff_mem.mp h
    · exact List.mem_append_right _ (List.mem_singleton.mpr rfl)
  rw [heq]
  exact ⟨_, State.modAtt_att f hatt0, hmem⟩

end

/-! ### Tiles that end (R229, R238) -/

/-- The report of a tile that has ended. -/
def State.tileReport (s : State) (c : Ctx) (seq : Word) (att : Nat) : Pkt :=
  { w0 := mkW0 0x37 c att false s.chip s.chip seq, w1 := BitVec.ofNat 64 0, w2 := BitVec.ofNat 64 (0 % 2 ^ 16), w3 := 0, body := [] }

theorem State.tileReport_ptype (s : State) (c : Ctx) (seq : Word) (att : Nat) : ptypeOf (s.tileReport c seq att) = 0x37 % 256 := ptypeOf_mkW0 rfl

/-- An attempt that is open stays open where the names of the open ones stand. -/
theorem Steady.wellOpen {c : Ctx} {seq : Word} {att : Nat} (h : Steady s t) (ho : (s.wellOpen w c seq att).isSome) :
    (t.wellOpen w c seq att).isSome := by
  obtain ⟨o, hfind⟩ := Option.isSome_iff_exists.mp ho
  have hmem : (o.ctx, o.seq, o.att) ∈ t.wells[w].keys := by
    rw [h.wells w]
    exact List.mem_map_of_mem (List.mem_of_find?_eq_some hfind)
  obtain ⟨x, hx, heq⟩ := List.mem_map.mp hmem
  simp only [Prod.mk.injEq] at heq
  obtain ⟨hctx, hseq, hatt⟩ := heq
  have ho := List.find?_some hfind
  simp only [Bool.and_eq_true, beq_iff_eq] at ho
  obtain ⟨⟨hc, hq⟩, ha⟩ := ho
  refine List.find?_isSome.mpr ⟨x, hx, ?_⟩
  simp only [hctx, hseq, hatt, hc, hq, ha, beq_self_eq_true, Bool.and_self]

/-- What a tile that has run brings when it ends: its report, when its attempt is open, and what the Well does next. -/
def State.tileEnds (s : State) (w : WellNo) (c : Ctx) (seq : Word) (att : Nat) : State :=
  (((((if (s.wellOpen w c seq att).isSome then s.wellSays c seq att 0 0 else s).wellIdle w).retryLanded).wellReports w).wellGrant w)

/-- A report that a tile has ended, formed on the way, is landed. -/
def State.TileSent (s : State) (c : Ctx) (seq : Word) : Prop := ∃ (u : State) (att : Nat), s.HasLanded (u.tileReport c seq att)

/-- The report of a tile of an open attempt is landed when the Well has gone on. -/
theorem State.tileEnds_sent {c : Ctx} {seq : Word} {att : Nat} (ho : (s.wellOpen w c seq att).isSome) :
    (s.tileEnds w c seq att).TileSent c seq := by
  refine ⟨s, att, ?_⟩
  unfold State.tileEnds
  rw [if_pos ho]
  have hsaid : (s.wellSays c seq att 0 0).HasLanded (s.tileReport c seq att) := State.HasLanded.landHere _ _ _ _
  have h := (Steady.refl (s.wellSays c seq att 0 0)).wellIdle (w := w) |>.retryLanded.wellReports (w := w) |>.wellGrant (w := w)
  exact h.landed _ (by rw [State.tileReport_ptype]; decide) hsaid

/-- The running tile leaves its place, and its cycles are charged. -/
def State.tileOut (s : State) (w : WellNo) (c : Ctx) (cycles : Nat) : State :=
  (s.modWell w fun k => { k with running := none, deficit := chargeDef k.deficit c cycles }).accCyc c (cycles * s.wellEngines w)

theorem State.tileOut_steady (s : State) (w : WellNo) (c : Ctx) (cycles : Nat) : Steady s (s.tileOut w c cycles) :=
  (Steady.refl s).modWell.accCyc

theorem State.endTile_score {k : ScoreTile} {n : Nat} (hrun : s.wells[w].running = some (.score k)) :
    s.endTile w n = ((s.tileOut w k.ctx n).scoreTileRun w k).tileEnds w k.ctx k.seq k.att := by
  unfold State.endTile
  rw [hrun]
  rfl

theorem State.endTile_expert {k : WTile} {n : Nat} (hrun : s.wells[w].running = some (.expert k)) :
    s.endTile w n = ((s.tileOut w k.ctx n).tileRun w k).tileEnds w k.ctx k.seq k.att := by
  unfold State.endTile
  rw [hrun]
  rfl

theorem State.TileSent.landed {c : Ctx} {seq : Word} (h : s.TileSent c seq) : ∃ l, l ∈ s.landed ∧ ptypeOf l.pkt = 0x37 ∧
    ctxOf l.pkt = c ∧ seqOf l.pkt = seq ∧ bitsOf l.pkt.w1.toNat 0 4 = 0 := by
  obtain ⟨u, att, l, hl, hpkt⟩ := h
  refine ⟨l, hl, ?_⟩
  rw [hpkt]
  exact ⟨u.tileReport_ptype c seq att, ctxOf_mkW0 rfl, seqOf_mkW0 rfl, rfl⟩

/-- A tile that ends at once, of an attempt that is open, is reported. -/
theorem wellTileComplete_sent {x : WellWork} {n : Nat} {c : Ctx} {seq : Word} (hrun : s.wells[w].running = some x)
    (hd : s.wells[w].dram = []) (hfree : s.dramFree w (.tile n) = true)
    (hend : ∀ l, ((s.withDram w [] l).endTile w n).TileSent c seq) : (wellTileComplete w n s).TileSent c seq := by
  have heq : wellTileComplete w n s = s.dramAsk w (.tile n) := if_neg fun h => by
    unfold Well.tileAsks at h
    rw [hrun, hd] at h
    simp at h
  obtain ⟨l, hask⟩ := State.dramAsk_free hd hfree
  obtain ⟨u, att, hland⟩ := hend l
  rw [heq, hask]
  exact ⟨u, att, State.granted_landed hland (by rw [State.tileReport_ptype]; decide)⟩

section
variable {n : Nat} {o : WellOpen}

theorem wellTileComplete_score {k : ScoreTile} (hrun : s.wells[w].running = some (.score k))
    (ho : s.wellOpen w k.ctx k.seq k.att = some o) (hd : s.wells[w].dram = []) (hfree : s.dramFree w (.tile n) = true) :
    (wellTileComplete w n s).TileSent k.ctx k.seq := by
  refine wellTileComplete_sent hrun hd hfree fun l => ?_
  rw [State.endTile_score (by rw [State.withDram_well]; exact hrun)]
  refine State.tileEnds_sent (Steady.wellOpen (s := s.withDram w [] l) (State.tileOut_steady _ w k.ctx n).scoreTileRun ?_)
  rw [State.withDram_wellOpen, ho]
  rfl

theorem wellTileComplete_expert {k : WTile} (hrun : s.wells[w].running = some (.expert k))
    (ho : s.wellOpen w k.ctx k.seq k.att = some o) (hd : s.wells[w].dram = []) (hfree : s.dramFree w (.tile n) = true) :
    (wellTileComplete w n s).TileSent k.ctx k.seq := by
  refine wellTileComplete_sent hrun hd hfree fun l => ?_
  rw [State.endTile_expert (by rw [State.withDram_well]; exact hrun)]
  refine State.tileEnds_sent (Steady.wellOpen (s := s.withDram w [] l) (State.tileOut_steady _ w k.ctx n).tileRun ?_)
  rw [State.withDram_wellOpen, ho]
  rfl

end

/-! ### The commands -/

theorem ledgerWrite_eq {o : WellOpen} (hup : s.wellUp w = true) (hfr : s.wellFrozen w = false) (hp : ptypeOf p = 0x34)
    (ho : s.openFor w p = some o) : exec (.ledgerWrite w p) s = .next (s.dramAsk w (.ledgerWrite p)) := by
  refine congrArg Host.Outcome.next ((if_pos ⟨hup, hp, by rw [hfr]; rfl⟩).trans ?_)
  unfold ledgerWrite
  rw [ho]

theorem ledgerRead_eq {o : WellOpen} (hup : s.wellUp w = true) (hfr : s.wellFrozen w = false) (hp : ptypeOf p = 0x35)
    (ho : s.openFor w p = some o) : exec (.ledgerRead w p) s = .next (s.dramAsk w (.ledgerRead p)) := by
  refine congrArg Host.Outcome.next ((if_pos ⟨hup, hp, by rw [hfr]; rfl⟩).trans ?_)
  unfold ledgerRead
  rw [ho]

theorem ledgerRead_landed (hd : s.wells[w].dram = []) (hfree : s.dramFree w (.ledgerRead p) = true)
    (hclean : Flips.within s.wells[w].flips (bitsOf p.w1.toNat 0 37) (bitsOf p.w2.toNat 0 24) = []) :
    ∃ l, l ∈ (s.dramAsk w (.ledgerRead p)).landed ∧ ptypeOf l.pkt = 0x36 ∧ ctxOf l.pkt = ctxOf p ∧
      l.pkt.body = s.stackRead w (bitsOf p.w1.toNat 0 37) (bitsOf p.w2.toNat 0 24) := by
  obtain ⟨l, hl, hpkt⟩ := ledgerRead_answered hd hfree hclean
  refine ⟨l, hl, ?_⟩
  rw [hpkt]
  exact ⟨s.ledgerAnswer_ptype w p, ctxOf_mkW0 rfl, rfl⟩

/-- Settles O24: a request that is granted at once runs on the Well as it stood, and what it sends the Hub stays landed. -/
theorem wellLedgerAndReports : Obligations.WellLedgerAndReports := by
  unfold Obligations.WellLedgerAndReports
  refine ⟨fun s w p hup hfr => ⟨fun o hp ho hlen hq hfree hclean => ?_, fun o hp ho hd hfree hclean => ?_, fun st a y hp hcur hatt hy => ?_,
    fun st a hp hcur hatt hnone => ?_⟩, fun s w hup => ⟨fun p st a hp hfr hcur hatt hkind => ?_, fun n k o hrun ho hd hfree => ?_,
    fun n k o hrun ho hd hfree => ?_⟩⟩
  · exact ⟨_, ledgerWrite_eq hup hfr hp ho, ledgerWrite_stored hq hfree hlen hclean⟩
  · exact ⟨_, ledgerRead_eq hup hfr hp ho, ledgerRead_landed hd hfree hclean⟩
  · exact ⟨_, congrArg Host.Outcome.next (if_pos ⟨hup, hp⟩), ledgerData_wanted hfr hcur hatt hy⟩
  · exact ⟨_, congrArg Host.Outcome.next (if_pos ⟨hup, hp⟩), ledgerData_unwanted hcur hatt hnone⟩
  · exact ⟨_, congrArg Host.Outcome.next (if_pos ⟨hup, hp⟩), wellReport_finish hfr hcur hatt hkind⟩
  · exact ⟨_, congrArg Host.Outcome.next (if_pos hup), (wellTileComplete_score hrun ho hd hfree).landed⟩
  · exact ⟨_, congrArg Host.Outcome.next (if_pos hup), (wellTileComplete_expert hrun ho hd hfree).landed⟩

end Sys2Proof.Machine
end

section
/-!
SUPPORT. What leaves the rings of the contexts (R96) as they are: the relation `SameRings`, with a rule per operation. `Untouched` does
not see the steps of a context, and names the registers that change, of which an operation over every Well would have a list.
-/

namespace Sys2Proof.Machine

open Sys2Proof

set_option Elab.async false

/-! ### The relation -/

/-- `t` has the ring registers (R96) and the steps of every context as `s` has them. -/
structure SameRings (s t : State) : Prop where
  word : ∀ off, 0x021000 ≤ off → off < 0x021400 → t.word off = s.word off
  steps : ∀ c, t.steps c = s.steps c

variable {base s t : State}

theorem SameRings.refl (s : State) : SameRings s s := ⟨fun _ _ _ => rfl, fun _ => rfl⟩

theorem SameRings.trans {u : State} (h : SameRings s t) (h' : SameRings t u) : SameRings s u :=
  ⟨fun off h1 h2 => (h'.word off h1 h2).trans (h.word off h1 h2), fun c => (h'.steps c).trans (h.steps c)⟩

/-- A ring register of a context, by its place in the first context's block. -/
theorem SameRings.rd (h : SameRings s t) {f : Fld} {k : Nat} (c : Ctx) (hf : f.off = k + 0x40 * c.val)
    (hk : 0x021000 ≤ k ∧ k < 0x021040) : t.rd f = s.rd f :=
  congrArg f.get (h.word f.off (by omega) (by omega))

/-- An update of what lies beside the registers and the control core's memory. -/
theorem SameRings.upd {out free mch commits evq evr host ports wells work corrected} (h : SameRings base s) :
    SameRings base { s with
      out := out, free := free, mch := mch, commits := commits, evq := evq, evr := evr, host := host, ports := ports, wells := wells
      work := work, corrected := corrected } :=
  h.trans ⟨fun _ _ _ => rfl, fun _ => rfl⟩

/-- Packets, events and requests of the host leave the ring registers. -/
theorem SameRings.traffic (h : SameRings base s) (ht : UpToTraffic s t) (hs : ∀ c, t.steps c = s.steps c) : SameRings base t := by
  refine h.trans ⟨fun off h1 h2 => ht.word off ?_ (accounting_outside (by omega)), hs⟩
  rw [show RNG_EQ_LOST.reg = 0x020014 from rfl]
  omega

theorem SameRings.ite {c : Prop} [Decidable c] (ht : SameRings base t) (hs : SameRings base s) : SameRings base (if c then t else s) := by
  split
  · exact ht
  · exact hs

theorem SameRings.dite {c : Prop} [Decidable c] {a : c → State} {b : ¬c → State} (ha : ∀ hc, SameRings base (a hc))
    (hb : ∀ hc, SameRings base (b hc)) : SameRings base (if hc : c then a hc else b hc) := by
  split
  · exact ha _
  · exact hb _

theorem SameRings.foldl {β : Type} {f : State → β → State} {l : List β} (h : SameRings base s)
    (hf : ∀ {t : State}, SameRings base t → ∀ x, SameRings base (f t x)) : SameRings base (l.foldl f s) :=
  foldl_keeps (P := SameRings base) l h fun _ x ht => hf ht x

/-! ### Registers and events -/

/-- A word behind the blocks of the rings. -/
theorem SameRings.setWord {off v} (h : SameRings base s) (hoff : 0x021400 ≤ off) : SameRings base (s.setWord off v) :=
  h.trans ⟨fun _ _ h2 => State.setWord_word_ne s v (Nat.ne_of_lt (Nat.lt_of_lt_of_le h2 hoff)), fun c => State.setWord_steps s off v c⟩

theorem SameRings.wr {f v} (h : SameRings base s) (hoff : 0x021400 ≤ f.off) : SameRings base (s.wr f v) := h.setWord hoff

theorem SameRings.bumpBy {f n} (h : SameRings base s) (hoff : 0x021400 ≤ f.off) : SameRings base (s.bumpBy f n) := h.wr hoff

theorem SameRings.addPair {lo hi n} (h : SameRings base s) (hlo : 0x021400 ≤ lo.off) (hhi : 0x021400 ≤ hi.off) :
    SameRings base (s.addPair lo hi n) := (h.wr hlo).wr hhi

/-- The accounting counters of a context lie behind the blocks of the rings (R298). -/
theorem SameRings.accEnergy {c fj} (h : SameRings base s) : SameRings base (s.accEnergy c fj) :=
  h.upd.addPair (Nat.le_add_right_of_le (by decide : 0x021400 ≤ 0x0D1048)) (Nat.le_add_right_of_le (by decide : 0x021400 ≤ 0x0D104C))

theorem SameRings.emit {e} (h : SameRings base s) : SameRings base (s.emit e) := h.upd

theorem SameRings.raiseEv {e} (h : SameRings base s) : SameRings base (s.raiseEv e) :=
  h.traffic (State.raiseEv_traffic s e) fun c => by
    obtain ⟨_, _, _, _, he⟩ := State.raiseEv_eq s e
    rw [he]
    rfl

theorem SameRings.raise {code sev data c seq addr} (h : SameRings base s) : SameRings base (s.raise code sev data c seq addr) := h.raiseEv

theorem SameRings.rasIrq (h : SameRings base s) {f : Fld} (hoff : 0x021400 ≤ f.off) : SameRings base (s.rasIrq f) :=
  .ite (.ite (h.wr hoff).emit (h.wr hoff)) h

/-! ### The Host Port -/

theorem State.issueOne_steps (s : State) (r : HostReq) (c : Ctx) : (s.issueOne r).steps c = s.steps c := by
  obtain ⟨_, _, _, _, _, _, he⟩ := State.issueOne_eq s r
  rw [he]
  rfl

theorem SameRings.issueOne {r} (h : SameRings base s) : SameRings base (s.issueOne r) :=
  h.traffic (State.issueOne_traffic s r) fun c => State.issueOne_steps s r c

theorem SameRings.hostWrite {why addr bytes} (h : SameRings base s) : SameRings base (s.hostWrite why addr bytes) :=
  .foldl h fun ht _ => ht.issueOne

theorem SameRings.endTxn {x} (h : SameRings base s) : SameRings base (s.endTxn x) := .foldl h.upd fun ht _ => ht.issueOne

/-! ### The stacks of the Wells (R248) -/

theorem SameRings.modWell {w f} (h : SameRings base s) : SameRings base (s.modWell w f) := h.upd

theorem SameRings.accDram {w c a rdB wrB} (h : SameRings base s) : SameRings base (s.accDram w c a rdB wrB) :=
  .accEnergy (h.modWell.addPair (Nat.le_add_right_of_le (by decide : 0x021400 ≤ 0x0D1038))
    (Nat.le_add_right_of_le (by decide : 0x021400 ≤ 0x0D103C)))

theorem SameRings.correctedWord {part} (h : SameRings base s) : SameRings base (s.correctedWord part) := by
  unfold State.correctedWord
  extract_lets _ _ s1 s2
  have h1 : SameRings base s1 := h.bumpBy (by decide)
  exact .ite h1.upd.raise h1.upd

theorem SameRings.readDram {w c a n} (h : SameRings base s) : SameRings base (s.readDram w c a n) :=
  .accDram (.foldl h fun ht _ => ht.correctedWord)

theorem SameRings.writeDram {w c a bs} (h : SameRings base s) : SameRings base (s.writeDram w c a bs) := h.modWell.accDram

theorem SameRings.echoReads {c bank layer} (h : SameRings base s) : SameRings base (s.echoReads c bank layer) := by
  unfold State.echoReads
  split
  · exact h
  · exact .ite h (.foldl h fun ht _ => .readDram (.ite ht (ht.bumpBy (by decide))))

theorem SameRings.writePlacement {c seq l host} (h : SameRings base s) : SameRings base (s.writePlacement c seq l host).1 := by
  unfold State.writePlacement
  split
  · exact h
  · exact .foldl h fun ht _ => ht.writeDram

theorem SameRings.writeEcho {c layer counts} (h : SameRings base s) : SameRings base (s.writeEcho c layer counts) :=
  .foldl h fun ht _ => .foldl ht.modWell.accDram fun ht1 _ => ht1.modWell

theorem SameRings.zeroEcho {c} (h : SameRings base s) : SameRings base (s.zeroEcho c) := .foldl h fun ht _ => ht.modWell.accDram

theorem SameRings.zeroAcc {c} (h : SameRings base s) : SameRings base (s.zeroAcc c) :=
  .upd (.foldl h fun ht i => ht.setWord (by omega))

/-! ### Ready reports (R51, R399) -/

theorem State.sendMaster_traffic (s : State) (ptype : Nat) (c : Ctx) (seq : Word) (att w1 : Nat) :
    UpToTraffic s (s.sendMaster ptype c seq att w1) := by
  unfold State.sendMaster
  extract_lets _ _
  split
  · exact .of_same (fun _ => rfl) rfl rfl rfl rfl
  · split
    · exact State.send_traffic _ _ _ _
    · exact .of_same (fun _ => rfl) rfl rfl rfl rfl

theorem State.readyReport_traffic (s : State) (c : Ctx) (seq : Word) (att : Nat) : UpToTraffic s (s.readyReport c seq att) :=
  UpToTraffic.trans (t := { s with tick := { s.tick with reported := s.tick.reported.set c (some seq) } })
    (.of_same (fun _ => rfl) rfl rfl rfl rfl) (State.sendMaster_traffic _ _ _ _ _ _)

/-- A ready report that leaves, or waits for the mirror. -/
theorem State.holdReport_traffic (s : State) (c : Ctx) (seq : Word) (again : Bool) (att : Nat) :
    UpToTraffic s (s.hold (.readyReport c seq again) fun s => s.readyReport c seq att) := by
  have hnow : UpToTraffic s (s.readyReport c seq att) := State.readyReport_traffic _ _ _ _
  unfold State.hold
  split
  · split
    · exact hnow
    · exact .of_same (fun _ => rfl) rfl rfl rfl rfl
  · split
    · exact hnow
    · exact .of_same (fun _ => rfl) rfl rfl rfl rfl
  · exact hnow
  · exact hnow

theorem SameRings.holdReport {c seq again att} (h : SameRings base s) :
    SameRings base (s.hold (.readyReport c seq again) fun s => s.readyReport c seq att) :=
  h.traffic (State.holdReport_traffic _ _ _ _ _) fun x => State.holdReport_steps _ _ x _ _ _

/-! ### A step that retires (R102, R386) -/

theorem SameRings.unfence {part engine} (h : SameRings base s) : SameRings base (s.unfence part engine) :=
  .rasIrq (.raiseEv (.dite (fun _ => h.modWell.wr (Nat.le_add_right_of_le (by decide : 0x021400 ≤ 0x080010)))
    fun _ => h.upd.wr (by decide))) (by decide)

theorem SameRings.fenceTest {part c seq f} (h : SameRings base s) : SameRings base (State.fenceTest part c seq s f) :=
  .ite (.ite h.upd.unfence h.upd) h

theorem SameRings.fenceRetire {c seq} (h : SameRings base s) : SameRings base (s.fenceRetire c seq) :=
  .ite h (.foldl (.foldl h fun ht _ => ht.fenceTest) fun ht _ => .foldl ht fun ht1 _ => ht1.fenceTest)

theorem SameRings.heldRelease {c} (h : SameRings base s) : SameRings base (s.heldRelease c) :=
  .ite (h.wr (Nat.le_add_right_of_le (by decide : 0x021400 ≤ 0x031010))) h

end Sys2Proof.Machine
end

section
/-!
SUPPORT. Doorbells and consumer indices (O7, O49).
-/

namespace Sys2Proof.Machine

open Sys2Proof

set_option Elab.async false

section
variable {s : State} {c : Ctx} {v : Word}

/-- The registers of the contexts' rings lie behind the count of lost records. -/
theorem ringFld_not_lost {f : Fld} {k : Nat} (hf : f.off = k + 0x40 * c.val) (hk : 0x021000 ≤ k) : f.off ≠ RNG_EQ_LOST.reg := by
  rw [show RNG_EQ_LOST.reg = 0x020014 from rfl]
  omega

/-- A field of 32 bits holds a word as it is. -/
theorem State.wr_rd_word (s : State) {f : Fld} (v : Word) (hlo : f.lo = 0) (hlen : f.len = 32) : (s.wr f v.toNat).rd f = v.toNat := by
  rw [State.wr_rd s f _ (by omega), hlen]
  exact Nat.mod_eq_of_lt v.isLt

/-! ### Doorbells (R71, R72) -/

theorem execDoorbell_answers {post : State → Prop} (hup : s.busUp 0 = true) (h : post (doorbell c v s)) : Answers (.doorbell c v) s post :=
  ⟨_, congrArg Host.Outcome.next (if_pos hup), h⟩

theorem doorbell_off (hoff : s.rd (RNG_CTX_CTRL.ENABLE c) = 0) : doorbell c v s = s.raise 0x0302 1 [v.toNat] c := if_pos hoff

theorem doorbell_taken (hon : s.rd (RNG_CTX_CTRL.ENABLE c) = 1) (htail : dist32 v.toNat (s.rd (RNG_DOORBELL.TAIL c)) < 2 ^ 31)
    (hhead : dist32 v.toNat (s.rd (RNG_SQ_HEAD.INDEX c)) ≤ s.sqSize c) : doorbell c v s = s.wr (RNG_DOORBELL.TAIL c) v.toNat :=
  (if_neg (by omega)).trans (if_pos ⟨htail, hhead⟩)

theorem doorbell_refused (hon : s.rd (RNG_CTX_CTRL.ENABLE c) = 1) (hhead : s.sqSize c < dist32 v.toNat (s.rd (RNG_SQ_HEAD.INDEX c))) :
    doorbell c v s = (s.raise 0x0301 2 [v.toNat, s.rd (RNG_DOORBELL.TAIL c), s.rd (RNG_SQ_HEAD.INDEX c)] c).freezeRing c
      (RNG_DOORBELL.reg c) :=
  (if_neg (by omega)).trans (if_neg fun h => absurd h.2 (Nat.not_le_of_lt hhead))

/-! ### A ring that is frozen (R394, R395) -/

theorem State.setFrozen_ring (s : State) (c : Ctx) (d : Nat) : s.setFrozen (.ring c) d =
    ((s.wr RAS_FREEZE.CTX (s.rd RAS_FREEZE.CTX ||| 2 ^ c.val)).raiseFrom s.hubPart 0 0x0D07 3 [0, c.val, d] (some c)).rasIrq
      RAS_IRQ_STATUS.FREEZE := rfl

theorem State.setFrozen_ringFrozen (s : State) (c : Ctx) (d : Nat) : (s.setFrozen (.ring c) d).ringFrozen c = true := by
  unfold State.ringFrozen
  rw [State.setFrozen_ring, State.rasIrq_rd_ne _ _ _ (by decide), State.rd, State.raiseFrom_word_ne _ _ _ _ _ _ _ _ _ (by decide), ← State.rd,
    State.wr_rd _ _ _ (by decide), Nat.testBit_mod_two_pow, Nat.testBit_or, Nat.testBit_two_pow_self, Bool.or_true, Bool.and_true]
  exact decide_eq_true c.isLt

theorem SameRings.setFrozen_ring (s : State) (c : Ctx) (d : Nat) : SameRings s (s.setFrozen (.ring c) d) := by
  rw [State.setFrozen_ring]
  exact .rasIrq (.raiseEv ((SameRings.refl s).wr (by decide))) (by decide)

/-- What follows a freeze is traffic: notices of the live step, and aborts of the collectives of the context's channels. -/
theorem State.freezeRing_traffic (s : State) (c : Ctx) (d : Nat) (h : s.ringFrozen c = false) :
    UpToTraffic (s.setFrozen (.ring c) d) (s.freezeRing c d) := by
  unfold State.freezeRing
  rw [if_neg (by rw [h]; decide)]
  refine (State.noticeLive_traffic _ c 3 0x21).trans (UpToTraffic.foldl _ _ fun t ch => ?_)
  split
  · exact State.colAbortSend_traffic t ch 5 0
  · exact .refl t

theorem State.freezeRing_ringFrozen (s : State) (c : Ctx) (d : Nat) : (s.freezeRing c d).ringFrozen c = true := by
  cases h : s.ringFrozen c with
  | true =>
    unfold State.freezeRing
    rwa [if_pos h]
  | false =>
    unfold State.ringFrozen
    rw [(s.freezeRing_traffic c d h).rd RAS_FREEZE.CTX (by decide) (by decide)]
    exact s.setFrozen_ringFrozen c d

/-- A freeze leaves the ring's own registers. -/
theorem State.freezeRing_rd (s : State) (c : Ctx) (d : Nat) {f : Fld} {k : Nat} (hf : f.off = k + 0x40 * c.val)
    (hk : 0x021000 ≤ k ∧ k < 0x021040) : (s.freezeRing c d).rd f = s.rd f := by
  cases h : s.ringFrozen c with
  | true =>
    unfold State.freezeRing
    rw [if_pos h]
  | false =>
    rw [(s.freezeRing_traffic c d h).rd f (ringFld_not_lost hf hk.1) (accounting_outside (by omega))]
    exact (SameRings.setFrozen_ring s c d).rd c hf hk

/-! ### Consumer indices (R93) -/

theorem cqHeadWrite_taken (h : headOk v.toNat (s.rd (RNG_CQ_HEAD.INDEX c)) (s.rd (RNG_CQ_TAIL.INDEX c)) = true) :
    (cqHeadWrite c v s).rd (RNG_CQ_HEAD.INDEX c) = v.toNat := by
  unfold cqHeadWrite
  extract_lets _ s1
  have hhead : s1.rd (RNG_CQ_HEAD.INDEX c) = v.toNat := s.wr_rd_word v rfl rfl
  rw [if_pos h]
  split
  · rw [State.wrIf_rd_ne _ _ _ _ (by simp [RNG_CQ_HEAD.INDEX, RNG_CTX_STATUS.CQ_FULL])]
    exact hhead
  · exact hhead

theorem cqHeadWrite_refused (h : headOk v.toNat (s.rd (RNG_CQ_HEAD.INDEX c)) (s.rd (RNG_CQ_TAIL.INDEX c)) = false) :
    cqHeadWrite c v s = s.raise 0x0303 2 [v.toNat, s.rd (RNG_CQ_TAIL.INDEX c), 0] c := if_neg (by rw [h]; decide)

theorem eqHeadWrite_taken (h : headOk v.toNat (s.rd RNG_EQ_HEAD.INDEX) (s.rd RNG_EQ_TAIL.INDEX) = true) :
    eqHeadWrite v s = s.wr RNG_EQ_HEAD.INDEX v.toNat := if_pos h

theorem eqHeadWrite_refused (h : headOk v.toNat (s.rd RNG_EQ_HEAD.INDEX) (s.rd RNG_EQ_TAIL.INDEX) = false) :
    eqHeadWrite v s = s.raise 0x0303 2 [v.toNat, s.rd RNG_EQ_TAIL.INDEX, 1] := if_neg (by rw [h]; decide)

end

/-- Settles O7: each write is the branch of its range; what an event and a freeze send leaves the ring registers. -/
theorem doorbellsAndHeads : Obligations.DoorbellsAndHeads := by
  unfold Obligations.DoorbellsAndHeads
  refine fun s c v hup => ⟨fun hoff => ?_, fun hon htail hhead => ?_, fun hon hhead => ?_, fun h => ?_, fun h => ?_, fun h => ?_, fun h => ?_⟩
  · refine execDoorbell_answers hup ?_
    rw [doorbell_off hoff]
    exact ⟨State.raise_reports _ _ _ _ _ _ _, State.raise_rd _ _ _ _ _ _ _ _ (ringFld_not_lost (c := c) rfl (by decide))⟩
  · refine execDoorbell_answers hup ?_
    rw [doorbell_taken hon htail hhead]
    exact s.wr_rd_word v rfl rfl
  · refine execDoorbell_answers hup ?_
    rw [doorbell_refused hon hhead, State.freezeRing_rd _ c _ (k := 0x021014) rfl (by decide)]
    exact ⟨State.freezeRing_ringFrozen _ _ _, State.raise_rd _ _ _ _ _ _ _ _ (ringFld_not_lost (c := c) rfl (by decide))⟩
  · exact ⟨_, congrArg Host.Outcome.next (if_pos hup), cqHeadWrite_taken h⟩
  · refine ⟨_, congrArg Host.Outcome.next ((if_pos hup).trans (cqHeadWrite_refused h)), State.raise_reports _ _ _ _ _ _ _, ?_⟩
    exact State.raise_rd _ _ _ _ _ _ _ _ (ringFld_not_lost (c := c) rfl (by decide))
  · exact ⟨_, congrArg Host.Outcome.next ((if_pos hup).trans (eqHeadWrite_taken h)), s.wr_rd_word v rfl rfl⟩
  · exact ⟨_, congrArg Host.Outcome.next ((if_pos hup).trans (eqHeadWrite_refused h)), State.raise_reports _ _ _ _ _ _ _,
      State.raise_rd _ _ _ _ _ _ _ _ (by decide)⟩

/-- Settles O49: the doorbell is an event, and nothing but what an event changes. -/
theorem doorbellOfDisabledContext : Obligations.DoorbellOfDisabledContext := by
  unfold Obligations.DoorbellOfDisabledContext
  intro s c v hup hoff
  refine execDoorbell_answers hup ?_
  rw [doorbell_off hoff]
  refine ⟨State.raise_reports _ _ _ _ _ _ _, fun off h => State.raise_word_ne _ _ _ _ _ _ _ h, ?_⟩
  obtain ⟨_, _, _, _, he⟩ := State.raise_eq s 0x0302 1 [v.toNat] c 0 0
  rw [he]

end Sys2Proof.Machine
end

section
/-!
SUPPORT. Rings that are enabled and disabled (O8).
-/

namespace Sys2Proof.Machine

open Sys2Proof

set_option Elab.async false

section
variable {s : State} {c : Ctx} {v : Word}

/-! ### Writes of a control register (R7) -/

/-- An RW field reads what was written, whatever the other fields of its row are. -/
theorem writeRow_get_rw (pre : List FieldRow) (r : FieldRow) (post : List FieldRow) (off : Nat) (locked : Bool) (cur v : Word)
    (hacc : r.acc = .rw) (hr : r.lo + r.len ≤ 32) (h : ∀ x ∈ post, x.lo + x.len ≤ r.lo ∨ r.lo + r.len ≤ x.lo) :
    (r.fld off).get (writeRow (pre ++ r :: post) off locked cur v).1 = (r.fld off).get v := by
  unfold writeRow
  rw [List.foldl_append, List.foldl_cons]
  refine List.foldlRecOn (motive := fun a : Word × Bool => (r.fld off).get a.1 = (r.fld off).get v) post _ ?_ fun a ha x hx => ?_
  · rw [Fld.get_put _ _ _ hr, FieldRow.after, hacc]
    exact Nat.mod_eq_of_lt (Fld.get_lt _ _)
  · exact (Fld.get_put_other (x.fld off) (r.fld off) _ _ (h x hx) hr).trans ha

theorem findReg_ctxCtrl (c : Ctx) : findReg (RNG_CTX_CTRL.reg c) =
    some ⟨0x021010, [(0x40, 16)], [⟨0, 5, .rw, 6⟩, ⟨8, 5, .rw, 6⟩, ⟨16, 1, .rw, 0⟩, ⟨17, 1, .rw, 0⟩]⟩ := by
  revert c
  decide +kernel

theorem lockOf_ctxCtrl (c : Ctx) : lockOf (RNG_CTX_CTRL.reg c) = none := by
  revert c
  decide +kernel

theorem findReg_eqCtrl : findReg RNG_EQ_CTRL.reg =
    some ⟨0x020008, [], [⟨0, 5, .rw, 6⟩, ⟨8, 1, .rw, 0⟩, ⟨9, 1, .rw, 0⟩, ⟨10, 2, .rw, 2⟩]⟩ := by decide +kernel

/-- ENABLE of a context's ring reads what was written. -/
theorem ctxCtrl_store_enable (s : State) (c : Ctx) (v : Word) :
    (s.store (RNG_CTX_CTRL.reg c) v).rd (RNG_CTX_CTRL.ENABLE c) = (RNG_CTX_CTRL.ENABLE c).get v :=
  (congrArg _ (s.store_word_same v (findReg_ctxCtrl c) (lockOf_ctxCtrl c))).trans
    (writeRow_get_rw [⟨0, 5, .rw, 6⟩, ⟨8, 5, .rw, 6⟩] ⟨16, 1, .rw, 0⟩ [⟨17, 1, .rw, 0⟩] _ _ _ v rfl (by decide) (by decide))

/-- ENABLE of the event ring reads what was written. -/
theorem eqCtrl_store_enable (s : State) (v : Word) : (s.store RNG_EQ_CTRL.reg v).rd RNG_EQ_CTRL.ENABLE = RNG_EQ_CTRL.ENABLE.get v :=
  (congrArg _ (s.store_word_same v findReg_eqCtrl (by decide +kernel))).trans
    (writeRow_get_rw [⟨0, 5, .rw, 6⟩] ⟨8, 1, .rw, 0⟩ [⟨9, 1, .rw, 0⟩, ⟨10, 2, .rw, 2⟩] _ _ _ v rfl (by decide) (by decide))

/-- An event after a stored word is reported of the state before it. -/
theorem State.store_raise_reports (s : State) {off : Nat} (v : Word) (hl : lockOf off = none) (code sev : Nat) (data : List Nat)
    (c : Option Ctx) : Reports s code ((s.store off v).raise code sev data c) := by
  have h := State.raise_reports (s.store off v) code sev data c 0 0
  obtain ⟨_, _, _, he, -⟩ := State.store_eq s v hl
  exact h.of_same (by rw [he]; rfl) (by rw [he])

/-! ### `RNG_CTX_CTRL` (R69, R94, R95) -/

/-- The word written, with both sizes brought into their range. -/
def ctxClamped (c : Ctx) (v : Word) : Word :=
  (RNG_CTX_CTRL.CQ_LOG2 c).put ((RNG_CTX_CTRL.SQ_LOG2 c).put v (clampLog2 ((RNG_CTX_CTRL.SQ_LOG2 c).get v)))
    (clampLog2 ((RNG_CTX_CTRL.CQ_LOG2 c).get v))

/-- The word written to a ring that is on: its sizes stay. -/
def State.sizesKept (s : State) (c : Ctx) (w : Word) : Word := s.keep (RNG_CTX_CTRL.SQ_LOG2 c) (s.keep (RNG_CTX_CTRL.CQ_LOG2 c) w)

theorem ctxClamped_enable (c : Ctx) (v : Word) : (RNG_CTX_CTRL.ENABLE c).get (ctxClamped c v) = (RNG_CTX_CTRL.ENABLE c).get v := by
  unfold ctxClamped
  rw [Fld.get_put_other (RNG_CTX_CTRL.CQ_LOG2 c) _ _ _ (.inl (Nat.le_of_ble_eq_true rfl)) (Nat.le_of_ble_eq_true rfl),
    Fld.get_put_other (RNG_CTX_CTRL.SQ_LOG2 c) _ _ _ (.inl (Nat.le_of_ble_eq_true rfl)) (Nat.le_of_ble_eq_true rfl)]

theorem State.sizesKept_enable (s : State) (c : Ctx) (w : Word) :
    (RNG_CTX_CTRL.ENABLE c).get (s.sizesKept c w) = (RNG_CTX_CTRL.ENABLE c).get w := by
  unfold State.sizesKept State.keep
  rw [Fld.get_put_other (RNG_CTX_CTRL.SQ_LOG2 c) _ _ _ (.inl (Nat.le_of_ble_eq_true rfl)) (Nat.le_of_ble_eq_true rfl),
    Fld.get_put_other (RNG_CTX_CTRL.CQ_LOG2 c) _ _ _ (.inl (Nat.le_of_ble_eq_true rfl)) (Nat.le_of_ble_eq_true rfl)]

theorem ctxCtrlWrite_start (hoff : s.rd (RNG_CTX_CTRL.ENABLE c) = 0) (hv : (RNG_CTX_CTRL.ENABLE c).get v = 1) :
    ctxCtrlWrite c v s = (s.store (RNG_CTX_CTRL.reg c) (ctxClamped c v)).ringStart c := by
  unfold ctxCtrlWrite
  simp only [hoff, hv, Nat.reduceBEq, Bool.false_and, Bool.or_false, Bool.not_false, Bool.and_self, Bool.false_eq_true, if_false, if_true]
  rfl

/-- A write to an idle ring that is on stores ENABLE, with event 0x0304 when a size would have changed. -/
theorem ctxCtrlWrite_stop (hon : s.rd (RNG_CTX_CTRL.ENABLE c) = 1) (hidle : s.idle c = true) :
    ctxCtrlWrite c v s = s.store (RNG_CTX_CTRL.reg c) (s.sizesKept c (ctxClamped c v)) ∨ ctxCtrlWrite c v s =
      (s.store (RNG_CTX_CTRL.reg c) (s.sizesKept c (ctxClamped c v))).raise 0x0304 1 [RNG_CTX_CTRL.reg c, v.toNat] c := by
  unfold ctxCtrlWrite
  simp only [hon, hidle, Nat.reduceBEq, Bool.not_true, Bool.and_false, Bool.or_false, Bool.false_and, Bool.true_and, Bool.false_eq_true,
    if_false, if_true]
  split
  · exact .inr rfl
  · exact .inl rfl

/-- A ring that is not idle stays on, with event 0x0304. -/
theorem ctxCtrlWrite_busy (hon : s.rd (RNG_CTX_CTRL.ENABLE c) = 1) (hv : (RNG_CTX_CTRL.ENABLE c).get v = 0) (hidle : s.idle c = false) :
    ctxCtrlWrite c v s = (s.store (RNG_CTX_CTRL.reg c) (s.keep (RNG_CTX_CTRL.ENABLE c) (s.sizesKept c (ctxClamped c v)))).raise 0x0304 1
      [RNG_CTX_CTRL.reg c, v.toNat] c := by
  unfold ctxCtrlWrite
  simp only [hon, hv, hidle, Nat.reduceBEq, BEq.rfl, Bool.not_true, Bool.not_false, Bool.and_self, Bool.or_true,
    Bool.false_eq_true, if_false, if_true]
  rfl

/-- The indices of a ring that starts are 0, and its control word stays. -/
theorem State.ringStart_rd (s : State) (c : Ctx) : (s.ringStart c).rd (RNG_CTX_CTRL.ENABLE c) = s.rd (RNG_CTX_CTRL.ENABLE c) ∧
    (s.ringStart c).rd (RNG_DOORBELL.TAIL c) = 0 ∧ (s.ringStart c).rd (RNG_SQ_HEAD.INDEX c) = 0 ∧
    (s.ringStart c).rd (RNG_CQ_TAIL.INDEX c) = 0 ∧ (s.ringStart c).rd (RNG_CQ_HEAD.INDEX c) = 0 := by
  unfold State.ringStart
  extract_lets s1
  have hrest : SameRings s1 ((({ s1 with commits := s1.commits.set c [] } : State).zeroEcho c).zeroAcc c) :=
    (SameRings.refl s1).upd.zeroEcho.zeroAcc
  rw [hrest.rd c (k := 0x021010) rfl (by decide), hrest.rd c (k := 0x021014) rfl (by decide), hrest.rd c (k := 0x021018) rfl (by decide),
    hrest.rd c (k := 0x02101C) rfl (by decide), hrest.rd c (k := 0x021020) rfl (by decide)]
  simp [s1, State.wrIf_rd_ne, State.wr_rd_ne, State.wr_rd, RNG_CTX_CTRL.ENABLE, RNG_DOORBELL.TAIL, RNG_SQ_HEAD.INDEX, RNG_CQ_TAIL.INDEX,
    RNG_CQ_HEAD.INDEX, RNG_CTX_STATUS.CQ_FULL]

theorem ctxRingEnable_answers (hup : s.busUp 0 = true) (hoff : s.rd (RNG_CTX_CTRL.ENABLE c) = 0) (hv : (RNG_CTX_CTRL.ENABLE c).get v = 1) :
    Answers (.ctxRingEnable c v) s fun t => t.rd (RNG_CTX_CTRL.ENABLE c) = 1 ∧ t.rd (RNG_DOORBELL.TAIL c) = 0 ∧
      t.rd (RNG_SQ_HEAD.INDEX c) = 0 ∧ t.rd (RNG_CQ_TAIL.INDEX c) = 0 ∧ t.rd (RNG_CQ_HEAD.INDEX c) = 0 := by
  refine ⟨_, congrArg Host.Outcome.next ((if_pos ⟨hup, hoff, hv⟩).trans (ctxCtrlWrite_start hoff hv)), ?_⟩
  obtain ⟨hen, hindices⟩ := (s.store (RNG_CTX_CTRL.reg c) (ctxClamped c v)).ringStart_rd c
  exact ⟨by rw [hen, ctxCtrl_store_enable, ctxClamped_enable, hv], hindices⟩

theorem execCtxRingDisable_eq (hup : s.busUp 0 = true) (hon : s.rd (RNG_CTX_CTRL.ENABLE c) = 1) (hv : (RNG_CTX_CTRL.ENABLE c).get v = 0) :
    exec (.ctxRingDisable c v) s = .next (ctxCtrlWrite c v s) := congrArg Host.Outcome.next (if_pos ⟨hup, hon, hv⟩)

theorem State.ctxCtrl_raise_rd (s : State) (c : Ctx) (code sev : Nat) (data : List Nat) :
    (s.raise code sev data c).rd (RNG_CTX_CTRL.ENABLE c) = s.rd (RNG_CTX_CTRL.ENABLE c) :=
  State.raise_rd _ _ _ _ _ _ _ _ (ringFld_not_lost (c := c) rfl (by decide))

theorem ctxRingDisable_idle (hup : s.busUp 0 = true) (hon : s.rd (RNG_CTX_CTRL.ENABLE c) = 1) (hv : (RNG_CTX_CTRL.ENABLE c).get v = 0)
    (hsteps : s.steps c = []) : Answers (.ctxRingDisable c v) s fun t => t.rd (RNG_CTX_CTRL.ENABLE c) = 0 := by
  have hstored : (s.store (RNG_CTX_CTRL.reg c) (s.sizesKept c (ctxClamped c v))).rd (RNG_CTX_CTRL.ENABLE c) = 0 := by
    rw [ctxCtrl_store_enable, State.sizesKept_enable, ctxClamped_enable, hv]
  refine ⟨_, execCtxRingDisable_eq hup hon hv, ?_⟩
  rcases ctxCtrlWrite_stop (v := v) hon (by rw [State.idle, hsteps]; rfl) with he | he
  · rw [he, hstored]
  · rw [he, State.ctxCtrl_raise_rd, hstored]

theorem ctxRingDisable_busy (hup : s.busUp 0 = true) (hon : s.rd (RNG_CTX_CTRL.ENABLE c) = 1) (hv : (RNG_CTX_CTRL.ENABLE c).get v = 0)
    (hsteps : s.steps c ≠ []) :
    Answers (.ctxRingDisable c v) s fun t => t.rd (RNG_CTX_CTRL.ENABLE c) = 1 ∧ Reports s 0x0304 t := by
  have hidle : s.idle c = false := List.isEmpty_eq_false_iff.mpr hsteps
  refine ⟨_, (execCtxRingDisable_eq hup hon hv).trans (congrArg Host.Outcome.next (ctxCtrlWrite_busy hon hv hidle)), ?_,
    State.store_raise_reports _ _ (lockOf_ctxCtrl c) _ _ _ _⟩
  rw [State.ctxCtrl_raise_rd, ctxCtrl_store_enable, State.keep, Fld.get_put _ _ _ (Nat.le_of_ble_eq_true rfl), hon]
  rfl

/-! ### `RNG_EQ_CTRL` (R69) -/

/-- The word written, with the size brought into its range. -/
def eqClamped (v : Word) : Word := RNG_EQ_CTRL.LOG2.put v (clampLog2 (RNG_EQ_CTRL.LOG2.get v))

theorem eqCtrlWrite_start (hoff : s.rd RNG_EQ_CTRL.ENABLE = 0) (hv : RNG_EQ_CTRL.ENABLE.get v = 1) :
    eqCtrlWrite v s = ((s.store RNG_EQ_CTRL.reg (eqClamped v)).wr RNG_EQ_TAIL.INDEX 0).wr RNG_EQ_HEAD.INDEX 0 := by
  unfold eqCtrlWrite
  simp only [hoff, hv, Nat.reduceBEq, BEq.rfl, Bool.false_and, Bool.not_false, Bool.and_self, Bool.false_eq_true, if_false, if_true]
  rfl

theorem eqEnable_answers (hup : s.busUp 0 = true) (hoff : s.rd RNG_EQ_CTRL.ENABLE = 0) (hv : RNG_EQ_CTRL.ENABLE.get v = 1) :
    Answers (.eqEnable v) s fun t => t.rd RNG_EQ_CTRL.ENABLE = 1 ∧ t.rd RNG_EQ_TAIL.INDEX = 0 ∧ t.rd RNG_EQ_HEAD.INDEX = 0 := by
  refine ⟨_, congrArg Host.Outcome.next ((if_pos ⟨hup, hoff, hv⟩).trans (eqCtrlWrite_start hoff hv)), ?_, ?_, ?_⟩
  · rw [State.wr_rd_ne _ _ _ _ (by decide), State.wr_rd_ne _ _ _ _ (by decide), eqCtrl_store_enable, eqClamped,
      Fld.get_put_other _ _ _ _ (by decide) (by decide), hv]
  · rw [State.wr_rd_ne _ _ _ _ (by decide), State.wr_rd _ _ _ (by decide), Nat.zero_mod]
  · rw [State.wr_rd _ _ _ (by decide), Nat.zero_mod]

end

/-- Settles O8: ENABLE as its register stores it; a start writes the indices, and what it zeroes lies outside the ring registers. -/
theorem ringsOnAndOff : Obligations.RingsOnAndOff := by
  unfold Obligations.RingsOnAndOff
  exact fun s c v hup => ⟨ctxRingEnable_answers hup, ctxRingDisable_idle hup, ctxRingDisable_busy hup, eqEnable_answers hup⟩

end Sys2Proof.Machine
end

section
/-!
SUPPORT. Requests of the Host Port that wait or are out, and the fetch and the check of descriptors (O9).
-/

namespace Sys2Proof.Machine

open Sys2Proof

set_option Elab.async false

section
variable {s : State} {c : Ctx} {st : Step}

/-! ### Requests of the Host Port (R331, R333) -/

/-- An issue puts its request behind the waiting ones, or behind those that are out under a tag of its own. -/
theorem State.issueOne_host (s : State) (r : HostReq) :
    ((s.issueOne r).host.queue = s.host.queue ++ [r] ∧ (s.issueOne r).host.txns = s.host.txns) ∨
      ((s.issueOne r).host.queue = s.host.queue ∧ ∃ tag,
        (s.issueOne r).host.txns = s.host.txns ++ [{ tag := tag, req := r, got := [], orphan := false }]) := by
  unfold State.issueOne
  extract_lets sl
  split
  · next tag _ =>
    split
    · exact .inl ⟨rfl, rfl⟩
    · obtain ⟨_, _, _, _, he⟩ := State.accIssue_eq { s with host := { s.host with
        txns := s.host.txns ++ [{ tag := tag, req := r, got := [], orphan := false }] } } r
      rw [he]
      exact .inr ⟨rfl, tag, rfl⟩
  · exact .inl ⟨rfl, rfl⟩

/-- A request that is issued, or waits, keeps its purpose busy. -/
theorem State.issueOne_busyFor (s : State) (r : HostReq) (hit : Purpose → Bool) :
    (s.issueOne r).busyFor hit = (s.busyFor hit || hit r.why) := by
  unfold State.busyFor
  rcases s.issueOne_host r with ⟨hq, ht⟩ | ⟨hq, tag, ht⟩
  · rw [hq, ht, List.any_append, List.any_cons, List.any_nil, Bool.or_false, Bool.or_right_comm]
  · rw [hq, ht, List.any_append, List.any_cons, List.any_nil, Bool.or_false, Bool.or_assoc, Bool.not_false, Bool.true_and]

theorem State.issueFold_busyFor {β : Type} (g : β → HostReq) (l : List β) (s : State) (hit : Purpose → Bool) :
    (l.foldl (fun (s : State) (x : β) => s.issueOne (g x)) s).busyFor hit = (s.busyFor hit || l.any fun x => hit (g x).why) := by
  induction l generalizing s with
  | nil => rw [List.foldl_nil, List.any_nil, Bool.or_false]
  | cons x t ih => rw [List.foldl_cons, ih, State.issueOne_busyFor, List.any_cons, Bool.or_assoc]

/-- A transfer of at least one byte has a first piece. -/
theorem splitReq_cons (n a : Nat) {len : Nat} (h : 0 < len) : ∃ x l, splitReq (n + 1) a len = x :: l := by
  unfold splitReq
  rw [if_neg (Nat.ne_of_gt h)]
  exact ⟨_, _, rfl⟩

theorem State.hostRead_busyFor (s : State) {why : Purpose} (addr : Nat) {len : Nat} {hit : Purpose → Bool} (hwhy : hit why = true)
    (hlen : 0 < len) : (s.hostRead why addr len).busyFor hit = true := by
  obtain ⟨x, l, he⟩ := splitReq_cons len addr hlen
  refine (State.issueFold_busyFor (fun x : Nat × Nat => ⟨why, false, x.1, x.2, []⟩) _ s hit).trans ?_
  rw [he, List.any_cons, hwhy, Bool.true_or, Bool.or_true]

theorem State.hostWrite_busyFor (s : State) {why : Purpose} (addr : Nat) {bytes : List Byte} {hit : Purpose → Bool} (hwhy : hit why = true)
    (hlen : 0 < bytes.length) : (s.hostWrite why addr bytes).busyFor hit = true := by
  obtain ⟨x, l, he⟩ := splitReq_cons bytes.length addr hlen
  refine (State.issueFold_busyFor (fun x : Nat × Nat => ⟨why, true, x.1, x.2, slice bytes (x.1 - addr) x.2⟩) _ s hit).trans ?_
  rw [he, List.any_cons, hwhy, Bool.true_or, Bool.or_true]

/-! ### DESCRIPTOR_FETCH (R76) -/

theorem descriptorFetch_busy (h : s.mayFetch c = true) : (descriptorFetch c s).busyFor (Purpose.isDescriptor c) = true := by
  unfold descriptorFetch
  rw [if_pos h]
  exact State.hostRead_busyFor _ _ (beq_self_eq_true c) (by decide)

/-! ### DESCRIPTOR_CHECK (R77, R78) -/

/-- A fetched step that the checks have still to see. -/
def Step.pending (st : Step) : Bool := st.state == .fetched && !st.checked

/-- A change of the unchecked steps that checks each of them leaves none unchecked. -/
theorem State.modStep_unchecked (s : State) (c : Ctx) {f : Step → Step} (hf : ∀ x, (f x).checked = true) :
    (s.modStep c Step.pending f).unchecked c = none := by
  unfold State.unchecked
  rw [State.modStep_steps, List.find?_eq_none]
  intro x hx
  obtain ⟨y, -, rfl⟩ := List.mem_map.mp hx
  split
  · rw [hf, Bool.not_true, Bool.and_false]
    decide
  · next h => exact h

/-- The unchecked step stands changed among the steps. -/
theorem State.modStep_mem (s : State) (c : Ctx) {f : Step → Step} (h : s.unchecked c = some st) :
    f st ∈ (s.modStep c Step.pending f).steps c := by
  rw [State.modStep_steps]
  exact List.mem_map.mpr ⟨st, List.mem_of_find?_eq_some h, if_pos (List.find?_some (p := Step.pending) h)⟩

theorem descriptorCheck_failed {detail status : Nat} (h : s.unchecked c = some st) (hcheck : s.checkStep c st = some (detail, status)) :
    descriptorCheck c s = s.modStep c Step.pending fun x => { x with checked := true, status := status, detail := detail } := by
  unfold descriptorCheck
  rw [h]
  dsimp only
  rw [hcheck]
  rfl

/-- A step that passes its checks: its placement is written, the next sequence number counts, it becomes READY and is reported. -/
theorem descriptorCheck_passed (h : s.unchecked c = some st) (hcheck : s.checkStep c st = none)
    (hready : ((s.steps c).any fun x => x.state == .ready) = false) : ∃ r f, SameRings s r ∧
      (∀ x, (f x).checked = true ∧ (f x).state = .ready ∧ (f x).desc = x.desc) ∧
      descriptorCheck c s = ((r.wr (RNG_NEXT_SEQ.SEQ c) (s.rd (RNG_NEXT_SEQ.SEQ c) + 1)).modStep c Step.pending f).hold
        (.readyReport c st.seq false) fun s => s.readyReport c st.seq 0 := by
  unfold descriptorCheck
  rw [h]
  dsimp only
  rw [hcheck]
  dsimp only
  rw [if_neg (by rw [hready]; decide)]
  refine ⟨_, _, ?_, ?_, rfl⟩
  · split
    · exact (SameRings.refl s).echoReads.writePlacement
    · exact .refl s
  · exact fun _ => ⟨rfl, rfl, rfl⟩

theorem descriptorCheck_ready (h : s.unchecked c = some st) (hcheck : s.checkStep c st = none)
    (hready : ((s.steps c).any fun x => x.state == .ready) = false) : (descriptorCheck c s).unchecked c = none ∧
      (descriptorCheck c s).rd (RNG_NEXT_SEQ.SEQ c) = (s.rd (RNG_NEXT_SEQ.SEQ c) + 1) % 2 ^ 32 ∧
      ∃ x, x ∈ (descriptorCheck c s).steps c ∧ x.seq = st.seq ∧ x.state = .ready := by
  obtain ⟨r, f, hr, hf, he⟩ := descriptorCheck_passed h hcheck hready
  rw [he]
  generalize hw : r.wr (RNG_NEXT_SEQ.SEQ c) (s.rd (RNG_NEXT_SEQ.SEQ c) + 1) = w
  have hsteps : w.steps c = s.steps c := by rw [← hw, State.wr_steps, hr.steps]
  have hunchecked : w.unchecked c = some st := by rw [← h, State.unchecked, hsteps]; rfl
  have hreport := State.holdReport_steps (w.modStep c Step.pending f) c c st.seq false 0
  refine ⟨?_, ?_, f st, ?_, ?_, (hf st).2.1⟩
  · rw [← w.modStep_unchecked c fun x => (hf x).1, State.unchecked, State.unchecked, hreport]
  · rw [((SameRings.refl _).holdReport).rd c (k := 0x021024) rfl (by decide), State.modStep, State.setSteps, State.setCore_rd, ← hw,
      State.wr_rd _ _ _ (Nat.le_of_ble_eq_true rfl)]
    rfl
  · rw [hreport]
    exact w.modStep_mem c hunchecked
  · unfold Step.seq Step.bits
    rw [(hf st).2.2]

end

/-- Settles O9: the request waits or is out; the check marks every unchecked step of the context, and its report leaves the rings. -/
theorem descriptorPath : Obligations.DescriptorPath := by
  unfold Obligations.DescriptorPath
  refine fun s c hup => ⟨fun h => ⟨_, congrArg Host.Outcome.next (if_pos hup), descriptorFetch_busy h⟩, fun st detail status h hcheck => ?_,
    fun st h hcheck hready => ⟨_, congrArg Host.Outcome.next (if_pos hup), descriptorCheck_ready h hcheck hready⟩⟩
  refine ⟨_, congrArg Host.Outcome.next ((if_pos hup).trans (descriptorCheck_failed h hcheck)), s.modStep_unchecked c fun _ => rfl, _,
    s.modStep_mem c h, rfl, ?_, rfl, rfl⟩
  have hpending : st.pending = true := List.find?_some (p := Step.pending) h
  exact eq_of_beq (Bool.and_eq_true_iff.mp hpending).1

end Sys2Proof.Machine
end

section
/-!
SUPPORT. The write of a completion record and its response (O10).
-/

namespace Sys2Proof.Machine

open Sys2Proof

set_option Elab.async false

section
variable {s : State} {c : Ctx} {st : Step}

/-! ### The record that goes out (R81, R82, R86, R91) -/

theorem completionBytes_length (c : Ctx) (log2 : Nat) (st : Step) : (completionBytes c log2 st).length = 32 := by
  simp [completionBytes, toBytes]

theorem State.hostWrite_steps (s : State) (why : Purpose) (addr : Nat) (bytes : List Byte) (c : Ctx) :
    (s.hostWrite why addr bytes).steps c = s.steps c := (SameRings.refl s).hostWrite.steps c

/-- What R86 and R91 ask of a step whose record is to be written. -/
structure State.Recordable (s : State) (c : Ctx) (st : Step) : Prop where
  out : st.recOut = false
  frozen : s.ringFrozen c = false
  writes : s.writesDone c st.seq = true
  events : s.eventsPending c st.seq = false
  room : s.cqRoom c st.index = true

/-- The step as its record leaves: the tick of the record stays that of its first form (R93). -/
def State.recorded (s : State) (st : Step) : Step := { st with recOut := true, recTick := some (st.recTick.getD s.tickNow) }

/-- The record of a step leaves: its write is asked for, and the step stands as the one whose record is out. -/
theorem State.recordStep_out (h : s.Recordable c st) (hmem : st ∈ s.steps c) :
    (s.recordStep c st).busyFor (Purpose.isCompletion c) = true ∧ s.recorded st ∈ (s.recordStep c st).steps c := by
  obtain ⟨hout, hfrozen, hwrites, hevents, hroom⟩ := h
  unfold State.recordStep
  rw [if_neg (by simp [hout, hfrozen, hwrites, hevents]), if_neg (by simp [hroom])]
  extract_lets st1 s0 s1
  have h0 : SameRings s s0 := .ite (SameRings.refl s).writeEcho (.refl s)
  refine ⟨State.hostWrite_busyFor _ _ (beq_self_eq_true c) (by rw [completionBytes_length]; decide), ?_⟩
  rw [State.hostWrite_steps]
  have hset : s1.steps c = (s0.steps c).map fun x => if x.index = st.index then st1 else x := Vector.getElem_set_self _
  rw [hset, h0.steps c]
  exact List.mem_map.mpr ⟨st, hmem, if_pos rfl⟩

theorem rejectRetire_out {rest : List Step} (hsteps : s.steps c = st :: rest) (hstate : st.state = .fetched) (hchecked : st.checked = true)
    (h : s.Recordable c st) :
    (rejectRetire c s).busyFor (Purpose.isCompletion c) = true ∧ s.recorded st ∈ (rejectRetire c s).steps c := by
  have he : rejectRetire c s = s.recordStep c st := by
    unfold rejectRetire
    rw [hsteps]
    exact if_pos ⟨hstate, hchecked⟩
  rw [he]
  exact State.recordStep_out h (hsteps ▸ List.mem_cons_self)

theorem completionRecordWrite_out (hfind : ((s.steps c).find? fun x => x.state == .committed || x.state == .retiring) = some st)
    (h : s.Recordable c st) : (completionRecordWrite c s).busyFor (Purpose.isCompletion c) = true ∧
      s.recorded st ∈ (completionRecordWrite c s).steps c := by
  have he : completionRecordWrite c s = s.recordStep c st := by
    unfold completionRecordWrite
    rw [hfind]
  rw [he]
  exact State.recordStep_out h (List.mem_of_find?_eq_some hfind)

/-! ### Its response (R48, R91) -/

/-- A step that retires is gone, and the completion ring has advanced. -/
theorem State.retired_rings (s : State) (c : Ctx) (st : Step) :
    (s.retired c st).rd (RNG_CQ_TAIL.INDEX c) = (s.rd (RNG_CQ_TAIL.INDEX c) + 1) % 2 ^ 32 ∧
      (s.retired c st).steps c = (s.steps c).filter fun x => x.index != st.index := by
  unfold State.retired
  extract_lets s1 s2 s3
  have hrest : SameRings (s1.wr (RNG_CQ_TAIL.INDEX c) (s1.rd (RNG_CQ_TAIL.INDEX c) + 1)) s3 :=
    (((SameRings.refl _).bumpBy (Nat.le_add_right_of_le (by decide : 0x021400 ≤ 0x0D1050))).fenceRetire).heldRelease
  have hend {p : Prop} [Decidable p] : SameRings _ (if p then s3.emit (.irqCq c) else s3) := .ite hrest.emit hrest
  refine ⟨?_, ?_⟩
  · rw [hend.rd c (k := 0x02101C) rfl (by decide), State.wr_rd _ _ _ (Nat.le_of_ble_eq_true rfl)]
    rfl
  · rw [hend.steps c, State.wr_steps]
    exact Vector.getElem_set_self _

theorem completionWriteResponse_good {x : HostTxn} (htxn : s.txnOf (Purpose.isCompletion c) = some x)
    (hfind : ((s.steps c).find? fun y => y.recOut) = some st) : completionWriteResponse c 0 s = (s.endTxn x).retired c st := by
  have hsteps : (s.endTxn x).steps c = s.steps c := (SameRings.refl s).endTxn.steps c
  unfold completionWriteResponse
  rw [htxn]
  dsimp only
  rw [hsteps, hfind]
  exact if_pos rfl

theorem completionWriteResponse_retires {x : HostTxn} (htxn : s.txnOf (Purpose.isCompletion c) = some x)
    (hfind : ((s.steps c).find? fun y => y.recOut) = some st) :
    (completionWriteResponse c 0 s).rd (RNG_CQ_TAIL.INDEX c) = (s.rd (RNG_CQ_TAIL.INDEX c) + 1) % 2 ^ 32 ∧
      ∀ y, y ∈ (completionWriteResponse c 0 s).steps c → y.index ≠ st.index := by
  rw [completionWriteResponse_good htxn hfind]
  obtain ⟨hrd, hsteps⟩ := (s.endTxn x).retired_rings c st
  refine ⟨?_, fun y hy => ?_⟩
  · rw [hrd, (SameRings.refl s).endTxn.rd c (k := 0x02101C) rfl (by decide)]
  · rw [hsteps] at hy
    exact bne_iff_ne.mp (List.mem_filter.mp hy).2

end

/-- Settles O10: both records leave by the one operation that writes a record; the response retires the step whose record was out. -/
theorem completionPath : Obligations.CompletionPath := by
  unfold Obligations.CompletionPath
  refine fun s c hup => ⟨fun st rest hbus hsteps hstate hchecked hout hfr hw he hroom => ?_, fun st hbus hfind hout hfr hw he hroom => ?_,
    fun x st htxn hfind => ⟨_, congrArg Host.Outcome.next (if_pos hup), completionWriteResponse_retires htxn hfind⟩⟩
  · obtain ⟨hbusy, hmem⟩ := rejectRetire_out hsteps hstate hchecked ⟨hout, hfr, hw, he, hroom⟩
    exact ⟨_, congrArg Host.Outcome.next (if_pos hbus), hbusy, _, hmem, rfl⟩
  · obtain ⟨hbusy, hmem⟩ := completionRecordWrite_out hfind ⟨hout, hfr, hw, he, hroom⟩
    exact ⟨_, congrArg Host.Outcome.next (if_pos hbus), hbusy, _, hmem, rfl⟩

end Sys2Proof.Machine
end

section
/-!
SUPPORT. The event writer and its responses (O11).
-/

namespace Sys2Proof.Machine

open Sys2Proof

set_option Elab.async false

section
variable {s : State} {e : Event} {rest : List Event}

/-! ### The record that goes out (R90) -/

theorem eventBytes_length (e : Event) (i log2 lost : Nat) : (eventBytes e i log2 lost).length = 64 := by
  simp [eventBytes, toBytes, List.range_succ]

theorem State.hostWrite_evq (s : State) (why : Purpose) (addr : Nat) (bytes : List Byte) : (s.hostWrite why addr bytes).evq = s.evq := by
  obtain ⟨_, _, _, _, _, _, he⟩ := State.hostWrite_eq s why addr bytes
  rw [he]

/-- The event ring is on and has room for a record (R90). -/
def State.eqOpen (s : State) : Prop :=
  s.rd RNG_EQ_CTRL.ENABLE = 1 ∧ dist32 (s.rd RNG_EQ_TAIL.INDEX) (s.rd RNG_EQ_HEAD.INDEX) < s.eqSize

theorem eventRecordWrite_written (hfree : s.evq.inflight = none) (hq : s.evq.waiting = e :: rest) (h : s.eqOpen) :
    (eventRecordWrite s).evq = { waiting := rest, inflight := some (e, 0), lost := 0 } ∧
      (eventRecordWrite s).busyFor Purpose.isEvent = true := by
  unfold State.eqOpen at h
  unfold eventRecordWrite
  rw [hfree, hq]
  dsimp only
  rw [if_pos h]
  exact ⟨State.hostWrite_evq _ _ _ _, State.hostWrite_busyFor _ _ rfl (by rw [eventBytes_length]; decide)⟩

/-- A record that the ring does not take is lost, and counted. -/
theorem eventRecordWrite_lost (hfree : s.evq.inflight = none) (hq : s.evq.waiting = e :: rest) (h : ¬s.eqOpen) :
    (eventRecordWrite s).evq = { waiting := rest, inflight := none, lost := s.evq.lost + 1 } ∧
      Counted s (eventRecordWrite s) RNG_EQ_LOST.COUNT 1 := by
  unfold State.eqOpen at h
  unfold eventRecordWrite
  rw [hfree, hq]
  dsimp only
  rw [if_neg h]
  exact ⟨(State.bump_evq _ _).trans (by rw [hfree]), State.bump_rd _ _ (by decide)⟩

theorem eventRecordWrite_takes (hfree : s.evq.inflight = none) (hq : s.evq.waiting = e :: rest) :
    (eventRecordWrite s).evq.waiting = rest := by
  by_cases h : s.eqOpen
  · rw [(eventRecordWrite_written hfree hq h).1]
  · rw [(eventRecordWrite_lost hfree hq h).1]

/-! ### Its response (R91, R338) -/

variable {x : HostTxn} {n err : Nat}

theorem State.issueOne_evq (s : State) (r : HostReq) : (s.issueOne r).evq = s.evq := by
  obtain ⟨_, _, _, _, _, _, he⟩ := State.issueOne_eq s r
  rw [he]

theorem State.endTxn_traffic (s : State) (x : HostTxn) : UpToTraffic s (s.endTxn x) :=
  UpToTraffic.trans (t := { s with host := { s.host with txns := s.host.txns.erase x } }) (.of_same (fun _ => rfl) rfl rfl rfl rfl)
    (State.issueAll_traffic _)

theorem eventWriteResponse_good (htxn : s.txnOf Purpose.isEvent = some x) (hout : s.evq.inflight = some (e, n)) :
    (eventWriteResponse 0 s).evq.inflight = none ∧
      (eventWriteResponse 0 s).rd RNG_EQ_TAIL.INDEX = (s.rd RNG_EQ_TAIL.INDEX + 1) % 2 ^ 32 := by
  unfold eventWriteResponse
  rw [htxn, hout]
  dsimp only
  rw [if_pos rfl, (s.endTxn_traffic x).rd RNG_EQ_TAIL.INDEX (by decide) (by decide)]
  have htail : (({ s.endTxn x with evq := { (s.endTxn x).evq with inflight := none } } : State).wr RNG_EQ_TAIL.INDEX
      (s.rd RNG_EQ_TAIL.INDEX + 1)).rd RNG_EQ_TAIL.INDEX = (s.rd RNG_EQ_TAIL.INDEX + 1) % 2 ^ 32 := State.wr_rd _ _ _ (by decide)
  split
  · exact ⟨congrArg EventQueue.inflight (State.wr_evq _ _ _), htail⟩
  · exact ⟨congrArg EventQueue.inflight (State.wr_evq _ _ _), htail⟩

/-- After a first error the write is issued once more. -/
theorem eventWriteResponse_again (htxn : s.txnOf Purpose.isEvent = some x) (hout : s.evq.inflight = some (e, 0)) (herr : err ≠ 0) :
    (eventWriteResponse err s).evq.inflight = some (e, 1) := by
  unfold eventWriteResponse
  rw [htxn, hout]
  dsimp only
  rw [if_neg herr, if_pos rfl, State.issueOne_evq]

/-- After a later error the record is lost. -/
theorem eventWriteResponse_gone (htxn : s.txnOf Purpose.isEvent = some x) (hout : s.evq.inflight = some (e, n)) (herr : err ≠ 0)
    (hn : n ≠ 0) : (eventWriteResponse err s).evq.inflight = none := by
  unfold eventWriteResponse
  rw [htxn, hout]
  dsimp only
  rw [if_neg herr, if_neg hn, State.bump_evq]

end

/-- Settles O11: a record is written or lost as the ring stands, and its response is the branch of its error and of those before it. -/
theorem eventWriter : Obligations.EventWriter := by
  unfold Obligations.EventWriter
  refine fun s hup => ⟨fun e rest hbus hfree hq => ?_, fun x e n err htxn hout => ?_⟩
  · refine ⟨_, congrArg Host.Outcome.next (if_pos hbus), eventRecordWrite_takes hfree hq, fun hon hroom => ?_, fun hoff => ?_⟩
    · obtain ⟨hevq, hbusy⟩ := eventRecordWrite_written hfree hq ⟨hon, hroom⟩
      exact ⟨by rw [hevq], hbusy⟩
    · obtain ⟨hevq, hcount⟩ := eventRecordWrite_lost hfree hq fun h => absurd (hoff.symm.trans h.1) (by decide)
      exact ⟨by rw [hevq], by rw [hevq], hcount⟩
  · refine ⟨_, congrArg Host.Outcome.next (if_pos hup), fun herr => ?_, fun herr hn => ?_, eventWriteResponse_gone htxn hout⟩
    · subst herr
      exact eventWriteResponse_good htxn hout
    · subst hn
      exact eventWriteResponse_again htxn hout herr

end Sys2Proof.Machine
end

section
/-!
SUPPORT. Table loads that start, are refused, and end (O12).
-/

namespace Sys2Proof.Machine

open Sys2Proof

set_option Elab.async false

section
variable {s : State} {v : Word} {c : Ctx} {k : Nat}

/-! ### Reads of the host (R331, R333) -/

theorem State.hostRead_traffic (s : State) (why : Purpose) (addr len : Nat) : UpToTraffic s (s.hostRead why addr len) :=
  UpToTraffic.foldl _ _ fun t _ => State.issueOne_traffic t _

/-- A request is charged to the part of the accounts that is not a register; the loads stand. -/
theorem State.accEnergy_load (s : State) (c : Ctx) (fj : Nat) : (s.accEnergy c fj).work.load = s.work.load := by
  unfold State.accEnergy State.addPair State.wr2
  simp only [State.wr_work]

theorem State.issueOne_load (s : State) (r : HostReq) : (s.issueOne r).work.load = s.work.load := by
  unfold State.issueOne
  extract_lets sl
  split
  · split
    · rfl
    · next tag _ _ =>
      rw [State.emit_work]
      unfold State.accIssue
      split
      · unfold State.accHost
        rw [State.accEnergy_load]
        unfold State.addPair State.wr2
        simp only [State.wr_work]
      · rfl
  · rfl

theorem State.hostRead_load (s : State) (why : Purpose) (addr len : Nat) : (s.hostRead why addr len).work.load = s.work.load :=
  foldl_keeps (P := fun t : State => t.work.load = s.work.load) _ rfl fun t _ ht => (t.issueOne_load _).trans ht

/-! ### The write of `RTE_LOAD_CTRL` (R102, R127) -/

theorem execLoad_eq {i : Instr} (hup : s.busUp 0 = true)
    (hi : (i = .loadHomeTable v ∧ k = 0) ∨ (i = .loadLayerEntries v ∧ k = 1) ∨ (i = .loadRouterRows v ∧ k = 2) ∨
      (i = .copyActiveSet v ∧ k = 3)) (hgo : RTE_LOAD_CTRL.GO.get v = 1) (hk : RTE_LOAD_CTRL.KIND.get v = k) :
    exec i s = .next (loadCtrlWrite v s) := by
  obtain ⟨rfl, rfl⟩ | ⟨rfl, rfl⟩ | ⟨rfl, rfl⟩ | ⟨rfl, rfl⟩ := hi
  all_goals exact congrArg Host.Outcome.next ((if_pos hup).trans (if_pos ⟨hgo, hk⟩))

theorem loadStatus_ne_setStatus (c : Ctx) : RTE_LOAD_STATUS.reg ≠ RTE_SET_STATUS.reg c := by
  unfold RTE_LOAD_STATUS.reg RTE_SET_STATUS.reg
  omega

theorem loadCtrl_ne_setStatus (c : Ctx) : RTE_LOAD_CTRL.reg ≠ RTE_SET_STATUS.reg c := by
  unfold RTE_LOAD_CTRL.reg RTE_SET_STATUS.reg
  omega

theorem setStatus_ne_lost (c : Ctx) : RTE_SET_STATUS.reg c ≠ RNG_EQ_LOST.reg := by
  unfold RTE_SET_STATUS.reg RNG_EQ_LOST.reg
  omega

theorem setStatus_not_accounting (c : Ctx) : accounting (RTE_SET_STATUS.reg c) = false := by
  have hc := c.isLt
  exact accounting_outside (.inl (by unfold RTE_SET_STATUS.reg; omega))

/-- The load that a write asks for (R127). -/
def State.loadAsked (s : State) (v : Word) (c : Ctx) (k : Nat) : TableLoad where
  ctx := c
  kind := k
  dest := if k = 2 then s.rd RTE_LOAD_ARG.DEST * 65536 else if k = 1 then 64 * RTE_LOAD_CTRL.LAYER.get v else 0
  len := loadBytes k (s.rd RTE_LOAD_ARG.LEN)
  got := []
  err := 0

/-- Why the load that a write asks for is refused; 0 when it starts. -/
def State.askedRefusal (s : State) (v : Word) (c : Ctx) (k : Nat) : Nat :=
  s.loadRefusal c k (RTE_LOAD_CTRL.LAYER.get v) (s.rd RTE_LOAD_ARG.LEN) (s.rd RTE_LOAD_ARG.DEST)

/-- The state with a load under way that has read nothing. -/
def State.loadBegun (s : State) (l : TableLoad) : State :=
  let s1 : State := (((s.wr RTE_LOAD_CTRL.GO 1).wr RTE_LOAD_STATUS.BUSY 1).wr RTE_LOAD_STATUS.ERR 0).wr (RTE_SET_STATUS.SHADOW l.ctx) 1
  { s1 with work := { s1.work with load := some l } }

theorem State.loadBegun_rd (s : State) (l : TableLoad) :
    (s.loadBegun l).rd RTE_LOAD_STATUS.BUSY = 1 ∧ (s.loadBegun l).rd (RTE_SET_STATUS.SHADOW l.ctx) = 1 := by
  unfold State.loadBegun
  extract_lets s1
  have hbusy : s1.rd RTE_LOAD_STATUS.BUSY = 1 := by
    dsimp only [s1]
    rw [State.wr_rd_ne _ _ _ _ (loadStatus_ne_setStatus l.ctx), State.wr_rd_other _ RTE_LOAD_STATUS.ERR RTE_LOAD_STATUS.BUSY _ rfl (by decide)
      (by decide), State.wr_rd _ _ _ (by decide)]
    rfl
  exact ⟨hbusy, State.wr_rd _ _ _ (Nat.le_of_ble_eq_true rfl)⟩

/-- A write with GO, by the refusal of the load it asks for. -/
theorem loadCtrlWrite_go (hgo : RTE_LOAD_CTRL.GO.get v = 1) (hk : RTE_LOAD_CTRL.KIND.get v = k) (hc : RTE_LOAD_CTRL.CTX.get v = c.val) :
    loadCtrlWrite v s =
      let s1 : State := s.store RTE_LOAD_CTRL.reg (RTE_LOAD_CTRL.GO.put v 0)
      let base := s.rd2 RTE_LOAD_SRC_LO.ADDR RTE_LOAD_SRC_HI.ADDR * 64
      if s.askedRefusal v c k ≠ 0 then
        if s.rd RTE_LOAD_STATUS.BUSY == 1 then s1.loadError c k (s.askedRefusal v c k)
        else (s1.loadError c k (s.askedRefusal v c k)).wr RTE_LOAD_STATUS.DONE 1
      else if (s.loadAsked v c k).len = 0 then s1.loadBegun (s.loadAsked v c k)
      else (s1.loadBegun (s.loadAsked v c k)).hostRead (.table base) base (s.loadAsked v c k).len := by
  have hctx : (⟨RTE_LOAD_CTRL.CTX.get v % 16, Nat.mod_lt _ (by decide)⟩ : Ctx) = c := Fin.ext (by rw [hc]; exact Nat.mod_eq_of_lt c.isLt)
  unfold loadCtrlWrite
  rw [if_neg (by omega), hctx, hk]
  rfl

theorem loadCtrlWrite_loading (hgo : RTE_LOAD_CTRL.GO.get v = 1) (hk : RTE_LOAD_CTRL.KIND.get v = k)
    (hc : RTE_LOAD_CTRL.CTX.get v = c.val) (hok : s.askedRefusal v c k = 0) :
    (loadCtrlWrite v s).rd RTE_LOAD_STATUS.BUSY = 1 ∧ (loadCtrlWrite v s).rd (RTE_SET_STATUS.SHADOW c) = 1 ∧
      (loadBytes k (s.rd RTE_LOAD_ARG.LEN) ≠ 0 → (loadCtrlWrite v s).busyFor Purpose.isTable = true) ∧
      (loadCtrlWrite v s).work.load = some (s.loadAsked v c k) := by
  rw [loadCtrlWrite_go hgo hk hc, if_neg fun h => h hok]
  generalize (s.rd2 RTE_LOAD_SRC_LO.ADDR RTE_LOAD_SRC_HI.ADDR * 64) = base
  generalize hs1 : (s.store RTE_LOAD_CTRL.reg (RTE_LOAD_CTRL.GO.put v 0)).loadBegun (s.loadAsked v c k) = s1
  obtain ⟨hbusy, hshadow⟩ : s1.rd RTE_LOAD_STATUS.BUSY = 1 ∧ s1.rd (RTE_SET_STATUS.SHADOW c) = 1 := hs1 ▸ State.loadBegun_rd _ (s.loadAsked v c k)
  have hload : s1.work.load = some (s.loadAsked v c k) := hs1 ▸ rfl
  split
  · next hn => exact ⟨hbusy, hshadow, fun h => absurd hn h, hload⟩
  · next hn =>
    have ht := s1.hostRead_traffic (.table base) base (loadBytes k (s.rd RTE_LOAD_ARG.LEN))
    refine ⟨?_, ?_, fun _ => State.hostRead_busyFor _ _ rfl (Nat.pos_of_ne_zero hn), (State.hostRead_load ..).trans hload⟩
    · exact (ht.rd _ (by decide) (by decide)).trans hbusy
    · exact (ht.rd _ (setStatus_ne_lost c) (setStatus_not_accounting c)).trans hshadow

theorem State.loadError_reports (s : State) (c : Ctx) (kind err : Nat) : Reports s 0x0401 (s.loadError c kind err) :=
  (State.raise_reports (s.wr RTE_LOAD_STATUS.ERR err) 0x0401 2 [c.val, kind, err] none 0 0).of_same (s.wr_hubUp _ _).symm
    (congrArg EventQueue.waiting (s.wr_evq _ _).symm)

theorem State.loadError_work (s : State) (c : Ctx) (kind err : Nat) : (s.loadError c kind err).work = s.work := by
  obtain ⟨_, _, _, _, he⟩ := State.raise_eq (s.wr RTE_LOAD_STATUS.ERR err) 0x0401 2 [c.val, kind, err] none 0 0
  unfold State.loadError
  rw [he, ← s.wr_work RTE_LOAD_STATUS.ERR err]

theorem State.loadError_rd_ne (s : State) (c : Ctx) (kind err : Nat) {f : Fld} (h : f.off ≠ RTE_LOAD_STATUS.reg) (hl : f.off ≠ RNG_EQ_LOST.reg) :
    (s.loadError c kind err).rd f = s.rd f := (State.raise_rd _ _ _ _ _ _ _ _ hl).trans (State.wr_rd_ne _ _ _ _ h)

theorem State.loadError_busy (s : State) (c : Ctx) (kind err : Nat) :
    (s.loadError c kind err).rd RTE_LOAD_STATUS.BUSY = s.rd RTE_LOAD_STATUS.BUSY :=
  (State.raise_rd _ _ _ _ _ _ _ _ (by decide)).trans (State.wr_rd_other _ _ _ _ rfl (by decide) (by decide))

theorem loadCtrlWrite_refused (hgo : RTE_LOAD_CTRL.GO.get v = 1) (hk : RTE_LOAD_CTRL.KIND.get v = k)
    (hc : RTE_LOAD_CTRL.CTX.get v = c.val) (hbad : s.askedRefusal v c k ≠ 0) :
    Reports s 0x0401 (loadCtrlWrite v s) ∧ (loadCtrlWrite v s).work.load = s.work.load := by
  rw [loadCtrlWrite_go hgo hk hc, if_pos hbad]
  obtain ⟨_, _, _, hstore, -⟩ := s.store_eq (RTE_LOAD_CTRL.GO.put v 0) (off := RTE_LOAD_CTRL.reg) (by decide)
  generalize hs1 : s.store RTE_LOAD_CTRL.reg (RTE_LOAD_CTRL.GO.put v 0) = s1 at *
  have hr : Reports s 0x0401 (s1.loadError c k (s.askedRefusal v c k)) := (s1.loadError_reports _ _ _).of_same (by rw [hstore]; rfl) (by rw [hstore])
  have hw : (s1.loadError c k (s.askedRefusal v c k)).work.load = s.work.load := by rw [State.loadError_work, hstore]
  split
  · exact ⟨hr, hw⟩
  · exact ⟨hr.later ⟨[], by rw [State.wr_evq, List.append_nil]⟩, by rw [State.wr_work, hw]⟩

/-! ### Effects that wait for the mirror (R399) -/

/-- An effect happens at once, or waits among the effects. -/
theorem State.hold_eq (s : State) (e : HeldEffect) (now : State → State) :
    s.hold e now = now s ∨ ∃ l, s.hold e now = { s with mch := { s.mch with effects := l } } := by
  unfold State.hold
  split
  case h_1 | h_2 =>
    split
    · exact .inl rfl
    · exact .inr ⟨_, rfl⟩
  case h_3 | h_4 => exact .inl rfl

theorem State.hold_out (e : HeldEffect) (now : State → State) (h : s.mch.mstate = .out) : s.hold e now = now s := by
  unfold State.hold
  rw [h]

/-! ### LOAD_END (R102, R127) -/

section
variable {l : TableLoad}

/-- The state without a load, its bytes in place or its reads dropped. -/
def State.loadShut (s : State) (l : TableLoad) : State :=
  let s0 : State := if l.kind = 3 ∧ l.err = 0 then
      s.writeTable (tblBase l.ctx (1 - s.activeBank l.ctx)) (mread tblDefault s.act.table (tblBase l.ctx (s.activeBank l.ctx)) 98304)
    else s.dropReads Purpose.isTable
  let s1 : State := ((s0.wr RTE_LOAD_CTRL.GO 0).wr RTE_LOAD_STATUS.BUSY 0).wr (RTE_SET_STATUS.SHADOW l.ctx) 0
  { s1 with work := { s1.work with load := none } }

/-- A load that has ended, and its error reported. -/
def State.loadOver (s : State) (l : TableLoad) : State :=
  if l.err = 0 then s.loadShut l else (s.loadShut l).loadError l.ctx l.kind l.err

theorem loadEnd_eq (hload : s.work.load = some l) (hend : l.err ≠ 0 ∨ l.len ≤ gotBytes l.got) :
    loadEnd s = (s.loadOver l).hold .loadDone fun s => s.wr RTE_LOAD_STATUS.DONE 1 := by
  unfold loadEnd
  rw [hload]
  dsimp only
  rw [if_neg (by omega)]
  rfl

theorem State.loadShut_rd (s : State) (l : TableLoad) : (s.loadShut l).rd RTE_LOAD_CTRL.GO = 0 ∧
    (s.loadShut l).rd RTE_LOAD_STATUS.BUSY = 0 ∧ (s.loadShut l).rd (RTE_SET_STATUS.SHADOW l.ctx) = 0 := by
  unfold State.loadShut
  extract_lets s0 s1
  have hgo : s1.rd RTE_LOAD_CTRL.GO = 0 := by
    dsimp only [s1]
    rw [State.wr_rd_ne _ _ _ _ (loadCtrl_ne_setStatus l.ctx), State.wr_rd_ne _ _ _ _ (by decide), State.wr_rd _ _ _ (by decide), Nat.zero_mod]
  have hbusy : s1.rd RTE_LOAD_STATUS.BUSY = 0 := by
    dsimp only [s1]
    rw [State.wr_rd_ne _ _ _ _ (loadStatus_ne_setStatus l.ctx), State.wr_rd _ _ _ (by decide), Nat.zero_mod]
  exact ⟨hgo, hbusy, State.wr_rd _ _ _ (Nat.le_of_ble_eq_true rfl)⟩

theorem State.loadOver_rd (s : State) (l : TableLoad) : (s.loadOver l).rd RTE_LOAD_CTRL.GO = 0 ∧
    (s.loadOver l).rd RTE_LOAD_STATUS.BUSY = 0 ∧ (s.loadOver l).rd (RTE_SET_STATUS.SHADOW l.ctx) = 0 := by
  obtain ⟨hgo, hbusy, hshadow⟩ := s.loadShut_rd l
  unfold State.loadOver
  split
  · exact ⟨hgo, hbusy, hshadow⟩
  · exact ⟨(State.loadError_rd_ne _ _ _ _ (by decide) (by decide)).trans hgo, (State.loadError_busy _ _ _ _).trans hbusy,
      (State.loadError_rd_ne _ _ _ _ (loadStatus_ne_setStatus l.ctx).symm (setStatus_ne_lost l.ctx)).trans hshadow⟩

theorem State.loadOver_load (s : State) (l : TableLoad) : (s.loadOver l).work.load = none := by
  unfold State.loadOver
  split
  · rfl
  · rw [State.loadError_work]
    rfl

theorem State.writeTable_quiet (s : State) (a : Nat) (bs : List Byte) :
    (s.writeTable a bs).hubUp = s.hubUp ∧ (s.writeTable a bs).evq = s.evq := ⟨rfl, rfl⟩

theorem State.loadShut_quiet (s : State) (l : TableLoad) : (s.loadShut l).hubUp = s.hubUp ∧ (s.loadShut l).evq = s.evq := by
  unfold State.loadShut
  extract_lets s0 s1
  have h0 : s0.hubUp = s.hubUp ∧ s0.evq = s.evq := by
    dsimp only [s0]
    split
    · exact State.writeTable_quiet _ _ _
    · exact ⟨rfl, rfl⟩
  have hup : s1.hubUp = s0.hubUp := by simp only [s1, State.wr_hubUp]
  have hevq : s1.evq = s0.evq := by simp only [s1, State.wr_evq]
  exact ⟨hup.trans h0.1, hevq.trans h0.2⟩

theorem State.loadOver_reports (s : State) (herr : l.err ≠ 0) : Reports s 0x0401 (s.loadOver l) := by
  obtain ⟨hup, hevq⟩ := s.loadShut_quiet l
  unfold State.loadOver
  rw [if_neg herr]
  exact (State.loadError_reports _ _ _ _).of_same hup.symm (congrArg EventQueue.waiting hevq.symm)

theorem State.loadOver_onward (s : State) (l : TableLoad) : Onward s (s.loadOver l) := by
  have h1 : Kept (Onward s) (s.loadShut l) := by
    unfold State.loadShut
    extract_lets s0 s1
    have h0 : Kept (Onward s) s0 := .ite (Onward.kept s).writeTable (Onward.kept s).dropReads
    exact h0.wr.wr.wr.upd
  exact (Kept.ite h1 h1.loadError).holds

theorem loadEnd_open (hload : s.work.load = some l) (hend : l.err ≠ 0 ∨ l.len ≤ gotBytes l.got) :
    (loadEnd s).work.load = none ∧ (loadEnd s).rd RTE_LOAD_CTRL.GO = 0 ∧ (loadEnd s).rd RTE_LOAD_STATUS.BUSY = 0 ∧
      (loadEnd s).rd (RTE_SET_STATUS.SHADOW l.ctx) = 0 ∧ (l.err ≠ 0 → Reports s 0x0401 (loadEnd s)) := by
  rw [loadEnd_eq hload hend]
  obtain ⟨hgo, hbusy, hshadow⟩ := s.loadOver_rd l
  have hnone := s.loadOver_load l
  have hreports := s.loadOver_reports (l := l)
  generalize s.loadOver l = t at *
  obtain hnow | ⟨_, hwait⟩ := t.hold_eq .loadDone fun s => s.wr RTE_LOAD_STATUS.DONE 1
  · rw [hnow]
    refine ⟨?_, ?_, ?_, ?_, fun herr => ?_⟩
    · rw [State.wr_work, hnone]
    · rw [State.wr_rd_ne _ _ _ _ (by decide), hgo]
    · rw [State.wr_rd_other _ RTE_LOAD_STATUS.DONE RTE_LOAD_STATUS.BUSY _ rfl (by decide) (by decide), hbusy]
    · rw [State.wr_rd_ne _ _ _ _ (loadStatus_ne_setStatus l.ctx).symm, hshadow]
    · exact (hreports herr).later ⟨[], by rw [State.wr_evq, List.append_nil]⟩
  · rw [hwait]
    exact ⟨hnone, hgo, hbusy, hshadow, hreports⟩

theorem loadEnd_done (hload : s.work.load = some l) (hend : l.err ≠ 0 ∨ l.len ≤ gotBytes l.got) (hm : s.mch.mstate = .out) :
    (loadEnd s).rd RTE_LOAD_STATUS.DONE = 1 := by
  rw [loadEnd_eq hload hend, State.hold_out _ _ ((s.loadOver_onward l).mstate.trans hm)]
  exact State.wr_rd _ _ _ (by decide)

end

end

/-- Settles O12: a write that starts a load asks for its bytes, and a refusal is an event; the end writes the status words. -/
theorem tableLoads : Obligations.TableLoads := by
  unfold Obligations.TableLoads
  refine ⟨fun s v i k c hup hi hgo hk hc => ⟨fun hok => ?_, fun hbad => ?_⟩, fun s l hup hload hend => ?_⟩
  · obtain ⟨hbusy, hshadow, hreads, hload⟩ := loadCtrlWrite_loading hgo hk hc hok
    exact ⟨_, execLoad_eq hup hi hgo hk, hbusy, hshadow, hreads, _, hload, rfl, rfl, rfl⟩
  · exact ⟨_, execLoad_eq hup hi hgo hk, loadCtrlWrite_refused hgo hk hc hbad⟩
  · obtain ⟨hnone, hgo, hbusy, hshadow, hreport⟩ := loadEnd_open hload hend
    exact ⟨_, congrArg Host.Outcome.next (if_pos hup), hnone, hgo, hbusy, hshadow, hreport, loadEnd_done hload hend⟩

end Sys2Proof.Machine
end

section
/-!
SUPPORT. What the front of a Hub leaves: the noise source, the registers that it does not count in, and the live steps of the contexts.
-/

namespace Sys2Proof.Machine

open Sys2Proof

set_option Elab.async false

/-! ### The relation -/

/-- The registers that Intake, Score and Select count in, and those of words in error (R382, R408). -/
def frontRegs : List Nat :=
  [RAS_COR_CNT.reg, RAS_UNC_CNT.reg, RAS_ADDRMIS_CNT.reg, RAS_UE_ADDR_LO.reg, RAS_UE_ADDR_HI.reg, RAS_IRQ_STATUS.reg, RTE_NAN_CNT.reg,
    SFU_SAT_CNT.reg, NSE_DRAW_LO.reg, NSE_DRAW_HI.reg, CTX_SWITCH_CNT.reg, CTX_SWITCH_MAX.reg]

/-- `t` has the registers beside `frontRegs`, the counter of lost records and the accounting counters as `s` has them, its seeding, and a live
step in the same contexts. -/
structure FrontFrame (s t : State) : Prop where
  regs : Untouched frontRegs s t
  seeding : t.act.seeding = s.act.seeding
  live : ∀ c, (t.liveStep c).isSome = (s.liveStep c).isSome

variable {base s t : State}

theorem FrontFrame.refl (s : State) : FrontFrame s s := ⟨.refl s, rfl, fun _ => rfl⟩

theorem FrontFrame.trans {u : State} (h : FrontFrame s t) (h' : FrontFrame t u) : FrontFrame s u :=
  ⟨h.regs.trans h'.regs, h'.seeding.trans h.seeding, fun c => (h'.live c).trans (h.live c)⟩

/-- A change of registers that leaves the seeding and the control core's memory. -/
theorem FrontFrame.of_regs (h : FrontFrame base s) (hr : Untouched frontRegs s t) (hs : t.act.seeding = s.act.seeding)
    (hc : t.act.core = s.act.core) : FrontFrame base t :=
  h.trans ⟨hr, hs, fun c => by unfold State.liveStep State.steps; rw [hc]⟩

/-- An update of what lies beside the registers and the Hubs. -/
theorem FrontFrame.upd {out free mch tick evq evr host ports landed routeWait wells work cist corrected} (h : FrontFrame base s) :
    FrontFrame base { s with
      out := out, free := free, mch := mch, tick := tick, evq := evq, evr := evr, host := host, ports := ports, landed := landed
      routeWait := routeWait, wells := wells, work := work, cist := cist, corrected := corrected } :=
  h.of_regs (.of_word fun _ => rfl) rfl rfl

theorem FrontFrame.ite {c : Prop} [Decidable c] (ht : FrontFrame base t) (hs : FrontFrame base s) : FrontFrame base (if c then t else s) := by
  split
  · exact ht
  · exact hs

theorem FrontFrame.fst {α : Type} {x : State × α} {a : α} (h : FrontFrame base x.1) (he : x = (t, a)) : FrontFrame base t := by
  rw [he] at h
  exact h

theorem FrontFrame.foldl {β : Type} {f : State → β → State} {l : List β} (h : FrontFrame base s)
    (hf : ∀ {t : State}, FrontFrame base t → ∀ x, FrontFrame base (f t x)) : FrontFrame base (l.foldl f s) :=
  foldl_keeps (P := FrontFrame base) l h fun _ x ht => hf ht x

/-! ### Registers, events and packets -/

theorem FrontFrame.wr {f v} (h : FrontFrame base s) (hf : f.off ∈ frontRegs) : FrontFrame base (s.wr f v) :=
  h.of_regs ((Untouched.refl s).wr v hf) (State.wr_act_seeding s f v) (State.wr_act_core s f v)

theorem FrontFrame.bumpBy {f n} (h : FrontFrame base s) (hf : f.off ∈ frontRegs) : FrontFrame base (s.bumpBy f n) := h.wr hf

theorem FrontFrame.bump {f} (h : FrontFrame base s) (hf : f.off ∈ frontRegs) : FrontFrame base (s.bump f) := h.bumpBy hf

theorem FrontFrame.emit {e} (h : FrontFrame base s) : FrontFrame base (s.emit e) := h.upd

theorem FrontFrame.rasIrq {f} (h : FrontFrame base s) (hf : f.off ∈ frontRegs) : FrontFrame base (s.rasIrq f) :=
  .ite (.ite (h.wr hf).emit (h.wr hf)) h

theorem FrontFrame.raiseEv {e} (h : FrontFrame base s) : FrontFrame base (s.raiseEv e) := by
  have hr : Untouched frontRegs s (s.raiseEv e) := (Untouched.refl s).traffic (s.raiseEv_traffic e)
  obtain ⟨_, _, _, _, he⟩ := State.raiseEv_eq s e
  exact h.of_regs hr (by rw [he]) (by rw [he])

theorem FrontFrame.raise {code sev data c seq addr} (h : FrontFrame base s) : FrontFrame base (s.raise code sev data c seq addr) := h.raiseEv

/-- A counter pair of the accounts. -/
theorem FrontFrame.addPair {lo hi n} (h : FrontFrame base s) (hlo : accounting lo.off = true) (hhi : accounting hi.off = true) :
    FrontFrame base (s.addPair lo hi n) := by
  refine h.of_regs ((Untouched.refl s).traffic (s.addPair_traffic lo hi n hlo hhi)) ?_ ?_
  · exact (State.wr_act_seeding _ _ _).trans (State.wr_act_seeding _ _ _)
  · exact (State.wr_act_core _ _ _).trans (State.wr_act_core _ _ _)

theorem FrontFrame.accCyc {c n} (h : FrontFrame base s) : FrontFrame base (s.accCyc c n) :=
  h.addPair (accounting_at c (k := 0x28) (by decide) (by decide)) (accounting_at c (k := 0x2C) (by decide) (by decide))

theorem FrontFrame.accEnergy {c fj} (h : FrontFrame base s) : FrontFrame base (s.accEnergy c fj) :=
  h.upd.addPair (accounting_at c (k := 0x48) (by decide) (by decide)) (accounting_at c (k := 0x4C) (by decide) (by decide))

theorem FrontFrame.accMacs {c n} (h : FrontFrame base s) : FrontFrame base (s.accMacs c n) := h.accEnergy

theorem FrontFrame.modWell {w f} (h : FrontFrame base s) : FrontFrame base (s.modWell w f) := h.upd

theorem FrontFrame.hostWrite {why addr bytes} (h : FrontFrame base s) : FrontFrame base (s.hostWrite why addr bytes) := by
  have hr : Untouched frontRegs s (s.hostWrite why addr bytes) := (Untouched.refl s).traffic (s.hostWrite_traffic why addr bytes)
  obtain ⟨_, _, _, _, _, _, he⟩ := State.hostWrite_eq s why addr bytes
  exact h.of_regs hr (by rw [he]) (by rw [he])

theorem FrontFrame.noticeLive {c cause detail} (h : FrontFrame base s) : FrontFrame base (s.noticeLive c cause detail) := by
  have hr : Untouched frontRegs s (s.noticeLive c cause detail) := (Untouched.refl s).traffic (s.noticeLive_traffic c cause detail)
  unfold State.noticeLive at *
  split
  · next st hst =>
    rw [hst] at hr
    obtain ⟨_, _, _, _, _, _, _, _, he⟩ := State.sendAbort_eq s c st.seq st.replays cause detail
    exact h.of_regs hr (by rw [he]) (by rw [he])
  · exact h

theorem FrontFrame.sendWell {w pkt release} (h : FrontFrame base s) : FrontFrame base (s.sendWell w pkt release) := by
  obtain ⟨_, _, _, _, he⟩ := State.sendWell_eq s w pkt release
  rw [he]
  exact h.upd

theorem FrontFrame.sendMaster {ptype c seq att w1} (h : FrontFrame base s) : FrontFrame base (s.sendMaster ptype c seq att w1) := by
  have hr : Untouched frontRegs s (s.sendMaster ptype c seq att w1) := (Untouched.refl s).traffic (s.sendMaster_traffic ptype c seq att w1)
  obtain ⟨_, _, _, _, _, _, _, _, _, _, _, he⟩ := State.sendMaster_eq s ptype c seq att w1
  exact h.of_regs hr (by rw [he]) (by rw [he])

/-! ### Steps -/

theorem State.modStep_steps_ne (s : State) {c d : Ctx} (p : Step → Bool) (f : Step → Step) (h : d ≠ c) : (s.modStep c p f).steps d = s.steps d :=
  Vector.getElem_set_ne c.isLt d.isLt (Fin.val_ne_of_ne h.symm)

/-- A change of steps that leaves each live or not leaves the contexts with a live step. -/
theorem State.modStep_live (s : State) (c : Ctx) (p : Step → Bool) {f : Step → Step} (hf : ∀ x, (f x).live = x.live) (d : Ctx) :
    ((s.modStep c p f).liveStep d).isSome = (s.liveStep d).isSome := by
  by_cases hd : d = c
  · subst hd
    have hlive : ∀ x : Step, (if p x then f x else x).live = x.live := fun x => by
      split
      · exact hf x
      · rfl
    unfold State.liveStep
    rw [State.modStep_steps, List.find?_map, Option.isSome_map, show Step.live ∘ _ = Step.live from funext hlive]
  · unfold State.liveStep
    rw [State.modStep_steps_ne s p f hd]

theorem FrontFrame.progress {c} (h : FrontFrame base s) : FrontFrame base (s.progress c) := by
  unfold State.progress
  split
  · refine .ite h (.sendMaster (h.trans ⟨.of_word fun _ => rfl, rfl, State.modStep_live s c _ fun _ => rfl⟩))
  · exact h

/-! ### Words in error -/

theorem FrontFrame.correctedWord {part} (h : FrontFrame base s) : FrontFrame base (s.correctedWord part) := by
  unfold State.correctedWord
  extract_lets _ _ s1 s2
  have h1 : FrontFrame base s1 := h.bump (by decide)
  exact .ite h1.upd.raise h1.upd

theorem FrontFrame.countFixed {w a n} (h : FrontFrame base s) : FrontFrame base (s.countFixed w a n) := .foldl h fun ht _ => ht.correctedWord

theorem FrontFrame.accDram {w c a rdB wrB} (h : FrontFrame base s) : FrontFrame base (s.accDram w c a rdB wrB) :=
  .accEnergy (h.modWell.addPair (accounting_at c (k := 0x38) (by decide) (by decide)) (accounting_at c (k := 0x3C) (by decide) (by decide)))

theorem FrontFrame.writeDram {w c a bs} (h : FrontFrame base s) : FrontFrame base (s.writeDram w c a bs) := h.modWell.accDram

theorem FrontFrame.uncor {part mem addr mis} (h : FrontFrame base s) : FrontFrame base (s.uncor part mem addr mis) := by
  unfold State.uncor
  extract_lets s1 s2 s3
  have h1 : FrontFrame base s1 := h.bump (by decide)
  have h2 : FrontFrame base s2 := .ite (h1.bump (by decide)) h1
  have h3 : FrontFrame base s3 := (((h2.wr (by decide)).wr (by decide)).wr (by decide)).wr (by decide)
  exact h3.rasIrq (by decide)

theorem FrontFrame.uncorEvent {mem addr mis fixed c seq} (h : FrontFrame base s) : FrontFrame base (s.uncorEvent mem addr mis fixed c seq) := h.raise

theorem FrontFrame.uncorLive {part mem addr mis c} (h : FrontFrame base s) : FrontFrame base (s.uncorLive part mem addr mis c) := by
  unfold State.uncorLive
  split
  · exact h.uncor.uncorEvent.noticeLive
  · exact h.uncor.uncorEvent

theorem FrontFrame.voidLedger {c p} (h : FrontFrame base s) : FrontFrame base (s.voidLedger c p) :=
  .ite (h.trans ⟨.of_word fun _ => rfl, rfl, fun _ => rfl⟩) h

theorem FrontFrame.modLog {w c f} (h : FrontFrame base s) : FrontFrame base (s.modLog w c f) := h.upd

theorem FrontFrame.voidAt {w a} (h : FrontFrame base s) : FrontFrame base (s.voidAt w a) := .foldl h fun ht _ => by
    extract_lets _ _ _ _ _ s1
    have h1 : FrontFrame base s1 := ht.voidLedger
    exact .ite h1 h1.modLog

theorem FrontFrame.touch {w a n c} (h : FrontFrame base s) : FrontFrame base (s.touch w a n c).1 := by
  unfold State.touch
  cases s.badIn w a n with
  | none => exact h.countFixed
  | some x =>
    dsimp only
    exact h.countFixed.uncorLive.voidAt

theorem FrontFrame.lineBad {side space addr} (h : FrontFrame base s) : FrontFrame base (s.lineBad side space addr) :=
  .ite (.ite h h.upd.emit) h

theorem FrontFrame.touchSram {space a n c} (h : FrontFrame base s) : FrontFrame base (s.touchSram space a n c).1 := by
  unfold State.touchSram
  extract_lets s1
  have h1 : FrontFrame base s1 := .foldl h fun ht _ => ht.correctedWord
  split
  · exact h1
  · extract_lets _ _ s2 s3
    have h2 : FrontFrame base s2 := h1.uncor.uncorEvent
    have h3 : FrontFrame base s3 := .ite h2.noticeLive h2
    exact h3.lineBad

/-! ### Selection (R106-R122) -/

theorem FrontFrame.modAtt {c f} (h : FrontFrame base s) : FrontFrame base (s.modAtt c f) := h.upd

theorem FrontFrame.modTok {c t f} (h : FrontFrame base s) : FrontFrame base (s.modTok c t f) := h.upd

theorem FrontFrame.satHub {n} (h : FrontFrame base s) : FrontFrame base (s.satHub n) := .ite h (h.bumpBy (by decide))

theorem FrontFrame.nanTok {c nan} (h : FrontFrame base s) : FrontFrame base (s.nanTok c nan) := .ite (h.bump (by decide)).modAtt h

theorem FrontFrame.tokenVec {c st tk} (h : FrontFrame base s) : FrontFrame base (s.tokenVec c st tk).1 := by
  unfold State.tokenVec
  dsimp only
  split
  · exact h.upd
  · exact h

/-- A round of draws advances the lanes. -/
theorem FrontFrame.drawRound (h : FrontFrame base s) : FrontFrame base s.drawRound.1 := h.of_regs (.of_word fun _ => rfl) rfl rfl

theorem FrontFrame.drawNoise {n} (h : FrontFrame base s) : FrontFrame base (s.drawNoise n).1 := by
  unfold State.drawNoise
  dsimp only
  refine .wr (.wr ?_ (by decide)) (by decide)
  exact foldl_keeps (P := fun a : State × List Word => FrontFrame base a.1) _ h fun _ _ ha => ha.drawRound

theorem FrontFrame.noiseOf {c st tk n} (h : FrontFrame base s) : FrontFrame base (s.noiseOf c st tk n).1 := by
  unfold State.noiseOf
  split
  · split_ifs
    · exact h.modAtt
    · exact h.drawNoise
  · exact h
  · exact h

theorem FrontFrame.selectForward {c st tk zs} (h : FrontFrame base s) : FrontFrame base (s.selectForward c st tk zs) :=
  h.noiseOf.satHub.nanTok.modTok

theorem FrontFrame.selectSample {c st tk zs} (h : FrontFrame base s) : FrontFrame base (s.selectSample c st tk zs) :=
  h.noiseOf.satHub.nanTok.hostWrite.modTok.progress

theorem FrontFrame.selectReady {c} (h : FrontFrame base s) : FrontFrame base (s.selectReady c) := by
  unfold State.selectReady
  split
  · refine .ite h (.foldl h fun ht _ => .ite ht ?_)
    split
    · exact ht
    · exact .ite ht.selectSample ht.selectForward
  · exact h

/-! ### The scoring array (R282-R286) -/

theorem FrontFrame.spillOut {a bytes} (h : FrontFrame base s) : FrontFrame base (s.spillOut a bytes) :=
  .ite h (.upd (.foldl h fun ht _ => ht.upd.writeDram))

theorem FrontFrame.spillIn {c} (h : FrontFrame base s) : FrontFrame base (s.spillIn c) := by
  unfold State.spillIn
  split
  · exact h
  · exact .foldl h.upd fun ht _ => ht.touch.accDram

theorem FrontFrame.scoreSwitch {c} (h : FrontFrame base s) : FrontFrame base (s.scoreSwitch c) := by
  unfold State.scoreSwitch
  split
  · exact h.upd
  · exact .ite h ((h.bumpBy (by decide)).wr (by decide)).accCyc.spillOut.upd.spillIn

theorem FrontFrame.scoreTok {c st tk} (h : FrontFrame base s) : FrontFrame base (s.scoreTok c st tk) := by
  unfold State.scoreTok
  dsimp only
  split
  · next he => exact (h.touchSram.fst he).modTok
  · next he => exact (h.touchSram.fst he).tokenVec.modTok.accCyc.accMacs.upd

theorem FrontFrame.scoreLost (h : FrontFrame base s) : FrontFrame base s.scoreLost := .foldl h fun ht _ => ht.noticeLive

theorem FrontFrame.scorePump {n} (h : FrontFrame base s) : FrontFrame base (State.scorePump n s) := by
  induction n generalizing s with
  | zero => exact h
  | succ n ih =>
    unfold State.scorePump
    refine .ite h.scoreLost ?_
    split
    · exact h
    · dsimp only
      split
      · exact ih (.upd (.scoreTok (.scoreSwitch h.upd)))
      · exact .scoreSwitch h.upd

theorem FrontFrame.multicast {c} (h : FrontFrame base s) : FrontFrame base (s.multicast c) := by
  unfold State.multicast
  split
  · exact .ite h (.foldl h fun ht _ => .ite ht (.foldl ht.modTok.tokenVec fun ht1 _ => .ite ht1 ht1.sendWell))
  · exact h

theorem FrontFrame.front (h : FrontFrame base s) : FrontFrame base s.front :=
  .foldl (.scorePump (.foldl h fun ht _ => ht.multicast)) fun ht _ => ht.selectReady

end Sys2Proof.Machine
end

section
/-!
SUPPORT. ARM and DISARM; a reseeding, and the end of a seeding (O13).
-/

namespace Sys2Proof.Machine

open Sys2Proof

set_option Elab.async false

section
variable {s : State} {c : Ctx}

/-! ### The codes of R101 -/

theorem State.layerFault_code (s : State) (c : Ctx) (bank l : Nat) : ∀ f, s.layerFault c bank l = some f → f.1 < 16 := by
  unfold State.layerFault
  extract_lets e maxS unhomed unhomedSh badSh room
  clear_value unhomed unhomedSh badSh
  split
  · rintro _ ⟨⟩
    exact (by decide : 2 < 16)
  · cases unhomed with
    | some x =>
      rintro _ ⟨⟩
      exact (by decide : 3 < 16)
    | none => cases unhomedSh with
      | some j =>
        rintro _ ⟨⟩
        exact (by decide : 3 < 16)
      | none => cases badSh with
        | some j =>
          rintro _ ⟨⟩
          exact (by decide : 4 < 16)
        | none =>
          dsimp only
          split_ifs
          · rintro _ ⟨⟩
            exact (by decide : 5 < 16)
          · rintro _ ⟨⟩
            exact (by decide : 6 < 16)
          · nofun

theorem State.shadowFault_code (s : State) (c : Ctx) (bank : Nat) : ∀ f, s.shadowFault c bank = some f → f.1 < 16 := by
  unfold State.shadowFault
  dsimp only
  split
  · rintro _ ⟨⟩
    exact (by decide : 1 < 16)
  · split
    · rintro _ ⟨⟩
      exact (by decide : 7 < 16)
    · split
      · intro f hf
        obtain ⟨g, hg, rfl⟩ := Option.map_eq_some_iff.mp hf
        exact s.layerFault_code c bank _ g hg
      · nofun

/-- The code of a fault fits its field. -/
theorem State.armFault_code (s : State) (c : Ctx) : ∀ f, s.armFault c = some f → f.1 < 16 := by
  unfold State.armFault
  split_ifs
  · rintro _ ⟨⟩
    exact (by decide : 8 < 16)
  · rintro _ ⟨⟩
    exact (by decide : 9 < 16)
  · exact s.shadowFault_code c _

/-! ### ARM and DISARM (R101, R104) -/

theorem State.armFault_past (s : State) (h : s.swapTick c ≤ s.tickNow) : s.armFault c = some (8, 0, 0) := if_pos h

theorem State.armFault_busy (s : State) (h : s.tickNow < s.swapTick c) (hs : s.rd (RTE_SET_STATUS.SHADOW c) ≠ 0) : s.armFault c = some (9, 0, 0) :=
  (if_neg (Nat.not_le_of_lt h)).trans (if_pos hs)

theorem taken_of_arm (h : s.armFault c = none) :
    (arm c s).rd (RTE_SET_STATUS.SHADOW c) = 2 ∧ (arm c s).rd (RTE_SET_STATUS.ERR c) = 0 := by
  have he : arm c s = ((s.wr (RTE_SET_STATUS.ERR c) 0).wr (RTE_SET_STATUS.SHADOW c) 2).hold (.armed c) id := by
    rw [show @arm = _ by delta arm; rfl, h]
  have hshadow : ((s.wr (RTE_SET_STATUS.ERR c) 0).wr (RTE_SET_STATUS.SHADOW c) 2).rd (RTE_SET_STATUS.SHADOW c) = 2 :=
    State.wr_rd _ _ _ (Nat.le_of_ble_eq_true rfl)
  have herr : ((s.wr (RTE_SET_STATUS.ERR c) 0).wr (RTE_SET_STATUS.SHADOW c) 2).rd (RTE_SET_STATUS.ERR c) = 0 := by
    rw [State.wr_rd_other _ (RTE_SET_STATUS.SHADOW c) (RTE_SET_STATUS.ERR c) _ rfl (.inl (Nat.le_of_ble_eq_true rfl)) (Nat.le_of_ble_eq_true rfl),
      State.wr_rd _ _ _ (Nat.le_of_ble_eq_true rfl), Nat.zero_mod]
  rw [he]
  generalize ((s.wr (RTE_SET_STATUS.ERR c) 0).wr (RTE_SET_STATUS.SHADOW c) 2) = t at *
  obtain hnow | ⟨_, hwait⟩ := t.hold_eq (.armed c) id
  · rw [hnow]
    exact ⟨hshadow, herr⟩
  · rw [hwait]
    exact ⟨hshadow, herr⟩

/-- An ARM that is refused stores the code of its fault and leaves the shadow. -/
theorem refused_of_arm {err d1 d2 : Nat} (h : s.armFault c = some (err, d1, d2)) :
    (arm c s).rd (RTE_SET_STATUS.ERR c) = err ∧ Reports s 0x0402 (arm c s) ∧
      (arm c s).rd (RTE_SET_STATUS.SHADOW c) = s.rd (RTE_SET_STATUS.SHADOW c) := by
  have he : arm c s = (s.wr (RTE_SET_STATUS.ERR c) err).raise 0x0402 2 [err, d1, d2] c := by
    rw [show @arm = _ by delta arm; rfl, h]
  have hcode : err % 2 ^ 4 = err := Nat.mod_eq_of_lt (s.armFault_code c _ h)
  rw [he]
  refine ⟨?_, ?_, ?_⟩
  · rw [State.raise_rd _ _ _ _ _ _ _ _ (setStatus_ne_lost c), State.wr_rd _ _ _ (Nat.le_of_ble_eq_true rfl)]
    exact hcode
  · exact (State.raise_reports _ _ _ _ _ _ _).of_same (s.wr_hubUp _ _).symm (congrArg EventQueue.waiting (s.wr_evq _ _).symm)
  · rw [State.raise_rd _ _ _ _ _ _ _ _ (setStatus_ne_lost c)]
    exact State.wr_rd_other _ _ _ _ rfl (.inr (Nat.le_of_ble_eq_true rfl)) (Nat.le_of_ble_eq_true rfl)

theorem disarm_armed (h : s.rd (RTE_SET_STATUS.SHADOW c) = 2) : (disarm c s).rd (RTE_SET_STATUS.SHADOW c) = 0 := by
  unfold disarm
  rw [if_pos h, State.wr_rd _ _ _ (Nat.le_of_ble_eq_true rfl), Nat.zero_mod]

theorem disarm_other (h : s.rd (RTE_SET_STATUS.SHADOW c) ≠ 2) : disarm c s = s := if_neg h

end

/-! ### RESEED (R119, R130) -/

section
variable {s : State}

theorem findReg_nseCtrl : findReg NSE_CTRL.reg = some ⟨0x120000, [], [⟨0, 1, .rw, 0⟩, ⟨1, 1, .w1s, 0⟩]⟩ := by decide +kernel

/-- RESEED reads 1 once 1 was written. -/
theorem nseCtrl_store_reseed (s : State) {v : Word} (h : NSE_CTRL.RESEED.get v = 1) :
    (s.store NSE_CTRL.reg v).rd NSE_CTRL.RESEED = 1 := by
  unfold State.rd
  rw [show NSE_CTRL.RESEED.off = NSE_CTRL.reg from rfl, s.store_word_same v findReg_nseCtrl (by decide)]
  show NSE_CTRL.RESEED.get (NSE_CTRL.RESEED.put _ (NSE_CTRL.RESEED.get (s.word NSE_CTRL.reg) ||| NSE_CTRL.RESEED.get v)) = 1
  have hlt : NSE_CTRL.RESEED.get (s.word NSE_CTRL.reg) < 2 := Fld.get_lt _ _
  rw [Fld.get_put _ _ _ (by decide), h]
  interval_cases NSE_CTRL.RESEED.get (s.word NSE_CTRL.reg)
  · rfl
  · rfl

theorem nseCtrlWrite_reseed {v : Word} (h : NSE_CTRL.RESEED.get v = 1) :
    (nseCtrlWrite v s).rd NSE_CTRL.RESEED = 1 ∧ (nseCtrlWrite v s).act.seeding = some (NSE_CTRL.SRC.get v == 0) := by
  have he : nseCtrlWrite v s = { s.store NSE_CTRL.reg v with
      act := { (s.store NSE_CTRL.reg v).act with seeding := some (NSE_CTRL.SRC.get v == 0) } } := if_pos h
  rw [he]
  exact ⟨nseCtrl_store_reseed s h, rfl⟩

/-! ### The front without a live step -/

theorem chooseCtx_none {d : Vector Int 16} {waits : Ctx → Bool} {active : Option Ctx} {q : Ctx → Nat} (h : ∀ c, waits c = false) :
    chooseCtx d waits active q = none := by
  have hrotate : ∀ from_, rotate d waits from_ q = none := fun from_ => by
    unfold rotate
    rw [List.filter_eq_nil_iff.mpr fun c _ => by rw [h c]; decide]
  unfold chooseCtx
  split
  · rw [if_neg (by simp [h])]
    exact hrotate _
  · exact hrotate _

section
variable (hidle : s.liveCtxs = [])
include hidle

theorem State.liveStep_idle (c : Ctx) : s.liveStep c = none := by
  have hc := List.filter_eq_nil_iff.mp hidle c (List.mem_finRange c)
  exact Option.not_isSome_iff_eq_none.mp hc

theorem State.scoreWaits_idle (c : Ctx) : s.scoreWaits c = [] := by
  unfold State.scoreWaits
  rw [State.liveStep_idle hidle]

theorem State.scoreNext_idle (c : Ctx) : s.scoreNext c = none := by
  unfold State.scoreNext
  rw [State.scoreWaits_idle hidle]
  rfl

theorem State.scorePick_idle : s.scorePick = none := by
  have hwaits : ∀ c, (s.scoreNext c).isSome = false := fun c => by rw [State.scoreNext_idle hidle]; rfl
  unfold State.scorePick
  split
  · next a _ =>
    have hmid : s.scoreMid a = false := by
      unfold State.scoreMid
      rw [State.scoreWaits_idle hidle]
      rfl
    rw [if_neg (by rw [hmid]; decide), if_neg (by rw [State.liveStep_idle hidle]; simp)]
    exact chooseCtx_none hwaits
  · exact chooseCtx_none hwaits

theorem State.scorePump_idle (n : Nat) : s.scorePump n = s := by
  cases n with
  | zero => rfl
  | succ n =>
    unfold State.scorePump
    split
    · unfold State.scoreLost
      rw [List.filter_eq_nil_iff.mpr fun c _ => by rw [State.scoreNext_idle hidle]; decide]
      rfl
    · rw [State.scorePick_idle hidle]

/-- Without a live step the front has nothing to do. -/
theorem State.front_idle : s.front = s := by
  unfold State.front
  rw [hidle]
  simp only [List.foldl_nil, State.scorePump_idle hidle, hidle]

end

/-! ### SEEDING_DONE (R119) -/

/-- The state whose seeding is over. -/
def State.seedOver (s : State) : State := { s.wr NSE_CTRL.RESEED 0 with act := { (s.wr NSE_CTRL.RESEED 0).act with seeding := none } }

/-- The state with other lanes. -/
def State.withLanes (s : State) (l : List (BitVec 256)) : State := { s with act := { s.act with lanes := l } }

variable {en : List (BitVec 256)}

theorem seedingDone_good (h : s.act.seeding = some true) : seedingDone en true s =
    ((s.seedOver.withLanes (seedLanes 128 (en.headD 0))).wr NSE_STATUS.SEEDED 1).wr NSE_STATUS.HEALTH_FAIL 0 := by
  rw [show @seedingDone = _ by delta seedingDone; rfl, h]
  dsimp only
  rw [if_pos rfl, if_pos rfl]
  generalize seedLanes 128 _ = l
  rfl

theorem seedingDone_unhealthy (h : s.act.seeding = some true) :
    seedingDone en false s = (s.seedOver.wr NSE_STATUS.HEALTH_FAIL 1).raise 0x1001 2 [0] := by
  rw [show @seedingDone = _ by delta seedingDone; rfl, h]
  dsimp only
  rw [if_pos rfl, if_neg Bool.false_ne_true]
  rfl

theorem seedingDone_zero {ok : Bool} (h : s.act.seeding = some false) (hseed : s.softSeed = 0) :
    seedingDone en ok s = s.seedOver.raise 0x1001 2 [1] := by
  rw [show @seedingDone = _ by delta seedingDone; rfl, h]
  dsimp only
  rw [if_neg Bool.false_ne_true, if_pos hseed]
  rfl

theorem seedingDone_soft {ok : Bool} (h : s.act.seeding = some false) (hseed : s.softSeed ≠ 0) :
    seedingDone en ok s = (s.seedOver.withLanes (seedLanes 128 s.softSeed)).wr NSE_STATUS.SEEDED 1 := by
  rw [show @seedingDone = _ by delta seedingDone; rfl, h]
  dsimp only
  rw [if_neg Bool.false_ne_true, if_neg hseed]
  generalize seedLanes 128 _ = l
  rfl

/-- The seeding is over, and RESEED reads 0. -/
structure State.Reseeded (t : State) : Prop where
  seeding : t.act.seeding = none
  reseed : t.rd NSE_CTRL.RESEED = 0

variable {t : State}

theorem State.Reseeded.seedOver (s : State) : s.seedOver.Reseeded := ⟨rfl, (s.wr_rd NSE_CTRL.RESEED 0 (by decide)).trans (Nat.zero_mod _)⟩

theorem State.Reseeded.withLanes (h : t.Reseeded) (l : List (BitVec 256)) : (t.withLanes l).Reseeded := ⟨h.seeding, h.reseed⟩

theorem State.Reseeded.wr (h : t.Reseeded) {f : Fld} (v : Nat) (hf : NSE_CTRL.reg ≠ f.off) : (t.wr f v).Reseeded :=
  ⟨(t.wr_act_seeding f v).trans h.seeding, (State.wr_rd_ne t f NSE_CTRL.RESEED v hf).trans h.reseed⟩

/-- What the front does after a seeding leaves it over. -/
theorem State.Reseeded.frame {u : State} (h : t.Reseeded) (hf : FrontFrame t u) : u.Reseeded :=
  ⟨hf.seeding.trans h.seeding, (hf.regs.rd (by decide) (by decide) (by decide)).trans h.reseed⟩

theorem seedingDone_reseeded {b ok : Bool} (h : s.act.seeding = some b) : (seedingDone en ok s).Reseeded := by
  have h0 := State.Reseeded.seedOver s
  cases b with
  | true => cases ok with
    | true =>
      rw [seedingDone_good h]
      exact ((h0.withLanes _).wr _ (by decide)).wr _ (by decide)
    | false =>
      rw [seedingDone_unhealthy h]
      exact (h0.wr _ (by decide)).frame (FrontFrame.refl _).raise
  | false =>
    by_cases hseed : s.softSeed = 0
    · rw [seedingDone_zero h hseed]
      exact h0.frame (FrontFrame.refl _).raise
    · rw [seedingDone_soft h hseed]
      exact (h0.withLanes _).wr _ (by decide)

theorem execSeedingDone_answers {post : State → Prop} {ok : Bool} {b : Bool} (hup : s.hubUp = true) (h : s.act.seeding = some b)
    (hpost : post (seedingDone en ok s).front) :
    Answers (.seedingDone en ok) s fun t => t.act.seeding = none ∧ t.rd NSE_CTRL.RESEED = 0 ∧ post t := by
  obtain ⟨hseeding, hreseed⟩ := (seedingDone_reseeded (en := en) (ok := ok) h).frame (FrontFrame.refl _).front
  exact ⟨_, congrArg Host.Outcome.next (if_pos hup), hseeding, hreseed, hpost⟩

/-- The front leaves what the noise source reports. -/
theorem State.front_nseStatus (t : State) {f : Fld} (hf : f.off = NSE_STATUS.reg) : t.front.rd f = t.rd f :=
  (FrontFrame.refl t).front.regs.rd (by rw [hf]; decide) (by rw [hf]; decide) (by rw [hf]; decide)

theorem State.liveCtxs_of_core (h : t.act.core = s.act.core) : t.liveCtxs = s.liveCtxs := by
  unfold State.liveCtxs State.liveStep State.steps
  rw [h]

/-- Lanes that were loaded stay while no step draws from them. -/
theorem State.front_lanes {l : List (BitVec 256)} (hidle : s.liveCtxs = []) (hcore : t.act.core = s.act.core) (hl : t.act.lanes = l) :
    t.front.act.lanes = l := by
  rw [State.front_idle ((State.liveCtxs_of_core hcore).trans hidle), hl]

theorem State.seedOver_core (s : State) : s.seedOver.act.core = s.act.core := s.wr_act_core NSE_CTRL.RESEED 0

theorem State.seedOver_reports (s : State) {code : Nat} (h : Reports s.seedOver code t) : Reports s code t :=
  h.of_same (s.wr_hubUp NSE_CTRL.RESEED 0).symm (congrArg EventQueue.waiting (s.wr_evq NSE_CTRL.RESEED 0).symm)

theorem State.front_reports {code : Nat} (h : Reports s code t) : Reports s code t.front := (Onward.kept t).front.holds.reports h

theorem seedingDone_loaded (h : s.act.seeding = some true) : (seedingDone en true s).front.rd NSE_STATUS.SEEDED = 1 ∧
    (seedingDone en true s).front.rd NSE_STATUS.HEALTH_FAIL = 0 ∧
    (s.liveCtxs = [] → (seedingDone en true s).front.act.lanes = seedLanes 128 (en.headD 0)) := by
  rw [State.front_nseStatus _ rfl, State.front_nseStatus _ rfl, seedingDone_good h]
  refine ⟨?_, ?_, fun hidle => State.front_lanes hidle ?_ ?_⟩
  · rw [State.wr_rd_other _ NSE_STATUS.HEALTH_FAIL NSE_STATUS.SEEDED _ rfl (by decide) (by decide), State.wr_rd _ _ _ (by decide)]
    rfl
  · rw [State.wr_rd _ _ _ (by decide), Nat.zero_mod]
  · rw [State.wr_act_core, State.wr_act_core]
    exact s.seedOver_core
  · rw [State.wr_act_lanes, State.wr_act_lanes]
    rfl

theorem seedingDone_failed (h : s.act.seeding = some true) : (seedingDone en false s).front.rd NSE_STATUS.HEALTH_FAIL = 1 ∧
    Reports s 0x1001 (seedingDone en false s).front := by
  rw [State.front_nseStatus _ rfl, seedingDone_unhealthy h]
  refine ⟨?_, State.front_reports (State.seedOver_reports s ?_)⟩
  · rw [State.raise_rd _ _ _ _ _ _ _ _ (by decide), State.wr_rd _ _ _ (by decide)]
    rfl
  · exact (State.raise_reports _ _ _ _ _ _ _).of_same (State.wr_hubUp _ _ _).symm (congrArg EventQueue.waiting (State.wr_evq _ _ _).symm)

theorem seedingDone_softLoaded {ok : Bool} (h : s.act.seeding = some false) (hseed : s.softSeed ≠ 0) :
    (seedingDone en ok s).front.rd NSE_STATUS.SEEDED = 1 ∧
      (s.liveCtxs = [] → (seedingDone en ok s).front.act.lanes = seedLanes 128 s.softSeed) := by
  rw [State.front_nseStatus _ rfl, seedingDone_soft h hseed]
  refine ⟨?_, fun hidle => State.front_lanes hidle ?_ ?_⟩
  · exact State.wr_rd _ _ _ (by decide)
  · rw [State.wr_act_core]
    exact s.seedOver_core
  · rw [State.wr_act_lanes]
    rfl

theorem seedingDone_softZero {ok : Bool} (h : s.act.seeding = some false) (hseed : s.softSeed = 0) :
    Reports s 0x1001 (seedingDone en ok s).front := by
  rw [seedingDone_zero h hseed]
  exact State.front_reports (State.seedOver_reports s (State.raise_reports _ _ _ _ _ _ _))

end

/-- Settles O13: ARM by its fault, RESEED as its register stores it; the front leaves the noise source as the end of the seeding left it. -/
theorem armsAndSeeds : Obligations.ArmsAndSeeds := by
  unfold Obligations.ArmsAndSeeds
  refine ⟨fun s c hup => ?_, fun s => ⟨fun v hup hv => ?_, fun ok en hup => ⟨fun h => ?_, fun h => ?_⟩⟩⟩
  · have heq : exec (.arm c) s = .next (arm c s) := congrArg Host.Outcome.next (if_pos hup)
    have heqd : exec (.disarm c) s = .next (disarm c s) := congrArg Host.Outcome.next (if_pos hup)
    exact ⟨fun h => ⟨_, heq, taken_of_arm h⟩, fun _ _ _ h => ⟨_, heq, refused_of_arm h⟩, fun h => ⟨_, heq, refused_of_arm (s.armFault_past h)⟩,
      fun h hs => ⟨_, heq, refused_of_arm (s.armFault_busy h hs)⟩, fun h => ⟨_, heqd, disarm_armed h⟩, fun h => ⟨_, heqd, disarm_other h⟩⟩
  · exact ⟨_, congrArg Host.Outcome.next (if_pos ⟨hup, hv⟩), nseCtrlWrite_reseed hv⟩
  · refine execSeedingDone_answers hup h ⟨?_, ?_⟩
    · rintro rfl
      exact seedingDone_loaded h
    · rintro rfl
      exact seedingDone_failed h
  · exact execSeedingDone_answers hup h ⟨seedingDone_softLoaded h, seedingDone_softZero h⟩

end Sys2Proof.Machine
end

section
/-!
SUPPORT. Router rows that a Well takes or keeps waiting, and the logits that it returns (O23).
-/

namespace Sys2Proof.Machine

open Sys2Proof

set_option Elab.async false

variable {s t : State} {w : WellNo} {p : Pkt}

/-! ### Scoring tiles that a Well holds (R230, R232) -/

/-- A Well holds a scoring tile that still lands tokens, waits for an engine, or runs. -/
def Well.HoldsTile (k : Well) (x : ScoreTile) : Prop := x ∈ k.scoring ∨ .score x ∈ k.waiting ∨ k.running = some (.score x)

theorem Well.HoldsTile.of_same {k k' : Well} {x : ScoreTile} (h : k.HoldsTile x) (hs : k'.scoring = k.scoring) (hw : k'.waiting = k.waiting)
    (hr : k'.running = k.running) : k'.HoldsTile x := by
  unfold Well.HoldsTile
  rw [hs, hw, hr]
  exact h

/-- A tile that the arbiter moves from waiting to an idle engine stays on the Well. -/
theorem Well.HoldsTile.granted {k k' : Well} {x : ScoreTile} (h : k.HoldsTile x) (hidle : k.running = none) (y : WellWork)
    (hs : k'.scoring = k.scoring) (hw : k'.waiting = k.waiting.erase y) (hr : k'.running = some y) : k'.HoldsTile x := by
  rcases h with hscoring | hwaiting | hrunning
  · exact .inl (hs ▸ hscoring)
  · by_cases hy : WellWork.score x = y
    · exact .inr (.inr (hr.trans (congrArg some hy.symm)))
    · exact .inr (.inl (hw ▸ (List.mem_erase_of_ne hy).mpr hwaiting))
  · rw [hidle] at hrunning
    cases hrunning

theorem State.accCyc_wells (s : State) (c : Ctx) (n : Nat) : (s.accCyc c n).wells = s.wells := State.addPair_wells s _ _ n

theorem State.wellSwitch_holdsTile {x : ScoreTile} (c : Ctx) (h : s.wells[w].HoldsTile x) : (s.wellSwitch w c).wells[w].HoldsTile x := by
  unfold State.wellSwitch
  split
  · rw [State.modWell_same]
    exact h.of_same rfl rfl rfl
  · split
    · exact h
    · dsimp only
      rw [State.modWell_same]
      refine Well.HoldsTile.of_same (k := s.wells[w]) h ?_ ?_ ?_ <;> simp only [State.accCyc_wells, State.wr_wells, State.bumpBy_wells]

theorem State.wellGrant_holdsTile {x : ScoreTile} (h : s.wells[w].HoldsTile x) : (s.wellGrant w).wells[w].HoldsTile x := by
  unfold State.wellGrant
  extract_lets k top l
  split
  · exact h
  · next hidle =>
    have hnone : s.wells[w].running = none := Option.not_isSome_iff_eq_none.mp fun hr => hidle (.inl hr)
    split
    · exact h
    · split
      · exact h
      · refine State.wellSwitch_holdsTile _ ?_
        rw [State.modWell_same]
        exact h.granted hnone _ rfl rfl rfl

/-- A SCORE_ROW that lands leaves its token on the Well, in a tile that closes with it or stays open. -/
theorem State.scoreRowTake_holdsTile (s : State) (w : WellNo) (p : Pkt) :
    ∃ k : ScoreTile, (s.scoreRowTake w p).wells[w].HoldsTile k ∧ ∃ x, x ∈ k.toks ∧ x.1 = bitsOf p.w1.toNat 0 22 := by
  unfold State.scoreRowTake
  extract_lets c w1 row mine t0 t1 close others
  refine ⟨t1, State.wellGrant_holdsTile ?_, (bitsOf w1 0 22, row), List.mem_append_right _ (List.mem_singleton_self _), rfl⟩
  rw [State.modWell_same]
  cases close with
  | true => exact .inr (.inl (List.mem_append_right _ (List.mem_singleton_self _)))
  | false => exact .inl (List.mem_append_right _ (List.mem_singleton_self _))

/-! ### The receive buffer of a Well (R227, R231) -/

/-- The state with other packets in the receive buffer of a Well. -/
def State.withRx (s : State) (w : WellNo) (l : List RxPkt) : State := s.modWell w fun k => { k with rx := l }

theorem State.withRx_rx (s : State) (w : WellNo) (l : List RxPkt) : (s.withRx w l).wells[w].rx = l := by
  rw [State.withRx, State.modWell_same]

theorem State.withRx_withRx (s : State) (w : WellNo) (l l' : List RxPkt) : (s.withRx w l).withRx w l' = s.withRx w l' :=
  State.modWell_modWell s w _ _

theorem State.withRx_openFor (s : State) (w : WellNo) (l : List RxPkt) (p : Pkt) : (s.withRx w l).openFor w p = s.openFor w p := by
  unfold State.openFor
  rw [State.withRx, State.modWell_same]

theorem State.withRx_landRoom (s : State) (w : WellNo) (l : List RxPkt) (c : Ctx) : (s.withRx w l).landRoom w c = s.landRoom w c := by
  unfold State.landRoom State.landUsed
  rw [State.withRx, State.modWell_same]
  rfl

/-- A SCORE_ROW that finds the buffer empty is its only packet when the Well looks. -/
theorem scoreRow_alone {o : WellOpen} (ho : s.openFor w p = some o) (hrx : s.wells[w].rx = []) :
    scoreRow w p s = (s.withRx w [⟨p, false⟩]).rxPump 1 w := by
  have hadd : (s.modWell w fun k => { k with rx := k.rx ++ [⟨p, false⟩] }) = s.withRx w [⟨p, false⟩] :=
    State.modWell_congr (by rw [hrx, List.nil_append])
  unfold scoreRow
  rw [ho]
  dsimp only
  rw [hadd, State.wellPump, State.withRx_rx]
  rfl

theorem rxPump_taken (h : (s.withRx w []).rxHead w p = .taken t) : (s.withRx w [⟨p, false⟩]).rxPump 1 w = t := by
  unfold State.rxPump
  rw [State.withRx_rx]
  dsimp only
  rw [← State.withRx, State.withRx_withRx, h]
  rfl

theorem rxPump_waits (h : (s.withRx w []).rxHead w p = .waits) : (s.withRx w [⟨p, false⟩]).rxPump 1 w = s.withRx w [⟨p, false⟩] := by
  unfold State.rxPump
  rw [State.withRx_rx]
  dsimp only
  rw [← State.withRx, State.withRx_withRx, h]

theorem rxHead_row {o : WellOpen} (hp : ptypeOf p = 0x32) (ho : s.openFor w p = some o) :
    s.rxHead w p = if s.landRoom w (ctxOf p) then .taken (s.scoreRowTake w p) else .waits := by
  unfold State.rxHead
  rw [if_pos hp, ho]

theorem scoreRow_lands {o : WellOpen} (hp : ptypeOf p = 0x32) (ho : s.openFor w p = some o) (hrx : s.wells[w].rx = [])
    (hroom : s.landRoom w (ctxOf p) = true) : scoreRow w p s = (s.withRx w []).scoreRowTake w p := by
  rw [scoreRow_alone ho hrx]
  refine rxPump_taken ?_
  rw [rxHead_row hp ((s.withRx_openFor w [] p).trans ho), State.withRx_landRoom, if_pos hroom]

theorem scoreRow_waits {o : WellOpen} (hp : ptypeOf p = 0x32) (ho : s.openFor w p = some o) (hrx : s.wells[w].rx = [])
    (hroom : s.landRoom w (ctxOf p) = false) : scoreRow w p s = s.withRx w [⟨p, false⟩] := by
  rw [scoreRow_alone ho hrx]
  refine rxPump_waits ?_
  rw [rxHead_row hp ((s.withRx_openFor w [] p).trans ho), State.withRx_landRoom, hroom]
  rfl

theorem execScoreRow_eq (hup : s.wellUp w = true) (hfr : s.wellFrozen w = false) (hp : ptypeOf p = 0x32) :
    exec (.scoreRow w p) s = .next (scoreRow w p s) :=
  congrArg Host.Outcome.next (if_pos ⟨hup, hp, by rw [hfr]; rfl⟩)

/-! ### SCORE_LOGITS (R109, R394) -/

theorem State.takeLanded_logitsDue (s : State) (q : Pkt) (w : WellNo) (p : Pkt) (st : Step) :
    (s.takeLanded q).logitsDue w p st = s.logitsDue w p st := by
  obtain ⟨_, _, _, _, _, _, _, he⟩ := State.takeLanded_eq s q
  rw [he]
  rfl

section
variable {st : Step}

/-- Logits that no token waits for freeze the Well link (R394). -/
theorem scoreLogits_unasked (hfr : s.wellFrozen w = false) (hcur : s.current p = some st) (hdue : s.logitsDue w p st = none) :
    scoreLogits w p s = (s.takeLanded p).freezeWell w 0x33 := by
  unfold scoreLogits
  dsimp only
  rw [if_neg (by rw [State.takeLanded_wellFrozen, hfr]; decide), State.takeLanded_current, hcur]
  dsimp only
  rw [State.takeLanded_logitsDue, hdue]

/-- Logits that a token waits for join it, and Score goes on. -/
theorem scoreLogits_joins {tk : Token} {l : LayerE} {x : Nat × Nat × Nat} (hfr : s.wellFrozen w = false) (hcur : s.current p = some st)
    (hdue : s.logitsDue w p st = some (tk, l)) (hrows : l.rowsOf w = some x) :
    ∃ f, scoreLogits w p s = (((s.takeLanded p).modTok (ctxOf p) tk.t f).front).progress (ctxOf p) := by
  unfold scoreLogits
  dsimp only
  rw [if_neg (by rw [State.takeLanded_wellFrozen, hfr]; decide), State.takeLanded_current, hcur]
  dsimp only
  rw [State.takeLanded_logitsDue, hdue]
  dsimp only
  rw [hrows]
  exact ⟨_, rfl⟩

/-- After an event that counts, the live step has sent its beacon (R54). -/
theorem State.progress_beacon {c : Ctx} (h : (s.liveStep c).isSome = true) :
    ∃ y, y ∈ (s.progress c).steps c ∧ y.live = true ∧ y.beaconSent = true := by
  obtain ⟨st, hst⟩ := Option.isSome_iff_exists.mp h
  have hlive : st.live = true := List.find?_some (p := Step.live) hst
  have hmem : st ∈ s.steps c := List.mem_of_find?_eq_some hst
  unfold State.progress
  rw [hst]
  dsimp only
  split
  · next hsent => exact ⟨st, hmem, hlive, hsent⟩
  · rw [State.sendMaster_steps, State.modStep_steps]
    exact ⟨{ st with beaconSent := true }, List.mem_map.mpr ⟨st, hmem, if_pos hlive⟩, hlive, rfl⟩

theorem FrontFrame.wellFrozen (h : FrontFrame s t) (w : WellNo) : t.wellFrozen w = s.wellFrozen w := by
  unfold State.wellFrozen
  rw [h.regs.rd (by decide) (by decide) (by decide)]

theorem State.takeLanded_liveStep (s : State) (q : Pkt) (c : Ctx) : (s.takeLanded q).liveStep c = s.liveStep c := by
  unfold State.liveStep
  rw [State.takeLanded_steps]

/-- Logits that join their token leave the Well link in use and the step with its beacon sent. -/
theorem scoreLogits_beacon {tk : Token} {l : LayerE} {x : Nat × Nat × Nat} (hfr : s.wellFrozen w = false) (hcur : s.current p = some st)
    (hlive : s.liveStep (ctxOf p) = some st) (hdue : s.logitsDue w p st = some (tk, l)) (hrows : l.rowsOf w = some x) :
    (scoreLogits w p s).wellFrozen w = false ∧
      ∃ y, y ∈ (scoreLogits w p s).steps (ctxOf p) ∧ y.live = true ∧ y.beaconSent = true := by
  obtain ⟨f, heq⟩ := scoreLogits_joins hfr hcur hdue hrows
  have hframe : FrontFrame (s.takeLanded p) ((s.takeLanded p).modTok (ctxOf p) tk.t f).front := (FrontFrame.refl _).modTok.front
  rw [heq]
  refine ⟨(hframe.progress.wellFrozen w).trans ((s.takeLanded_wellFrozen p w).trans hfr), State.progress_beacon ?_⟩
  rw [hframe.live, State.takeLanded_liveStep, hlive]
  rfl

theorem execScoreLogits_eq (hup : s.wellUp w = true) (harb : s.arbHeld 8 = false) (hp : ptypeOf p = 0x33) :
    exec (.scoreLogits w p) s = .next (scoreLogits w p s) :=
  congrArg Host.Outcome.next (if_pos ⟨hup, by rw [harb]; rfl, hp⟩)

end

/-- Settles O23: a row that lands leaves its token in a tile that the Well holds, the arbiter only moves tiles within the Well, and the front
leaves the freeze register and the contexts' live steps. -/
theorem wellScoring : Obligations.WellScoring := by
  intro s w p hup hfr
  refine ⟨fun o hp ho hroom hrx => ?_, fun o hp ho hroom hrx => ?_, fun st harb hp hcur hdue => ?_, fun st tk l x harb hp hcur hlive hdue hrows => ?_⟩
  · refine ⟨_, execScoreRow_eq hup hfr hp, ?_⟩
    rw [scoreRow_lands hp ho hrx hroom]
    exact State.scoreRowTake_holdsTile _ w p
  · refine ⟨_, execScoreRow_eq hup hfr hp, ?_⟩
    rw [scoreRow_waits hp ho hrx hroom]
    exact State.withRx_rx ..
  · refine ⟨_, execScoreLogits_eq hup harb hp, ?_⟩
    rw [scoreLogits_unasked hfr hcur hdue]
    exact State.freezeWell_wellFrozen ..
  · exact ⟨_, execScoreLogits_eq hup harb hp, scoreLogits_beacon hfr hcur hlive hdue hrows⟩

end Sys2Proof.Machine
end

section
/-!
SUPPORT. What the host releases, writes and reads in the slave window: O51, O20.
-/

namespace Sys2Proof.Machine

open Sys2Proof

set_option Elab.async false

section
variable {s t : State} {w : Word}

/-! ### RELEASE_WORD (R169-R171) -/

/-- A release word that R170 discards, in the words of the rule. -/
theorem State.badRelease_of (h : bitsOf w.toNat 19 13 ≠ 0 ∨ bitsOf w.toNat 18 1 ≠ (if s.act.side = .b then 1 else 0) ∨
    s.rd (CST_POOL_COUNT.COUNT (bitsOf w.toNat 16 2)) ≤ bitsOf w.toNat 0 16) : s.badRelease w = true := by
  unfold State.badRelease bitNat State.poolCount handlePool handleIndex
  simp only [Bool.or_eq_true, bne_iff_ne, decide_eq_true_eq, beq_iff_eq, or_assoc]
  exact h

theorem execReleaseWord_eq (hup : s.slaveUp = true) : exec (.releaseWord w) s = .next (releaseWord w s) :=
  congrArg Host.Outcome.next (if_pos hup)

/-- A discarded word is counted and reported. -/
theorem releaseWord_bad (h : s.badRelease w = true) :
    releaseWord w s = (s.bump CST_BADREL_CNT.COUNT).raise 0x0604 2 [w.toNat] := if_pos h

/-- The reference that a word names is released; without a taken tile that holds it nothing else happens. -/
theorem releaseWord_plain (h : s.badRelease w = false) (ht : (s.work.tiles.find? fun t => (t.holds w.toNat).isSome) = none) :
    releaseWord w s = s.release w.toNat := by
  obtain ⟨_, _, _, he⟩ := State.release_eq s w.toNat
  have ht' : ((s.release w.toNat).work.tiles.find? fun t => (t.holds w.toNat).isSome) = none := by rw [he]; exact ht
  unfold releaseWord
  extract_lets n s1
  rw [if_neg (by rw [h]; exact Bool.false_ne_true), ht']

/-- The last reference of a buffer takes it out of use (R169). -/
theorem State.release_last {n : Nat} {b : Buf} (h : (s.cist.bufs.find? fun b => b.handle == n) = some b) (hb : b.count ≤ 1) :
    (s.release n).cist.bufs = s.cist.bufs.erase b := by
  unfold State.release
  rw [h]
  dsimp only
  rw [if_pos hb]

end

/-- Settles O51: a word that R170 discards is counted and reported, and both touch registers and event records alone. -/
theorem releaseDecoding : Obligations.ReleaseDecoding := by
  intro s w hup hbad
  refine ⟨_, execReleaseWord_eq hup, ?_⟩
  rw [releaseWord_bad (State.badRelease_of hbad)]
  have hwords : WordsOnly s (s.bump CST_BADREL_CNT.COUNT) := (WordsOnly.refl s).bump
  have hcounted : Counted s ((s.bump CST_BADREL_CNT.COUNT).raise 0x0604 2 [w.toNat]) CST_BADREL_CNT.COUNT 1 :=
    (State.raise_rd _ _ _ _ _ _ _ _ (by decide)).trans (State.bump_rd s _ (by decide))
  obtain ⟨_, _, _, _, hraise⟩ := State.raise_eq (s.bump CST_BADREL_CNT.COUNT) 0x0604 2 [w.toNat] none 0 0
  refine ⟨hcounted, hwords.reports (State.raise_reports _ _ _ _ _ _ _), ?_, ?_, ?_, fun off h1 h2 => ?_⟩
  · rw [hraise]; exact State.bump_cist s _
  · rw [hraise]; exact State.bump_work s _
  · rw [hraise]; exact State.bump_host s _
  · exact (State.raise_word_ne _ _ _ _ _ _ _ h2).trans (State.bump_word_ne s _ h1)

section
variable {s : State} {n j : Nat} {dw : Word}

/-! ### TILE_WEIGHT_WRITE (R202) -/

theorem tileWeightWrite_refused (h : s.weightSlot n j = none) : tileWeightWrite n j dw s = s.emit (.slaveWrite none 2) := by
  unfold tileWeightWrite
  rw [h]

/-- The copy named has the weight written, and the write is answered without an error. -/
theorem tileWeightWrite_done {x : Tile} (h : s.weightSlot n j = some x) : Drives (tileWeightWrite n j dw s) (.slaveWrite none 0) ∧
    ∃ y, y ∈ (tileWeightWrite n j dw s).work.tiles ∧ y.slot = n ∧ (y.entries[j]?.map fun e => e.weight) = some dw := by
  have hx : x ∈ s.work.tiles := List.mem_of_find?_eq_some h
  obtain ⟨⟨hslot, -⟩, hj⟩ : (x.slot = n ∧ x.bwd = true) ∧ j < x.entries.length := by
    have := List.find?_some h
    simpa only [Bool.and_eq_true, beq_iff_eq, decide_eq_true_eq] using this
  unfold tileWeightWrite
  rw [h]
  refine ⟨List.mem_cons_self, _, List.mem_map.mpr ⟨x, hx, if_pos rfl⟩, hslot, ?_⟩
  rw [List.getElem?_modify_eq, List.getElem?_eq_getElem hj]
  rfl

/-! ### Cistern data (R169, R335) -/

theorem State.slaveWriteOf_cistern {off : Nat} {bs : List Byte} (h : off + bs.length ≤ 0x4000000) : s.slaveWriteOf off bs =
    ({ s with cist := { s.cist with data := mwrite zeroByte s.cist.data off bs } } : State).emit (.slaveWrite none 0) := if_pos h

theorem State.slaveReadOf_cistern {off k : Nat} (h : off + k ≤ 0x4000000) :
    s.slaveReadOf off k = (mread zeroByte s.cist.data off k, 0) := if_pos h

theorem execCisternDataAccess_write {off : Nat} {bs : List Byte} (hup : s.slaveUp = true) :
    exec (.cisternDataAccess true off bs) s = .next (s.slaveWriteOf off bs) :=
  congrArg Host.Outcome.next (if_pos hup)

theorem execCisternDataAccess_read {off : Nat} {bs : List Byte} (hup : s.slaveUp = true) : exec (.cisternDataAccess false off bs) s =
    .next (s.emit (.slaveRead none (s.slaveReadOf off bs.length).1 (s.slaveReadOf off bs.length).2)) :=
  congrArg Host.Outcome.next (if_pos hup)

end

/-- Settles O20: each access of the window is one branch of its command, and a read of the bytes written gives them. -/
theorem slaveWindow : Obligations.SlaveWindow := by
  intro s hup
  refine ⟨fun w b hgood htile hbuf hb => ?_, fun n j dw x hx => ?_, fun n j dw hx => ?_, fun off data hlen => ⟨?_, ?_⟩,
    fun sl op off hsl hno => ?_⟩
  · exact ⟨_, execReleaseWord_eq hup, (congrArg (·.cist.bufs) (releaseWord_plain hgood htile)).trans (State.release_last hbuf hb)⟩
  · exact ⟨_, congrArg Host.Outcome.next (if_pos hup), tileWeightWrite_done hx⟩
  · refine ⟨_, congrArg Host.Outcome.next (if_pos hup), ?_⟩
    rw [tileWeightWrite_refused hx]
    exact ⟨List.mem_cons_self, rfl⟩
  · refine ⟨_, execCisternDataAccess_write hup, ?_⟩
    rw [State.slaveWriteOf_cistern hlen]
    exact ⟨mread_mwrite_same _ _ _ _, List.mem_cons_self⟩
  · refine ⟨_, execCisternDataAccess_read hup, ?_⟩
    rw [State.slaveReadOf_cistern hlen]
    exact ⟨rfl, List.mem_cons_self⟩
  · refine ⟨slaveDecodeError sl op s, congrArg Host.Outcome.next (if_pos ⟨hsl, hno⟩), List.mem_cons_self, fun hop => ?_, fun hop => ?_⟩
    · unfold slaveDecodeError
      rw [if_pos hop]
      exact List.mem_cons_of_mem _ List.mem_cons_self
    · unfold slaveDecodeError
      rw [if_neg hop]
      exact List.mem_cons_of_mem _ List.mem_cons_self

end Sys2Proof.Machine
end

section
/-!
SUPPORT. The enable of the Cistern, and template loads that start, are refused, and end: O14.
-/

namespace Sys2Proof.Machine

open Sys2Proof

set_option Elab.async false

section
variable {s t : State} {v : Word} {c : Ctx} {p : Nat}

/-! ### `CST_CTRL` (R164) -/

theorem execCstEnable_eq (hup : s.busUp 0 = true) : exec (.cstEnable v) s = .next (cstEnable v s) :=
  congrArg Host.Outcome.next (if_pos hup)

theorem cstEnable_on (hv : CST_CTRL.ENABLE.get v = 1) (h0 : s.rd CST_CTRL.ENABLE = 0) (hok : s.cistBadPool = none) :
    cstEnable v s = ({ s with cist := { s.cist with cfgErr := false } } : State).wr CST_CTRL.ENABLE 1 := by
  unfold cstEnable
  extract_lets now want
  rw [if_neg (by omega), if_pos hv, hok]

/-- Pools that break R164 are reported, and the Cistern stays off. -/
theorem cstEnable_bad (hv : CST_CTRL.ENABLE.get v = 1) (h0 : s.rd CST_CTRL.ENABLE = 0) (hbad : s.cistBadPool = some p) :
    (cstEnable v s).rd CST_CTRL.ENABLE = 0 ∧ (cstEnable v s).cist.cfgErr = true ∧ Reports s 0x0605 (cstEnable v s) := by
  unfold cstEnable
  extract_lets now want kib
  rw [if_neg (by omega), if_pos hv, hbad]
  refine ⟨(State.raise_rd _ _ _ _ _ _ _ _ (by decide)).trans h0, ?_, (State.raise_reports _ _ _ _ _ _ _).of_same rfl rfl⟩
  rw [State.raise_cist]

/-- The Cistern goes off when every buffer is free. -/
theorem cstEnable_off (hv : CST_CTRL.ENABLE.get v = 0) (h1 : s.rd CST_CTRL.ENABLE = 1)
    (hfree : (List.range 4).all (fun p => s.poolFree p == s.poolCount p) = true) : (cstEnable v s).rd CST_CTRL.ENABLE = 0 := by
  unfold cstEnable
  extract_lets now want
  rw [if_neg (by omega), if_neg (by omega), if_pos hfree]
  exact State.wr_rd _ _ _ (by decide)

theorem cstEnable_kept (hv : CST_CTRL.ENABLE.get v = 0) (h1 : s.rd CST_CTRL.ENABLE = 1)
    (hused : (List.range 4).all (fun p => s.poolFree p == s.poolCount p) = false) :
    (cstEnable v s).rd CST_CTRL.ENABLE = 1 ∧ Reports s 0x0601 (cstEnable v s) := by
  unfold cstEnable
  extract_lets now want
  rw [if_neg (by omega), if_neg (by omega), if_neg (by rw [hused]; exact Bool.false_ne_true)]
  exact ⟨(State.raise_rd _ _ _ _ _ _ _ _ (by decide)).trans h1, (State.raise_reports _ _ _ _ _ _ _).of_same rfl rfl⟩

/-! ### Reads of the host and the loads -/

/-- A request is charged to the part of the accounts that is not a register; a template load stands. -/
theorem State.accEnergy_tload (s : State) (c : Ctx) (fj : Nat) : (s.accEnergy c fj).work.tload = s.work.tload := by
  unfold State.accEnergy State.addPair State.wr2
  simp only [State.wr_work]

theorem State.accIssue_tload (s : State) (r : HostReq) : (s.accIssue r).work.tload = s.work.tload := by
  unfold State.accIssue
  split
  · unfold State.accHost State.addPair State.wr2
    rw [State.accEnergy_tload]
    simp only [State.wr_work]
  · rfl

theorem State.issueOne_tload (s : State) (r : HostReq) : (s.issueOne r).work.tload = s.work.tload := by
  unfold State.issueOne
  extract_lets sl
  split
  · split
    · rfl
    · exact State.accIssue_tload _ r
  · rfl

theorem State.hostRead_tload (s : State) (why : Purpose) (addr len : Nat) : (s.hostRead why addr len).work.tload = s.work.tload :=
  foldl_keeps (P := fun t : State => t.work.tload = s.work.tload) _ rfl fun t _ ht => (t.issueOne_tload _).trans ht

/-! ### The write of `CTX_TPL_CTRL` (R281) -/

theorem execTemplateLoad_eq (hup : s.busUp 0 = true) (hgo : CTX_TPL_CTRL.GO.get v = 1) :
    exec (.templateLoad v) s = .next (tplCtrlWrite v s) := congrArg Host.Outcome.next (if_pos ⟨hup, hgo⟩)

theorem tplV_off (c : Ctx) : (CTX_STATUS.TPL_V c).off = 0x0D101C + 0x80 * c.val := rfl

theorem tplStatus_ne_ctxStatus (c : Ctx) : CTX_TPL_STATUS.reg ≠ (CTX_STATUS.TPL_V c).off := by
  rw [tplV_off, CTX_TPL_STATUS.reg]
  omega

theorem ctxStatus_ne_lost (c : Ctx) : (CTX_STATUS.TPL_V c).off ≠ RNG_EQ_LOST.reg := by
  rw [tplV_off, RNG_EQ_LOST.reg]
  omega

theorem ctxStatus_not_accounting (c : Ctx) : accounting (CTX_STATUS.TPL_V c).off = false := by
  revert c
  decide

theorem State.tplRefusal_lt (s : State) (c : Ctx) (len : Nat) : s.tplRefusal c len < 16 := by
  unfold State.tplRefusal
  split_ifs <;> decide

/-- The state with a template load under way that has read nothing (R281). -/
def State.tplBegun (s : State) (c : Ctx) (len : Nat) : State :=
  let s1 : State := (((s.wr CTX_TPL_CTRL.GO 1).wr CTX_TPL_STATUS.BUSY 1).wr CTX_TPL_STATUS.ERR 0).wrIf (CTX_STATUS.TPL_V c) 0
  { s1 with work := { s1.work with tload := some ⟨c, 64 * len, [], false⟩ } }

theorem State.tplBegun_rd (s : State) (c : Ctx) (len : Nat) :
    (s.tplBegun c len).rd CTX_TPL_STATUS.BUSY = 1 ∧ (s.tplBegun c len).rd (CTX_STATUS.TPL_V c) = 0 := by
  unfold State.tplBegun
  extract_lets s1
  have hbusy : s1.rd CTX_TPL_STATUS.BUSY = 1 := by
    dsimp only [s1]
    rw [State.wrIf_rd_ne _ _ _ _ (tplStatus_ne_ctxStatus c), State.wr_rd_other _ CTX_TPL_STATUS.ERR CTX_TPL_STATUS.BUSY _ rfl (by decide)
      (by decide), State.wr_rd _ _ _ (by decide)]
    rfl
  have hvalid : s1.rd (CTX_STATUS.TPL_V c) = 0 := by
    dsimp only [s1]
    exact State.wrIf_rd _ (CTX_STATUS.TPL_V c) (Nat.le_of_ble_eq_true rfl) (Nat.le_of_ble_eq_true rfl)
  exact ⟨hbusy, hvalid⟩

/-- A write with GO, by the refusal of the load it asks for. -/
theorem tplCtrlWrite_go (hgo : CTX_TPL_CTRL.GO.get v = 1) (hc : CTX_TPL_CTRL.CTX.get v = c.val) :
    tplCtrlWrite v s =
      let s1 : State := s.store CTX_TPL_CTRL.reg (CTX_TPL_CTRL.GO.put v 0)
      let len := CTX_TPL_CTRL.LEN.get v
      let base := s.rd2 CTX_TPL_SRC_LO.ADDR CTX_TPL_SRC_HI.ADDR * 64
      if s.tplRefusal c len ≠ 0 then
        let s2 : State := ({ s1 with free := s1.free + 1 } : State).tplError c (s.tplRefusal c len) len (Config.freeNat s1.free % 65536)
        if s.rd CTX_TPL_STATUS.BUSY = 1 then s2 else s2.wr CTX_TPL_STATUS.DONE 1
      else (s1.tplBegun c len).hostRead (.template base) base (64 * len) := by
  have hctx : (⟨CTX_TPL_CTRL.CTX.get v % 16, Nat.mod_lt _ (by decide)⟩ : Ctx) = c := Fin.ext (by rw [hc]; exact Nat.mod_eq_of_lt c.isLt)
  unfold tplCtrlWrite
  rw [if_neg (by omega), hctx]
  rfl

/-- A load that is not refused has at least one block of the image to read. -/
theorem State.tplRefusal_len {len : Nat} (h : s.tplRefusal c len = 0) : len ≠ 0 := by
  rintro rfl
  unfold State.tplRefusal at h
  split_ifs at h
  omega

theorem tplCtrlWrite_loading (hgo : CTX_TPL_CTRL.GO.get v = 1) (hc : CTX_TPL_CTRL.CTX.get v = c.val)
    (hok : s.tplRefusal c (CTX_TPL_CTRL.LEN.get v) = 0) :
    (tplCtrlWrite v s).rd CTX_TPL_STATUS.BUSY = 1 ∧ (tplCtrlWrite v s).rd (CTX_STATUS.TPL_V c) = 0 ∧
      (tplCtrlWrite v s).busyFor Purpose.isTemplate = true ∧
      (tplCtrlWrite v s).work.tload = some ⟨c, 64 * CTX_TPL_CTRL.LEN.get v, [], false⟩ := by
  have hlen := State.tplRefusal_len hok
  rw [tplCtrlWrite_go hgo hc]
  extract_lets s1 len base
  rw [if_neg fun h => h hok]
  obtain ⟨hbusy, hvalid⟩ := s1.tplBegun_rd c len
  have ht := (s1.tplBegun c len).hostRead_traffic (.template base) base (64 * len)
  refine ⟨?_, ?_, State.hostRead_busyFor _ _ rfl (by omega), State.hostRead_tload ..⟩
  · exact (ht.rd _ (by decide) (by decide)).trans hbusy
  · exact (ht.rd _ (ctxStatus_ne_lost c) (ctxStatus_not_accounting c)).trans hvalid

theorem State.tplError_reports (s : State) (c : Ctx) (err len hdr : Nat) : Reports s 0x0B02 (s.tplError c err len hdr) :=
  (WordsOnly.refl s).wr err |>.reports (State.raise_reports _ 0x0B02 2 [err, len, hdr] c 0 0)

theorem State.tplError_work (s : State) (c : Ctx) (err len hdr : Nat) : (s.tplError c err len hdr).work = s.work := by
  obtain ⟨_, _, _, _, he⟩ := State.raise_eq (s.wr CTX_TPL_STATUS.ERR err) 0x0B02 2 [err, len, hdr] c 0 0
  unfold State.tplError
  rw [he, ← s.wr_work CTX_TPL_STATUS.ERR err]

theorem State.tplError_busy (s : State) (c : Ctx) (err len hdr : Nat) :
    (s.tplError c err len hdr).rd CTX_TPL_STATUS.BUSY = s.rd CTX_TPL_STATUS.BUSY :=
  (State.raise_rd _ _ _ _ _ _ _ _ (by decide)).trans (State.wr_rd_other _ _ _ _ rfl (by decide) (by decide))

theorem State.tplError_err (s : State) (c : Ctx) {err : Nat} (len hdr : Nat) (h : err < 16) :
    (s.tplError c err len hdr).rd CTX_TPL_STATUS.ERR = err :=
  (State.raise_rd _ _ _ _ _ _ _ _ (by decide)).trans ((State.wr_rd _ _ _ (by decide)).trans (Nat.mod_eq_of_lt h))

theorem tplCtrlWrite_refused (hgo : CTX_TPL_CTRL.GO.get v = 1) (hc : CTX_TPL_CTRL.CTX.get v = c.val)
    (hbad : s.tplRefusal c (CTX_TPL_CTRL.LEN.get v) ≠ 0) :
    Reports s 0x0B02 (tplCtrlWrite v s) ∧ (tplCtrlWrite v s).work.tload = s.work.tload ∧
      (tplCtrlWrite v s).rd CTX_TPL_STATUS.ERR = s.tplRefusal c (CTX_TPL_CTRL.LEN.get v) := by
  rw [tplCtrlWrite_go hgo hc]
  extract_lets s1 len base s2
  rw [if_pos hbad]
  obtain ⟨_, _, _, hstore, -⟩ := s.store_eq (CTX_TPL_CTRL.GO.put v 0) (off := CTX_TPL_CTRL.reg) (by decide)
  have hs : s1 = _ := hstore
  have hs1 : ({ s1 with free := s1.free + 1 } : State).hubUp = s.hubUp ∧ s1.evq = s.evq ∧ s1.work = s.work := by
    rw [hs]
    exact ⟨rfl, rfl, rfl⟩
  obtain ⟨hup, hevq, hwork⟩ := hs1
  have hr : Reports s 0x0B02 s2 := (State.tplError_reports _ _ _ _ _).of_same hup.symm (congrArg EventQueue.waiting hevq.symm)
  have hw : s2.work.tload = s.work.tload := by rw [State.tplError_work]; exact congrArg Work.tload hwork
  have he : s2.rd CTX_TPL_STATUS.ERR = s.tplRefusal c len := State.tplError_err _ _ _ _ (s.tplRefusal_lt c len)
  split
  · exact ⟨hr, hw, he⟩
  · refine ⟨hr.later ⟨[], by rw [State.wr_evq, List.append_nil]⟩, by rw [State.wr_work, hw], ?_⟩
    rw [State.wr_rd_other _ CTX_TPL_STATUS.DONE CTX_TPL_STATUS.ERR _ rfl (by decide) (by decide), he]

/-! ### TEMPLATE_LOAD_END (R280, R281) -/

section
variable {l : TplLoad}

/-- The state without a template load, its reads dropped. -/
def State.tplShut (s : State) : State :=
  let s0 : State := ((s.dropReads Purpose.isTemplate).wr CTX_TPL_CTRL.GO 0).wr CTX_TPL_STATUS.BUSY 0
  { s0 with work := { s0.work with tload := none } }

/-- A template load that has ended: its image in place, or its error reported. -/
def State.tplOver (s : State) (l : TplLoad) : State :=
  let img := imageOf l.len l.got
  if l.err then
    ({ s.tplShut with free := s.tplShut.free + 1 } : State).tplError l.ctx 3 (l.len / 64)
      (if l.got.any fun x => x.1 == 0 then ofBytes (slice img 2 2) else Config.freeNat s.tplShut.free % 65536)
  else if s.tplOk img then
    (s.tplShut.setCore { s.tplShut.act.core with tpl := s.tplShut.act.core.tpl.set l.ctx img }).wr (CTX_STATUS.TPL_V l.ctx) 1
  else s.tplShut.tplError l.ctx 4 (l.len / 64) (ofBytes (slice img 2 2))

theorem templateLoadEnd_eq (hload : s.work.tload = some l) (hend : l.err = true ∨ l.len ≤ gotBytes l.got) :
    templateLoadEnd s = (s.tplOver l).hold .tplDone fun s => s.wr CTX_TPL_STATUS.DONE 1 := by
  have hgo : (!l.err && decide (gotBytes l.got < l.len)) = false := by
    rcases hend with h | h
    · rw [h]; rfl
    · rw [decide_eq_false (by omega), Bool.and_false]
  unfold templateLoadEnd
  rw [hload]
  dsimp only
  rw [hgo, if_neg Bool.false_ne_true]
  rfl

theorem State.tplShut_busy (s : State) : s.tplShut.rd CTX_TPL_STATUS.BUSY = 0 := by
  unfold State.tplShut
  extract_lets s0
  have hbusy : s0.rd CTX_TPL_STATUS.BUSY = 0 := by
    dsimp only [s0]
    rw [State.wr_rd _ _ _ (by decide), Nat.zero_mod]
  exact hbusy

theorem State.tplShut_quiet (s : State) : s.tplShut.hubUp = s.hubUp ∧ s.tplShut.evq = s.evq := by
  unfold State.tplShut
  extract_lets s0
  have hup : s0.hubUp = s.hubUp := by simp only [s0, State.wr_hubUp]; rfl
  have hevq : s0.evq = s.evq := by simp only [s0, State.wr_evq]; rfl
  exact ⟨hup, hevq⟩

theorem State.tplOver_shut (s : State) (l : TplLoad) :
    (s.tplOver l).work.tload = none ∧ (s.tplOver l).rd CTX_TPL_STATUS.BUSY = 0 := by
  have hbusy := s.tplShut_busy
  unfold State.tplOver
  extract_lets img
  split
  · exact ⟨by rw [State.tplError_work]; rfl, (State.tplError_busy ..).trans hbusy⟩
  · split
    · exact ⟨by rw [State.wr_work]; rfl, (State.wr_rd_ne _ _ _ _ (tplStatus_ne_ctxStatus l.ctx)).trans hbusy⟩
    · exact ⟨by rw [State.tplError_work]; rfl, (State.tplError_busy ..).trans hbusy⟩

/-- A load without an error whose image passes the checks leaves it with its context. -/
theorem State.tplOver_good (herr : l.err = false) (hok : s.tplOk (imageOf l.len l.got) = true) :
    (s.tplOver l).rd (CTX_STATUS.TPL_V l.ctx) = 1 ∧ (s.tplOver l).act.core.tpl[l.ctx] = imageOf l.len l.got := by
  unfold State.tplOver
  extract_lets img
  rw [if_neg (by rw [herr]; exact Bool.false_ne_true), if_pos hok]
  refine ⟨State.wr_rd _ (CTX_STATUS.TPL_V l.ctx) 1 (Nat.le_of_ble_eq_true rfl), ?_⟩
  rw [State.wr_act_core, State.setCore_core]
  exact Vector.getElem_set_self _

theorem State.tplOver_reports (hbad : l.err = true ∨ s.tplOk (imageOf l.len l.got) = false) : Reports s 0x0B02 (s.tplOver l) := by
  obtain ⟨hup, hevq⟩ := s.tplShut_quiet
  unfold State.tplOver
  extract_lets img
  split
  · exact (State.tplError_reports _ _ _ _ _).of_same hup.symm (congrArg EventQueue.waiting hevq.symm)
  · next herr =>
    rw [if_neg (by rw [hbad.resolve_left herr]; exact Bool.false_ne_true)]
    exact (State.tplError_reports _ _ _ _ _).of_same hup.symm (congrArg EventQueue.waiting hevq.symm)

/-- What the end of a load leaves: DONE is set at once or waits for the mirror (R399). -/
theorem templateLoadEnd_open (hload : s.work.tload = some l) (hend : l.err = true ∨ l.len ≤ gotBytes l.got) :
    (templateLoadEnd s).work.tload = none ∧ (templateLoadEnd s).rd CTX_TPL_STATUS.BUSY = 0 ∧
      (l.err = false → s.tplOk (imageOf l.len l.got) = true →
        (templateLoadEnd s).rd (CTX_STATUS.TPL_V l.ctx) = 1 ∧ (templateLoadEnd s).act.core.tpl[l.ctx] = imageOf l.len l.got) ∧
      ((l.err = true ∨ s.tplOk (imageOf l.len l.got) = false) → Reports s 0x0B02 (templateLoadEnd s)) := by
  rw [templateLoadEnd_eq hload hend]
  obtain ⟨hnone, hbusy⟩ := s.tplOver_shut l
  have hgood := s.tplOver_good (l := l)
  have hreports := s.tplOver_reports (l := l)
  generalize s.tplOver l = t at *
  obtain hnow | ⟨_, hwait⟩ := t.hold_eq .tplDone fun s => s.wr CTX_TPL_STATUS.DONE 1
  · rw [hnow]
    refine ⟨by rw [State.wr_work, hnone], ?_, fun herr hok => ?_, fun hbad => ?_⟩
    · rw [State.wr_rd_other _ CTX_TPL_STATUS.DONE CTX_TPL_STATUS.BUSY _ rfl (by decide) (by decide), hbusy]
    · rw [State.wr_rd_ne _ _ _ _ (tplStatus_ne_ctxStatus l.ctx).symm, State.wr_act_core]
      exact hgood herr hok
    · exact (hreports hbad).later ⟨[], by rw [State.wr_evq, List.append_nil]⟩
  · rw [hwait]
    exact ⟨hnone, hbusy, hgood, hreports⟩

end

end

/-- Settles O14: each write is the branch of its command that the pools, the buffers or the refusal give, and what ends a load stands
when DONE waits for the mirror. -/
theorem cisternAndTemplates : Obligations.CisternAndTemplates := by
  refine ⟨fun s v hbus => ⟨fun hv h0 hok => ?_, fun p hv h0 hbad => ?_, fun hv h1 => ?_⟩, fun s hup => ⟨fun v c hbus hgo hc => ⟨fun hok => ?_,
    fun hbad => ?_⟩, fun l hload hend => ?_⟩⟩
  · refine ⟨_, execCstEnable_eq hbus, ?_⟩
    rw [cstEnable_on hv h0 hok]
    exact ⟨State.wr_rd _ _ _ (by decide), by rw [State.wr_cist]⟩
  · exact ⟨_, execCstEnable_eq hbus, cstEnable_bad hv h0 hbad⟩
  · exact ⟨_, execCstEnable_eq hbus, cstEnable_off hv h1, cstEnable_kept hv h1⟩
  · obtain ⟨hbusy, hvalid, hreads, hload⟩ := tplCtrlWrite_loading hgo hc hok
    exact ⟨_, execTemplateLoad_eq hbus hgo, hbusy, hvalid, hreads, _, hload, rfl, rfl⟩
  · exact ⟨_, execTemplateLoad_eq hbus hgo, tplCtrlWrite_refused hgo hc hbad⟩
  · exact ⟨_, congrArg Host.Outcome.next (if_pos hup), templateLoadEnd_open hload hend⟩

end Sys2Proof.Machine
end

section
/-!
SUPPORT. What a store leaves of the bytes that it does not name (O60): of the stacks of the Wells, beside an access of one of them, and of the
nonvolatile area, beside a page program.
-/

namespace Sys2Proof.Machine

open Sys2Proof

set_option Elab.async false

/-! ### Bytes beside a write, as a reader gets them (R382, R383) -/

/-- A range without a word in error loses none to a write. -/
theorem Flips.written_clean {fl : Flips} {a n : Nat} (h : fl.within a n = []) : fl.written a n = fl := by
  refine List.filter_eq_self.mpr fun x hx => ?_
  have hout := List.filter_eq_nil_iff.mp h x hx
  simp only [decide_eq_true_eq, Bool.not_eq_true', decide_eq_false_iff_not] at hout ⊢
  omega

/-- Memories that agree at a byte agree there after the same write. -/
theorem sget_mwrite_congr {d : Nat → Byte} {m m' : Mem} {b : Nat} (a : Nat) (bs : List Byte) (h : sget d m b = sget d m' b) :
    sget d (mwrite d m a bs) b = sget d (mwrite d m' a bs) b := by
  by_cases hb : b < a ∨ a + bs.length ≤ b
  · rw [sget_mwrite_outside m a bs hb, sget_mwrite_outside m' a bs hb, h]
  · obtain ⟨i, rfl⟩ : ∃ i, b = a + i := ⟨b - a, by omega⟩
    have hi : i < bs.length := by omega
    rw [sget_mwrite_inside m a bs hi, sget_mwrite_inside m' a bs hi]

/-- A memory after a word in error has been delivered into it. -/
def delivered (m : Mem) (d : Nat → Byte) (fl : Flips) (v : Mem) (x : Nat × BitVec 80) : Mem :=
  mwrite d v x.1 (toBytes 8 (deliverWord (storedWord m d fl x.1) (x.1 / 8)).toNat)

theorem eccRead_eq (m : Mem) (d : Nat → Byte) (fl : Flips) (a n : Nat) :
    eccRead m d fl a n = mread d ((fl.within a n).foldl (delivered m d fl) m) a n := rfl

/-- Memories that agree at a byte agree there after the same words have been delivered. -/
theorem sget_delivered_congr {d : Nat → Byte} {m m' v v' : Mem} {fl l : Flips} {b : Nat}
    (hw : ∀ x ∈ l, storedWord m d fl x.1 = storedWord m' d fl x.1) (h : sget d v b = sget d v' b) :
    sget d (l.foldl (delivered m d fl) v) b = sget d (l.foldl (delivered m' d fl) v') b := by
  induction l generalizing v v' with
  | nil => exact h
  | cons x t ih =>
    refine ih (fun y hy => hw y (List.mem_cons_of_mem _ hy)) ?_
    unfold delivered
    rw [hw x List.mem_cons_self]
    exact sget_mwrite_congr _ _ h

/-- A reader gets the same byte of memories that agree at it and in the words in error. -/
theorem eccRead_congr {d : Nat → Byte} {m m' : Mem} {fl : Flips} {b : Nat} (hb : sget d m b = sget d m' b)
    (hw : ∀ x ∈ fl, storedWord m d fl x.1 = storedWord m' d fl x.1) : eccRead m d fl b 1 = eccRead m' d fl b 1 := by
  have hwithin : ∀ x ∈ fl.within b 1, storedWord m d fl x.1 = storedWord m' d fl x.1 := fun x hx => hw x (List.mem_of_mem_filter hx)
  rw [eccRead_eq, eccRead_eq, mread_one, mread_one, sget_delivered_congr hwithin hb]

/-- A reader gets a byte beside a write as before, when the write meets no word in error. -/
theorem eccRead_mwrite_outside {m : Mem} {fl : Flips} {a b : Nat} {bs : List Byte} (d : Nat → Byte) (h : fl.within a bs.length = [])
    (hb : b < a ∨ a + bs.length ≤ b) :
    eccRead (mwrite d m a bs) d (fl.written a bs.length) b 1 = eccRead m d fl b 1 := by
  rw [Flips.written_clean h]
  refine eccRead_congr (sget_mwrite_outside m a bs hb) fun x hx => ?_
  have hout := List.filter_eq_nil_iff.mp h x hx
  rw [decide_eq_true_eq] at hout
  unfold storedWord
  rw [mread_mwrite_outside m a bs (by omega)]

section
variable {s t : State} {w : WellNo}

theorem State.stackRead_store {x : WellNo} (h : t.wells[x].store = s.wells[x].store) (b n : Nat) :
    t.stackRead x b n = s.stackRead x b n := by
  obtain ⟨hstack, hflips⟩ := Prod.mk.inj h
  unfold State.stackRead
  rw [hstack, hflips]

theorem State.stackWrite_stackRead_outside {a b : Nat} {bs : List Byte} (hclean : Flips.within s.wells[w].flips a bs.length = [])
    {x : WellNo} (hb : x = w → b < a ∨ a + bs.length ≤ b) : (s.stackWrite w a bs).stackRead x b 1 = s.stackRead x b 1 := by
  by_cases hx : x = w
  · subst hx
    unfold State.stackRead State.stackWrite
    rw [State.modWell_same]
    exact eccRead_mwrite_outside zeroByte hclean (hb rfl)
  · refine State.stackRead_store ?_ b 1
    unfold State.stackWrite
    rw [State.modWell_ne s _ hx]

/-! ### What an operation beside the stacks leaves of the Wells -/

/-- What waits at the channels of a Well, and what it may have to report. -/
def Well.asks (k : Well) : List DramWhy × List WellOpen × List HomeRec := (k.dram.map (·.why), k.opens, k.homes)

/-- `t` has the stacks of `s`, and its Wells have the same to ask and to report. -/
structure StackFrame (s t : State) : Prop where
  chip : t.chip = s.chip
  store : ∀ x : WellNo, t.wells[x].store = s.wells[x].store
  asks : ∀ x : WellNo, t.wells[x].asks = s.wells[x].asks

namespace StackFrame

variable {base : State}

theorem refl (s : State) : StackFrame s s := ⟨rfl, fun _ => rfl, fun _ => rfl⟩

theorem trans {u : State} (h : StackFrame s t) (h' : StackFrame t u) : StackFrame s u :=
  ⟨h'.chip.trans h.chip, fun x => (h'.store x).trans (h.store x), fun x => (h'.asks x).trans (h.asks x)⟩

theorem of_wells (h : StackFrame base s) (hw : t.wells = s.wells) (hc : t.chip = s.chip) : StackFrame base t :=
  h.trans ⟨hc, fun x => by rw [hw], fun x => by rw [hw]⟩

theorem ite {c : Prop} [Decidable c] (ht : StackFrame base t) (hs : StackFrame base s) : StackFrame base (if c then t else s) := by
  split
  · exact ht
  · exact hs

theorem foldl {β : Type} {f : State → β → State} {l : List β} (h : StackFrame base s)
    (hf : ∀ {t : State}, StackFrame base t → ∀ x, StackFrame base (f t x)) : StackFrame base (l.foldl f s) :=
  foldl_keeps (P := StackFrame base) l h fun _ x ht => hf ht x

theorem wr {f v} (h : StackFrame base s) (hf : SVC_ID.reg ≠ f.off) : StackFrame base (s.wr f v) :=
  h.of_wells (State.wr_wells s f v) (State.wr_rd_ne s f SVC_ID.CHIP v hf)

theorem bump {f} (h : StackFrame base s) (hf : SVC_ID.reg ≠ f.off) : StackFrame base (s.bump f) := h.wr hf

theorem raise {code sev data c seq addr} (h : StackFrame base s) : StackFrame base (s.raise code sev data c seq addr) := by
  have hc : (s.raise code sev data c seq addr).chip = s.chip := State.raise_rd _ _ _ _ _ _ _ _ (by decide)
  obtain ⟨_, _, _, _, he⟩ := State.raise_eq s code sev data c seq addr
  exact h.of_wells (by rw [he]) hc

/-- A change of a Well beside its stack, its requests and what it reports. -/
theorem modWell {f} (h : StackFrame base s) (v : WellNo) (hs : (f s.wells[v]).store = s.wells[v].store := by rfl)
    (ha : (f s.wells[v]).asks = s.wells[v].asks := by rfl) : StackFrame base (s.modWell v f) := by
  refine h.trans ⟨rfl, fun x => ?_, fun x => ?_⟩
  all_goals
    by_cases hx : x = v
    · subst hx
      rw [State.modWell_same]
      assumption
    · rw [State.modWell_ne s f hx]

theorem correctedWord {part} (h : StackFrame base s) : StackFrame base (s.correctedWord part) := by
  unfold State.correctedWord
  extract_lets _ _ s1 s2
  have h1 : StackFrame base s1 := h.bump (by decide)
  have h2 : StackFrame base s2 := h1.of_wells rfl rfl
  exact .ite h2.raise h2

theorem countFixed {v a n} (h : StackFrame base s) : StackFrame base (s.countFixed v a n) := .foldl h fun ht _ => ht.correctedWord

/-- The account of an access changes the energy and the row counters of its Well. -/
theorem accDram {v c a rdB wrB} (h : StackFrame base s) : StackFrame base (s.accDram v c a rdB wrB) := by
  have hc : (s.accDram v c a rdB wrB).chip = s.chip :=
    (State.accDram_untouched (l := []) s v c a rdB wrB).rd (f := SVC_ID.CHIP) (by decide) (by decide) (by decide)
  unfold State.accDram
  extract_lets pages fj s1
  have h1 : StackFrame base s1 := h.modWell v
  exact h1.of_wells ((State.accEnergy_wells _ _ _).trans (State.addPair_wells _ _ _ _)) hc

/-- A count of the requests that wait for the host marks them. -/
theorem dramCount {v} (h : StackFrame base s) : StackFrame base (s.dramCount v) := by
  have hcnt : SVC_ID.reg ≠ (WEL_OPENROW_WAIT_CNT.COUNT v).off := by
    rw [show (WEL_OPENROW_WAIT_CNT.COUNT v).off = 0x080034 + 0x2000 * v.val from rfl, SVC_ID.reg]
    omega
  unfold State.dramCount
  extract_lets new s1
  have h1 : StackFrame base s1 := .foldl h fun ht _ => ht.bump hcnt
  refine h1.modWell v rfl (Prod.ext ?_ rfl)
  show (s1.wells[v].dram.map _).map _ = _
  rw [List.map_map]
  refine List.map_congr_left fun x _ => ?_
  dsimp only [Function.comp_apply]
  split
  · rfl
  · rfl

theorem stackRead (h : StackFrame s t) (x : WellNo) (b n : Nat) : t.stackRead x b n = s.stackRead x b n := State.stackRead_store (h.store x) b n

/-- The same bytes written to a Well. -/
theorem stackWrite {v a bs} (h : StackFrame s t) : StackFrame (s.stackWrite v a bs) (t.stackWrite v a bs) := by
  unfold State.stackWrite
  refine ⟨h.chip, fun x => ?_, fun x => ?_⟩
  · by_cases hx : x = v
    · subst hx
      obtain ⟨hstack, hflips⟩ := Prod.mk.inj (h.store x)
      rw [State.modWell_same, State.modWell_same]
      unfold Well.store
      dsimp only
      rw [hstack, hflips]
    · rw [State.modWell_ne _ _ hx, State.modWell_ne _ _ hx]
      exact h.store x
  · by_cases hx : x = v
    · subst hx
      rw [State.modWell_same, State.modWell_same]
      exact h.asks x
    · rw [State.modWell_ne _ _ hx, State.modWell_ne _ _ hx]
      exact h.asks x

end StackFrame

/-! ### Channels at which nothing waits (R239) -/

/-- What is to be reported of a Well's attempts has been. -/
def State.reported (s : State) (w : WellNo) : Bool := s.wells[w].opens.all fun o =>
  !(homeRec s.wells[w].homes (mkHome s.chip w.val) o.ctx o.seq o.att).complete || (o.homeSent && o.finSent)

theorem State.wellQuiet_iff (s : State) (w : WellNo) : s.wellQuiet w = true ↔ s.wells[w].dram = [] ∧ s.reported w = true :=
  Bool.and_eq_true_iff.trans (and_congr_left' beq_iff_eq)

/-- Requests that wait make no report due. -/
theorem State.wellReports_reported (h : s.reported w = true) : s.wellReports w = s := by
  have hall := List.all_eq_true.mp h
  refine List.foldlRecOn (motive := fun t => t = s) _ _ rfl fun t ht o ho => ?_
  rw [ht]
  have hq := hall o ho
  by_cases hc : (homeRec s.wells[w].homes (mkHome s.chip w.val) o.ctx o.seq o.att).complete = true
  · rw [hc] at hq
    obtain ⟨hhome, hfin⟩ := Bool.and_eq_true_iff.mp hq
    simp only [hc, hhome, hfin, Bool.not_true, Bool.false_eq_true, Bool.true_or, if_false, if_true]
  · simp only [hc, Bool.not_false, if_true]

theorem StackFrame.reported (h : StackFrame s t) (hr : s.reported w = true) : t.reported w = true := by
  obtain ⟨-, hasks⟩ := Prod.mk.inj (h.asks w)
  obtain ⟨hopens, hhomes⟩ := Prod.mk.inj hasks
  unfold State.reported at *
  rw [hopens, hhomes, h.chip]
  exact hr

/-- What follows the requests that were granted leaves the stacks. -/
theorem State.counted_frame (hr : s.reported w = true) : StackFrame s ((s.dramCount w).wellReports w) := by
  have h : StackFrame s (s.dramCount w) := (StackFrame.refl s).dramCount
  rw [State.wellReports_reported (h.reported hr)]
  exact h

/-- Channels at which nothing waits have nothing to do. -/
theorem State.dramPump_frame (hd : s.wells[w].dram = []) (hr : s.reported w = true) : StackFrame s (s.dramPump w) := by
  have heq : s.dramPump w = (s.dramCount w).wellReports w := by
    unfold State.dramPump
    rw [hd]
    rfl
  rw [heq]
  exact State.counted_frame hr

theorem StackFrame.quiet (h : StackFrame s t) (hq : s.wellQuiet w = true) : t.wells[w].dram = [] ∧ t.reported w = true := by
  obtain ⟨hd, hr⟩ := (s.wellQuiet_iff w).mp hq
  obtain ⟨hdram, -⟩ := Prod.mk.inj (h.asks w)
  rw [hd] at hdram
  exact ⟨List.map_eq_nil_iff.mp hdram, h.reported hr⟩

/-! ### HOST_COMMAND (R240, R241, R383) -/

/-- A write covers in part no word that stands in error. -/
theorem partWords_clean {fl : Flips} {a n : Nat} (h : fl.within a n = []) :
    ((partWords a n).filter fun x => fl.any fun f => f.1 == x) = [] := by
  refine List.filter_eq_nil_iff.mpr fun x hx hany => ?_
  obtain ⟨f, hf, hfx⟩ := List.any_eq_true.mp hany
  have hout := List.filter_eq_nil_iff.mp h f hf
  obtain ⟨hmem, hpart⟩ := List.mem_filter.mp hx
  simp only [List.mem_dedup, List.mem_cons, List.not_mem_nil, or_false] at hmem
  simp only [Bool.and_eq_true, decide_eq_true_eq, beq_iff_eq] at hpart hfx hout
  omega

theorem State.hostStackWrite_clean {a : Nat} {bs : List Byte} (h : Flips.within s.wells[w].flips a bs.length = []) :
    s.hostStackWrite w a bs = s.stackWrite w a bs := by
  unfold State.hostStackWrite
  rw [partWords_clean h]
  rfl

/-- What a host command stores. -/
def State.hostStored (s : State) (w : WellNo) : HostCmd → State
  | .write a bs => if a + bs.length ≤ stackMib * 2 ^ 20 then s.stackWrite w a bs else s
  | _ => s

theorem StackFrame.hostEnergy {base : State} {fj} (h : StackFrame base s) : StackFrame base (s.hostEnergy w fj) := h.modWell w

theorem StackFrame.activated {base : State} {ch bank row} (h : StackFrame base s) : StackFrame base (s.activated w ch bank row) :=
  .ite h (h.modWell w)

theorem StackFrame.hostStackRead {base : State} {a} (h : StackFrame base s) : StackFrame base (s.hostStackRead w a) := by
  unfold State.hostStackRead
  extract_lets x bad s1
  have h1 : StackFrame base s1 := .foldl h.countFixed fun ht _ =>
    .ite ((ht.bump (by decide)).bump (by decide)) (ht.bump (by decide))
  exact h1.of_wells rfl rfl

theorem State.hostEffect_frame (cmd : HostCmd) (hclean : ∀ a bs, cmd = .write a bs → Flips.within s.wells[w].flips a bs.length = []) :
    StackFrame (s.hostStored w cmd) (s.hostEffect w cmd) := by
  cases cmd with
  | activate ch bank row =>
    unfold State.hostEffect
    dsimp only
    exact (StackFrame.refl s).hostEnergy.activated.modWell w
  | precharge ch bank =>
    unfold State.hostEffect
    dsimp only
    exact (StackFrame.refl s).modWell w
  | read a => exact (StackFrame.refl s).hostEnergy.hostStackRead
  | other => exact .refl s
  | write a bs =>
    have henergy : StackFrame s (s.hostEnergy w (bs.length * s.rd (WEL_COEF_WR.FJ w))) := (StackFrame.refl s).hostEnergy
    obtain ⟨-, hflips⟩ := Prod.mk.inj (henergy.store w)
    unfold State.hostStored State.hostEffect
    dsimp only
    by_cases hin : a + bs.length ≤ stackMib * 2 ^ 20
    · rw [if_pos hin, if_pos hin, State.hostStackWrite_clean (by rw [hflips]; exact hclean a bs rfl)]
      exact henergy.stackWrite
    · rw [if_neg hin, if_neg hin]
      exact .refl s

theorem StackFrame.hostWait {base : State} (h : StackFrame base s) : StackFrame base (s.hostWait w) := by
  have hoff : SVC_ID.reg ≠ (WEL_HOST_WAIT_MAX.NS w).off := by
    rw [show (WEL_HOST_WAIT_MAX.NS w).off = 0x080030 + 0x2000 * w.val from rfl, SVC_ID.reg]
    omega
  unfold State.hostWait
  extract_lets mode n s1
  have h1 : StackFrame base s1 := h.of_wells rfl rfl
  exact .ite h (h1.wr hoff)

theorem hostCommand_frame (cmd : HostCmd) (hclean : ∀ a bs, cmd = .write a bs → Flips.within s.wells[w].flips a bs.length = []) :
    StackFrame ((s.emit (.dram w cmd)).hostStored w cmd) (hostCommand w cmd s) :=
  StackFrame.hostWait (StackFrame.modWell (State.hostEffect_frame (s := s.emit (.dram w cmd)) cmd hclean) w)

/-- A store leaves the requests and reports of its Well. -/
theorem State.hostStored_quiet (cmd : HostCmd) (h : s.wellQuiet w = true) : (s.hostStored w cmd).wellQuiet w = true := by
  cases cmd with
  | write a bs =>
    unfold State.hostStored
    dsimp only
    split
    · exact State.wellQuiet_of (s := s) (by rw [State.stackWrite, State.modWell_same]; exact ((s.wellQuiet_iff w).mp h).1)
        (by rw [State.stackWrite, State.modWell_same]) (by rw [State.stackWrite, State.modWell_same]) rfl h
    · exact h
  | _ => exact h

theorem State.hostStored_stackRead (cmd : HostCmd) (hclean : ∀ a bs, cmd = .write a bs → Flips.within s.wells[w].flips a bs.length = [])
    {x : WellNo} {b : Nat} (hb : x = w → ∀ a bs, cmd = .write a bs → b < a ∨ a + bs.length ≤ b) :
    (s.hostStored w cmd).stackRead x b 1 = s.stackRead x b 1 := by
  cases cmd with
  | write a bs =>
    unfold State.hostStored
    dsimp only
    split
    · exact State.stackWrite_stackRead_outside (hclean a bs rfl) fun hx => hb hx a bs rfl
    · rfl
  | _ => rfl

theorem execHostCommand_stackRead (cmd : HostCmd) (hq : s.wellQuiet w = true)
    (hclean : ∀ a bs, cmd = .write a bs → Flips.within s.wells[w].flips a bs.length = []) {x : WellNo} {b : Nat}
    (hb : x = w → ∀ a bs, cmd = .write a bs → b < a ∨ a + bs.length ≤ b) :
    ((hostCommand w cmd s).dramPump w).stackRead x b 1 = s.stackRead x b 1 := by
  have h := hostCommand_frame cmd hclean
  obtain ⟨hd, hr⟩ := h.quiet (State.hostStored_quiet (s := s.emit (.dram w cmd)) cmd hq)
  rw [(State.dramPump_frame hd hr).stackRead, h.stackRead]
  exact State.hostStored_stackRead (s := s.emit (.dram w cmd)) cmd hclean hb

/-! ### LEDGER_WRITE (R212, R238) -/

section
variable {p : Pkt}

/-- Where a ledger write stores, and how many bytes. -/
def ledgerAt (p : Pkt) : Nat × Nat := (bitsOf p.w1.toNat 0 37, bitsOf p.w2.toNat 0 24)

theorem padTo_length_eq (n : Nat) (bs : List Byte) : (padTo n bs).length = n := by
  unfold padTo slice
  simp only [List.drop_zero, List.length_append, List.length_take, List.length_replicate]
  omega

theorem State.withDram_frame (hd : s.wells[w].dram = []) (l : Vector Nat 4) : StackFrame s (s.withDram w [] l) :=
  (StackFrame.refl s).modWell w rfl (by unfold Well.asks; rw [hd]; rfl)

theorem StackFrame.modAtt {base : State} {c f} (h : StackFrame base s) : StackFrame base (s.modAtt c f) := h.of_wells rfl rfl

theorem State.ledgerStore_frame (s : State) (w : WellNo) (p : Pkt) :
    StackFrame (s.stackWrite w (ledgerAt p).1 (padTo (ledgerAt p).2 p.body)) (s.ledgerStore w p) := by
  unfold State.ledgerStore State.writeDram
  exact (StackFrame.refl _).accDram.modAtt

/-- A request that must wait waits, and leaves the stacks. -/
theorem State.dramAsk_waits {y : DramWhy} (hd : s.wells[w].dram = []) (hr : s.reported w = true) (hbusy : s.dramFree w y = false) (x : WellNo)
    (b n : Nat) : (s.dramAsk w y).stackRead x b n = s.stackRead x b n := by
  let s1 : State := s.withDram w [⟨y, false⟩] s.wells[w].dramLast
  have hask : (s.modWell w fun k => { k with dram := k.dram ++ [⟨y, false⟩] }) = s1 :=
    State.modWell_congr (by rw [hd]; rfl)
  have hdram : s1.wells[w].dram = [⟨y, false⟩] := by
    rw [State.withDram_well]
    rfl
  have hnext : s1.dramNext w = none := by
    unfold State.dramNext
    rw [hdram]
    simp [State.withDram_dramFree, s1, hbusy]
  have hpump : s.dramAsk w y = (s1.dramCount w).wellReports w := by
    unfold State.dramAsk State.dramPump
    rw [hask, hdram]
    unfold State.dramServe
    simp only [List.length_singleton, hnext]
  have hstore : s1.wells[x].store = s.wells[x].store := by
    by_cases hx : x = w
    · subst hx
      rw [State.withDram_well]
      rfl
    · exact congrArg Well.store (State.modWell_ne s _ hx)
  have hr1 : s1.reported w = true := by
    unfold State.reported
    rw [State.withDram_well]
    exact hr
  rw [hpump, (State.counted_frame hr1).stackRead]
  exact State.stackRead_store hstore b n

theorem ledgerWrite_stackRead_outside (hq : s.wellQuiet w = true)
    (hclean : Flips.within s.wells[w].flips (ledgerAt p).1 (ledgerAt p).2 = []) {x : WellNo} {b : Nat}
    (hb : x = w → b < (ledgerAt p).1 ∨ (ledgerAt p).1 + (ledgerAt p).2 ≤ b) : (ledgerWrite w p s).stackRead x b 1 = s.stackRead x b 1 := by
  obtain ⟨hd, hr⟩ := (s.wellQuiet_iff w).mp hq
  unfold ledgerWrite
  split
  · exact ((StackFrame.refl s).bump (by decide) |>.of_wells (t := s.stalePkt p) rfl rfl).stackRead x b 1
  · cases hfree : s.dramFree w (.ledgerWrite p) with
    | false => exact State.dramAsk_waits hd hr hfree x b 1
    | true =>
      obtain ⟨l, hask⟩ := State.dramAsk_free hd hfree
      have hdram : StackFrame s (s.withDram w [] l) := State.withDram_frame hd l
      have hstored : StackFrame (s.stackWrite w (ledgerAt p).1 (padTo (ledgerAt p).2 p.body)) ((s.withDram w [] l).ledgerStore w p) :=
        hdram.stackWrite.trans (State.ledgerStore_frame _ w p)
      have hquiet : (s.stackWrite w (ledgerAt p).1 (padTo (ledgerAt p).2 p.body)).reported w = true := by
        unfold State.reported State.stackWrite
        rw [State.modWell_same]
        exact hr
      have hlen := padTo_length_eq (ledgerAt p).2 p.body
      rw [hask]
      show (((State.ledgerStore _ w p).dramCount w).wellReports w).stackRead x b 1 = _
      rw [(State.counted_frame (hstored.reported hquiet)).stackRead, hstored.stackRead]
      exact State.stackWrite_stackRead_outside (by rw [hlen]; exact hclean) (by rw [hlen]; exact hb)

end

/-! ### MIR_DATA (R391) -/

/-- A line that repairs an SRAM of a Hub leaves the bytes beside it, and the other SRAM. -/
theorem HubCore.putLine_outside (h : HubCore) (space : Nat) (bs : List Byte) {off b : Nat} (hb : b < off ∨ off + 64 ≤ b) :
    mread zeroByte (h.putLine space off bs).router b 1 = mread zeroByte h.router b 1 ∧
      mread tblDefault (h.putLine space off bs).table b 1 = mread tblDefault h.table b 1 := by
  have hout : b + 1 ≤ off ∨ off + (padTo 64 bs).length ≤ b := by
    rw [padTo_length_eq]
    omega
  unfold HubCore.putLine
  split
  · exact ⟨mread_mwrite_outside _ _ _ hout, rfl⟩
  · exact ⟨rfl, mread_mwrite_outside _ _ _ hout⟩

theorem HubCore.putLine_side (h : HubCore) (space off : Nat) (bs : List Byte) : (h.putLine space off bs).side = h.side := by
  unfold HubCore.putLine
  split
  · rfl
  · rfl

theorem mirData_outside (s : State) (side : Side) (space : Nat) (bad : Bool) (bs : List Byte) {off b : Nat} (hb : b < off ∨ off + 64 ≤ b) :
    mread zeroByte ((mirData side space off bad bs s).hub side).router b 1 = mread zeroByte (s.hub side).router b 1 ∧
      mread tblDefault ((mirData side space off bad bs s).hub side).table b 1 = mread tblDefault (s.hub side).table b 1 := by
  unfold mirData
  extract_lets _ s1
  split
  · exact ⟨rfl, rfl⟩
  · rw [State.hub_modHub s1 side _ fun k => k.putLine_side space off bs]
    exact (s.hub side).putLine_outside space bs hb

/-! ### PAGE_PROGRAM_DONE (R375, R418) -/

theorem toBytes_length (n v : Nat) : (toBytes n v).length = n := by
  induction n generalizing v with
  | zero => rfl
  | succ n ih => exact congrArg (· + 1) (ih _)

theorem recBytes_length (e : RecEntry) : (recBytes e).length = 64 := by
  have hsnap : (((List.range 6).map fun i => toBytes 4 (((e.snap.getD []).getD i 0).toNat)).flatten).length = 24 := by
    simp only [List.length_flatten, List.map_map, Function.comp_def, toBytes_length]
    rfl
  unfold recBytes
  extract_lets w0 body
  simp only [body, List.length_append, toBytes_length, hsnap]

/-- Up to four records are a page of 256 bytes. -/
theorem records_length {l : List RecEntry} (h : l.length ≤ 4) :
    ((l.map recBytes).flatten ++ List.replicate (256 - ((l.map recBytes).flatten).length) (0xFF#8 : Byte)).length = 256 := by
  have hsum : ((l.map recBytes).flatten).length = 64 * l.length := by
    simp only [List.length_flatten, List.map_map, Function.comp_def, recBytes_length, List.map_const', List.sum_replicate, smul_eq_mul]
    omega
  rw [List.length_append, List.length_replicate, hsum]
  omega

theorem State.nextPage_nvm (s : State) : s.nextPage.nvm = s.nvm := by
  unfold State.nextPage
  extract_lets r s1
  split
  · rfl
  · rfl

/-- The sector that takes the page is the one being written, or is opened: then its header is written. -/
theorem State.openSector_nvm {y : State} {x : Sector} (h : s.openSector = some (y, x)) : y.evr.page = s.evr.page ∧
    (y.nvm = s.nvm ∨ ∃ z, y.nvm = mwrite nvByte s.nvm (s.sectorAddr x.idx) (sectorHead z)) := by
  unfold State.openSector at h
  split at h
  · obtain ⟨rfl, rfl⟩ := Prod.mk.inj (Option.some.inj h)
    exact ⟨rfl, .inl rfl⟩
  · obtain ⟨z, -, hz⟩ := Option.map_eq_some_iff.mp h
    obtain ⟨rfl, rfl⟩ := Prod.mk.inj hz
    exact ⟨rfl, .inr ⟨_, rfl⟩⟩

theorem sectorHead_length (x : Sector) : (sectorHead x).length = 8 := by
  unfold sectorHead
  rw [List.length_append, toBytes_length, toBytes_length]

/-- The page that a program writes. -/
def pageBytes (l : List RecEntry) : List Byte :=
  (l.map recBytes).flatten ++ List.replicate (256 - ((l.map recBytes).flatten).length) 0xFF#8

theorem State.pageDone_nvm {y : State} {x : Sector} (h : s.openSector = some (y, x)) :
    (s.pageDone true).nvm = mwrite nvByte y.nvm (y.sectorAddr x.idx + 64 * x.next) (pageBytes y.evr.page) := by
  unfold State.pageDone
  rw [h]
  rfl

theorem pageProgramDone_nvm_outside {y : State} {x : Sector} (h : s.openSector = some (y, x)) (he : s.evr.eraseOf = none)
    (hpage : s.evr.page.length ≤ 4) {b : Nat}
    (hb : b < y.sectorAddr x.idx + 64 * x.next ∨ y.sectorAddr x.idx + 64 * x.next + 256 ≤ b) :
    mread nvByte (pageProgramDone true s).nvm b 1 = mread nvByte s.nvm b 1 ∨ (s.sectorAddr x.idx ≤ b ∧ b < s.sectorAddr x.idx + 8) := by
  obtain ⟨hsame, hnvm⟩ := State.openSector_nvm h
  unfold pageProgramDone
  rw [he]
  dsimp only
  split
  · exact .inl rfl
  · have hlen : (pageBytes y.evr.page).length = 256 := records_length (by rw [hsame]; exact hpage)
    rw [State.nextPage_nvm, State.pageDone_nvm h, mread_mwrite_outside _ _ _ (by rw [hlen]; omega)]
    rcases hnvm with hnvm | ⟨z, hnvm⟩
    · exact .inl (by rw [hnvm])
    · rw [hnvm]
      by_cases hhead : s.sectorAddr x.idx ≤ b ∧ b < s.sectorAddr x.idx + 8
      · exact .inr hhead
      · exact .inl (mread_mwrite_outside _ _ _ (by rw [sectorHead_length]; omega))

end

/-- Settles O60: a store meets no word in error, so every other byte is read from the same memory; what follows it leaves the memories. -/
theorem storeFrame : Obligations.StoreFrame := by
  intro s t
  refine ⟨fun w cmd hq hclean he x b hb => ?_, fun w p hq hclean he x b hb => ?_, fun off data hlen he b hb => ?_,
    fun side sp off bad bs he b hb => ?_, fun y x hopen hera hpage he b hb => ?_⟩
  · rw [← Host.Outcome.next.inj he]
    exact execHostCommand_stackRead cmd hq hclean hb
  · rw [← Host.Outcome.next.inj he]
    split
    · exact ledgerWrite_stackRead_outside hq hclean hb
    · rfl
  · rw [← Host.Outcome.next.inj he]
    split
    · rw [if_pos rfl, State.slaveWriteOf_cistern hlen]
      exact mread_mwrite_outside _ _ _ (by omega)
    · rfl
  · rw [← Host.Outcome.next.inj he]
    split
    · exact mirData_outside s side sp bad bs hb
    · exact ⟨rfl, rfl⟩
  · rw [← Host.Outcome.next.inj he]
    split
    · exact pageProgramDone_nvm_outside hopen hera hpage hb
    · exact .inl rfl

end Sys2Proof.Machine
end

section
/-!
SUPPORT. What the operations that dispatch, combine and grant leave: the requester last served, the host-path queues, the next window of
every attempt and `PMP_Q_CTRL.FLUSH`. The relation has a rule per operation.
-/

namespace Sys2Proof.Machine

open Sys2Proof

set_option Elab.async false

/-! ### The relation -/

/-- `t` has the requester last granted a buffer, the host-path queues, the next window of every attempt and the FLUSH bit as `s` has them. -/
structure AdmitFrame (s t : State) : Prop where
  last : t.cist.last = s.cist.last
  queues : t.work.queues = s.work.queues
  next : ∀ c : Ctx, (t.work.att[c]).map Attempt.nextWin = (s.work.att[c]).map Attempt.nextWin
  flush : t.rd PMP_Q_CTRL.FLUSH = s.rd PMP_Q_CTRL.FLUSH

variable {base s t : State}

theorem AdmitFrame.refl (s : State) : AdmitFrame s s := ⟨rfl, rfl, fun _ => rfl, rfl⟩

theorem AdmitFrame.trans {u : State} (h : AdmitFrame s t) (h' : AdmitFrame t u) : AdmitFrame s u :=
  ⟨h'.last.trans h.last, h'.queues.trans h.queues, fun c => (h'.next c).trans (h.next c), h'.flush.trans h.flush⟩

/-- An update of what lies beside the registers. -/
theorem AdmitFrame.upd {out free mch tick evq evr host ports landed routeWait wells work cist chan corrected} (h : AdmitFrame base s)
    (hl : cist.last = s.cist.last := by rfl) (hq : work.queues = s.work.queues := by rfl)
    (hn : ∀ c : Ctx, (work.att[c]).map Attempt.nextWin = (s.work.att[c]).map Attempt.nextWin := by exact fun _ => rfl) :
    AdmitFrame base { s with
      out := out, free := free, mch := mch, tick := tick, evq := evq, evr := evr, host := host, ports := ports, landed := landed
      routeWait := routeWait, wells := wells, work := work, cist := cist, chan := chan, corrected := corrected } :=
  h.trans ⟨hl, hq, hn, rfl⟩

/-- What traffic changes, beside the Cistern's last requester and the work of the Hub. -/
theorem AdmitFrame.traffic (h : AdmitFrame base s) (ht : UpToTraffic s t) (hl : t.cist.last = s.cist.last) (hw : t.work = s.work) :
    AdmitFrame base t :=
  h.trans ⟨hl, congrArg Work.queues hw, fun c => by rw [hw], ht.rd _ (by decide) (by decide)⟩

theorem AdmitFrame.ite {c : Prop} [Decidable c] (ht : AdmitFrame base t) (hs : AdmitFrame base s) : AdmitFrame base (if c then t else s) := by
  split
  · exact ht
  · exact hs

theorem AdmitFrame.fst {α : Type} {x : State × α} {a : α} (h : AdmitFrame base x.1) (he : x = (t, a)) : AdmitFrame base t := by
  rw [he] at h
  exact h

theorem AdmitFrame.foldl {β : Type} {f : State → β → State} {l : List β} (h : AdmitFrame base s)
    (hf : ∀ {t : State}, AdmitFrame base t → ∀ x, AdmitFrame base (f t x)) : AdmitFrame base (l.foldl f s) :=
  foldl_keeps (P := AdmitFrame base) l h fun _ x ht => hf ht x

/-! ### Registers, steps and events -/

theorem AdmitFrame.wr {f v} (h : AdmitFrame base s) (hf : PMP_Q_CTRL.FLUSH.off ≠ f.off) : AdmitFrame base (s.wr f v) :=
  h.trans ⟨congrArg Cistern.last (s.wr_cist f v), congrArg Work.queues (s.wr_work f v), fun c => by rw [s.wr_work f v],
    State.wr_rd_ne _ _ _ _ hf⟩

theorem AdmitFrame.bumpBy {f n} (h : AdmitFrame base s) (hf : PMP_Q_CTRL.FLUSH.off ≠ f.off) : AdmitFrame base (s.bumpBy f n) := h.wr hf

theorem AdmitFrame.bump {f} (h : AdmitFrame base s) (hf : PMP_Q_CTRL.FLUSH.off ≠ f.off) : AdmitFrame base (s.bump f) := h.wr hf

theorem AdmitFrame.setCore {m} (h : AdmitFrame base s) : AdmitFrame base (s.setCore m) := h.trans ⟨rfl, rfl, fun _ => rfl, rfl⟩

theorem AdmitFrame.modStep {c p f} (h : AdmitFrame base s) : AdmitFrame base (s.modStep c p f) := h.setCore

theorem AdmitFrame.emit {e} (h : AdmitFrame base s) : AdmitFrame base (s.emit e) := h.upd

theorem AdmitFrame.raiseEv {e} (h : AdmitFrame base s) : AdmitFrame base (s.raiseEv e) := by
  obtain ⟨_, _, _, _, he⟩ := State.raiseEv_eq s e
  exact h.traffic (s.raiseEv_traffic e) (by rw [he]) (by rw [he])

theorem AdmitFrame.raise {code sev data c seq addr} (h : AdmitFrame base s) : AdmitFrame base (s.raise code sev data c seq addr) := h.raiseEv

theorem AdmitFrame.rasIrq {f} (h : AdmitFrame base s) (hf : PMP_Q_CTRL.FLUSH.off ≠ f.off) : AdmitFrame base (s.rasIrq f) :=
  .ite (.ite (h.wr hf).emit (h.wr hf)) h

/-- A peer is frozen in one of two registers (R391). -/
theorem AdmitFrame.setFrozenPeer {d data2} (h : AdmitFrame base s) : AdmitFrame base (s.setFrozen (.peer d) data2) := by
  unfold State.setFrozen
  exact .rasIrq (.raiseEv (.ite (h.wr (by decide)) (h.wr (by decide)))) (by decide)

/-- A counter pair of the accounts. -/
theorem AdmitFrame.addPair {lo hi n} (h : AdmitFrame base s) (hlo : accounting lo.off = true) (hhi : accounting hi.off = true) :
    AdmitFrame base (s.addPair lo hi n) := by
  obtain ⟨_, _, _, he⟩ := State.wr2_eq s lo hi ((s.rd2 lo hi + n) % 2 ^ 64)
  refine h.traffic (s.addPair_traffic lo hi n hlo hhi) ?_ ?_
  · unfold State.addPair
    rw [he]
  · unfold State.addPair
    rw [he]

theorem AdmitFrame.accCyc {c n} (h : AdmitFrame base s) : AdmitFrame base (s.accCyc c n) :=
  h.addPair (accounting_at c (k := 0x28) (by decide) (by decide)) (accounting_at c (k := 0x2C) (by decide) (by decide))

theorem AdmitFrame.accEnergy {c fj} (h : AdmitFrame base s) : AdmitFrame base (s.accEnergy c fj) :=
  h.upd.addPair (accounting_at c (k := 0x48) (by decide) (by decide)) (accounting_at c (k := 0x4C) (by decide) (by decide))

theorem AdmitFrame.accHost {c n} (h : AdmitFrame base s) : AdmitFrame base (s.accHost c n) :=
  .accEnergy (h.addPair (accounting_at c (k := 0x40) (by decide) (by decide)) (accounting_at c (k := 0x44) (by decide) (by decide)))

theorem AdmitFrame.accIssue {r} (h : AdmitFrame base s) : AdmitFrame base (s.accIssue r) := by
  unfold State.accIssue
  split
  · exact h.accHost
  · exact h

theorem AdmitFrame.issueOne {r} (h : AdmitFrame base s) : AdmitFrame base (s.issueOne r) := by
  unfold State.issueOne
  extract_lets sl
  split
  · exact .ite h.upd h.upd.accIssue.emit
  · exact h.upd

theorem AdmitFrame.hostWrite {why addr bytes} (h : AdmitFrame base s) : AdmitFrame base (s.hostWrite why addr bytes) :=
  .foldl h fun ht _ => ht.issueOne

/-! ### Packets that leave and are taken -/

theorem AdmitFrame.modWell {w f} (h : AdmitFrame base s) : AdmitFrame base (s.modWell w f) := h.upd

theorem AdmitFrame.landHere {pkt hold release} (h : AdmitFrame base s) : AdmitFrame base (s.landHere pkt hold release) := h.upd

theorem AdmitFrame.release {n} (h : AdmitFrame base s) : AdmitFrame base (s.release n) := by
  obtain ⟨_, _, _, he⟩ := State.release_eq s n
  rw [he]
  exact h.upd

theorem AdmitFrame.releaseAll {hs} (h : AdmitFrame base s) : AdmitFrame base (s.releaseAll hs) := .foldl h fun ht _ => ht.release

theorem AdmitFrame.releaseOpt {x} (h : AdmitFrame base s) : AdmitFrame base (s.releaseOpt x) := by
  unfold State.releaseOpt
  split
  · exact h.release
  · exact h

theorem AdmitFrame.sendAbort {c seq att cause detail} (h : AdmitFrame base s) : AdmitFrame base (s.sendAbort c seq att cause detail) := by
  obtain ⟨_, _, _, _, _, _, _, _, he⟩ := State.sendAbort_eq s c seq att cause detail
  exact h.traffic (s.sendAbort_traffic c seq att cause detail) (by rw [he]) (by rw [he])

theorem AdmitFrame.noticeLive {c cause detail} (h : AdmitFrame base s) : AdmitFrame base (s.noticeLive c cause detail) := by
  unfold State.noticeLive
  split
  · exact h.sendAbort
  · exact h

theorem AdmitFrame.freezePeer {d d2} (h : AdmitFrame base s) : AdmitFrame base (s.freezePeer d d2) :=
  .ite h (.foldl h.setFrozenPeer fun ht _ => .ite ht.noticeLive ht)

theorem AdmitFrame.send {pkt release sub} (h : AdmitFrame base s) : AdmitFrame base (s.send pkt release sub) := by
  obtain ⟨_, _, _, _, _, _, _, _, _, _, _, he⟩ := State.send_eq s pkt release sub
  exact h.traffic (s.send_traffic pkt release sub) (by rw [he]) (by rw [he])

theorem AdmitFrame.sendWell {w pkt release} (h : AdmitFrame base s) : AdmitFrame base (s.sendWell w pkt release) := by
  obtain ⟨_, _, _, _, he⟩ := State.sendWell_eq s w pkt release
  rw [he]
  exact h.upd

theorem AdmitFrame.sendMaster {ptype c seq att w1} (h : AdmitFrame base s) : AdmitFrame base (s.sendMaster ptype c seq att w1) := by
  obtain ⟨_, _, _, _, _, _, _, _, _, _, _, he⟩ := State.sendMaster_eq s ptype c seq att w1
  exact h.traffic (s.sendMaster_traffic ptype c seq att w1) (by rw [he]) (by rw [he])

theorem AdmitFrame.freeHold {x} (h : AdmitFrame base s) : AdmitFrame base (s.freeHold x) := by
  obtain ⟨_, _, _, he⟩ := State.freeHold_eq s x
  rw [he]
  exact h.upd

theorem AdmitFrame.takeRaw {p} (h : AdmitFrame base s) : AdmitFrame base (s.takeRaw p).1 := by
  unfold State.takeRaw
  split
  · exact h.upd
  · exact h

theorem AdmitFrame.takeWith {p} (h : AdmitFrame base s) : AdmitFrame base (s.takeWith p).1 := h.takeRaw.freeHold

theorem AdmitFrame.takeLanded {p} (h : AdmitFrame base s) : AdmitFrame base (s.takeLanded p) := h.takeWith.releaseAll

theorem AdmitFrame.stalePkt {p} (h : AdmitFrame base s) : AdmitFrame base (s.stalePkt p) := .upd (h.bump (by decide))

theorem AdmitFrame.progress {c} (h : AdmitFrame base s) : AdmitFrame base (s.progress c) := by
  unfold State.progress
  split
  · exact .ite h h.modStep.sendMaster
  · exact h

theorem AdmitFrame.countError {p home expert filled landed kind} (h : AdmitFrame base s) :
    AdmitFrame base (s.countError p home expert filled landed kind) := .sendAbort (.raise (h.bump (by decide)))

/-! ### Buffers and words in error -/

theorem AdmitFrame.markWaits (h : AdmitFrame base s) : AdmitFrame base s.markWaits := .upd (.ite h (h.bumpBy (by decide)))

theorem AdmitFrame.cistAsk {q n why} (h : AdmitFrame base s) : AdmitFrame base (s.cistAsk q n why) := h.upd.markWaits

theorem AdmitFrame.bufWrite {x bs} (h : AdmitFrame base s) : AdmitFrame base (s.bufWrite x bs) := h.upd

theorem AdmitFrame.correctedWord {part} (h : AdmitFrame base s) : AdmitFrame base (s.correctedWord part) := by
  unfold State.correctedWord
  extract_lets _ _ s1 s2
  have h1 : AdmitFrame base s1 := h.bump (by decide)
  exact .ite h1.upd.raise h1.upd

theorem AdmitFrame.readDram {w c a n} (h : AdmitFrame base s) : AdmitFrame base (s.readDram w c a n) := by
  have hfixed : AdmitFrame base (s.countFixed w a n) := .foldl h fun ht _ => ht.correctedWord
  exact .accEnergy (hfixed.modWell.addPair (accounting_at c (k := 0x38) (by decide) (by decide))
    (accounting_at c (k := 0x3C) (by decide) (by decide)))

/-- The words that a good read of the SRAM corrects are counted. -/
theorem AdmitFrame.touchSram {space a n c} (h : AdmitFrame base s) (hgood : (s.touchSram space a n c).2 = true) :
    AdmitFrame base (s.touchSram space a n c).1 := by
  unfold State.touchSram at hgood ⊢
  dsimp only at hgood ⊢
  cases hbad : s.act.sramBad space a n with
  | nil => exact .foldl h fun ht _ => ht.correctedWord
  | cons x l =>
    rw [hbad] at hgood
    cases hgood

/-! ### The work of an attempt -/

theorem AdmitFrame.modAtt {c f} (h : AdmitFrame base s) (hf : ∀ a, (f a).nextWin = a.nextWin := by exact fun _ => rfl) :
    AdmitFrame base (s.modAtt c f) := by
  refine h.upd (hn := fun x => ?_)
  rw [Fin.getElem_fin, Fin.getElem_fin, Vector.getElem_set]
  split
  · next he =>
    obtain rfl : c = x := Fin.ext he
    rw [Option.map_map, show Attempt.nextWin ∘ f = Attempt.nextWin from funext hf, Fin.getElem_fin]
  · rfl

theorem AdmitFrame.modTok {c t f} (h : AdmitFrame base s) : AdmitFrame base (s.modTok c t f) := h.modAtt

theorem AdmitFrame.emitRow {c t els} (h : AdmitFrame base s) : AdmitFrame base (s.emitRow c t els) := by
  unfold State.emitRow
  split
  · exact h
  · exact h.hostWrite.modTok.progress

theorem AdmitFrame.satHub {n} (h : AdmitFrame base s) : AdmitFrame base (s.satHub n) := .ite h (h.bumpBy (by decide))

theorem AdmitFrame.emit32 {c t row} (h : AdmitFrame base s) : AdmitFrame base (s.emit32 c t row) := h.satHub.emitRow

theorem AdmitFrame.writeAux {c t dws} (h : AdmitFrame base s) : AdmitFrame base (s.writeAux c t dws) := by
  unfold State.writeAux
  split
  · split
    · exact h
    · exact h.satHub.hostWrite
  · exact h

theorem AdmitFrame.finishTok {c m} (h : AdmitFrame base s) : AdmitFrame base (s.finishTok c m) := by
  unfold State.finishTok
  split
  · exact h
  · have h1 : AdmitFrame base (s.emit32 c m.t m.acc) := h.emit32
    exact .ite h.upd (.upd (.ite h1.writeAux h1))

theorem AdmitFrame.combineStarts {c} (h : AdmitFrame base s) : AdmitFrame base (s.combineStarts c) := by
  unfold State.combineStarts
  split
  · exact h
  · exact .ite h (.ite h.modStep.raise h.modStep)

theorem AdmitFrame.expectTok {c t n} (h : AdmitFrame base s) : AdmitFrame base (s.expectTok c t n) := by
  unfold State.expectTok
  extract_lets s1
  have h1 : AdmitFrame base s1 := h.combineStarts
  split
  · exact h1
  · next st _ =>
    have h2 : AdmitFrame base (s1.bump CMB_EMPTY_CNT.COUNT) := h1.bump (by decide)
    exact .ite (.ite h2.upd (.ite h2.emitRow.writeAux h2.emitRow)) h1.upd

theorem AdmitFrame.addRank {p} (h : AdmitFrame base s) : AdmitFrame base (s.addRank p) := by
  unfold State.addRank
  split
  · exact h
  · exact .ite h.upd.finishTok h.upd

theorem AdmitFrame.pumpParked {n} (h : AdmitFrame base s) : AdmitFrame base (s.pumpParked n) := by
  induction n generalizing s with
  | zero => exact h
  | succ n ih =>
    unfold State.pumpParked
    split
    · exact h
    · exact ih (.addRank (.releaseOpt h.upd))

theorem AdmitFrame.park {m p bf hold} (h : AdmitFrame base s) : AdmitFrame base (s.park m p bf hold) :=
  .ite h.freeHold.upd (.cistAsk (h.bump (by decide)))

theorem AdmitFrame.meadReturn {st p hold} (h : AdmitFrame base s) : AdmitFrame base (s.meadReturn st p hold) := by
  rw [show @State.meadReturn = _ by delta State.meadReturn; rfl]
  extract_lets c token rank ranks x bad
  have hbad : AdmitFrame base (bad s) := .raise (h.freeHold.bump (by decide))
  cases s.mead c x with
  | none => exact hbad
  | some m => exact .ite hbad (.ite h.freeHold.addRank.pumpParked h.park)

/-! ### Packets that wait to be taken (R184, R197-R199) -/

theorem AdmitFrame.landCheck {p} (h : AdmitFrame base s) (he : s.landCheck p = some t) : AdmitFrame base t := by
  unfold State.landCheck at he
  dsimp only at he
  split_ifs at he
  · exact Option.some.inj he ▸ h.takeLanded
  all_goals exact Option.some.inj he ▸ h.takeLanded.freezePeer

theorem AdmitFrame.keepLanded {p queue} (h : AdmitFrame base s) : AdmitFrame base (s.keepLanded p queue) := by
  unfold State.keepLanded
  extract_lets s1 s2
  have h1 : AdmitFrame base s1 := .ite h h.landHere
  have h2 : AdmitFrame base s2 := .ite (h1.bump (by decide)) h1
  exact h2.upd

theorem AdmitFrame.returnPacket {p} (h : AdmitFrame base s) : AdmitFrame base (returnPacket p s) := by
  unfold Machine.returnPacket
  refine .ite h.keepLanded ?_
  extract_lets hold r s0
  have h0 : AdmitFrame base s0 := h.takeRaw.releaseAll
  split
  · exact h0.freeHold.stalePkt
  · exact .ite h0.freeHold.upd.countError h0.meadReturn.progress

theorem AdmitFrame.dispatchHost {p} (h : AdmitFrame base s) : AdmitFrame base (s.dispatchHost p) :=
  .ite h (.ite h.takeLanded.countError (.ite h.keepLanded h.keepLanded.cistAsk.progress))

theorem AdmitFrame.passWell {w p} (h : AdmitFrame base s) : AdmitFrame base (s.passWell w p) := by
  unfold State.passWell
  exact h.takeWith.sendWell.modWell

theorem AdmitFrame.dispatchAbsent {p} (h : AdmitFrame base s) : AdmitFrame base (s.dispatchAbsent p) := by
  unfold State.dispatchAbsent
  extract_lets _ s1
  have h1 : AdmitFrame base s1 := h.takeLanded
  split
  · exact h1
  · exact .ite h1 h1.modAtt.sendAbort

theorem AdmitFrame.dispatch {p} (h : AdmitFrame base s) : AdmitFrame base (dispatch p s) := by
  unfold Machine.dispatch
  split
  · next he => exact h.landCheck he
  · refine .ite h.keepLanded ?_
    split
    · exact h.takeLanded.stalePkt
    · refine .ite h.takeLanded.countError (.ite h.dispatchHost ?_)
      split
      · exact .ite h.takeLanded h.passWell
      · exact h.dispatchAbsent

theorem AdmitFrame.retryHub (h : AdmitFrame base s) : AdmitFrame base s.retryHub := .foldl h fun ht _ => .ite ht.dispatch ht.returnPacket

theorem AdmitFrame.wellSwitch {w c} (h : AdmitFrame base s) : AdmitFrame base (s.wellSwitch w c) := by
  unfold State.wellSwitch
  split
  · exact h.modWell
  · exact .ite h (.modWell (.accCyc (.wr (h.bumpBy (by decide)) (by decide))))

theorem AdmitFrame.wellGrant {w} (h : AdmitFrame base s) : AdmitFrame base (s.wellGrant w) := by
  unfold State.wellGrant
  extract_lets _ _ _
  refine .ite h ?_
  split
  · exact h
  · split
    · exact h
    · exact h.modWell.wellSwitch

theorem AdmitFrame.scoreRowTake {w p} (h : AdmitFrame base s) : AdmitFrame base (s.scoreRowTake w p) := h.modWell.wellGrant

theorem AdmitFrame.wellLand {w p} (h : AdmitFrame base s) (he : s.wellLand w p = .taken t) : AdmitFrame base t := by
  unfold State.wellLand at he
  dsimp only at he
  split at he
  · exact Rx.taken.inj he ▸ h.stalePkt
  · split at he
    · cases he
    · split_ifs at he
      · exact Rx.taken.inj he ▸ h.countError
      · exact Rx.taken.inj he ▸ h.countError
      · exact Rx.taken.inj he ▸ h.modWell.progress
      · exact Rx.taken.inj he ▸ h.modWell.progress

theorem AdmitFrame.rxHead {w p} (h : AdmitFrame base s) (he : s.rxHead w p = .taken t) : AdmitFrame base t := by
  unfold State.rxHead at he
  split at he
  · split at he
    · exact Rx.taken.inj he ▸ h.stalePkt
    · split_ifs at he
      exact Rx.taken.inj he ▸ h.scoreRowTake
  · exact h.wellLand he

theorem AdmitFrame.rxPump {n w} (h : AdmitFrame base s) : AdmitFrame base (State.rxPump n w s) := by
  induction n generalizing s with
  | zero => exact h
  | succ n ih =>
    unfold State.rxPump
    split
    · exact h
    · split
      · next he => exact ih (h.modWell.rxHead he)
      · exact h
      · exact .ite h (.modWell (h.bump (by decide)))

theorem AdmitFrame.retryLanded (h : AdmitFrame base s) : AdmitFrame base s.retryLanded := .foldl h.retryHub fun ht _ => ht.rxPump

/-! ### What a window sends (R154, R159, R168) -/

theorem AdmitFrame.settle {c st l t} (h : AdmitFrame base s) : AdmitFrame base (s.settle c st l t) := by
  unfold State.settle
  split
  · exact h
  · next tk _ =>
    refine .ite h ?_
    extract_lets r s1 s2
    have h1 : AdmitFrame base s1 := h.satHub.modTok
    have h2 : AdmitFrame base s2 := .ite (.modAtt (h1.bump (by decide))) h1
    exact .ite h2 h2.hostWrite

theorem AdmitFrame.stage {c st t} (h : AdmitFrame base s) : AdmitFrame base (s.stage c st t) := by
  unfold State.stage
  split
  · exact h
  · exact .ite h.expectTok.cistAsk h.expectTok

theorem AdmitFrame.writeLedger {c st} (h : AdmitFrame base s) : AdmitFrame base (s.writeLedger c st) :=
  .ite h.raise (.foldl h.setCore fun ht _ => .foldl ht fun hu _ => hu.modAtt.sendWell)

theorem AdmitFrame.pump {c n} (h : AdmitFrame base s) : AdmitFrame base (State.pump c n s) := by
  induction n generalizing s with
  | zero => exact h
  | succ n ih =>
    unfold State.pump
    split
    · exact ih h.modAtt.send
    · exact h

theorem AdmitFrame.sendEods {c} (h : AdmitFrame base s) : AdmitFrame base (s.sendEods c) := .ite h (.foldl h fun ht _ => by
    split
    · exact .ite ht ht.modAtt.send
    · exact ht)

theorem AdmitFrame.pumpCtx {c} (h : AdmitFrame base s) : AdmitFrame base (s.pumpCtx c) := h.pump.sendEods

theorem AdmitFrame.tokenVec {c st tk} (h : AdmitFrame base s) : AdmitFrame base (s.tokenVec c st tk).1 := by
  unfold State.tokenVec
  dsimp only
  split
  · exact h.upd
  · exact h

theorem AdmitFrame.staged {c t x} (h : AdmitFrame base s) : AdmitFrame base (s.staged c t x) := by
  unfold State.staged
  split
  · exact h.tokenVec.bufWrite.modTok.pumpCtx
  · exact h.release

theorem AdmitFrame.parkGranted {p n x} (h : AdmitFrame base s) : AdmitFrame base (s.parkGranted p n x) := h.bufWrite.upd.pumpParked

/-! ### The windows of Admission (R154) -/

theorem AdmitFrame.admIdle (h : AdmitFrame base s) : AdmitFrame base s.admIdle := h.upd

theorem AdmitFrame.mapRead {c st} (h : AdmitFrame base s) : AdmitFrame base (s.mapRead c st) := by
  unfold State.mapRead
  refine .ite h ?_
  split
  · exact h.readDram
  · exact h

/-- What the frame says of an attempt that the Hub holds. -/
theorem AdmitFrame.attempt (h : AdmitFrame s t) {c : Ctx} {a : Attempt} (ha : s.work.att[c] = some a) :
    ∃ b, t.work.att[c] = some b ∧ b.nextWin = a.nextWin := by
  have hn := h.next c
  rw [ha, Option.map_some, Option.map_eq_some_iff] at hn
  exact hn

section
variable {c : Ctx} {st : Step} {a : Attempt} {toks : List Token} {d0 d : Vector Int 16}

/-- A window decided over intact tables moves the next window on by its length. -/
theorem State.admitWindow_next (hst : s.liveStep c = some st) (ha : s.work.att[c] = some a) (hwin : s.window c st a = some toks)
    (hmap : s.mapCheck c st = none) (hsram : ((s.mapRead c st).touchSram 2 (tblBase c st.bank) 32768 c).2 = true) :
    ∃ b, (s.admitWindow c d0).work.att[c] = some b ∧ b.nextWin = a.nextWin + 2 ^ min 11 (s.rd (ADM_CTX_CFG.AWIN c)) := by
  have hread : AdmitFrame s ((s.mapRead c st).touchSram 2 (tblBase c st.bank) 32768 c).1 := (AdmitFrame.refl s).mapRead.touchSram hsram
  unfold State.admitWindow
  rw [hst, ha]
  dsimp -zeta only
  rw [hwin]
  dsimp -zeta only
  rw [hmap]
  dsimp -zeta only
  split
  · next he =>
    rw [he] at hsram
    cases hsram
  · next s0 he =>
    obtain ⟨a0, ha0, -⟩ := (hread.fst he).attempt ha
    extract_lets order x sent n _ s1 l s2 s3
    have h1 : ∃ b, s1.work.att[c] = some b ∧ b.nextWin = a.nextWin + n :=
      ⟨_, (s0.admServe c d0 order.length).modAtt_att _ ha0, rfl⟩
    have h2 : AdmitFrame s1 s2 := .foldl (.refl s1) fun ht _ => ht.settle.stage
    have h3 : AdmitFrame s1 s3 := .ite h2.writeLedger h2
    obtain ⟨b1, hb1, hn1⟩ := h1
    obtain ⟨b, hb, hn⟩ := h3.pumpCtx.attempt hb1
    exact ⟨b, hb, hn.trans hn1⟩

/-- R154: the stage decides the window of the context that its arbiter chooses. -/
theorem admissionWindow_next (hst : s.liveStep c = some st) (ha : s.work.att[c] = some a) (hwin : s.window c st a = some toks)
    (hchoose : chooseCtx s.work.admDef s.windowReady s.work.admCtx s.visitGain = some (c, d)) (hmap : s.mapCheck c st = none)
    (hsram : ((s.mapRead c st).touchSram 2 (tblBase c st.bank) 32768 c).2 = true) :
    ∃ b, (admissionWindow c s).work.att[c] = some b ∧ b.nextWin = a.nextWin + 2 ^ min 11 (s.rd (ADM_CTX_CFG.AWIN c)) := by
  obtain ⟨b1, hb1, hn1⟩ := State.admitWindow_next (d0 := d) hst ha hwin hmap hsram
  obtain ⟨b, hb, hn⟩ := (AdmitFrame.refl (s.admitWindow c d)).admIdle.attempt hb1
  unfold admissionWindow
  rw [hchoose]
  dsimp -zeta only
  rw [if_pos rfl]
  exact ⟨b, hb, hn.trans hn1⟩

end

/-! ### Grants (R166) -/

/-- A copy's buffer is granted: its expert's queue changes, not the requester last served. -/
theorem State.landGranted_last (s : State) (p : Pkt) (x : Nat) : (s.landGranted p x).cist.last = s.cist.last := by
  have htaken : AdmitFrame s (s.takeLanded p) := (AdmitFrame.refl s).takeLanded
  unfold State.landGranted
  extract_lets c s0 row r r1 s1
  split
  · exact htaken.release.release.countError.last
  · exact htaken.bufWrite.last

theorem cisternGrant_last {pick : Nat} {r : CstReq} {x : State × Nat} (hr : s.nextGrant = some r)
    (hx : s.takeBuf r.who r.bytes (s.grantCount r.why) pick = some x) : (cisternGrant pick s).cist.last = r.who := by
  obtain ⟨s1, n⟩ := x
  unfold cisternGrant
  rw [hr]
  dsimp -zeta only
  rw [hx]
  dsimp -zeta only
  extract_lets _ s2 s3
  have h2 : AdmitFrame s2 s2 := .refl s2
  have h3 : s3.cist.last = s2.cist.last := by
    dsimp only [s3]
    cases r.why with
    | stage c t => exact h2.staged.last
    | land p => exact (AdmitFrame.refl _).retryLanded.last.trans (s2.landGranted_last p n)
    | park p hold => exact h2.freeHold.parkGranted.retryLanded.last
    | col ch => rfl
  exact (AdmitFrame.refl s3).markWaits.last.trans h3

/-! ### Flushes (R195, R196, R217) -/

/-- The queues of the flushed context are gone. -/
theorem State.flushQueues_queues (s : State) (c : Ctx) : ∀ q ∈ (s.flushQueues c).work.queues, q.ctx ≠ c := fun q hq => by
  have hkept := (List.mem_filter.mp hq).2
  simpa using hkept

theorem State.flushQueues_rd (s : State) (c : Ctx) (f : Fld) : (s.flushQueues c).rd f = s.rd f :=
  congrArg f.get (s.releaseAll_word _ f.off)

/-- MODE that goes back to 0 moves pointers. -/
theorem State.modeOff_rd (s : State) (f : Fld) : s.modeOff.rd f = s.rd f :=
  foldl_keeps (P := fun t : State => t.rd f = s.rd f) _ rfl fun _ _ ht => ht

theorem qCtrlWrite_flush {v : Word} (hv : PMP_Q_CTRL.FLUSH.get v = 1) : (qCtrlWrite .config v s).rd PMP_Q_CTRL.FLUSH = 0 ∧
    ∀ q ∈ (qCtrlWrite .config v s).work.queues, q.ctx.val ≠ PMP_Q_CTRL.CTX.get v := by
  unfold qCtrlWrite
  extract_lets busy was bad s1 v1 s2 s3
  rw [if_pos hv]
  have h2 : s2.rd PMP_Q_CTRL.FLUSH = 0 := State.wrIf_rd _ _ (by decide) (by decide)
  have h3 : s3.rd PMP_Q_CTRL.FLUSH = 0 := by
    dsimp only [s3]
    split
    · exact (s2.modeOff_rd _).trans h2
    · exact h2
  have hgone := s3.flushQueues_queues ⟨PMP_Q_CTRL.CTX.get v, Nat.mod_lt _ (by decide)⟩
  have h4 := (s3.flushQueues_rd ⟨PMP_Q_CTRL.CTX.get v, Nat.mod_lt _ (by decide)⟩ PMP_Q_CTRL.FLUSH).trans h3
  generalize s3.flushQueues _ = s4 at hgone h4 ⊢
  have hretry := (AdmitFrame.refl s4).retryLanded
  refine ⟨hretry.flush.trans h4, fun q hq => Fin.val_ne_of_ne (hgone q ?_)⟩
  rwa [hretry.queues] at hq

/-- Settles O15: a window, a grant and a flush each make their change, and what follows keeps it by `AdmitFrame`. -/
theorem admissionAndGrants : Obligations.AdmissionAndGrants := by
  unfold Obligations.AdmissionAndGrants
  refine fun s => ⟨fun c st a toks d hup hst ha hwin hchoose hmap hsram => ?_, fun pick r x hup hr hx => ?_, fun v hup hv => ?_⟩
  · exact ⟨_, congrArg Host.Outcome.next (if_pos hup), admissionWindow_next hst ha hwin hchoose hmap hsram⟩
  · exact ⟨_, congrArg Host.Outcome.next (if_pos hup), cisternGrant_last hr hx⟩
  · exact ⟨_, congrArg Host.Outcome.next (if_pos ⟨hup, hv⟩), qCtrlWrite_flush hv⟩

end Sys2Proof.Machine
end

section
/-!
SUPPORT. What the operations about packets leave of the link layers: all but the transmit queues and what a receive buffer holds of packets.
The relation has a rule per operation.
-/

namespace Sys2Proof.Machine

open Sys2Proof

set_option Elab.async false

/-! ### The relation -/

/-- A link layer without its transmit queues, and without what its receive buffer holds and frees of packets (R184, R195, R196). -/
def Link.wire (k : Link) : Link :=
  { k with
    txq := Vector.replicate 8 [], part := Vector.replicate 8 [], held := Vector.replicate 8 0, kept := Vector.replicate 8 0
    freed := Vector.replicate 8 0 }

/-- `t` has the replay buffers, sequence numbers, credits and acknowledgements of `s`, and all that `s` has driven. -/
structure LinkFrame (s t : State) : Prop where
  wire : ∀ l, (t.link l).wire = (s.link l).wire
  out : ∀ e ∈ s.out, e ∈ t.out

variable {base s t : State}

theorem LinkFrame.refl (s : State) : LinkFrame s s := ⟨fun _ => rfl, fun _ he => he⟩

theorem LinkFrame.trans {u : State} (h : LinkFrame s t) (h' : LinkFrame t u) : LinkFrame s u :=
  ⟨fun l => (h'.wire l).trans (h.wire l), fun e he => h'.out e (h.out e he)⟩

/-- An update of what lies beside the ports and the Wells. -/
theorem LinkFrame.upd {out free act cwin mch tick evq evr host landed routeWait work cist chan corrected} (h : LinkFrame base s)
    (hm : mch.link = s.mch.link := by rfl) (ho : ∀ e ∈ s.out, e ∈ out := by exact fun _ he => he) :
    LinkFrame base { s with
      out := out, free := free, act := act, cwin := cwin, mch := mch, tick := tick, evq := evq, evr := evr, host := host, landed := landed
      routeWait := routeWait, work := work, cist := cist, chan := chan, corrected := corrected } :=
  h.trans ⟨fun l => match l with
    | .port _ => rfl
    | .well _ => rfl
    | .mirror => congrArg Link.wire hm, ho⟩

theorem LinkFrame.ite {c : Prop} [Decidable c] (ht : LinkFrame base t) (hs : LinkFrame base s) : LinkFrame base (if c then t else s) := by
  split
  · exact ht
  · exact hs

theorem LinkFrame.fst {α : Type} {x : State × α} {a : α} (h : LinkFrame base x.1) (he : x = (t, a)) : LinkFrame base t := by
  rw [he] at h
  exact h

theorem LinkFrame.foldl {β : Type} {f : State → β → State} {l : List β} (h : LinkFrame base s)
    (hf : ∀ {t : State}, LinkFrame base t → ∀ x, LinkFrame base (f t x)) : LinkFrame base (l.foldl f s) :=
  foldl_keeps (P := LinkFrame base) l h fun _ x ht => hf ht x

/-! ### One link -/

theorem State.modLink_same (s : State) (l : LinkId) (f : Link → Link) : (s.modLink l f).link l = f (s.link l) := by
  cases l with
  | port p => exact congrArg PortState.link (s.modPort_same p _)
  | well w => exact congrArg Well.link (s.modWell_same w fun k => { k with link := f k.link })
  | mirror => rfl

theorem State.modPort_ne (s : State) {p q : Port} (f : PortState → PortState) (h : q ≠ p) : (s.modPort p f).ports[q] = s.ports[q] := by
  simp [State.modPort, Fin.val_ne_of_ne (Ne.symm h)]

theorem State.modLink_ne (s : State) {l m : LinkId} (f : Link → Link) (h : m ≠ l) : (s.modLink l f).link m = s.link m := by
  cases l with
  | port p =>
    cases m with
    | port q => exact congrArg PortState.link (s.modPort_ne _ fun he => h (congrArg LinkId.port he))
    | well w => rfl
    | mirror => rfl
  | well w =>
    cases m with
    | port q => rfl
    | well v => exact congrArg Well.link (s.modWell_ne (fun k => { k with link := f k.link }) fun he => h (congrArg LinkId.well he))
    | mirror => rfl
  | mirror =>
    cases m with
    | port q => rfl
    | well v => rfl
    | mirror => exact absurd rfl h

theorem State.modLink_out (s : State) (l : LinkId) (f : Link → Link) : (s.modLink l f).out = s.out := by
  obtain ⟨_, _, _, he⟩ := State.modLink_eq s l f
  rw [he]

theorem LinkFrame.modLink {l f} (h : LinkFrame base s) (hf : ∀ k, (f k).wire = k.wire := by exact fun _ => rfl) :
    LinkFrame base (s.modLink l f) := by
  refine h.trans ⟨fun m => ?_, fun e he => (s.modLink_out l f).symm ▸ he⟩
  by_cases hm : m = l
  · rw [hm, State.modLink_same, hf]
  · rw [State.modLink_ne s f hm]

theorem LinkFrame.modPort {p f} (h : LinkFrame base s) (hf : ∀ x, (f x).link.wire = x.link.wire) : LinkFrame base (s.modPort p f) := by
  refine h.trans ⟨fun m => ?_, fun _ he => he⟩
  cases m with
  | port q =>
    by_cases hq : q = p
    · subst hq
      exact (congrArg (fun x : PortState => x.link.wire) (s.modPort_same q f)).trans (hf _)
    · exact congrArg (fun x : PortState => x.link.wire) (s.modPort_ne f hq)
  | well w => rfl
  | mirror => rfl

/-! ### Registers, steps and events -/

theorem MirChan.push_link (m : MirChan) (u : MirUpd) : (m.push u).link = m.link := by
  unfold MirChan.push
  split <;> rfl

theorem LinkFrame.setWord {off v} (h : LinkFrame base s) : LinkFrame base (s.setWord off v) := by
  unfold State.setWord
  extract_lets m
  have hm : m.link = s.mch.link := by
    dsimp only [m]
    split
    · exact MirChan.push_link _ _
    · rfl
  exact .ite (h.upd (hm := hm)) (h.upd (hm := hm))

theorem LinkFrame.wr {f v} (h : LinkFrame base s) : LinkFrame base (s.wr f v) := h.setWord

theorem LinkFrame.bumpBy {f n} (h : LinkFrame base s) : LinkFrame base (s.bumpBy f n) := h.wr

theorem LinkFrame.bump {f} (h : LinkFrame base s) : LinkFrame base (s.bump f) := h.bumpBy

theorem LinkFrame.addPair {lo hi n} (h : LinkFrame base s) : LinkFrame base (s.addPair lo hi n) := h.wr.wr

theorem LinkFrame.accFlit {c} (h : LinkFrame base s) : LinkFrame base (s.accFlit c) := h.addPair.upd.addPair

theorem LinkFrame.setCore {m} (h : LinkFrame base s) : LinkFrame base (s.setCore m) := h.upd (hm := MirChan.push_link _ _)

theorem LinkFrame.modStep {c p f} (h : LinkFrame base s) : LinkFrame base (s.modStep c p f) := h.setCore

theorem LinkFrame.emit {e} (h : LinkFrame base s) : LinkFrame base (s.emit e) := h.upd (ho := fun _ he => List.mem_cons_of_mem _ he)

theorem LinkFrame.raiseEv {e} (h : LinkFrame base s) : LinkFrame base (s.raiseEv e) := by
  obtain ⟨_, hr⟩ := State.record_eq (s.enqueue e) e
  have henq : LinkFrame base (s.enqueue e) := .ite h (.ite h.upd h.bump.upd)
  unfold State.raiseEv
  rw [hr]
  exact henq.upd

theorem LinkFrame.raise {code sev data c seq addr} (h : LinkFrame base s) : LinkFrame base (s.raise code sev data c seq addr) := h.raiseEv

theorem LinkFrame.rasIrq {f} (h : LinkFrame base s) : LinkFrame base (s.rasIrq f) := .ite (.ite h.wr.emit h.wr) h

/-! ### Packets that leave -/

theorem LinkFrame.enqueueOn {l pkt sub release mask} (h : LinkFrame base s) : LinkFrame base (s.enqueueOn l pkt sub release mask) := by
  unfold State.enqueueOn
  exact h.modLink

theorem LinkFrame.landHere {pkt hold release} (h : LinkFrame base s) : LinkFrame base (s.landHere pkt hold release) := h.upd

theorem LinkFrame.releaseAll {hs} (h : LinkFrame base s) : LinkFrame base (s.releaseAll hs) := by
  obtain ⟨_, _, _, he⟩ := State.releaseAll_eq s hs
  rw [he]
  exact h.upd

theorem LinkFrame.sendRaw {t} (h : LinkFrame base s) : LinkFrame base (s.sendRaw t).1 := by
  unfold State.sendRaw
  dsimp only
  split
  · exact h.landHere
  · split
    · exact h
    · split
      · exact h.upd
      · dsimp only
        exact h.enqueueOn

theorem LinkFrame.sendNotice {p} (h : LinkFrame base s) : LinkFrame base (s.sendNotice p) := by
  unfold State.sendNotice
  split
  · next he => exact (h.sendRaw.fst he).raise
  · next he => exact h.sendRaw.fst he

theorem LinkFrame.abortTo {src dsts c seq att cause detail} (h : LinkFrame base s) : LinkFrame base (s.abortTo src dsts c seq att cause detail) := by
  unfold State.abortTo
  extract_lets mk all s1
  have h1 : LinkFrame base s1 := .foldl h fun ht _ => ht.sendNotice
  exact .ite h1 h1.upd

theorem LinkFrame.sendAbort {c seq att cause detail} (h : LinkFrame base s) : LinkFrame base (s.sendAbort c seq att cause detail) :=
  .ite h h.abortTo

theorem LinkFrame.noticeAs {name c seq att cause detail} (h : LinkFrame base s) : LinkFrame base (s.noticeAs name c seq att cause detail) := by
  unfold State.noticeAs
  split
  · exact h.sendAbort
  · exact h.abortTo

theorem LinkFrame.noticeLive {c cause detail} (h : LinkFrame base s) : LinkFrame base (s.noticeLive c cause detail) := by
  unfold State.noticeLive
  split
  · exact h.sendAbort
  · exact h

theorem LinkFrame.send {pkt release sub} (h : LinkFrame base s) : LinkFrame base (s.send pkt release sub) := by
  unfold State.send
  split
  · next s1 he =>
    have hraise : LinkFrame base ((s1.releaseAll release).raise 0x0705 2 [(dstOf pkt).val, ptypeOf pkt]) := (h.sendRaw.fst he).releaseAll.raise
    exact .ite hraise.noticeAs hraise
  · next he => exact h.sendRaw.fst he

theorem LinkFrame.sendMaster {ptype c seq att w1} (h : LinkFrame base s) : LinkFrame base (s.sendMaster ptype c seq att w1) := by
  unfold State.sendMaster
  extract_lets _ _
  refine .ite h.landHere ?_
  split
  · exact h.send
  · exact h.upd

theorem LinkFrame.progress {c} (h : LinkFrame base s) : LinkFrame base (s.progress c) := by
  unfold State.progress
  split
  · exact .ite h h.modStep.sendMaster
  · exact h

theorem LinkFrame.sendEods {c} (h : LinkFrame base s) : LinkFrame base (s.sendEods c) := .ite h (.foldl h fun ht _ => by
  split
  · exact .ite ht (LinkFrame.send ht.upd)
  · exact ht)

theorem LinkFrame.flitSent {f} (h : LinkFrame base s) : LinkFrame base (s.flitSent f) := by
  unfold State.flitSent
  extract_lets s1 s2
  have h1 : LinkFrame base s1 := by
    dsimp only [s1]
    split
    · exact h.accFlit
    · exact h
  have h2 : LinkFrame base s2 := .ite h1.progress h1
  exact .ite h2.sendEods h2

theorem LinkFrame.pumpWaiting (h : LinkFrame base s) : LinkFrame base s.pumpWaiting := .foldl h.upd fun ht _ => ht.send

/-! ### Packets that arrive -/

theorem LinkFrame.freeHold {x} (h : LinkFrame base s) : LinkFrame base (s.freeHold x) := by
  unfold State.freeHold
  split
  · exact .ite h.modLink h.modLink
  · exact h

theorem LinkFrame.staleAny {p} (h : LinkFrame base s) : LinkFrame base (s.staleAny p) := .ite h.bump.upd h.bump.upd

theorem LinkFrame.setFrozenWell {w data2} (h : LinkFrame base s) : LinkFrame base (s.setFrozen (.well w) data2) := by
  unfold State.setFrozen
  exact h.wr.raiseEv.rasIrq

theorem LinkFrame.freezeWell {w d2} (h : LinkFrame base s) : LinkFrame base (s.freezeWell w d2) :=
  .ite h (.foldl h.setFrozenWell fun ht _ => .ite ht.noticeLive ht)

theorem LinkFrame.satHub {n} (h : LinkFrame base s) : LinkFrame base (s.satHub n) := .ite h h.bumpBy

theorem LinkFrame.merge {p} (h : LinkFrame base s) (he : s.merge p = some t) : LinkFrame base t := by
  unfold State.merge at he
  dsimp only at he
  split at he
  · cases he
  · split at he
    · cases he
    · split at he
      · cases he
      · exact Option.some.inj he ▸ .satHub (.bump (.modPort h.upd fun _ => rfl))

theorem LinkFrame.forward {p sub} (h : LinkFrame base s) : LinkFrame base (s.forward p sub) := by
  unfold State.forward
  split
  · next he => exact h.merge he
  · exact h.send

theorem LinkFrame.packetIn {l pair p n} (h : LinkFrame base s) : LinkFrame base (s.packetIn l pair p n) := by
  unfold State.packetIn
  extract_lets free t
  have hfree : ∀ {u : State}, LinkFrame base u → LinkFrame base (free u) := fun hu => hu.freeHold
  cases l with
  | port q => exact .ite (hfree h.staleAny) (.ite h.landHere (hfree h.forward))
  | well w => exact .ite (.ite (hfree h.staleAny) (.ite h.landHere (hfree h.send))) (.ite h.landHere (hfree h).freezeWell)
  | mirror => exact .ite (hfree h) (hfree h.staleAny)

theorem LinkFrame.keepFlit {l pair p} (h : LinkFrame base s) : LinkFrame base (s.keepFlit l pair p) := .ite h.modLink h.modLink.freeHold

theorem LinkFrame.takeFlit {l pair sop eop body} (h : LinkFrame base s) : LinkFrame base (s.takeFlit l pair sop eop body) := by
  unfold State.takeFlit
  extract_lets old s0 cur p s1 n
  have h0 : LinkFrame base s0 := .ite h.freeHold.modLink h
  have h1 : LinkFrame base s1 := .ite h0.progress h0
  exact .ite h0.freeHold (.ite h1.modLink.packetIn h1.modLink.keepFlit)

end Sys2Proof.Machine
end

section
/-!
SUPPORT. What a link sends next: O29.
-/

namespace Sys2Proof.Machine

open Sys2Proof

set_option Elab.async false

variable {s : State} {l : LinkId}

/-- The flit that `State.driveFlit` drives. -/
def State.flitOut (s : State) (l : LinkId) (pair : Fin 8) (sop eop idle : Bool) (fseq : BitVec 12) (body : List Byte) : Emission :=
  .flit l (flitHead pair sop eop idle fseq (s.link l)) (padTo 264 body) (flitCrc (flitHead pair sop eop idle fseq (s.link l)) (padTo 264 body))

section
variable (s : State) (l : LinkId) (pair : Fin 8) (sop eop idle : Bool) (fseq : BitVec 12) (body : List Byte)

theorem padTo_padTo (n : Nat) (bs : List Byte) : padTo n (padTo n bs) = padTo n bs := by
  have h := padTo_length (padTo n bs)
  rwa [padTo_length_eq] at h

theorem State.driveFlit_drives : Drives (s.driveFlit l pair sop eop idle fseq body) (s.flitOut l pair sop eop idle fseq body) := by
  unfold Drives State.driveFlit State.flitOut flitCrc
  rw [State.modLink_out, padTo_padTo]
  exact List.mem_cons_self

/-- A driven flit takes the NAK that was due, and the turn of its credit field (R182). -/
theorem State.driveFlit_link :
    (s.driveFlit l pair sop eop idle fseq body).link l = { s.link l with nakDue := false, crTurn := (s.link l).crTurn + 1 } :=
  State.modLink_same _ l _

end

/-- What is driven before a link changes and a flit is counted stays driven. -/
theorem flitSent_drives {e : Emission} {g : Link → Link} {f : TxFlit} (h : Drives s e) : Drives ((s.modLink l g).flitSent f) e :=
  (LinkFrame.refl _).flitSent.out e ((s.modLink_out l g).symm ▸ h)

/-- Counting a sent flit leaves its link but for the transmit queues. -/
theorem flitSent_wire (s : State) (l : LinkId) (g : Link → Link) (f : TxFlit) : (((s.modLink l g).flitSent f).link l).wire = (g (s.link l)).wire :=
  ((LinkFrame.refl _).flitSent.wire l).trans (congrArg Link.wire (s.modLink_same l g))

/-- The state in which the transmitter of a link looks for a flit: the mirror channel first has its next update (R399). -/
def State.pumped (s : State) (l : LinkId) : State := if l = .mirror then s.mirPump else s

theorem flitTransmit_again {fs : BitVec 12} {f : TxFlit} (h : ((s.pumped l).link l).again = some (fs, f)) :
    ∃ g, flitTransmit l s = (((s.pumped l).driveFlit l f.pair f.sop f.eop false fs f.body).modLink l g).flitSent f := by
  unfold State.pumped at h ⊢
  unfold flitTransmit
  extract_lets u k m go
  rw [show k.again = _ from h]
  exact ⟨_, rfl⟩

/-- The link after a granted flit: a new sequence number, a credit less, and the flit in the replay buffer. -/
def Link.sentNew (q : Fin 8) (pr : Fin 4) (n : Nat) (f : TxFlit) (rest : List TxFlit) (k : Link) : Link :=
  { k with
    txq := k.txq.set q rest, replay := k.replay ++ [(k.fseq, f)], fseq := k.fseq + 1, credits := k.credits.set q (k.credits[q] - 1)
    turn := k.turn.set pr (if rest.isEmpty || decide (k.credits[q] ≤ 1) then none else some (q, n)), lastPair := k.lastPair.set pr q }

theorem flitTransmit_granted {q : Fin 8} {pr : Fin 4} {n : Nat} {f : TxFlit} {rest : List TxFlit} (hagain : ((s.pumped l).link l).again = none)
    (hroom : ((s.pumped l).link l).replay.length < 512)
    (hgrant : ((s.pumped l).link l).grant ((s.pumped l).vcPrios l) ((s.pumped l).vcWeights l) = some (q, pr, n))
    (hq : ((s.pumped l).link l).txq[q] = f :: rest) :
    flitTransmit l s = (((s.pumped l).driveFlit l q f.sop f.eop false ((s.pumped l).link l).fseq f.body).modLink l
      (Link.sentNew q pr n f rest)).flitSent f := by
  unfold State.pumped at *
  unfold flitTransmit
  extract_lets u k m go
  have hgo : go = some (q, pr, n) := (if_pos hroom).trans hgrant
  rw [show k.again = _ from hagain]
  dsimp only
  rw [hgo]
  dsimp only
  rw [show k.txq[q] = _ from hq]
  rfl

theorem flitTransmit_idle (hagain : ((s.pumped l).link l).again = none)
    (hnone : ((s.pumped l).link l).grant ((s.pumped l).vcPrios l) ((s.pumped l).vcWeights l) = none ∨ 512 ≤ ((s.pumped l).link l).replay.length) :
    flitTransmit l s = (s.pumped l).driveFlit l 0 false false true 0 [] := by
  unfold State.pumped at *
  unfold flitTransmit
  extract_lets u k m go
  have hgo : go = none := by
    dsimp only [go]
    split
    · next hroom => exact hnone.resolve_right (Nat.not_le_of_lt hroom)
    · rfl
  rw [show k.again = _ from hagain]
  dsimp only
  rw [hgo]

/-- Settles O29: each flit is one branch of the transmitter, and what counts a sent flit leaves the link but for the queues. -/
theorem linkSends : Obligations.LinkSends := by
  unfold Obligations.LinkSends
  rintro s s' l hup hopen harb rfl
  have hexec : exec (.flitTransmit l) s = .next (flitTransmit l s) :=
    congrArg Host.Outcome.next (if_pos ⟨hup, hopen, by rw [harb]; rfl⟩)
  refine ⟨fun fs f hagain => ?_, fun q pr n f rest hagain hroom hgrant hq => ?_, fun hagain hnone => ?_⟩
  · obtain ⟨g, heq⟩ := flitTransmit_again hagain
    exact ⟨_, hexec, heq ▸ flitSent_drives (State.driveFlit_drives ..)⟩
  · refine ⟨_, hexec, ?_⟩
    have hwire := flitSent_wire ((s.pumped l).driveFlit l q f.sop f.eop false ((s.pumped l).link l).fseq f.body) l (Link.sentNew q pr n f rest) f
    rw [State.driveFlit_link] at hwire
    rw [flitTransmit_granted hagain hroom hgrant hq]
    exact ⟨flitSent_drives (State.driveFlit_drives ..), congrArg Link.replay hwire, congrArg Link.fseq hwire, congrArg Link.credits hwire⟩
  · refine ⟨_, hexec, ?_⟩
    rw [flitTransmit_idle hagain hnone]
    dsimp only
    rw [State.driveFlit_link]
    exact ⟨rfl, rfl, State.driveFlit_drives ..⟩

end Sys2Proof.Machine
end

section
/-!
SUPPORT. What a link receives, and its rewinds: O30.
-/

namespace Sys2Proof.Machine

open Sys2Proof

set_option Elab.async false

variable {s t : State} {l : LinkId} {f : Flit}

/-! ### Counters (R7) -/

theorem State.bumpBy_counted (s : State) (g : Fld) (n : Nat) (h : g.lo + g.len ≤ 32) : Counted s (s.bumpBy g n) g n := by
  have hpos : 0 < 2 ^ g.len := Nat.two_pow_pos _
  exact (s.wr_rd g _ h).trans (Nat.mod_eq_of_lt (by omega))

/-- A counter counts the same from an earlier state that reads the same there. -/
theorem Counted.of_rd {r : State} {g : Fld} {n : Nat} (h : Counted s t g n) (hr : s.rd g = r.rd g) : Counted r t g n :=
  h.trans (by rw [hr])

/-! ### Codewords that the PHY corrects (R326) -/

theorem State.fecFixed_link (s : State) (l : LinkId) (f : Flit) : (s.fecFixed l f).link l = s.link l := by
  cases l with
  | port p =>
    unfold State.fecFixed
    dsimp only
    split
    · exact congrArg (fun v : Vector PortState 16 => v[p].link) (s.bumpBy_ports _ _)
    · rfl
  | well w => rfl
  | mirror => rfl

/-- The count of a port's corrected codewords is the only register that changes. -/
theorem State.fecFixed_rd (s : State) (l : LinkId) (f : Flit) (g : Fld) (hg : ∀ p, l = .port p → g.off ≠ (PMP_FEC_COR_CNT.COUNT p).off) :
    (s.fecFixed l f).rd g = s.rd g := by
  cases l with
  | port p =>
    unfold State.fecFixed
    dsimp only
    split
    · exact s.wr_rd_ne _ g _ (hg p rfl)
    · rfl
  | well w => rfl
  | mirror => rfl

theorem State.fecFixed_counted {p : Port} (hopen : s.linkOpen (.port p) = true) :
    Counted s (s.fecFixed (.port p) f) (PMP_FEC_COR_CNT.COUNT p) f.fixed := by
  have hstate : s.portState p = 3 := eq_of_beq hopen
  unfold State.fecFixed
  dsimp only
  rw [hstate, if_pos (by decide)]
  exact s.bumpBy_counted _ _ (Nat.le_refl 32)

theorem State.fecFixed_linkOpen (s : State) (l : LinkId) (f : Flit) : (s.fecFixed l f).linkOpen l = s.linkOpen l := by
  cases l with
  | port p =>
    refine congrArg (· == 3) (s.fecFixed_rd _ f (PMP_LNK_STATUS.STATE p) fun q hq => ?_)
    obtain rfl := LinkId.port.inj hq
    unfold PMP_LNK_STATUS.STATE PMP_FEC_COR_CNT.COUNT
    dsimp only
    omega
  | well w => rfl
  | mirror => rfl

theorem State.fecFixed_maxRetry (s : State) (l : LinkId) (f : Flit) : (s.fecFixed l f).maxRetry l = s.maxRetry l := by
  cases l with
  | port p =>
    refine s.fecFixed_rd _ f (PMP_RETRY_CFG.MAXRETRY p) fun q hq => ?_
    obtain rfl := LinkId.port.inj hq
    unfold PMP_RETRY_CFG.MAXRETRY PMP_FEC_COR_CNT.COUNT
    dsimp only
    omega
  | well w => rfl
  | mirror => rfl

/-! ### Flits that are discarded (R182) -/

/-- A receiver that has discarded a flit: a NAK is due unless one has been sent since the last accepted flit. -/
def Link.dropped (k : Link) : Link := if k.nakSent then k else { k with nakDue := true, nakSent := true }

theorem Link.dropped_fields (k : Link) :
    k.dropped.rxNext = k.rxNext ∧ k.dropped.nakSent = true ∧ k.dropped.nakDue = (k.nakDue || !k.nakSent) := by
  unfold Link.dropped
  cases h : k.nakSent with
  | true => exact ⟨rfl, h, (Bool.or_false _).symm⟩
  | false => exact ⟨rfl, rfl, (Bool.or_true _).symm⟩

theorem State.dropFlit_link (s : State) (l : LinkId) (crc : Bool) : (s.dropFlit l crc).link l = (s.link l).dropped := by
  unfold State.dropFlit
  extract_lets s1
  have h1 : s1.link l = s.link l := by
    dsimp only [s1]
    cases l with
    | port p =>
      cases crc with
      | true => exact congrArg (fun v : Vector PortState 16 => v[p].link) (s.bump_ports _)
      | false => rfl
    | well w => rfl
    | mirror => rfl
  rw [State.modLink_same, h1]
  rfl

theorem flitReceive_badCrc (h : f.bad = true ∨ f.crc ≠ flitCrc f.head f.body) : flitReceive l f s = s.dropFlit l true := if_pos h

section
variable (hbad : f.bad = false) (hcrc : f.crc = flitCrc f.head f.body)
include hbad hcrc

theorem flit_good : ¬(f.bad = true ∨ f.crc ≠ flitCrc f.head f.body) := by
  rw [hbad]
  exact fun h => h.elim Bool.noConfusion fun hne => hne hcrc

theorem flitReceive_outOfOrder (hidle : f.head.getLsbD 5 = false)
    (hseq : BitVec.ofNat 12 (bitsOf f.head.toNat 8 12) ≠ (s.link l).rxNext) : flitReceive l f s = s.dropFlit l false := by
  unfold flitReceive
  extract_lets h idle pair
  have hi : idle = false := hidle
  exact (if_neg (flit_good hbad hcrc)).trans (if_pos (by rw [hi, bne_iff_ne.mpr hseq]; rfl))

/-! ### Acknowledgement and credit fields (R181, R182, R184) -/

end

/-- The pair of a flit's credit field. -/
def creditPair (f : Flit) : Fin 8 := ⟨(bitsOf f.head.toNat 34 2 * 2 + bitsOf f.head.toNat 36 1) % 8, Nat.mod_lt _ (by decide)⟩

/-- The link has the credit field of a flit. -/
def State.credited (s : State) (l : LinkId) (f : Flit) : State :=
  s.modLink l fun k => k.credit (creditPair f) (BitVec.ofNat 10 (bitsOf f.head.toNat 37 10))

/-- The link has the acknowledgement and the credit field of a flit. -/
def State.fieldsTaken (s : State) (l : LinkId) (f : Flit) : State :=
  let s1 := s.credited l f
  let s2 := if f.head.getLsbD 32 then s1.ackFlits l (BitVec.ofNat 12 (bitsOf f.head.toNat 20 12)) else s1
  if f.head.getLsbD 33 then s2.rewind l else s2

theorem State.credited_link (s : State) (l : LinkId) (f : Flit) :
    (s.credited l f).link l = (s.link l).credit (creditPair f) (BitVec.ofNat 10 (bitsOf f.head.toNat 37 10)) := s.modLink_same l _

/-- The receiver after an accepted flit (R182). -/
def Link.acceptNext (k : Link) : Link := { k with rxNext := k.rxNext + 1, accepted := true, nakSent := false }

/-- An accepted flit joins its packet, which leaves its link but for what the receive buffer holds. -/
theorem takeFlit_wire (s : State) (l : LinkId) (g : Link → Link) (pair : Fin 8) (sop eop : Bool) (body : List Byte) :
    (((s.modLink l g).takeFlit l pair sop eop body).link l).wire = (g (s.link l)).wire :=
  ((LinkFrame.refl _).takeFlit.wire l).trans (congrArg Link.wire (s.modLink_same l g))

theorem State.modLink_rd (s : State) (l : LinkId) (k : Link → Link) (g : Fld) : (s.modLink l k).rd g = s.rd g := by
  obtain ⟨_, _, _, he⟩ := State.modLink_eq s l k
  rw [he]
  rfl

theorem State.modLink_linkOpen (s : State) (l : LinkId) (k : Link → Link) : (s.modLink l k).linkOpen l = s.linkOpen l := by
  cases l with
  | port p => rfl
  | well w =>
    have h := congrArg (fun x : Well => x.linkUp && !x.retraining) (s.modWell_same w fun x => { x with link := k x.link })
    exact h
  | mirror => rfl

theorem State.modLink_maxRetry (s : State) (l : LinkId) (k : Link → Link) : (s.modLink l k).maxRetry l = s.maxRetry l := by
  cases l with
  | port p => rfl
  | well w => rfl
  | mirror => rfl

section
variable (hbad : f.bad = false) (hcrc : f.crc = flitCrc f.head f.body)
include hbad hcrc

theorem flitReceive_idle (hidle : f.head.getLsbD 5 = true) : flitReceive l f s = s.fieldsTaken l f := by
  unfold flitReceive
  extract_lets h idle pair cr s1 s2 s3
  have hi : idle = true := hidle
  rw [if_neg (flit_good hbad hcrc), hi, if_neg (show ¬(!true && _) = true from Bool.noConfusion)]
  exact if_pos (Or.inl rfl)

/-- The flit that the receiver expects is accepted, and joins its packet. -/
theorem flitReceive_next (hidle : f.head.getLsbD 5 = false) (hack : f.head.getLsbD 32 = false) (hnak : f.head.getLsbD 33 = false)
    (hseq : BitVec.ofNat 12 (bitsOf f.head.toNat 8 12) = (s.link l).rxNext) (hopen : s.linkOpen l = true) :
    ∃ pair sop eop body, flitReceive l f s = ((s.credited l f).modLink l Link.acceptNext).takeFlit l pair sop eop body := by
  unfold flitReceive
  extract_lets h idle pair cr s1 s2 s3
  have hi : idle = false := hidle
  have h2 : s2 = s1 := if_neg (by rw [show h.testBit 32 = false from hack]; decide)
  have h3 : s3 = s1 := (if_neg (by rw [show h.testBit 33 = false from hnak]; decide)).trans h2
  have hopen1 : s1.linkOpen l = true := (s.modLink_linkOpen l _).trans hopen
  rw [if_neg (flit_good hbad hcrc), if_neg (by rw [hseq, bne_self_eq_false, Bool.and_false]; decide), h3, hi, hopen1, if_neg (by decide)]
  exact ⟨pair, h.testBit 3, h.testBit 4, padTo 264 f.body, rfl⟩

end

/-- The first unacknowledged flit with the acknowledged number is the last one covered. -/
theorem Link.covered_first {k : Link} {n : Nat} {x : BitVec 12 × TxFlit} {ack : BitVec 12} (hn : k.replay[n]? = some x) (hx : x.1 = ack)
    (hfirst : ∀ i y, i < n → k.replay[i]? = some y → y.1 ≠ x.1) : k.covered ack = n + 1 := by
  obtain ⟨hlt, hget⟩ := List.getElem?_eq_some_iff.mp hn
  have hfind : ((k.replay.zip (List.range k.replay.length)).find? fun x => x.1.1 == ack) = some (x, n) := by
    rw [List.find?_eq_some_iff_getElem]
    refine ⟨beq_iff_eq.mpr hx, n, by simpa using hlt, by simp [hget], fun j hj => ?_⟩
    have hne := hfirst j _ hj (List.getElem?_eq_getElem (hj.trans hlt))
    simpa [← hx] using hne
  unfold Link.covered
  rw [hfind]

/-- A link whose oldest `n` flits of the replay buffer are acknowledged. -/
def Link.acked (n : Nat) (k : Link) : Link :=
  { k with
    replay := k.replay.drop n, rewinds := 0
    resend := match k.resend with
      | some m => if m - n < k.replay.length - n then some (m - n) else none
      | none => none }

theorem State.ackFlits_eq {ack : BitVec 12} {n : Nat} (h : (s.link l).covered ack = n + 1) :
    ∃ hs, s.ackFlits l ack = ((s.modLink l (Link.acked (n + 1))).releaseAll hs).pumpWaiting := by
  unfold State.ackFlits
  extract_lets k m hs
  have hm : m = n + 1 := h
  rw [if_neg (by omega), hm]
  exact ⟨hs, rfl⟩

/-- An acknowledgement that covers flits takes them out of the replay buffer and ends a row of rewinds. -/
theorem State.ackFlits_wire {ack : BitVec 12} {n : Nat} (h : (s.link l).covered ack = n + 1) :
    ((s.ackFlits l ack).link l).replay = (s.link l).replay.drop (n + 1) ∧ ((s.ackFlits l ack).link l).rewinds = 0 := by
  obtain ⟨hs, heq⟩ := State.ackFlits_eq h
  have hwire := (LinkFrame.refl (s.modLink l (Link.acked (n + 1)))).releaseAll (hs := hs) |>.pumpWaiting.wire l
  rw [State.modLink_same] at hwire
  rw [heq]
  exact ⟨congrArg Link.replay hwire, congrArg Link.rewinds hwire⟩

/-! ### Rewinds (R182, R326) -/

/-- The transmitter has rewound: the rewind is counted, and the replay buffer is to be sent again. -/
def State.rewound (s : State) (l : LinkId) : State := (s.countRewind l).modLink l fun k =>
  { k with resend := some 0, rewinds := (s.link l).rewinds + 1, turn := Vector.replicate 4 none }

theorem State.countRewind_link (s : State) (l : LinkId) : (s.countRewind l).link l = s.link l := by
  cases l with
  | port p => exact congrArg (fun v : Vector PortState 16 => v[p].link) (s.bump_ports _)
  | well w => rfl
  | mirror => rfl

theorem State.rewound_link (s : State) (l : LinkId) :
    ((s.rewound l).link l).resend = some 0 ∧ ((s.rewound l).link l).replay = (s.link l).replay := by
  unfold State.rewound
  rw [State.modLink_same, State.countRewind_link]
  exact ⟨rfl, rfl⟩

theorem State.rewound_portState {p : Port} (h : s.portState p = 3) : (s.rewound (.port p)).portState p = 3 := by
  refine (State.modLink_rd _ _ _ _).trans ((State.wr_rd_ne _ _ _ _ ?_).trans h)
  unfold PMP_LNK_STATUS.STATE PMP_REWIND_CNT.COUNT
  dsimp only
  omega

theorem State.rewound_counted (s : State) (p : Port) : Counted s (s.rewound (.port p)) (PMP_REWIND_CNT.COUNT p) 1 :=
  s.bump_rd (PMP_REWIND_CNT.COUNT p) (Nat.le_refl 32)

/-- What is reported after a rewind is reported since before it. -/
theorem State.rewound_reports {code : Nat} (h : Reports (s.rewound l) code t) : Reports s code t := by
  have hcount : (s.countRewind l).hubUp = s.hubUp ∧ (s.countRewind l).evq = s.evq := by
    cases l with
    | port p => exact ⟨s.bump_hubUp _, s.bump_evq _⟩
    | well w => exact ⟨rfl, rfl⟩
    | mirror => exact ⟨rfl, rfl⟩
  obtain ⟨hup, hq⟩ := hcount
  obtain ⟨_, _, _, he⟩ := State.modLink_eq (s.countRewind l) l fun k =>
    { k with resend := some 0, rewinds := (s.link l).rewinds + 1, turn := Vector.replicate 4 none }
  unfold State.rewound at h
  rw [he] at h
  exact h.of_same hup.symm (congrArg EventQueue.waiting hq.symm)

theorem State.rewind_retries (hne : (s.link l).replay ≠ []) (hmax : (s.link l).rewinds + 1 < s.maxRetry l) : s.rewind l = s.rewound l := by
  unfold State.rewind
  split
  · next h => exact absurd h hne
  · exact if_neg (Nat.not_le_of_lt hmax)

theorem State.rewind_fails (hne : (s.link l).replay ≠ []) (hmax : s.maxRetry l ≤ (s.link l).rewinds + 1) :
    ∃ oldest, s.rewind l = (s.rewound l).linkFailed l oldest := by
  unfold State.rewind
  split
  · next h => exact absurd h hne
  · exact ⟨_, if_pos hmax⟩

theorem State.rewind_empty (h : (s.link l).replay = []) : s.rewind l = s := by
  unfold State.rewind
  rw [h]

/-- A port that fails stands in FAILED, and its event is reported (R307). -/
theorem State.linkFailed_port {p : Port} (hstate : s.portState p = 3) (oldest : Nat) :
    (s.linkFailed (.port p) oldest).portState p = 6 ∧ Reports s 0x0703 (s.linkFailed (.port p) oldest) := by
  have hraised := s.raise_traffic 0x0703 2 [p.val, oldest] none 0 0
  have hport : s.PortAt p 3 s.ports[p].good := ⟨hstate, rfl⟩
  have hset := (hport.traffic hraised).setPort (new := 6) (by decide) (by decide)
  exact ⟨hset.1, (Onward.kept _).setPort.holds.reports (s.raise_reports _ _ _ _ _ _)⟩

/-- A Well whose link fails leaves service, and its event is reported (R345). -/
theorem State.linkFailed_well (s : State) (w : WellNo) (oldest : Nat) :
    (s.linkFailed (.well w) oldest).wells[w].inService = false ∧ Reports s 0x090A (s.linkFailed (.well w) oldest) :=
  ⟨(State.wellAbsent_gone _ w).inService, State.wellAbsent_reports w (s.raise_reports _ _ _ _ _ _)⟩

/-- The mirror goes out of service with its channel (R398). -/
theorem State.linkFailed_mirror (h : s.mch.serves = true) (oldest : Nat) : (s.linkFailed .mirror oldest).mch.mstate = .out :=
  (State.mirrorGone_onward (s.modLink .mirror fun _ => Link.fresh) 9 h).mstate

/-! ### The commands -/

/-- A rewind that a port still has left is counted once, and the replay buffer is to be sent again. -/
theorem State.rewind_again (hne : (s.link l).replay ≠ []) (hmax : (s.link l).rewinds + 1 < s.maxRetry l) :
    ((s.rewind l).link l).resend = some 0 ∧ ((s.rewind l).link l).replay = (s.link l).replay ∧
      ∀ p, l = .port p → Counted s (s.rewind l) (PMP_REWIND_CNT.COUNT p) 1 := by
  obtain ⟨hresend, hreplay⟩ := s.rewound_link l
  rw [State.rewind_retries hne hmax]
  exact ⟨hresend, hreplay, fun p hp => hp ▸ s.rewound_counted p⟩

/-- What a flit does on a link that is open, and that no internal bypass takes it from. -/
theorem execFlitReceive_eq (hup : s.hubUp = true) (hopen : s.linkOpen l = true) (hby : s.intBypass = true → isPortLink l = false) :
    exec (.flitReceive l f) s = .next (flitReceive l f (s.fecFixed l f)) := by
  refine congrArg Host.Outcome.next ((if_neg fun h => ?_).trans (if_pos ⟨hup, hopen⟩))
  obtain ⟨hbypass, hport⟩ := h
  rw [hby hbypass] at hport
  cases hport

theorem execRetryTimeout_eq (hup : s.hubUp = true) (hopen : s.linkOpen l = true) : exec (.retryTimeout l) s = .next (s.rewind l) :=
  congrArg Host.Outcome.next (if_pos ⟨hup, hopen⟩)

/-- A discarded flit leaves the expected sequence number, and a NAK is due or has been sent. -/
theorem State.dropFlit_fields (s : State) (l : LinkId) (f : Flit) (crc : Bool) :
    (((s.fecFixed l f).dropFlit l crc).link l).rxNext = (s.link l).rxNext ∧ (((s.fecFixed l f).dropFlit l crc).link l).nakSent = true ∧
      (((s.fecFixed l f).dropFlit l crc).link l).nakDue = ((s.link l).nakDue || !(s.link l).nakSent) := by
  rw [State.dropFlit_link, State.fecFixed_link]
  exact (s.link l).dropped_fields

/-- The two counters of a slot whose flit has a bad CRC. -/
theorem State.dropFlit_counted {p : Port} (hopen : s.linkOpen (.port p) = true) :
    Counted s ((s.fecFixed (.port p) f).dropFlit (.port p) true) (PMP_CRC_ERR_CNT.COUNT p) 1 ∧
      Counted s ((s.fecFixed (.port p) f).dropFlit (.port p) true) (PMP_FEC_COR_CNT.COUNT p) f.fixed := by
  have hne : (PMP_CRC_ERR_CNT.COUNT p).off ≠ (PMP_FEC_COR_CNT.COUNT p).off := by
    unfold PMP_CRC_ERR_CNT.COUNT PMP_FEC_COR_CNT.COUNT
    dsimp only
    omega
  have hcrc : Counted (s.fecFixed (.port p) f) ((s.fecFixed (.port p) f).dropFlit (.port p) true) (PMP_CRC_ERR_CNT.COUNT p) 1 :=
    State.bump_rd _ _ (Nat.le_refl 32)
  have hfec : ((s.fecFixed (.port p) f).dropFlit (.port p) true).rd (PMP_FEC_COR_CNT.COUNT p) =
      (s.fecFixed (.port p) f).rd (PMP_FEC_COR_CNT.COUNT p) := State.wr_rd_ne _ _ _ _ hne.symm
  exact ⟨hcrc.of_rd (s.fecFixed_rd _ f _ fun q hq => LinkId.port.inj hq ▸ hne), hfec.trans (State.fecFixed_counted hopen)⟩

/-- The NAK of an IDLE flit rewinds the transmitter. -/
theorem flitReceive_nak (hbad : f.bad = false) (hcrc : f.crc = flitCrc f.head f.body) (hidle : f.head.getLsbD 5 = true)
    (hack : f.head.getLsbD 32 = false) (hnak : f.head.getLsbD 33 = true) : flitReceive l f s = (s.credited l f).rewind l := by
  rw [flitReceive_idle hbad hcrc hidle]
  unfold State.fieldsTaken
  rw [hack, hnak]
  rfl

theorem flitReceive_creditOnly (hbad : f.bad = false) (hcrc : f.crc = flitCrc f.head f.body) (hidle : f.head.getLsbD 5 = true)
    (hack : f.head.getLsbD 32 = false) (hnak : f.head.getLsbD 33 = false) : flitReceive l f s = s.credited l f := by
  rw [flitReceive_idle hbad hcrc hidle]
  unfold State.fieldsTaken
  rw [hack, hnak]
  rfl

theorem flitReceive_ack (hbad : f.bad = false) (hcrc : f.crc = flitCrc f.head f.body) (hidle : f.head.getLsbD 5 = true)
    (hack : f.head.getLsbD 32 = true) (hnak : f.head.getLsbD 33 = false) :
    flitReceive l f s = (s.credited l f).ackFlits l (BitVec.ofNat 12 (bitsOf f.head.toNat 20 12)) := by
  rw [flitReceive_idle hbad hcrc hidle]
  unfold State.fieldsTaken
  rw [hack, hnak]
  rfl

/-- The credit field leaves the replay buffer and the rewinds, and its pair has the flits freed since the last one. -/
theorem State.received_link (s : State) (l : LinkId) (f : Flit) : ((s.fecFixed l f).credited l f).link l =
    (s.link l).credit (creditPair f) (BitVec.ofNat 10 (bitsOf f.head.toNat 37 10)) := by
  rw [State.credited_link, State.fecFixed_link]

theorem State.received_maxRetry (s : State) (l : LinkId) (f : Flit) : ((s.fecFixed l f).credited l f).maxRetry l = s.maxRetry l :=
  (State.modLink_maxRetry _ l _).trans (s.fecFixed_maxRetry l f)

theorem State.received_rewinds (s : State) (l : LinkId) (f : Flit) (p : Port) :
    ((s.fecFixed l f).credited l f).rd (PMP_REWIND_CNT.COUNT p) = s.rd (PMP_REWIND_CNT.COUNT p) := by
  refine (State.modLink_rd _ l _ _).trans (s.fecFixed_rd l f _ fun q _ => ?_)
  unfold PMP_REWIND_CNT.COUNT PMP_FEC_COR_CNT.COUNT
  dsimp only
  omega

/-- Settles O30: a flit is one branch of the receiver, and a rewind retries or fails as the retries left say. -/
theorem linkReceives : Obligations.LinkReceives := by
  unfold Obligations.LinkReceives
  intro s l f hup hopen hby
  have hexec := execFlitReceive_eq (f := f) hup hopen hby
  have hretry := execRetryTimeout_eq hup hopen
  have hlink := s.received_link l f
  refine ⟨fun h => ?_, fun hbad hcrc hidle hseq => ?_, fun hbad hcrc hidle hack hnak hseq => ?_, fun q hbad hcrc hidle hack hnak hq => ?_,
    fun n x hbad hcrc hidle hack hnak hn hx hfirst => ?_, fun hbad hcrc hidle hack hnak hne hmax => ?_, fun hne hmax => ?_,
    fun p hp hne hmax => ?_, fun w hw hne hmax => ?_, fun hm hne hmax => ?_, fun hnil => ?_⟩
  · obtain ⟨hnext, hsent, hdue⟩ := s.dropFlit_fields l f true
    rw [flitReceive_badCrc h] at hexec
    exact ⟨_, hexec, hnext, hsent, hdue, fun p hp => by subst hp; exact State.dropFlit_counted hopen⟩
  · rw [← s.fecFixed_link l f] at hseq
    rw [flitReceive_outOfOrder hbad hcrc hidle hseq] at hexec
    exact ⟨_, hexec, s.dropFlit_fields l f false⟩
  · rw [← s.fecFixed_link l f] at hseq
    obtain ⟨pair, sop, eop, body, heq⟩ := flitReceive_next hbad hcrc hidle hack hnak hseq ((s.fecFixed_linkOpen l f).trans hopen)
    rw [heq] at hexec
    have hwire := takeFlit_wire ((s.fecFixed l f).credited l f) l Link.acceptNext pair sop eop body
    rw [hlink] at hwire
    exact ⟨_, hexec, congrArg Link.rxNext hwire, congrArg Link.accepted hwire⟩
  · have hpair : creditPair f = q := Fin.ext ((congrArg (· % 8) hq.symm).trans (Nat.mod_eq_of_lt q.isLt))
    rw [flitReceive_creditOnly hbad hcrc hidle hack hnak] at hexec
    refine ⟨_, hexec, ?_⟩
    dsimp only
    rw [hlink, hpair]
    exact ⟨Vector.getElem_set_self _, rfl⟩
  · rw [flitReceive_ack hbad hcrc hidle hack hnak] at hexec
    have hcov : (((s.fecFixed l f).credited l f).link l).covered (BitVec.ofNat 12 (bitsOf f.head.toNat 20 12)) = n + 1 := by
      rw [hlink]
      exact Link.covered_first hn hx hfirst
    obtain ⟨hreplay, hrewinds⟩ := State.ackFlits_wire hcov
    exact ⟨_, hexec, by rw [hreplay, hlink]; rfl, hrewinds⟩
  · rw [flitReceive_nak hbad hcrc hidle hack hnak] at hexec
    obtain ⟨hresend, hreplay, hcount⟩ := State.rewind_again (s := (s.fecFixed l f).credited l f) (l := l) (by rw [hlink]; exact hne)
      (by rw [hlink, State.received_maxRetry]; exact hmax)
    exact ⟨_, hexec, hresend, by rw [hreplay, hlink]; rfl, fun p hp => (hcount p hp).of_rd (s.received_rewinds l f p)⟩
  · exact ⟨_, hretry, State.rewind_again hne hmax⟩
  · obtain ⟨oldest, heq⟩ := State.rewind_fails hne hmax
    subst hp
    obtain ⟨hstate, hreports⟩ := State.linkFailed_port (s.rewound_portState (eq_of_beq hopen)) oldest
    exact ⟨_, heq ▸ hretry, hstate, State.rewound_reports hreports⟩
  · obtain ⟨oldest, heq⟩ := State.rewind_fails hne hmax
    subst hw
    obtain ⟨hgone, hreports⟩ := (s.rewound (.well w)).linkFailed_well w oldest
    exact ⟨_, heq ▸ hretry, hgone, State.rewound_reports hreports⟩
  · obtain ⟨oldest, heq⟩ := State.rewind_fails hne hmax
    subst hm
    exact ⟨_, heq ▸ hretry, State.linkFailed_mirror (s := s.rewound .mirror) hopen oldest⟩
  · exact ⟨_, hretry, State.rewind_empty hnil⟩

end Sys2Proof.Machine
end

section
/-!
SUPPORT. What the reports of the Wells (R233, R236-R238) leave: queues, homes and receive buffers, the work of the Hub, what waits for the
Cistern, and the registers.
-/

namespace Sys2Proof.Machine

open Sys2Proof

set_option Elab.async false

/-! ### The relation -/

/-- What a Well holds of the homes it has, and of the packets that have not been taken. -/
def Well.lists (k : Well) : List Queue × List HomeRec × List RxPkt := (k.queues, k.homes, k.rx)

section
variable {k j : Well} (h : k.lists = j.lists)
include h

theorem Well.queues_of_lists : k.queues = j.queues := congrArg (fun x => x.1) h

theorem Well.homes_of_lists : k.homes = j.homes := congrArg (fun x => x.2.1) h

theorem Well.rx_of_lists : k.rx = j.rx := congrArg (fun x => x.2.2) h

end

/-- `t` has the registers (but for the accounts and the counter of lost records), the work of the Hub (but for the account), the requests
for buffers and the lists of every Well of `s`, and the event records of `s` still wait. -/
structure HomeFrame (s t : State) : Prop where
  words : Untouched [] s t
  waiting : ∃ l, t.evq.waiting = s.evq.waiting ++ l
  waits : t.cist.waits = s.cist.waits
  work : ∃ k, t.work = { s.work with accFJ := k }
  wells : ∀ w : WellNo, t.wells[w].lists = s.wells[w].lists

variable {base s t : State}

theorem UpToTraffic.lists (h : UpToTraffic s t) (w : WellNo) : t.wells[w].lists = s.wells[w].lists := by
  obtain ⟨_, hk⟩ := h.well w
  rw [hk]
  rfl

theorem HomeFrame.refl (s : State) : HomeFrame s s := ⟨.refl s, ⟨[], (List.append_nil _).symm⟩, rfl, ⟨_, rfl⟩, fun _ => rfl⟩

theorem HomeFrame.trans {u : State} (h : HomeFrame s t) (h' : HomeFrame t u) : HomeFrame s u := by
  obtain ⟨l, hl⟩ := h.waiting
  obtain ⟨m, hm⟩ := h'.waiting
  obtain ⟨_, hk⟩ := h.work
  obtain ⟨k, hk'⟩ := h'.work
  exact ⟨h.words.trans h'.words, ⟨l ++ m, by rw [hm, hl, List.append_assoc]⟩, h'.waits.trans h.waits, ⟨k, by rw [hk', hk]⟩,
    fun w => (h'.wells w).trans (h.wells w)⟩

/-- What traffic changes, beside the requests for buffers and the work of the Hub. -/
theorem HomeFrame.traffic (h : HomeFrame base s) (ht : UpToTraffic s t) (hc : t.cist.waits = s.cist.waits)
    (hw : ∃ k, t.work = { s.work with accFJ := k }) : HomeFrame base t :=
  h.trans ⟨(Untouched.refl s).traffic ht, ht.waiting, hc, hw, ht.lists⟩

theorem HomeFrame.ite {c : Prop} [Decidable c] (ht : HomeFrame base t) (hs : HomeFrame base s) : HomeFrame base (if c then t else s) := by
  split
  · exact ht
  · exact hs

theorem HomeFrame.foldl {β : Type} {f : State → β → State} {l : List β} (h : HomeFrame base s)
    (hf : ∀ {t : State}, HomeFrame base t → ∀ x, HomeFrame base (f t x)) : HomeFrame base (l.foldl f s) :=
  foldl_keeps (P := HomeFrame base) l h fun _ x ht => hf ht x

/-! ### Events, packets and the logs of a Well -/

theorem HomeFrame.landHere {pkt hold release} (h : HomeFrame base s) : HomeFrame base (s.landHere pkt hold release) :=
  h.traffic (.of_same (fun _ => rfl) rfl rfl rfl rfl) rfl ⟨_, rfl⟩

theorem HomeFrame.setCore {m} (h : HomeFrame base s) : HomeFrame base (s.setCore m) :=
  h.traffic (.of_same (fun _ => rfl) rfl rfl rfl rfl) rfl ⟨_, rfl⟩

theorem HomeFrame.raiseEv {e} (h : HomeFrame base s) : HomeFrame base (s.raiseEv e) := by
  obtain ⟨_, _, _, _, he⟩ := State.raiseEv_eq s e
  exact h.traffic (s.raiseEv_traffic e) (by rw [he]) ⟨s.work.accFJ, by rw [he]⟩

theorem HomeFrame.raiseFrom {part num code sev data c seq addr} (h : HomeFrame base s) :
    HomeFrame base (s.raiseFrom part num code sev data c seq addr) := h.raiseEv

theorem HomeFrame.wellSays {c seq att kind code} (h : HomeFrame base s) : HomeFrame base (s.wellSays c seq att kind code) := h.landHere

theorem HomeFrame.wellEvent {w code sev data c seq att} (h : HomeFrame base s) : HomeFrame base (s.wellEvent w code sev data c seq att) :=
  h.raiseFrom.wellSays

theorem HomeFrame.modWell {w f} (h : HomeFrame base s) (hf : ∀ k, (f k).lists = k.lists := by exact fun _ => rfl) :
    HomeFrame base (s.modWell w f) := by
  refine h.trans ⟨.of_word fun _ => rfl, ⟨[], (List.append_nil _).symm⟩, rfl, ⟨_, rfl⟩, fun v => ?_⟩
  by_cases hv : v = w
  · rw [hv, State.modWell_same, hf]
  · rw [State.modWell_ne s f hv]

theorem HomeFrame.voidLedger {c p} (h : HomeFrame base s) : HomeFrame base (s.voidLedger c p) := .ite h.setCore h

theorem HomeFrame.modLog {w c f} (h : HomeFrame base s) : HomeFrame base (s.modLog w c f) :=
  h.modWell (f := fun k => { k with actlog := k.actlog.set c (f k.actlog[c]) })

theorem HomeFrame.modOpen {w c seq att f} (h : HomeFrame base s) : HomeFrame base (s.modOpen w c seq att f) := h.modWell

theorem HomeFrame.addPair {lo hi n} (h : HomeFrame base s) (hlo : accounting lo.off = true) (hhi : accounting hi.off = true) :
    HomeFrame base (s.addPair lo hi n) :=
  h.traffic (s.addPair_traffic lo hi n hlo hhi) (congrArg Cistern.waits (State.wr2_cist ..)) ⟨_, State.wr2_work ..⟩

theorem HomeFrame.accEnergy {c fj} (h : HomeFrame base s) : HomeFrame base (s.accEnergy c fj) :=
  h.traffic (s.accEnergy_traffic c fj) (congrArg Cistern.waits (State.wr2_cist ..)) ⟨_, State.wr2_work ..⟩

theorem HomeFrame.accHost {c n} (h : HomeFrame base s) : HomeFrame base (s.accHost c n) :=
  .accEnergy (h.addPair (accounting_at c (k := 0x40) (by decide) (by decide)) (accounting_at c (k := 0x44) (by decide) (by decide)))

theorem HomeFrame.accIssue {r} (h : HomeFrame base s) : HomeFrame base (s.accIssue r) := by
  unfold State.accIssue
  split
  · exact h.accHost
  · exact h

/-- An update of what lies beside the registers, the Wells and the work of the Hub. -/
theorem HomeFrame.upd {out host} (h : HomeFrame base s) : HomeFrame base { s with out := out, host := host } :=
  h.traffic (.of_same (fun _ => rfl) rfl rfl rfl rfl) rfl ⟨_, rfl⟩

theorem HomeFrame.issueOne {r} (h : HomeFrame base s) : HomeFrame base (s.issueOne r) := by
  unfold State.issueOne
  extract_lets sl
  split
  · exact .ite h.upd (.upd (.accIssue h.upd))
  · exact h.upd

theorem HomeFrame.hostWrite {why addr bytes} (h : HomeFrame base s) : HomeFrame base (s.hostWrite why addr bytes) :=
  .foldl h fun ht _ => ht.issueOne

theorem HomeFrame.accDram {w c a rdB wrB} (h : HomeFrame base s) : HomeFrame base (s.accDram w c a rdB wrB) :=
  .accEnergy (h.modWell.addPair (accounting_at c (k := 0x38) (by decide) (by decide)) (accounting_at c (k := 0x3C) (by decide) (by decide)))

theorem HomeFrame.writeDram {w c a bs} (h : HomeFrame base s) : HomeFrame base (s.writeDram w c a bs) := h.modWell.accDram

theorem HomeFrame.writeActLog {w o} (h : HomeFrame base s) : HomeFrame base (s.writeActLog w o) :=
  .ite h (.ite h.wellEvent h.voidLedger.modLog.writeDram)

theorem HomeFrame.closeGlog {w o} (h : HomeFrame base s) : HomeFrame base (s.closeGlog w o) :=
  .ite h (.ite h.writeDram h.writeDram.wellEvent)

theorem HomeFrame.wellReports {w} (h : HomeFrame base s) : HomeFrame base (s.wellReports w) := .foldl h fun ht o => by
  have hsaid : ∀ {u : State}, HomeFrame base u → HomeFrame base (if o.homeSent then u
      else (u.wellSays o.ctx o.seq o.att 1 0).modOpen w o.ctx o.seq o.att fun x => { x with homeSent := true }) :=
    fun hu => .ite hu hu.wellSays.modOpen
  exact .ite ht (.ite (hsaid ht) (hsaid ht).writeActLog.closeGlog.wellSays.modOpen)

/-! ### Progress -/

theorem State.progress_traffic (s : State) (c : Ctx) : UpToTraffic s (s.progress c) := by
  unfold State.progress
  split
  · split
    · exact .refl s
    · refine UpToTraffic.trans ?_ (State.sendMaster_traffic _ _ _ _ _ _)
      exact .of_same (fun _ => rfl) rfl rfl rfl rfl
  · exact .refl s

theorem State.progress_waits (s : State) (c : Ctx) : (s.progress c).cist.waits = s.cist.waits := by
  unfold State.progress
  split
  · next st _ =>
    split
    · rfl
    · obtain ⟨_, _, _, _, _, _, _, _, _, _, _, he⟩ := State.sendMaster_eq
        (s.modStep c (fun x => x.live) fun x => { x with beaconSent := true }) 0x09 c st.seq st.replays 0
      rw [he]
      rfl
  · rfl

/-! ### Homes that are not moved (R197, R198, R237) -/

/-- A change of a Well that changes nothing. -/
theorem State.modWell_id {w : WellNo} {f : Well → Well} (h : f s.wells[w] = s.wells[w]) : s.modWell w f = s := by
  unfold State.modWell
  rw [h, Fin.getElem_fin, Vector.set_getElem_self]

/-- Queues with entries stay when those are left out that are empty and done. -/
theorem filter_gone_of_entries {l : List Queue} {done : Queue → Bool} (h : ∀ q, q ∈ l → q.entries ≠ []) :
    (l.filter fun q => !(q.entries == [] && done q)) = l :=
  List.filter_eq_self.mpr fun q hq => by rw [beq_eq_false_iff_ne.mpr (h q hq)]; rfl

/-- With no empty queue, what follows a packet that has reached a home is what the Wells take, and what they report. -/
theorem State.homesMoved_frame (hq : ∀ q, q ∈ s.work.queues → q.entries ≠ [])
    (hw : ∀ (w : WellNo) (q : Queue), q ∈ s.wells[w].queues → q.entries ≠ []) :
    HomeFrame (s.serviceWells.foldl State.wellPump s) s.homesMoved := by
  unfold State.homesMoved
  extract_lets gone work s1 s2 s3 s4
  have h1 : s1 = s := by
    dsimp only [s1, work, gone]
    rw [filter_gone_of_entries (done := fun q => _) hq]
  have h2 : s2 = s := by
    dsimp only [s2]
    rw [h1]
    refine List.foldlRecOn (motive := fun t => t = s) _ _ rfl fun t ht w _ => ?_
    rw [ht]
    refine State.modWell_id ?_
    dsimp only [gone]
    rw [filter_gone_of_entries (done := fun q => _) (hw w)]
  have h3 : s3 = s.serviceWells.foldl State.wellPump s := by
    dsimp only [s3]
    rw [h2]
  have hlen : s3.work.queues = s.work.queues := by
    rw [h3]
    exact (AdmitFrame.foldl (AdmitFrame.refl s) fun ht _ => ht.rxPump).queues
  have h4 : s4 = s3 := if_neg (by rw [hlen]; exact Nat.lt_irrefl _)
  rw [h4, ← h3]
  exact .foldl (.refl s3) fun ht _ => ht.wellReports

/-- Wells whose receive buffers are empty take nothing. -/
theorem State.pump_idle (l : List WellNo) (h : ∀ w : WellNo, s.wells[w].rx = []) : l.foldl State.wellPump s = s := by
  refine List.foldlRecOn (motive := fun t => t = s) _ _ rfl fun t ht w _ => ?_
  rw [ht, State.wellPump, h w]
  rfl

/-- Where one Well alone may take something, and what it takes leaves no packet, it is done once the Well has had its turn. -/
theorem State.pump_one {w : WellNo} {l : List WellNo} (hmem : w ∈ l) (hrx : ∀ v : WellNo, v ≠ w → s.wells[v].rx = [])
    (hdone : ∀ v : WellNo, (s.wellPump w).wells[v].rx = []) : l.foldl State.wellPump s = s.wellPump w := by
  induction l with
  | nil => cases hmem
  | cons x xs ih =>
    rw [List.foldl_cons]
    by_cases hx : x = w
    · rw [hx]
      exact State.pump_idle xs hdone
    · have hskip : s.wellPump x = s := by
        rw [State.wellPump, hrx x hx]
        rfl
      rw [hskip]
      exact ih ((List.mem_cons.mp hmem).resolve_left (Ne.symm hx))

end Sys2Proof.Machine
end

section
/-!
SUPPORT. What the packets that wait, and the Wells that take them, leave: the tile table, the EODs of every home, and the counters of
partial tiles. The relation has a rule per operation.
-/

namespace Sys2Proof.Machine

open Sys2Proof

set_option Elab.async false

/-! ### The record of a home (R199) -/

/-- A record is one of this home and attempt. -/
def HomeRec.isFor (r : HomeRec) (h : Nat) (c : Ctx) (seq : Word) (att : Nat) : Bool := r.home == h && r.ctx == c && r.seq == seq && r.att == att

theorem homeRec_isFor (l : List HomeRec) (h : Nat) (c : Ctx) (seq : Word) (att : Nat) : (homeRec l h c seq att).isFor h c seq att = true := by
  unfold homeRec
  cases hf : l.find? fun x => x.home == h && x.ctx == c && x.seq == seq && x.att == att with
  | none => simp [HomeRec.isFor]
  | some r => exact List.find?_some (p := fun x : HomeRec => x.home == h && x.ctx == c && x.seq == seq && x.att == att) hf

theorem HomeRec.isFor_iff (r : HomeRec) (h : Nat) (c : Ctx) (seq : Word) (att : Nat) :
    r.isFor h c seq att = true ↔ r.home = h ∧ r.ctx = c ∧ r.seq = seq ∧ r.att = att := by
  simp [HomeRec.isFor, and_assoc]

/-- The record that is stored is the one of its home and attempt. -/
theorem homeRec_putHome_same (l : List HomeRec) {r : HomeRec} {h : Nat} {c : Ctx} {seq : Word} {att : Nat} (hfor : r.isFor h c seq att = true) :
    homeRec (putHome l r) h c seq att = r := by
  obtain ⟨rfl, rfl, rfl, rfl⟩ := (r.isFor_iff h c seq att).mp hfor
  have hgone : (l.filter fun x => !x.isFor r.home r.ctx r.seq r.att).find? (fun x => x.isFor r.home r.ctx r.seq r.att) = none :=
    List.find?_eq_none.mpr fun x hx => Bool.eq_false_iff.mp ((Bool.not_eq_true' _).mp (List.mem_filter.mp hx).2)
  have hfind : (putHome l r).find? (fun x => x.isFor r.home r.ctx r.seq r.att) = some r := by
    rw [show putHome l r = (l.filter fun x => !x.isFor r.home r.ctx r.seq r.att) ++ [r] from rfl, List.find?_append, hgone, Option.none_or,
      List.find?_singleton, hfor]
    rfl
  exact congrArg (Option.getD · _) hfind

/-- Storing a record leaves those of other homes and attempts. -/
theorem homeRec_putHome_ne (l : List HomeRec) {r : HomeRec} {h : Nat} {c : Ctx} {seq : Word} {att : Nat} (hne : r.isFor h c seq att = false) :
    homeRec (putHome l r) h c seq att = homeRec l h c seq att := by
  have hkeep : ∀ x : HomeRec, decide ((!x.isFor r.home r.ctx r.seq r.att) = true ∧ x.isFor h c seq att = true) = x.isFor h c seq att := by
    intro x
    cases hx : x.isFor h c seq att with
    | false => exact decide_eq_false fun hx' => Bool.noConfusion hx'.2
    | true =>
      obtain ⟨rfl, rfl, rfl, rfl⟩ := (x.isFor_iff h c seq att).mp hx
      refine decide_eq_true ⟨(Bool.not_eq_true' _).mpr (Bool.eq_false_iff.mpr fun hr => ?_), rfl⟩
      obtain ⟨hh, hc, hs, ha⟩ := (x.isFor_iff _ _ _ _).mp hr
      exact absurd ((r.isFor_iff _ _ _ _).mpr ⟨hh.symm, hc.symm, hs.symm, ha.symm⟩) (Bool.eq_false_iff.mp hne)
  have hfind : (putHome l r).find? (fun x => x.isFor h c seq att) = l.find? fun x => x.isFor h c seq att := by
    rw [show putHome l r = (l.filter fun x => !x.isFor r.home r.ctx r.seq r.att) ++ [r] from rfl, List.find?_append, List.find?_filter,
      List.find?_singleton, hne, funext hkeep]
    exact Option.or_none
  exact congrArg (Option.getD · _) hfind

/-- A record with an EOD is one that has been stored. -/
theorem homeRec_mem {l : List HomeRec} {h : Nat} {c : Ctx} {seq : Word} {att : Nat} {x : EodRec} (hx : x ∈ (homeRec l h c seq att).eods) :
    homeRec l h c seq att ∈ l := by
  unfold homeRec at *
  cases hf : l.find? fun x => x.home == h && x.ctx == c && x.seq == seq && x.att == att with
  | none =>
    rw [hf] at hx
    cases hx
  | some r => exact List.mem_of_find?_eq_some hf

/-! ### The relation -/

/-- The EODs that a list of homes holds are the same. -/
def SameEods (l m : List HomeRec) : Prop := ∀ h c seq att, (homeRec m h c seq att).eods = (homeRec l h c seq att).eods

/-- Storing a record with the EODs that it had leaves the EODs of every home. -/
theorem sameEods_putHome {l : List HomeRec} {r : HomeRec} {h : Nat} {c : Ctx} {seq : Word} {att : Nat} (hfor : r.isFor h c seq att = true)
    (hr : r.eods = (homeRec l h c seq att).eods) : SameEods l (putHome l r) := by
  intro h' c' seq' att'
  by_cases hfor' : r.isFor h' c' seq' att' = true
  · obtain ⟨rfl, rfl, rfl, rfl⟩ := (r.isFor_iff h c seq att).mp hfor
    obtain ⟨rfl, rfl, rfl, rfl⟩ := (r.isFor_iff h' c' seq' att').mp hfor'
    rw [homeRec_putHome_same l hfor, hr]
  · rw [homeRec_putHome_ne l (eq_false_of_ne_true hfor')]

/-- `t` has the tile table, the homes of the host path, the EODs of the homes of every Well and the counters of partial tiles of `s`. -/
structure LandFrame (s t : State) : Prop where
  tiles : t.work.tiles = s.work.tiles
  issued : t.work.issued = s.work.issued
  homes : t.work.homes = s.work.homes
  wells : ∀ w : WellNo, SameEods s.wells[w].homes t.wells[w].homes
  partials : ∀ w : WellNo, t.rd (WEL_PARTIAL_CNT.COUNT w.val) = s.rd (WEL_PARTIAL_CNT.COUNT w.val)

variable {base s t : State}

theorem LandFrame.refl (s : State) : LandFrame s s := ⟨rfl, rfl, rfl, fun _ _ _ _ _ => rfl, fun _ => rfl⟩

theorem LandFrame.trans {u : State} (h : LandFrame s t) (h' : LandFrame t u) : LandFrame s u :=
  ⟨h'.tiles.trans h.tiles, h'.issued.trans h.issued, h'.homes.trans h.homes,
    fun w k c seq att => (h'.wells w k c seq att).trans (h.wells w k c seq att), fun w => (h'.partials w).trans (h.partials w)⟩

/-- An update of what lies beside the registers and the Wells. -/
theorem LandFrame.upd {out free mch tick evq evr host ports landed routeWait work cist chan corrected} (h : LandFrame base s)
    (ht : work.tiles = s.work.tiles := by rfl) (hi : work.issued = s.work.issued := by rfl) (hh : work.homes = s.work.homes := by rfl) :
    LandFrame base { s with
      out := out, free := free, mch := mch, tick := tick, evq := evq, evr := evr, host := host, ports := ports, landed := landed
      routeWait := routeWait, work := work, cist := cist, chan := chan, corrected := corrected } :=
  h.trans ⟨ht, hi, hh, fun _ _ _ _ _ => rfl, fun _ => rfl⟩

/-- The counters of partial tiles are not among the accounts, nor the counter of lost records. -/
theorem partial_plain (w : WellNo) :
    (WEL_PARTIAL_CNT.COUNT w.val).off ≠ RNG_EQ_LOST.reg ∧ accounting (WEL_PARTIAL_CNT.COUNT w.val).off = false := by
  revert w
  decide

/-- What traffic changes, beside the work of the Hub. -/
theorem LandFrame.traffic (h : LandFrame base s) (ht : UpToTraffic s t) (hw : t.work = s.work) : LandFrame base t := by
  refine h.trans ⟨congrArg Work.tiles hw, congrArg Work.issued hw, congrArg Work.homes hw, fun w => ?_, fun w => ?_⟩
  · obtain ⟨_, hk⟩ := ht.well w
    rw [hk]
    exact fun _ _ _ _ => rfl
  · exact ht.rd _ (partial_plain w).1 (partial_plain w).2

/-- What the reports of the Wells change. -/
theorem LandFrame.reported (h : LandFrame base s) (ht : HomeFrame s t) : LandFrame base t := by
  obtain ⟨_, hk⟩ := ht.work
  refine h.trans ⟨by rw [hk], by rw [hk], by rw [hk], fun w => ?_, fun w => ?_⟩
  · rw [Well.homes_of_lists (ht.wells w)]
    exact fun _ _ _ _ => rfl
  · exact ht.words.rd (List.not_mem_nil) (partial_plain w).1 (partial_plain w).2

theorem LandFrame.ite {c : Prop} [Decidable c] (ht : LandFrame base t) (hs : LandFrame base s) : LandFrame base (if c then t else s) := by
  split
  · exact ht
  · exact hs

theorem LandFrame.fst {α : Type} {x : State × α} {a : α} (h : LandFrame base x.1) (he : x = (t, a)) : LandFrame base t := by
  rw [he] at h
  exact h

theorem LandFrame.foldl {β : Type} {f : State → β → State} {l : List β} (h : LandFrame base s)
    (hf : ∀ {t : State}, LandFrame base t → ∀ x, LandFrame base (f t x)) : LandFrame base (l.foldl f s) :=
  foldl_keeps (P := LandFrame base) l h fun _ x ht => hf ht x

/-! ### Registers, steps and events -/

theorem LandFrame.wr {f v} (h : LandFrame base s) (hf : ∀ w : WellNo, (WEL_PARTIAL_CNT.COUNT w.val).off ≠ f.off) :
    LandFrame base (s.wr f v) := by
  refine h.trans ⟨congrArg Work.tiles (s.wr_work f v), congrArg Work.issued (s.wr_work f v), congrArg Work.homes (s.wr_work f v),
    fun w => ?_, fun w => State.wr_rd_ne _ _ _ _ (hf w)⟩
  rw [State.wr_wells]
  exact fun _ _ _ _ => rfl

theorem LandFrame.bumpBy {f n} (h : LandFrame base s) (hf : ∀ w : WellNo, (WEL_PARTIAL_CNT.COUNT w.val).off ≠ f.off) :
    LandFrame base (s.bumpBy f n) := h.wr hf

theorem LandFrame.bump {f} (h : LandFrame base s) (hf : ∀ w : WellNo, (WEL_PARTIAL_CNT.COUNT w.val).off ≠ f.off) :
    LandFrame base (s.bump f) := h.wr hf

theorem LandFrame.emit {e} (h : LandFrame base s) : LandFrame base (s.emit e) := h.upd

theorem LandFrame.raiseEv {e} (h : LandFrame base s) : LandFrame base (s.raiseEv e) := by
  obtain ⟨_, _, _, _, he⟩ := State.raiseEv_eq s e
  exact h.traffic (s.raiseEv_traffic e) (by rw [he])

theorem LandFrame.raise {code sev data c seq addr} (h : LandFrame base s) : LandFrame base (s.raise code sev data c seq addr) := h.raiseEv

theorem LandFrame.rasIrq {f} (h : LandFrame base s) (hf : ∀ w : WellNo, (WEL_PARTIAL_CNT.COUNT w.val).off ≠ f.off) :
    LandFrame base (s.rasIrq f) := .ite (.ite (h.wr hf).emit (h.wr hf)) h

theorem LandFrame.setFrozenPeer {d data2} (h : LandFrame base s) : LandFrame base (s.setFrozen (.peer d) data2) := by
  unfold State.setFrozen
  exact .rasIrq (.raiseEv (.ite (h.wr (by decide)) (h.wr (by decide)))) (by decide)

theorem LandFrame.hostWrite {why addr bytes} (h : LandFrame base s) : LandFrame base (s.hostWrite why addr bytes) :=
  h.reported (HomeFrame.refl s).hostWrite

theorem LandFrame.accCyc {c n} (h : LandFrame base s) : LandFrame base (s.accCyc c n) :=
  h.traffic (s.addPair_traffic _ _ n (accounting_at c (k := 0x28) (by decide) (by decide)) (accounting_at c (k := 0x2C) (by decide) (by decide)))
    (State.wr2_work ..)

/-! ### Packets that leave and are taken -/

theorem LandFrame.modWell {w f} (h : LandFrame base s) (hf : SameEods s.wells[w].homes (f s.wells[w]).homes := by exact fun _ _ _ _ => rfl) :
    LandFrame base (s.modWell w f) := by
  refine h.trans ⟨rfl, rfl, rfl, fun v => ?_, fun _ => rfl⟩
  by_cases hv : v = w
  · rw [hv, State.modWell_same]
    exact hf
  · rw [State.modWell_ne s f hv]
    exact fun _ _ _ _ => rfl

theorem LandFrame.landHere {pkt hold release} (h : LandFrame base s) : LandFrame base (s.landHere pkt hold release) := h.upd

theorem LandFrame.releaseAll {hs} (h : LandFrame base s) : LandFrame base (s.releaseAll hs) := by
  obtain ⟨_, _, _, he⟩ := State.releaseAll_eq s hs
  rw [he]
  exact h.upd

theorem LandFrame.releaseOpt {x} (h : LandFrame base s) : LandFrame base (s.releaseOpt x) := by
  unfold State.releaseOpt
  split
  · next n =>
    obtain ⟨_, _, _, he⟩ := State.release_eq s n
    rw [he]
    exact h.upd
  · exact h

theorem LandFrame.sendAbort {c seq att cause detail} (h : LandFrame base s) : LandFrame base (s.sendAbort c seq att cause detail) := by
  obtain ⟨_, _, _, _, _, _, _, _, he⟩ := State.sendAbort_eq s c seq att cause detail
  exact h.traffic (s.sendAbort_traffic c seq att cause detail) (by rw [he])

theorem LandFrame.noticeLive {c cause detail} (h : LandFrame base s) : LandFrame base (s.noticeLive c cause detail) := by
  unfold State.noticeLive
  split
  · exact h.sendAbort
  · exact h

theorem LandFrame.freezePeer {d d2} (h : LandFrame base s) : LandFrame base (s.freezePeer d d2) :=
  .ite h (.foldl h.setFrozenPeer fun ht _ => .ite ht.noticeLive ht)

theorem LandFrame.modLink {l f} (h : LandFrame base s) : LandFrame base (s.modLink l f) := by
  obtain ⟨_, _, _, he⟩ := State.modLink_eq s l f
  exact h.traffic (s.modLink_traffic l f) (by rw [he])

theorem LandFrame.enqueueOn {l pkt sub release mask} (h : LandFrame base s) : LandFrame base (s.enqueueOn l pkt sub release mask) := by
  unfold State.enqueueOn
  exact h.modLink

theorem LandFrame.sendWell {w pkt release} (h : LandFrame base s) : LandFrame base (s.sendWell w pkt release) := .ite h.releaseAll h.enqueueOn

theorem LandFrame.progress {c} (h : LandFrame base s) : LandFrame base (s.progress c) := h.traffic (s.progress_traffic c) (s.progress_work c)

theorem LandFrame.freeHold {x} (h : LandFrame base s) : LandFrame base (s.freeHold x) := by
  obtain ⟨_, _, _, he⟩ := State.freeHold_eq s x
  exact h.traffic (s.freeHold_traffic x) (by rw [he])

theorem LandFrame.takeRaw {p} (h : LandFrame base s) : LandFrame base (s.takeRaw p).1 := by
  unfold State.takeRaw
  split
  · exact h.upd
  · exact h

theorem LandFrame.takeWith {p} (h : LandFrame base s) : LandFrame base (s.takeWith p).1 := h.takeRaw.freeHold

theorem LandFrame.takeLanded {p} (h : LandFrame base s) : LandFrame base (s.takeLanded p) := h.takeWith.releaseAll

theorem LandFrame.stalePkt {p} (h : LandFrame base s) : LandFrame base (s.stalePkt p) := .upd (h.bump (by decide))

theorem LandFrame.countError {p home expert filled landed kind} (h : LandFrame base s) :
    LandFrame base (s.countError p home expert filled landed kind) := .sendAbort (.raise (h.bump (by decide)))

theorem LandFrame.markWaits (h : LandFrame base s) : LandFrame base s.markWaits := .upd (.ite h (h.bumpBy (by decide)))

theorem LandFrame.cistAsk {q n why} (h : LandFrame base s) : LandFrame base (s.cistAsk q n why) := h.upd.markWaits

/-! ### The Meadow (R205-R208) -/

theorem LandFrame.modAtt {c f} (h : LandFrame base s) : LandFrame base (s.modAtt c f) := h.upd

theorem LandFrame.emitRow {c t els} (h : LandFrame base s) : LandFrame base (s.emitRow c t els) := by
  unfold State.emitRow
  split
  · exact h
  · exact .progress (.modAtt h.hostWrite)

theorem LandFrame.satHub {n} (h : LandFrame base s) : LandFrame base (s.satHub n) := .ite h (h.bumpBy (by decide))

theorem LandFrame.emit32 {c t row} (h : LandFrame base s) : LandFrame base (s.emit32 c t row) := h.satHub.emitRow

theorem LandFrame.writeAux {c t dws} (h : LandFrame base s) : LandFrame base (s.writeAux c t dws) := by
  unfold State.writeAux
  split
  · split
    · exact h
    · exact h.satHub.hostWrite
  · exact h

theorem LandFrame.finishTok {c m} (h : LandFrame base s) : LandFrame base (s.finishTok c m) := by
  unfold State.finishTok
  split
  · exact h
  · have h1 : LandFrame base (s.emit32 c m.t m.acc) := h.emit32
    exact .ite h.upd (.upd (.ite h1.writeAux h1))

theorem LandFrame.addRank {p} (h : LandFrame base s) : LandFrame base (s.addRank p) := by
  unfold State.addRank
  split
  · exact h
  · exact .ite h.upd.finishTok h.upd

theorem LandFrame.pumpParked {n} (h : LandFrame base s) : LandFrame base (s.pumpParked n) := by
  induction n generalizing s with
  | zero => exact h
  | succ n ih =>
    unfold State.pumpParked
    split
    · exact h
    · exact ih (.addRank (.releaseOpt h.upd))

theorem LandFrame.park {m p bf hold} (h : LandFrame base s) : LandFrame base (s.park m p bf hold) :=
  .ite h.freeHold.upd (.cistAsk (h.bump (by decide)))

theorem LandFrame.meadReturn {st p hold} (h : LandFrame base s) : LandFrame base (s.meadReturn st p hold) := by
  rw [show @State.meadReturn = _ by delta State.meadReturn; rfl]
  extract_lets c token rank ranks x bad
  have hbad : LandFrame base (bad s) := .raise (h.freeHold.bump (by decide))
  cases s.mead c x with
  | none => exact hbad
  | some m => exact .ite hbad (.ite h.freeHold.addRank.pumpParked h.park)

/-! ### Packets that wait to be taken (R184, R197-R199) -/

theorem LandFrame.landCheck {p} (h : LandFrame base s) (he : s.landCheck p = some t) : LandFrame base t := by
  unfold State.landCheck at he
  dsimp only at he
  split_ifs at he
  · exact Option.some.inj he ▸ h.takeLanded
  all_goals exact Option.some.inj he ▸ h.takeLanded.freezePeer

theorem LandFrame.keepLanded {p queue} (h : LandFrame base s) : LandFrame base (s.keepLanded p queue) := by
  unfold State.keepLanded
  extract_lets s1 s2
  have h1 : LandFrame base s1 := .ite h h.landHere
  have h2 : LandFrame base s2 := .ite (h1.bump (by decide)) h1
  exact h2.upd

theorem LandFrame.returnPacket {p} (h : LandFrame base s) : LandFrame base (returnPacket p s) := by
  unfold Machine.returnPacket
  refine .ite h.keepLanded ?_
  extract_lets hold r s0
  have h0 : LandFrame base s0 := h.takeRaw.releaseAll
  split
  · exact h0.freeHold.stalePkt
  · exact .ite h0.freeHold.upd.countError h0.meadReturn.progress

theorem LandFrame.dispatchHost {p} (h : LandFrame base s) : LandFrame base (s.dispatchHost p) :=
  .ite h (.ite h.takeLanded.countError (.ite h.keepLanded h.keepLanded.cistAsk.progress))

theorem LandFrame.passWell {w p} (h : LandFrame base s) : LandFrame base (s.passWell w p) := by
  unfold State.passWell
  exact h.takeWith.sendWell.modWell

theorem LandFrame.dispatchAbsent {p} (h : LandFrame base s) : LandFrame base (s.dispatchAbsent p) := by
  unfold State.dispatchAbsent
  extract_lets _ s1
  have h1 : LandFrame base s1 := h.takeLanded
  split
  · exact h1
  · exact .ite h1 h1.modAtt.sendAbort

theorem LandFrame.dispatch {p} (h : LandFrame base s) : LandFrame base (dispatch p s) := by
  unfold Machine.dispatch
  split
  · next he => exact h.landCheck he
  · refine .ite h.keepLanded ?_
    split
    · exact h.takeLanded.stalePkt
    · refine .ite h.takeLanded.countError (.ite h.dispatchHost ?_)
      split
      · exact .ite h.takeLanded h.passWell
      · exact h.dispatchAbsent

theorem LandFrame.retryHub (h : LandFrame base s) : LandFrame base s.retryHub := .foldl h fun ht _ => .ite ht.dispatch ht.returnPacket

/-! ### What a Well takes (R227, R231, R232) -/

theorem LandFrame.wellSwitch {w c} (h : LandFrame base s) : LandFrame base (s.wellSwitch w c) := by
  unfold State.wellSwitch
  split
  · exact h.modWell
  · exact .ite h (.modWell (.accCyc (.wr (h.bumpBy (by decide)) (by decide))))

theorem LandFrame.wellGrant {w} (h : LandFrame base s) : LandFrame base (s.wellGrant w) := by
  unfold State.wellGrant
  extract_lets _ _ _
  refine .ite h ?_
  split
  · exact h
  · split
    · exact h
    · exact h.modWell.wellSwitch

theorem LandFrame.scoreRowTake {w p} (h : LandFrame base s) : LandFrame base (s.scoreRowTake w p) := h.modWell.wellGrant

/-- A header that is counted leaves the EODs of its home. -/
theorem sameEods_land {l : List HomeRec} {h : Nat} {c : Ctx} {seq : Word} {att : Nat} {src : Chip} {e bucket : Nat} {shared : Bool}
    {members : List Nat} : SameEods l (putHome l (((homeRec l h c seq att).land src e bucket shared).mark members)) :=
  sameEods_putHome (homeRec_isFor l h c seq att) rfl

theorem LandFrame.wellLand {w p} (h : LandFrame base s) (he : s.wellLand w p = .taken t) : LandFrame base t := by
  unfold State.wellLand at he
  dsimp only at he
  split at he
  · exact Rx.taken.inj he ▸ h.stalePkt
  · split at he
    · cases he
    · split_ifs at he
      · exact Rx.taken.inj he ▸ h.countError
      · exact Rx.taken.inj he ▸ h.countError
      all_goals exact Rx.taken.inj he ▸ .progress (h.modWell sameEods_land)

theorem LandFrame.rxHead {w p} (h : LandFrame base s) (he : s.rxHead w p = .taken t) : LandFrame base t := by
  unfold State.rxHead at he
  split at he
  · split at he
    · exact Rx.taken.inj he ▸ h.stalePkt
    · split_ifs at he
      exact Rx.taken.inj he ▸ h.scoreRowTake
  · exact h.wellLand he

theorem LandFrame.rxPump {n w} (h : LandFrame base s) : LandFrame base (State.rxPump n w s) := by
  induction n generalizing s with
  | zero => exact h
  | succ n ih =>
    unfold State.rxPump
    split
    · exact h
    · split
      · next he => exact ih (h.modWell.rxHead he)
      · exact h
      · exact .ite h (.modWell (h.bump (by decide)))

theorem LandFrame.retryLanded (h : LandFrame base s) : LandFrame base s.retryLanded := .foldl h.retryHub fun ht _ => ht.rxPump

theorem LandFrame.homesMoved (h : LandFrame base s) : LandFrame base s.homesMoved := by
  unfold State.homesMoved
  extract_lets gone work s1 s2 s3 s4
  have h2 : LandFrame base s2 := .foldl h.upd fun ht _ => ht.modWell
  have h3 : LandFrame base s3 := .foldl h2 fun ht _ => ht.rxPump
  have h4 : LandFrame base s4 := .ite h3.retryLanded h3
  exact .foldl h4 fun ht _ => ht.reported (HomeFrame.refl _).wellReports

end Sys2Proof.Machine
end

section
/-!
SUPPORT. How a DISPATCH and an EOD land: O16.
-/

namespace Sys2Proof.Machine

open Sys2Proof

set_option Elab.async false

variable {s t : State} {p : Pkt} {w : WellNo}

/-! ### Packets that are taken and passed on -/

theorem State.sendWell_traffic (s : State) (w : WellNo) (p : Pkt) (release : List Nat) : UpToTraffic s (s.sendWell w p release) := by
  unfold State.sendWell
  split
  · exact s.releaseAll_traffic release
  · exact s.enqueueOn_traffic _ _ _ _ _

/-- `t` is `s` after a packet has been taken or passed on: the registers, the work and the core of the Hub are the same, and the Wells but
for their links. -/
structure HandedOn (s t : State) : Prop where
  traffic : UpToTraffic s t
  same : ∃ l q x m b d f, t =
    { s with landed := l, ports := q, wells := x, mch := m, cist := { s.cist with bufs := b, dup := d, freed := f } }

theorem HandedOn.refl (s : State) : HandedOn s s := ⟨.refl s, _, _, _, _, _, _, _, rfl⟩

theorem HandedOn.trans {u : State} (h : HandedOn s t) (h' : HandedOn t u) : HandedOn s u := by
  refine ⟨h.traffic.trans h'.traffic, ?_⟩
  obtain ⟨_, _, _, _, _, _, _, ht⟩ := h.same
  obtain ⟨_, _, _, _, _, _, _, hu⟩ := h'.same
  rw [hu, ht]
  exact ⟨_, _, _, _, _, _, _, rfl⟩

theorem State.takeRaw_handedOn (s : State) (p : Pkt) : HandedOn s (s.takeRaw p).1 := by
  unfold State.takeRaw
  split
  · exact ⟨.of_same (fun _ => rfl) rfl rfl rfl rfl, _, _, _, _, _, _, _, rfl⟩
  · exact .refl s

theorem State.freeHold_handedOn (s : State) (x : Option (LinkId × Fin 8 × Nat)) : HandedOn s (s.freeHold x) := by
  obtain ⟨_, _, _, he⟩ := State.freeHold_eq s x
  exact ⟨s.freeHold_traffic x, _, _, _, _, _, _, _, he⟩

theorem State.releaseAll_handedOn (s : State) (hs : List Nat) : HandedOn s (s.releaseAll hs) := by
  obtain ⟨_, _, _, he⟩ := State.releaseAll_eq s hs
  exact ⟨s.releaseAll_traffic hs, _, _, _, _, _, _, _, he⟩

theorem State.sendWell_handedOn (s : State) (w : WellNo) (p : Pkt) (release : List Nat) : HandedOn s (s.sendWell w p release) := by
  obtain ⟨_, _, _, _, he⟩ := State.sendWell_eq s w p release
  exact ⟨s.sendWell_traffic w p release, _, _, _, _, _, _, _, he⟩

theorem State.takeLanded_handedOn (s : State) (p : Pkt) : HandedOn s (s.takeLanded p) :=
  ((s.takeRaw_handedOn p).trans (State.freeHold_handedOn _ _)).trans (State.releaseAll_handedOn _ _)

section
variable (h : HandedOn s t)
include h

theorem HandedOn.word (off : Nat) : t.word off = s.word off := by
  obtain ⟨_, _, _, _, _, _, _, rfl⟩ := h.same
  rfl

theorem HandedOn.rd (f : Fld) : t.rd f = s.rd f := congrArg f.get (h.word f.off)

theorem HandedOn.work : t.work = s.work := by
  obtain ⟨_, _, _, _, _, _, _, rfl⟩ := h.same
  rfl

theorem HandedOn.waits : t.cist.waits = s.cist.waits := by
  obtain ⟨_, _, _, _, _, _, _, rfl⟩ := h.same
  rfl

theorem HandedOn.current (p : Pkt) : t.current p = s.current p := by
  obtain ⟨_, _, _, _, _, _, _, rfl⟩ := h.same
  rfl

theorem HandedOn.malformed (p : Pkt) : t.malformed p = s.malformed p := by
  obtain ⟨_, _, _, _, _, _, _, rfl⟩ := h.same
  rfl

theorem HandedOn.hostHome (c : Ctx) (seq : Word) (att : Nat) : t.hostHome c seq att = s.hostHome c seq att := by
  obtain ⟨_, _, _, _, _, _, _, rfl⟩ := h.same
  rfl

theorem HandedOn.wellHome (w : WellNo) (c : Ctx) (seq : Word) (att : Nat) :
    homeRec t.wells[w].homes (mkHome t.chip w.val) c seq att = homeRec s.wells[w].homes (mkHome s.chip w.val) c seq att := by
  rw [Well.homes_of_lists (h.traffic.lists w), show t.chip = s.chip from h.rd _]

/-- What is reported once a packet has been taken is reported since before it. -/
theorem HandedOn.reports {u : State} {code : Nat} (hr : Reports t code u) : Reports s code u := by
  obtain ⟨_, _, _, _, _, _, _, rfl⟩ := h.same
  exact hr.of_same rfl rfl

end

/-! ### Packets that are counted and reported -/

theorem UpToTraffic.serviceWells (h : UpToTraffic s t) : t.serviceWells = s.serviceWells := by
  refine List.filter_congr fun w _ => ?_
  obtain ⟨_, hk⟩ := h.well w
  rw [hk]

/-- What follows the count of a bad packet is traffic. -/
theorem State.countError_traffic (s : State) (p : Pkt) (home expert filled landed kind : Nat) :
    UpToTraffic (s.bump PMP_COUNT_ERR_CNT.COUNT) (s.countError p home expert filled landed kind) :=
  (State.raise_traffic _ _ _ _ _ _ _).trans (State.sendAbort_traffic _ _ _ _ _ _)

theorem State.countError_counted (s : State) (p : Pkt) (home expert filled landed kind : Nat) :
    Counted s (s.countError p home expert filled landed kind) PMP_COUNT_ERR_CNT.COUNT 1 :=
  ((s.countError_traffic p home expert filled landed kind).rd _ (by decide) (by decide)).trans (State.bump_rd _ _ (by decide))

theorem State.countError_reports (s : State) (p : Pkt) (home expert filled landed kind : Nat) :
    Reports s 0x0704 (s.countError p home expert filled landed kind) := by
  have h : Reports (s.bump PMP_COUNT_ERR_CNT.COUNT) 0x0704 (s.countError p home expert filled landed kind) :=
    (State.sendAbort_traffic _ _ _ _ _ _).reports (State.raise_reports _ _ _ _ _ _ _)
  exact h.of_same (s.bump_hubUp _).symm (congrArg EventQueue.waiting (s.bump_evq _)).symm

theorem State.countError_lists (s : State) (p : Pkt) (home expert filled landed kind : Nat) (w : WellNo) :
    (s.countError p home expert filled landed kind).wells[w].lists = s.wells[w].lists :=
  ((s.countError_traffic p home expert filled landed kind).lists w).trans (by rw [State.bump_wells])

theorem State.stalePkt_lists (s : State) (p : Pkt) (w : WellNo) : (s.stalePkt p).wells[w].lists = s.wells[w].lists :=
  congrArg (fun v : Vector Well 24 => v[w].lists) (s.bump_wells _)

/-! ### Requests for buffers (R166) -/

/-- What `State.marked` does with one request: the lines that wait so far, and the requests marked so far. -/
def State.markNext (s : State) (a : List Nat × List CstReq) (r : CstReq) : List Nat × List CstReq :=
  let b := a.1.contains r.why.line || !s.grantable r.who r.bytes
  (if b then a.1 ++ [r.why.line] else a.1, a.2 ++ [{ r with counted := r.counted || b }])

theorem State.markNext_fold_why (s : State) (l : List CstReq) (a : List Nat × List CstReq) :
    (l.foldl s.markNext a).2.map (·.why) = a.2.map (·.why) ++ l.map (·.why) := by
  induction l generalizing a with
  | nil => exact (List.append_nil _).symm
  | cons r l ih =>
    rw [List.foldl_cons, ih, State.markNext, List.map_append, List.append_assoc]
    rfl

/-- Marking the requests that wait leaves what they are for. -/
theorem State.marked_why (s : State) : s.marked.map (·.why) = s.cist.waits.map (·.why) :=
  s.markNext_fold_why s.cist.waits ([], [])

/-- Who asks for a buffer waits for it. -/
theorem State.cistAsk_waits (s : State) (q n : Nat) (why : CstWhy) : ∃ r, r ∈ (s.cistAsk q n why).cist.waits ∧ r.why = why := by
  have hwhy : (s.cistAsk q n why).cist.waits.map (·.why) = s.cist.waits.map (·.why) ++ [why] :=
    (State.marked_why _).trans List.map_append
  exact List.mem_map.mp (by rw [hwhy]; exact List.mem_append_right _ (List.mem_singleton_self _))

theorem State.markWaits_wells (s : State) : s.markWaits.wells = s.wells := by
  unfold State.markWaits
  dsimp only
  split
  · rfl
  · exact s.bumpBy_wells _ _

theorem State.cistAsk_wells (s : State) (q n : Nat) (why : CstWhy) : (s.cistAsk q n why).wells = s.wells := State.markWaits_wells _

theorem State.keepLanded_wells (s : State) (p : Pkt) (queue : Bool) : (s.keepLanded p queue).wells = s.wells := by
  unfold State.keepLanded
  extract_lets s1 s2
  have h1 : s1.wells = s.wells := by
    dsimp only [s1]
    split <;> rfl
  have h2 : s2.wells = s1.wells := by
    dsimp only [s2]
    split
    · exact s1.bump_wells _
    · rfl
  exact h2.trans h1

/-! ### The branches of DISPATCH -/

section
variable (hcheck : s.landCheck p = none) (hheld : s.heldBack p = false)
include hcheck hheld

theorem dispatch_stale (hcur : s.current p = none) : dispatch p s = (s.takeLanded p).stalePkt p := by
  unfold dispatch
  rw [hcheck, hheld, hcur]
  exact if_neg Bool.false_ne_true

variable {st : Step} (hcur : s.current p = some st)
include hcur

theorem dispatch_malformed (hmal : s.malformed p = true) : dispatch p s = (s.takeLanded p).malformedAt p (dDest p) (dExpert p) := by
  unfold dispatch
  rw [hcheck, hheld, hcur, hmal]
  exact (if_neg Bool.false_ne_true).trans (if_pos rfl)

theorem dispatch_host (hmal : s.malformed p = false) (hslot : homeSlot (dDest p) = 24) : dispatch p s = s.dispatchHost p := by
  unfold dispatch
  rw [hcheck, hheld, hcur, hmal]
  exact (if_neg Bool.false_ne_true).trans ((if_neg Bool.false_ne_true).trans (if_pos hslot))

theorem dispatch_well (hmal : s.malformed p = false) (hslot : homeSlot (dDest p) ≠ 24) (hwell : s.homeWell (dDest p) = some w)
    (hfr : s.wellFrozen w = false) : dispatch p s = s.passWell w p := by
  unfold dispatch
  rw [hcheck, hheld, hcur, hmal, hwell]
  dsimp only
  rw [if_neg Bool.false_ne_true, if_neg Bool.false_ne_true, if_neg hslot, hfr]
  exact if_neg Bool.false_ne_true

end

/-- A copy for the host path waits for its buffer, or asks for it. -/
theorem State.dispatchHost_waits (hbad : (s.hostHome (ctxOf p) (seqOf p) (attOf p)).headerBad (srcOf p) (dExpert p) (dBucket p) (dShared p) = false)
    (hroom : s.hostRoom p = true) :
    (∃ r, r ∈ (s.dispatchHost p).cist.waits ∧ r.why = .land p) ∧ ∀ w : WellNo, (s.dispatchHost p).wells[w].lists = s.wells[w].lists := by
  unfold State.dispatchHost
  dsimp only
  rw [hbad, hroom]
  split
  · next hany =>
    obtain ⟨r, hr, hwhy⟩ := List.any_eq_true.mp hany
    exact ⟨⟨r, hr, eq_of_beq hwhy⟩, fun _ => rfl⟩
  · rw [if_neg Bool.false_ne_true, if_neg (by decide), State.progress_waits]
    refine ⟨State.cistAsk_waits _ _ _ _, fun w => ((State.progress_traffic _ _).lists w).trans ?_⟩
    rw [State.cistAsk_wells, State.keepLanded_wells]

/-! ### A copy that its Well queues (R197, R198) -/

/-- A packet that is passed to a Well joins what the Well has received. -/
theorem State.passWell_eq (s : State) (w : WellNo) (p : Pkt) : ∃ u, HandedOn s u ∧
    s.passWell w p = u.modWell w fun k => { k with rx := k.rx ++ [⟨p, false⟩] } :=
  ⟨_, ((s.takeRaw_handedOn p).trans (State.freeHold_handedOn _ _)).trans (State.sendWell_handedOn _ w p _), rfl⟩

/-- The room of a landing buffer does not depend on the link and the receive buffer. -/
theorem State.landRoom_congr (h : ∀ off, t.word off = s.word off) {l : List RxPkt} {k : Link}
    (hw : t.wells[w] = { s.wells[w] with link := k, rx := l }) (c : Ctx) : t.landRoom w c = s.landRoom w c := by
  have hhid : t.hid = s.hid := funext fun c => congrArg (fun x => (RTE_CTX_CFG.HIDW c).get x * 256) (h _)
  unfold State.landRoom State.landUsed
  rw [hw, hhid]
  rfl

/-- A copy that a Well has room for: its attempt is open and not a BACKWARD one, its counts are good, and a landing slot and a queue are free. -/
structure State.HasRoomFor (s : State) (w : WellNo) (p : Pkt) (st : Step) (o : WellOpen) : Prop where
  current : s.current p = some st
  opened : s.wellOpen w (ctxOf p) (seqOf p) (attOf p) = some o
  header : (homeRec s.wells[w].homes (mkHome s.chip w.val) (ctxOf p) (seqOf p) (attOf p)).headerBad (srcOf p) (dExpert p) (dBucket p)
    (dShared p) = false
  opcode : o.opcode ≠ 2
  room : s.landRoom w (ctxOf p) = true
  queue : queueRoom s.wells[w].queues 256 (ctxOf p) (seqOf p) (attOf p) (dExpert p) 0 = true

/-- The room that a Well has does not depend on its link and its receive buffer. -/
theorem HandedOn.hasRoomFor {u : State} {st : Step} {o : WellOpen} (hu : HandedOn s u) (h : s.HasRoomFor w p st o) :
    (u.withRx w []).HasRoomFor w p st o := by
  obtain ⟨k, hk⟩ := hu.traffic.well w
  have hwell : (u.withRx w []).wells[w] = { s.wells[w] with link := k, rx := [] } := by
    rw [State.withRx, State.modWell_same, hk]
  have hchip : (u.withRx w []).chip = s.chip := congrArg SVC_ID.CHIP.get (hu.word _)
  refine ⟨(hu.current p).trans h.current, ?_, ?_, h.opcode,
    (State.landRoom_congr (t := u.withRx w []) hu.word hwell (ctxOf p)).trans h.room, ?_⟩
  · unfold State.wellOpen
    rw [hwell]
    exact h.opened
  · rw [hwell, hchip]
    exact h.header
  · rw [hwell]
    exact h.queue

/-- A copy that a Well has room for joins its expert's queue. -/
theorem State.HasRoomFor.wellLand {st : Step} {o : WellOpen} (h : s.HasRoomFor w p st o) :
    ∃ f row, s.wellLand w p = .taken ((s.modWell w f).progress (ctxOf p)) ∧ (f s.wells[w]).rx = s.wells[w].rx ∧
      (f s.wells[w]).queues = pushQueue s.wells[w].queues (ctxOf p) (seqOf p) (attOf p) (dExpert p) (entryOf p 0 row) := by
  unfold State.wellLand
  dsimp only
  rw [h.current]
  dsimp only
  rw [h.opened]
  dsimp only
  rw [h.header, h.room, h.queue, if_neg Bool.false_ne_true, if_neg fun hb => h.opcode hb.1, if_neg fun hb => h.opcode hb.1,
    if_neg (by decide), if_neg (by decide)]
  exact ⟨_, _, rfl, rfl, rfl⟩

/-- An entry that is put into a queue stands in a queue of its expert. -/
theorem mem_pushQueue (l : List Queue) (c : Ctx) (seq : Word) (att e : Nat) (x : QEntry) :
    ∃ q, q ∈ pushQueue l c seq att e x ∧ q.expert = e ∧ x ∈ q.entries := by
  unfold pushQueue
  split
  · next hany =>
    obtain ⟨q, hq, hfor⟩ := List.any_eq_true.mp hany
    refine ⟨{ q with entries := q.entries ++ [x] }, List.mem_map.mpr ⟨q, hq, if_pos hfor⟩, ?_,
      List.mem_append_right _ (List.mem_singleton_self x)⟩
    unfold Queue.isFor at hfor
    exact eq_of_beq (Bool.and_eq_true_iff.mp hfor).2
  · exact ⟨_, List.mem_append_right _ (List.mem_singleton_self _), rfl, List.mem_singleton_self x⟩

/-- A copy that has been passed to a Well with room for it is taken from its receive buffer and queued. -/
theorem State.passWell_queues {st : Step} {o : WellOpen} (hp : ptypeOf p ≠ 0x32) (hrx : ∀ v : WellNo, s.wells[v].rx = [])
    (h : s.HasRoomFor w p st o) :
    (∀ v : WellNo, v ≠ w → (s.passWell w p).wells[v].rx = []) ∧ (∀ v : WellNo, ((s.passWell w p).wellPump w).wells[v].rx = []) ∧
      ∃ row, ((s.passWell w p).wellPump w).wells[w].queues =
        pushQueue s.wells[w].queues (ctxOf p) (seqOf p) (attOf p) (dExpert p) (entryOf p 0 row) := by
  obtain ⟨u, hu, heq⟩ := s.passWell_eq w p
  have hempty : ∀ v : WellNo, u.wells[v].rx = [] := fun v => (Well.rx_of_lists (hu.traffic.lists v)).trans (hrx v)
  have hpass : s.passWell w p = u.withRx w [⟨p, false⟩] := heq.trans (State.modWell_congr (by rw [hempty w, List.nil_append]))
  have hqueues : (u.withRx w []).wells[w].queues = s.wells[w].queues := by
    rw [← Well.queues_of_lists (hu.traffic.lists w), State.withRx, State.modWell_same]
  obtain ⟨g, row, htaken, hgrx, hgqueues⟩ := (hu.hasRoomFor h).wellLand
  have hpump : (s.passWell w p).wellPump w = ((u.withRx w []).modWell w g).progress (ctxOf p) := by
    rw [hpass, State.wellPump, State.withRx_rx]
    exact rxPump_taken ((if_neg hp).trans htaken)
  have hpumped : ∀ v : WellNo, ((s.passWell w p).wellPump w).wells[v].lists = ((u.withRx w []).modWell w g).wells[v].lists := fun v => by
    rw [hpump]
    exact (State.progress_traffic _ _).lists v
  have hother : ∀ {v : WellNo}, v ≠ w → ∀ l, (u.withRx w l).wells[v].rx = [] := fun hv l => by
    rw [State.withRx, State.modWell_ne _ _ hv, hempty]
  refine ⟨fun v hv => hpass ▸ hother hv _, fun v => (Well.rx_of_lists (hpumped v)).trans ?_, row,
    (Well.queues_of_lists (hpumped w)).trans ?_⟩
  · by_cases hv : v = w
    · subst hv
      rw [State.modWell_same, hgrx, State.withRx_rx]
    · rw [State.modWell_ne _ _ hv, hother hv]
  · rw [State.modWell_same, hgqueues, hqueues]

/-! ### EODs (R199) -/

/-- The record of a home that has taken an EOD holds it. -/
theorem homeRec_take_eods (l : List HomeRec) (h : Nat) (c : Ctx) (seq : Word) (att : Nat) (x : EodRec) (members : List Nat) :
    x ∈ (homeRec (putHome l ((homeRec l h c seq att).take x members)) h c seq att).eods := by
  rw [homeRec_putHome_same l (r := (homeRec l h c seq att).take x members) (homeRec_isFor l h c seq att)]
  exact List.mem_append_right _ (List.mem_singleton_self x)

theorem homeRec_home (l : List HomeRec) (h : Nat) (c : Ctx) (seq : Word) (att : Nat) : (homeRec l h c seq att).home = h :=
  ((HomeRec.isFor_iff _ h c seq att).mp (homeRec_isFor l h c seq att)).1

section
variable {st : Step} (hcheck : s.landCheck p = none) (hcur : s.current p = some st) (hmal : s.malformed p = false)
include hcheck hcur hmal

theorem eod_host (hslot : homeSlot (eDest p) = 24) : eod p s = ((s.takeLanded p).eodHost p).progress (ctxOf p) := by
  unfold eod
  rw [hcheck]
  dsimp only
  rw [State.takeLanded_current, hcur]
  dsimp only
  rw [(s.takeLanded_handedOn p).malformed, hmal, if_neg Bool.false_ne_true, if_pos hslot]

theorem eod_well (hslot : homeSlot (eDest p) ≠ 24) (hwell : s.homeWell (eDest p) = some w) (hfr : s.wellFrozen w = false) :
    eod p s = ((s.takeLanded p).eodWell w p).progress (ctxOf p) := by
  have hwell' : (s.takeLanded p).homeWell (eDest p) = some w := by
    unfold State.homeWell
    rw [(s.takeLanded_handedOn p).traffic.serviceWells]
    exact hwell
  unfold eod
  rw [hcheck]
  dsimp only
  rw [State.takeLanded_current, hcur]
  dsimp only
  rw [(s.takeLanded_handedOn p).malformed, hmal, if_neg Bool.false_ne_true, if_neg hslot, hwell']
  dsimp only
  rw [State.takeLanded_wellFrozen, hfr]
  exact if_neg Bool.false_ne_true

end

/-- The first good EOD of a source joins the home of the host path. -/
theorem State.eodHost_holds (hnone : (s.hostHome (ctxOf p) (seqOf p) (attOf p)).eod (srcOf p) = none)
    (hgood : (s.hostHome (ctxOf p) (seqOf p) (attOf p)).eodBad (eodOf p) (eTotal p) = false) :
    ∃ r, r ∈ (s.eodHost p).work.homes ∧ r.home = hostPath s.chip ∧ eodOf p ∈ r.eods := by
  unfold State.eodHost
  dsimp only
  rw [show (eodOf p).src = srcOf p from rfl, hnone, hgood, if_neg (by decide)]
  exact ⟨_, List.mem_append_right _ (List.mem_singleton_self _), homeRec_home _ _ _ _ _, List.mem_append_right _ (List.mem_singleton_self _)⟩

/-- The first good EOD of a source joins the home of its Well. -/
theorem State.eodWell_holds (hnone : (homeRec s.wells[w].homes (mkHome s.chip w.val) (ctxOf p) (seqOf p) (attOf p)).eod (srcOf p) = none)
    (hgood : (homeRec s.wells[w].homes (mkHome s.chip w.val) (ctxOf p) (seqOf p) (attOf p)).eodBad (eodOf p) (eTotal p) = false) :
    eodOf p ∈ (homeRec (s.eodWell w p).wells[w].homes (mkHome s.chip w.val) (ctxOf p) (seqOf p) (attOf p)).eods := by
  have hhomes := Well.homes_of_lists ((s.sendWell_traffic w p []).lists w)
  unfold State.eodWell
  dsimp only
  rw [show (eodOf p).src = srcOf p from rfl, hnone, hgood, if_neg (by decide), State.modWell_same, hhomes]
  exact homeRec_take_eods _ _ _ _ _ _ _

/-! ### The commands -/

theorem execDispatch_eq (hup : s.busUp 0xa = true) (hp : ptypeOf p = 1 ∨ ptypeOf p = 2) :
    exec (.dispatch p) s = .next (dispatch p s).homesMoved := congrArg Host.Outcome.next (if_pos ⟨hup, hp⟩)

theorem execEod_eq (hup : s.busUp 0xa = true) (hp : ptypeOf p = 5) : exec (.eod p) s = .next (eod p s).homesMoved :=
  congrArg Host.Outcome.next (if_pos ⟨hup, hp⟩)

section
variable (hq : ∀ q, q ∈ s.work.queues → q.entries ≠ [])
  (hw : ∀ w : WellNo, s.wells[w].rx = [] ∧ ∀ q, q ∈ s.wells[w].queues → q.entries ≠ [])
include hq hw

/-- A DISPATCH that changes no home and gives no Well a packet is followed only by reports of the Wells. -/
theorem dispatch_moved (hlists : ∀ w : WellNo, (dispatch p s).wells[w].lists = s.wells[w].lists) :
    HomeFrame (dispatch p s) (dispatch p s).homesMoved := by
  have hqueues : (dispatch p s).work.queues = s.work.queues := ((AdmitFrame.refl s).dispatch (p := p)).queues
  have hmoved := State.homesMoved_frame (s := dispatch p s) (by rw [hqueues]; exact hq) fun w q hmem =>
    (hw w).2 q (Well.queues_of_lists (hlists w) ▸ hmem)
  rwa [State.pump_idle _ fun w => (Well.rx_of_lists (hlists w)).trans (hw w).1] at hmoved

/-- A copy that is passed to a Well with room for it stands in a queue of its expert once the homes have moved. -/
theorem passWell_moved {st : Step} {o : WellOpen} (hp : ptypeOf p ≠ 0x32) (hserv : w ∈ s.serviceWells) (h : s.HasRoomFor w p st o) :
    ∃ row, (s.passWell w p).homesMoved.wells[w].queues =
      pushQueue s.wells[w].queues (ctxOf p) (seqOf p) (attOf p) (dExpert p) (entryOf p 0 row) := by
  obtain ⟨hothers, hdone, row, hpumped⟩ := State.passWell_queues hp (fun v => (hw v).1) h
  obtain ⟨u, hu, heq⟩ := s.passWell_eq w p
  have hkeep : ∀ v : WellNo, (s.passWell w p).wells[v].queues = s.wells[v].queues ∧
      (s.passWell w p).wells[v].inService = s.wells[v].inService := fun v => by
    obtain ⟨_, hk⟩ := hu.traffic.well v
    rw [heq]
    by_cases hv : v = w
    · subst hv
      rw [State.modWell_same, hk]
      exact ⟨rfl, rfl⟩
    · rw [State.modWell_ne _ _ hv, hk]
      exact ⟨rfl, rfl⟩
  have hqueues : (s.passWell w p).work.queues = s.work.queues := ((AdmitFrame.refl s).passWell (w := w) (p := p)).queues
  have hmoved := State.homesMoved_frame (s := s.passWell w p) (by rw [hqueues]; exact hq) fun v q hmem =>
    (hw v).2 q ((hkeep v).1 ▸ hmem)
  have hserv' : w ∈ (s.passWell w p).serviceWells := by
    rw [State.serviceWells, List.filter_congr fun v _ => (hkeep v).2]
    exact hserv
  rw [State.pump_one hserv' hothers hdone] at hmoved
  exact ⟨row, (Well.queues_of_lists (hmoved.wells w)).trans hpumped⟩

end

/-- Settles O16: each packet is one branch of its command, and what follows it keeps counts, records, requests, queues and EODs. -/
theorem dispatchAndEodLand : Obligations.DispatchAndEodLand := by
  unfold Obligations.DispatchAndEodLand
  refine ⟨fun s p hup hp hcheck hheld hq hw => ⟨fun hcur => ?_, fun st hcur hmal => ?_, fun st hcur hmal hslot hbad hroom => ?_,
    fun st w o hcur hmal hslot hwell hfr hopen hbad hop hroom hqueue => ?_⟩,
    fun s p st hup hp hcheck hcur hmal => ⟨fun hslot hnone hgood => ?_, fun w hslot hwell hfr hnone hgood => ?_⟩⟩
  · have heq := dispatch_stale hcheck hheld hcur
    have hmoved := dispatch_moved hq hw (p := p) fun w => by rw [heq, State.stalePkt_lists, (s.takeLanded_handedOn p).traffic.lists]
    have hcount : Counted (s.takeLanded p) (dispatch p s) PMP_STALE_CNT.COUNT 1 := by
      rw [heq]
      exact State.bump_rd _ _ (by decide)
    exact ⟨_, execDispatch_eq hup hp, hmoved.words.counted (hcount.of_rd (s.takeLanded_rd p _)) List.not_mem_nil (by decide) (by decide)⟩
  · have heq := dispatch_malformed hcheck hheld hcur hmal
    have hmoved := dispatch_moved hq hw (p := p) fun w => by
      rw [heq, State.malformedAt, State.countError_lists, (s.takeLanded_handedOn p).traffic.lists]
    have hcount : Counted (s.takeLanded p) (dispatch p s) PMP_COUNT_ERR_CNT.COUNT 1 := by
      rw [heq]
      exact State.countError_counted _ _ _ _ _ _ _
    have hreports : Reports s 0x0704 (dispatch p s) := by
      rw [heq]
      exact (s.takeLanded_handedOn p).reports (State.countError_reports _ _ _ _ _ _ _)
    exact ⟨_, execDispatch_eq hup hp, hmoved.words.counted (hcount.of_rd (s.takeLanded_rd p _)) List.not_mem_nil (by decide) (by decide),
      hreports.later hmoved.waiting⟩
  · have heq := dispatch_host hcheck hheld hcur hmal hslot
    obtain ⟨hwaits, hlists⟩ := State.dispatchHost_waits hbad hroom
    have hmoved := dispatch_moved hq hw (p := p) fun w => by rw [heq, hlists]
    rw [← heq, ← hmoved.waits] at hwaits
    exact ⟨_, execDispatch_eq hup hp, hwaits⟩
  · have heq := dispatch_well hcheck hheld hcur hmal hslot hwell hfr
    have hserv : w ∈ s.serviceWells := List.mem_of_find?_eq_some hwell
    obtain ⟨row, hqueues⟩ := passWell_moved hq hw (by omega) hserv ⟨hcur, hopen, hbad, hop, hroom, hqueue⟩
    obtain ⟨q, hmem, hexpert, hentry⟩ := mem_pushQueue s.wells[w].queues (ctxOf p) (seqOf p) (attOf p) (dExpert p) (entryOf p 0 row)
    exact ⟨_, execDispatch_eq hup hp, q, _, by rw [heq, hqueues]; exact hmem, hexpert, hentry, rfl, rfl, rfl⟩
  · have heq := eod_host hcheck hcur hmal hslot
    have hkept : (eod p s).homesMoved.work.homes = ((s.takeLanded p).eodHost p).work.homes := by
      rw [heq]
      exact (LandFrame.refl _).progress.homesMoved.homes
    have hhome := (s.takeLanded_handedOn p).hostHome (ctxOf p) (seqOf p) (attOf p)
    obtain ⟨r, hr, hchip, hmem⟩ := State.eodHost_holds (s := s.takeLanded p) (p := p) (by rw [hhome]; exact hnone) (by rw [hhome]; exact hgood)
    exact ⟨_, execEod_eq hup hp, r, hkept ▸ hr, hchip.trans (congrArg hostPath (s.takeLanded_rd p _)), hmem⟩
  · have heq := eod_well hcheck hcur hmal hslot hwell hfr
    have hkept : SameEods ((s.takeLanded p).eodWell w p).wells[w].homes (eod p s).homesMoved.wells[w].homes := by
      rw [heq]
      exact (LandFrame.refl _).progress.homesMoved.wells w
    have hhome := (s.takeLanded_handedOn p).wellHome w (ctxOf p) (seqOf p) (attOf p)
    have hmem := State.eodWell_holds (s := s.takeLanded p) (p := p) (w := w) (by rw [hhome]; exact hnone) (by rw [hhome]; exact hgood)
    rw [← hkept] at hmem
    exact ⟨_, execEod_eq hup hp, _, homeRec_mem hmem, hmem⟩

end Sys2Proof.Machine
end

section
/-!
SUPPORT. How a RETURN lands and a finished row leaves: O17.
-/

namespace Sys2Proof.Machine

open Sys2Proof

set_option Elab.async false

variable {s t : State} {p : Pkt} {c : Ctx} {k : Nat}

/-! ### The token table (R205) -/

theorem State.mead_congr (h : t.work.meadow = s.work.meadow) (c : Ctx) (k : Nat) : t.mead c k = s.mead c k := by
  unfold State.mead
  rw [h]

theorem State.mead_key {m : MeadTok} (h : s.mead c k = some m) : m.ctx = c ∧ m.t = k := by
  have hkey := List.find?_some (p := fun m : MeadTok => m.ctx == c && m.t == k) h
  obtain ⟨hc, hk⟩ := Bool.and_eq_true_iff.mp hkey
  exact ⟨eq_of_beq hc, eq_of_beq hk⟩

theorem State.mead_eq_none : s.mead c k = none ↔ ∀ m, m ∈ s.work.meadow → ¬(m.ctx = c ∧ m.t = k) := by
  refine List.find?_eq_none.trans (forall₂_congr fun m _ => not_congr ?_)
  rw [Bool.and_eq_true_iff, beq_iff_eq, beq_iff_eq]

/-- The state with another entry for a token of the table. -/
def State.putMead (s : State) (c : Ctx) (k : Nat) (n : MeadTok) : State :=
  { s with work := { s.work with meadow := s.work.meadow.map fun x => if x.ctx = c ∧ x.t = k then n else x } }

theorem State.putMead_mead {m n : MeadTok} (h : s.mead c k = some m) (hc : n.ctx = c) (hk : n.t = k) : (s.putMead c k n).mead c k = some n := by
  obtain ⟨hmc, hmk⟩ := State.mead_key h
  have hsame : ((fun m : MeadTok => m.ctx == c && m.t == k) ∘ fun x => if x.ctx = c ∧ x.t = k then n else x) =
      fun m : MeadTok => m.ctx == c && m.t == k := by
    funext x
    dsimp only [Function.comp_apply]
    split
    · next hx => rw [hc, hk, hx.1, hx.2]
    · rfl
  unfold State.mead State.putMead
  rw [List.find?_map, hsame, show s.work.meadow.find? _ = some m from h]
  exact congrArg some (if_pos ⟨hmc, hmk⟩)

/-- A token that is not in the table is not put into it by an update of another one. -/
theorem State.putMead_none {c' : Ctx} {k' : Nat} {n : MeadTok} (h : s.mead c k = none) (hn : ¬(n.ctx = c ∧ n.t = k)) :
    (s.putMead c' k' n).mead c k = none := by
  refine State.mead_eq_none.mpr fun m hm => ?_
  obtain ⟨x, hx, rfl⟩ := List.mem_map.mp hm
  split
  · exact hn
  · exact State.mead_eq_none.mp h x hx

theorem State.dropMead_none (s : State) (c : Ctx) (k : Nat) : (s.dropMead c k).mead c k = none := by
  refine State.mead_eq_none.mpr fun m hm hkey => ?_
  have hgone := (List.mem_filter.mp hm).2
  rw [hkey.1, hkey.2, beq_self_eq_true, beq_self_eq_true] at hgone
  cases hgone

theorem State.dropMead_keeps_none {c' : Ctx} {k' : Nat} (h : s.mead c k = none) : (s.dropMead c' k').mead c k = none :=
  State.mead_eq_none.mpr fun m hm => State.mead_eq_none.mp h m (List.mem_filter.mp hm).1

/-! ### What Emit and the parked ranks leave of it (R207, R208) -/

theorem State.hostWrite_meadow (s : State) (why : Purpose) (addr : Nat) (bytes : List Byte) :
    (s.hostWrite why addr bytes).work.meadow = s.work.meadow := by
  obtain ⟨_, hk⟩ := (HomeFrame.refl s).hostWrite (why := why) (addr := addr) (bytes := bytes) |>.work
  rw [hk]

theorem State.satHub_meadow (s : State) (n : Nat) : (s.satHub n).work.meadow = s.work.meadow := by
  unfold State.satHub
  split
  · rfl
  · rw [State.bumpBy_work]

theorem State.emitRow_meadow (s : State) (c : Ctx) (k : Nat) (els : List Nat) : (s.emitRow c k els).work.meadow = s.work.meadow := by
  unfold State.emitRow
  split
  · rfl
  · rw [State.progress_work]
    exact State.hostWrite_meadow _ _ _ _

theorem State.emit32_meadow (s : State) (c : Ctx) (k : Nat) (row : List Word) : (s.emit32 c k row).work.meadow = s.work.meadow :=
  (State.emitRow_meadow _ _ _ _).trans (State.satHub_meadow _ _)

theorem State.writeAux_meadow (s : State) (c : Ctx) (k : Nat) (dws : List (Nat × Word)) : (s.writeAux c k dws).work.meadow = s.work.meadow := by
  unfold State.writeAux
  split
  · split
    · rfl
    · exact (State.hostWrite_meadow _ _ _ _).trans (State.satHub_meadow _ _)
  · rfl

theorem State.releaseOpt_meadow (s : State) (x : Option Nat) : (s.releaseOpt x).work.meadow = s.work.meadow := by
  unfold State.releaseOpt
  split
  · next n =>
    obtain ⟨_, _, _, he⟩ := State.release_eq s n
    rw [he]
  · rfl

theorem State.finishTok_none {c' : Ctx} {m : MeadTok} (h : s.mead c k = none) : (s.finishTok c' m).mead c k = none := by
  unfold State.finishTok
  split
  · exact h
  · extract_lets work s1 s2
    split
    · exact h
    · refine State.dropMead_keeps_none ((State.mead_congr ?_ c k).trans h)
      have h1 : s1.work.meadow = s.work.meadow := State.emit32_meadow _ _ _ _
      dsimp only [s2]
      split
      · exact (State.writeAux_meadow _ _ _ _).trans h1
      · exact h1

/-- The entry of a token to which a rank has been added. -/
def MeadTok.plus (m : MeadTok) (x : Parked) : MeadTok :=
  { m with added := m.added ||| x.ranks, slot := true, acc := addRow m.acc x.row x.weight, dws := m.dws ++ [(x.rank, x.dw)] }

theorem State.addRank_eq {x : Parked} {m : MeadTok} (h : s.mead x.ctx x.tok = some m) : s.addRank x =
    if (m.plus x).expected &&& (m.plus x).added = (m.plus x).expected then (s.putMead x.ctx x.tok (m.plus x)).finishTok x.ctx (m.plus x)
    else s.putMead x.ctx x.tok (m.plus x) := by
  unfold State.addRank
  rw [h]
  rfl

theorem State.addRank_none {x : Parked} (h : s.mead c k = none) : (s.addRank x).mead c k = none := by
  cases hm : s.mead x.ctx x.tok with
  | none =>
    unfold State.addRank
    rw [hm]
    exact h
  | some m =>
    have hother : ¬((m.plus x).ctx = c ∧ (m.plus x).t = k) := State.mead_eq_none.mp h m (List.mem_of_find?_eq_some hm)
    rw [State.addRank_eq hm]
    split
    · exact State.finishTok_none (State.putMead_none h hother)
    · exact State.putMead_none h hother

/-- A token that is not in the table is not added to by parked ranks. -/
theorem State.pumpParked_none {n : Nat} (h : s.mead c k = none) : (s.pumpParked n).mead c k = none := by
  induction n generalizing s with
  | zero => exact h
  | succ n ih =>
    unfold State.pumpParked
    split
    · exact h
    · exact ih (State.addRank_none ((State.mead_congr (State.releaseOpt_meadow _ _) c k).trans h))

theorem State.pumpParked_idle (n : Nat) (h : s.work.parked = []) : s.pumpParked n = s := by
  cases n with
  | zero => rfl
  | succ n =>
    have hripe : s.ripe = none := by
      unfold State.ripe
      rw [h]
      rfl
    unfold State.pumpParked
    rw [hripe]

/-! ### A RETURN is taken (R193, R205, R207) -/

/-- The state once a RETURN has been taken from what landed. -/
def State.opened (s : State) (p : Pkt) : State := (s.takeRaw p).1.releaseAll (s.takeRaw p).2

section
variable (h : HandedOn s t)
include h

theorem HandedOn.mead (c : Ctx) (k : Nat) : t.mead c k = s.mead c k := State.mead_congr (congrArg Work.meadow h.work) c k

theorem HandedOn.early (c : Ctx) (k : Nat) : t.early c k = s.early c k := by
  unfold State.early
  rw [h.work, h.waits]

theorem HandedOn.slotFor (m : MeadTok) : t.slotFor m = s.slotFor m := by
  obtain ⟨_, _, _, _, _, _, _, rfl⟩ := h.same
  rfl

end

theorem State.opened_handedOn (s : State) (p : Pkt) : HandedOn s (s.opened p) := (s.takeRaw_handedOn p).trans (State.releaseAll_handedOn _ _)

/-- The state once what the RETURN held of its receive buffer is free, too. -/
theorem State.freed_handedOn (s : State) (p : Pkt) : HandedOn s ((s.opened p).freeHold (s.holdOf p)) :=
  (s.opened_handedOn p).trans (State.freeHold_handedOn _ _)

section
variable (hheld : s.heldBack p = false)
include hheld

theorem returnPacket_stale (hcur : s.current p = none) : returnPacket p s = ((s.opened p).freeHold (s.holdOf p)).stalePkt p := by
  have hcur' : (s.opened p).current p = none := ((s.opened_handedOn p).current p).trans hcur
  unfold returnPacket
  rw [hheld]
  dsimp only
  rw [← State.opened, hcur']
  exact if_neg Bool.false_ne_true

theorem returnPacket_current {st : Step} (hcur : s.current p = some st) (hmal : s.malformed p = false) :
    returnPacket p s = ((s.opened p).meadReturn st p (s.holdOf p)).progress (ctxOf p) := by
  have hcur' : (s.opened p).current p = some st := ((s.opened_handedOn p).current p).trans hcur
  have hmal' : (s.opened p).malformed p = false := ((s.opened_handedOn p).malformed p).trans hmal
  unfold returnPacket
  rw [hheld]
  dsimp only
  rw [← State.opened, hcur']
  dsimp only
  rw [hmal', if_neg Bool.false_ne_true]
  exact if_neg Bool.false_ne_true

end

section
variable {st : Step} {hold : Option (LinkId × Fin 8 × Nat)}

/-- A RETURN for a token that is not in the table is counted and reported. -/
theorem State.meadReturn_unexpected (h : s.mead (ctxOf p) (st.localTok (bitsOf p.w1.toNat 0 22)) = none) :
    ∃ data, s.meadReturn st p hold = ((s.freeHold hold).bump CMB_DUP_CNT.COUNT).raise 0x0803 2 data (ctxOf p) st.seq := by
  rw [show @State.meadReturn = _ by delta State.meadReturn; rfl]
  extract_lets c token rank ranks k bad
  rw [show s.mead c k = none from h]
  exact ⟨_, rfl⟩

/-- A RETURN of expected ranks, whose turn it is, is added to its token. -/
theorem State.meadReturn_adds {m : MeadTok} (hbase : st.tokBase ≤ bitsOf p.w1.toNat 0 22)
    (hm : s.mead (ctxOf p) (st.localTok (bitsOf p.w1.toNat 0 22)) = some m) (hne : bitsOf p.w2.toNat 0 36 ≠ 0)
    (hexp : bitsOf p.w2.toNat 0 36 &&& m.expected = bitsOf p.w2.toNat 0 36) (hnew : bitsOf p.w2.toNat 0 36 &&& m.added = 0)
    (hearly : s.early (ctxOf p) (st.localTok (bitsOf p.w1.toNat 0 22)) = []) (hturn : m.turn (bitsOf p.w1.toNat 22 6) = true)
    (hslot : s.slotFor m = true) : ∃ x n, x.ctx = ctxOf p ∧ x.tok = st.localTok (bitsOf p.w1.toNat 0 22) ∧
      x.ranks = bitsOf p.w2.toNat 0 36 ∧ s.meadReturn st p hold = ((s.freeHold hold).addRank x).pumpParked n := by
  rw [show @State.meadReturn = _ by delta State.meadReturn; rfl]
  extract_lets c token rank ranks k bad waiting row x
  rw [show s.mead c k = some m from hm]
  have hwaiting : waiting = false := congrArg (fun l : List Parked => l.any fun x => x.ranks &&& ranks != 0) hearly
  have hgood : ¬(token < st.tokBase ∨ ranks = 0 ∨ ranks &&& m.expected ≠ ranks ∨ ranks &&& m.added ≠ 0 ∨ waiting = true) := by
    rw [hwaiting]
    rintro (h | h | h | h | h)
    · exact absurd hbase (Nat.not_le_of_lt h)
    · exact hne h
    · exact h hexp
    · exact h hnew
    · cases h
  exact ⟨x, _, rfl, rfl, rfl, (if_neg hgood).trans (if_pos ⟨.inr hturn, hslot⟩)⟩

end

/-- What follows a RETURN that is not expected keeps its count and its report. -/
theorem unexpected_counted {u : State} (h : HandedOn s u) (data : List Nat) (seq : Word) :
    Counted s (((u.bump CMB_DUP_CNT.COUNT).raise 0x0803 2 data c seq).progress c) CMB_DUP_CNT.COUNT 1 ∧
      Reports s 0x0803 (((u.bump CMB_DUP_CNT.COUNT).raise 0x0803 2 data c seq).progress c) := by
  have hraise := (u.bump CMB_DUP_CNT.COUNT).raise_traffic 0x0803 2 data c seq 0
  have hcount : Counted u (((u.bump CMB_DUP_CNT.COUNT).raise 0x0803 2 data c seq).progress c) CMB_DUP_CNT.COUNT 1 :=
    ((hraise.trans (State.progress_traffic _ c)).rd _ (by decide) (by decide)).trans (State.bump_rd _ _ (by decide))
  have hreports : Reports u 0x0803 (((u.bump CMB_DUP_CNT.COUNT).raise 0x0803 2 data c seq).progress c) :=
    ((State.progress_traffic _ c).reports (State.raise_reports _ _ _ _ _ _ _)).of_same (u.bump_hubUp _).symm
      (congrArg EventQueue.waiting (u.bump_evq _)).symm
  exact ⟨hcount.of_rd (h.rd _), h.reports hreports⟩

/-- A token that still waits for ranks stands with the rank that was added, where none is parked. -/
theorem addRank_stands {x : Parked} {m : MeadTok} {n : Nat} (hm : s.mead x.ctx x.tok = some m)
    (hmore : (m.plus x).expected &&& (m.plus x).added ≠ (m.plus x).expected) (hparked : s.work.parked = []) :
    (((s.addRank x).pumpParked n).progress c).mead x.ctx x.tok = some (m.plus x) := by
  obtain ⟨hctx, htok⟩ := State.mead_key hm
  rw [State.mead_congr (congrArg Work.meadow (State.progress_work _ c)), State.addRank_eq hm, if_neg hmore,
    State.pumpParked_idle (s := s.putMead x.ctx x.tok (m.plus x)) n hparked]
  exact State.putMead_mead hm hctx htok

/-! ### The commands -/

theorem execReturnPacket_eq (hup : s.busUp 0xb = true) (hp : ptypeOf p = 3 ∨ ptypeOf p = 4) (hcheck : s.landCheck p = none) :
    exec (.returnPacket p) s = .next (returnPacket p s) := by
  have hchecked : s.checked p (returnPacket p) = returnPacket p s := by
    unfold State.checked
    rw [hcheck]
  exact congrArg Host.Outcome.next ((if_pos ⟨hup, hp⟩).trans hchecked)

theorem execRowNormalise_eq (hup : s.busUp 0x8 = true) : exec .rowNormalise s = .next (rowNormalise s) := congrArg Host.Outcome.next (if_pos hup)

/-- A row that is normalised has left the table; then parked ranks are added to others. -/
theorem rowNormalise_drops {m : MeadTok} {st : Step} (hrow : nextRow s.work.norm = some (c, k)) (hm : s.mead c k = some m)
    (hlive : s.liveStep c = some st) : ∃ u n, rowNormalise s = (State.dropMead u c k).pumpParked n := by
  unfold rowNormalise
  rw [hrow]
  dsimp only
  split
  · exact ⟨_, _, rfl⟩
  · next hno => exact (hno m st hm hlive).elim

/-- Settles O17: a RETURN is one branch of the Meadow, what follows it keeps counts, records and the token table, and no rank that is added
puts a token back. -/
theorem returnAndNormalise : Obligations.ReturnAndNormalise := by
  unfold Obligations.ReturnAndNormalise
  intro s
  refine ⟨fun p hup hheld hp hcheck hcur => ?_, fun p st hup hheld hp hcheck hcur hmal hnone => ?_,
    fun p st m hup hheld hp hcheck hcur hmal hbase hm hne hexp hnew hparked hearly hturn hslot hmore => ?_,
    fun c k m st hup hrow hm hlive => ?_⟩
  · refine ⟨_, execReturnPacket_eq hup hp hcheck, ?_⟩
    have hcount : Counted ((s.opened p).freeHold (s.holdOf p)) (((s.opened p).freeHold (s.holdOf p)).stalePkt p) PMP_STALE_CNT.COUNT 1 :=
      State.bump_rd _ _ (by decide)
    rw [returnPacket_stale hheld hcur]
    exact hcount.of_rd ((s.freed_handedOn p).rd _)
  · refine ⟨_, execReturnPacket_eq hup hp hcheck, ?_⟩
    have hnone' := ((s.opened_handedOn p).mead _ _).trans hnone
    obtain ⟨data, heq⟩ := State.meadReturn_unexpected (hold := s.holdOf p) hnone'
    rw [returnPacket_current hheld hcur hmal, heq]
    exact unexpected_counted (s.freed_handedOn p) data st.seq
  · refine ⟨_, execReturnPacket_eq hup hp hcheck, ?_⟩
    have hopened := s.opened_handedOn p
    obtain ⟨x, n, hctx, htok, hranks, heq⟩ := State.meadReturn_adds (hold := s.holdOf p) hbase ((hopened.mead _ _).trans hm) hne hexp hnew
      ((hopened.early _ _).trans hearly) hturn ((hopened.slotFor m).trans hslot)
    have hfreed := s.freed_handedOn p
    rw [returnPacket_current hheld hcur hmal, heq]
    rw [← hctx, ← htok] at hm ⊢
    rw [← hranks] at hmore ⊢
    exact ⟨m.plus x, addRank_stands ((hfreed.mead _ _).trans hm) hmore ((congrArg Work.parked hfreed.work).trans hparked), rfl⟩
  · refine ⟨_, execRowNormalise_eq hup, ?_⟩
    obtain ⟨u, n, heq⟩ := rowNormalise_drops hrow hm hlive
    rw [heq]
    exact State.pumpParked_none (State.dropMead_none _ _ _)

end Sys2Proof.Machine
end

section
/-!
SUPPORT. Full and partial tiles: O18.
-/

namespace Sys2Proof.Machine

open Sys2Proof

set_option Elab.async false

variable {base s t : State}

/-! ### A tile of the host path (R200, R201) -/

/-- The tile that Issue takes from a queue of the host path. -/
def Queue.tile (s : State) (q : Queue) (c : Ctx) (st : Step) (e : Nat) : Tile :=
  { slot := s.freeSlots.getD (Config.freeNat s.free % s.freeSlots.length) 0, ctx := c, seq := st.seq, att := st.replays % 8, expert := e
    layer := ((q.entries.take 128).head?.map (·.layer)).getD 0, bwd := st.opcode == 2, bf16 := st.payload, entries := q.entries.take 128
    released := [], taken := false, dead := false, issue := s.work.issued }

/-- An issued tile stands in a free slot of the tile table; then waiting packets are tried again. -/
theorem State.issueHost_eq {c : Ctx} {st : Step} {e : Nat} {q : Queue}
    (hq : (s.work.queues.find? fun x => x.isFor c st.seq (st.replays % 8) e) = some q)
    (hissue : q.issuable (s.hostHome c st.seq (st.replays % 8)) (s.memberList c) = true) (hfree : s.freeSlots ≠ []) :
    ∃ u : State, s.issueHost c st e = u.retryLanded ∧ u.work.tiles = s.work.tiles ++ [q.tile s c st e] ∧
      u.work.issued = s.work.issued + 1 := by
  unfold State.issueHost
  rw [hq]
  dsimp only
  rw [hissue, List.isEmpty_eq_false_iff.mpr hfree, if_neg (by decide)]
  exact ⟨_, rfl, rfl, rfl⟩

/-- A place of a list that is not empty, however it is chosen. -/
theorem getD_mod_mem {l : List Nat} (n : Nat) (h : l ≠ []) : l.getD (n % l.length) 0 ∈ l := by
  have hlt : n % l.length < l.length := Nat.mod_lt _ (List.length_pos_iff.mpr h)
  rw [List.getD_eq_getElem _ _ hlt]
  exact List.getElem_mem hlt

theorem Queue.tile_slot (q : Queue) (c : Ctx) (st : Step) (e : Nat) (hfree : s.freeSlots ≠ []) : (q.tile s c st e).slot ∈ s.freeSlots := by
  unfold Queue.tile
  dsimp only
  exact getD_mod_mem (Config.freeNat s.free) hfree

theorem execIssueTile_host {home e : Nat} {c : Ctx} {st : Step} (hup : s.busUp 0xb = true) (hlive : s.liveStep c = some st)
    (hchip : homeChip home = s.chip) (hslot : homeSlot home = 24) : exec (.issueTile home c e) s = .next (s.issueHost c st e) := by
  have hissue : issueTile home c e s = s.issueHost c st e := by
    unfold issueTile
    rw [hlive]
    exact (if_neg (not_not.mpr hchip)).trans (if_pos hslot)
  exact congrArg Host.Outcome.next ((if_pos hup).trans hissue)

/-! ### What forming a tile of a Well leaves (R226, R231) -/

theorem LandFrame.correctedWord {part} (h : LandFrame base s) : LandFrame base (s.correctedWord part) := by
  unfold State.correctedWord
  extract_lets _ _ s1 s2
  have h1 : LandFrame base s1 := h.bump (by decide)
  exact .ite h1.upd.raise h1.upd

theorem LandFrame.countFixed {w a n} (h : LandFrame base s) : LandFrame base (s.countFixed w a n) := .foldl h fun ht _ => ht.correctedWord

theorem LandFrame.uncor {part mem addr mis} (h : LandFrame base s) : LandFrame base (s.uncor part mem addr mis) := by
  unfold State.uncor
  extract_lets s1 s2 s3
  have h1 : LandFrame base s1 := h.bump (by decide)
  have h2 : LandFrame base s2 := .ite (h1.bump (by decide)) h1
  have h3 : LandFrame base s3 := .wr (.wr (.wr (h2.wr (by decide)) (by decide)) (by decide)) (by decide)
  exact h3.rasIrq (by decide)

theorem LandFrame.uncorLive {part mem addr mis c} (h : LandFrame base s) : LandFrame base (s.uncorLive part mem addr mis c) := by
  unfold State.uncorLive
  split
  · exact h.uncor.raise.noticeLive
  · exact h.uncor.raise

theorem LandFrame.voidAt {w a} (h : LandFrame base s) : LandFrame base (s.voidAt w a) := .foldl h fun {t} ht _ =>
  ht.reported (.ite (HomeFrame.refl t).voidLedger (HomeFrame.refl t).voidLedger.modLog)

theorem LandFrame.touch {w a n c} (h : LandFrame base s) : LandFrame base (s.touch w a n c).1 := by
  unfold State.touch
  extract_lets s1
  have h1 : LandFrame base s1 := h.countFixed
  split
  · exact h1
  · dsimp only
    exact h1.uncorLive.voidAt

theorem LandFrame.send {pkt release sub} (h : LandFrame base s) : LandFrame base (s.send pkt release sub) := by
  obtain ⟨_, _, _, _, _, _, _, _, _, _, _, he⟩ := State.send_eq s pkt release sub
  exact h.traffic (s.send_traffic pkt release sub) (by rw [he])

theorem LandFrame.colAbortSend {ch cause newatt} (h : LandFrame base s) : LandFrame base (s.colAbortSend ch cause newatt) :=
  .ite h (.foldl h fun ht _ => ht.send)

theorem LandFrame.freezeRing {c d2} (h : LandFrame base s) : LandFrame base (s.freezeRing c d2) := by
  have hfrozen : LandFrame base (s.setFrozen (.ring c) d2) := by
    rw [State.setFrozen_ring]
    exact .rasIrq (.raiseEv (h.wr (by decide))) (by decide)
  exact .ite h (.foldl hfrozen.noticeLive fun ht _ => .ite ht.colAbortSend ht)

theorem LandFrame.dirViolation {w c seq att layer e entry} (h : LandFrame base s) :
    LandFrame base (s.dirViolation w c seq att layer e entry) := by
  have hoff : ∀ v : WellNo, (WEL_PARTIAL_CNT.COUNT v.val).off ≠ (WEL_DIR_ERR_CNT.COUNT w.val).off := fun v => by
    unfold WEL_PARTIAL_CNT.COUNT WEL_DIR_ERR_CNT.COUNT
    dsimp only
    omega
  unfold State.dirViolation
  extract_lets d s1
  have h1 : LandFrame base s1 := .bump h.upd hoff
  exact (h1.reported (HomeFrame.refl s1).wellEvent).freezeRing

theorem LandFrame.dirRead {w x bank d} (h : LandFrame base s) (he : s.dirRead w x bank = (t, d)) : LandFrame base t := by
  rw [show @State.dirRead = _ by delta State.dirRead; rfl] at he
  split at he
  · exact (Prod.mk.inj he).1 ▸ h.dirViolation
  · split at he
    · next htouch => exact (Prod.mk.inj he).1 ▸ h.touch.fst htouch
    · next u htouch =>
      have hacc : ∀ {c a}, LandFrame base (u.accDram w c a 16 0) := (h.touch.fst htouch).reported (HomeFrame.refl u).accDram
      dsimp only at he
      split at he
      · split at he
        · exact (Prod.mk.inj he).1 ▸ hacc
        · exact (Prod.mk.inj he).1 ▸ hacc.dirViolation
      · exact (Prod.mk.inj he).1 ▸ hacc.dirViolation

theorem LandFrame.formTile {w o q done} (h : LandFrame base s) : LandFrame base (s.formTile w o q done) := by
  rw [show @State.formTile = _ by delta State.formTile; rfl]
  extract_lets es x s1
  have h1 : LandFrame base s1 := h.modWell
  split
  · next he => exact h1.dirRead he
  · next he => exact (h1.dirRead he).modWell.wellGrant.retryLanded

/-! ### A partial tile (R231) -/

section
variable {w : WellNo} {q : Queue} {o : WellOpen} (hrun : s.wells[w].running = none) (hwait : s.slotWait w = true)
  (hfull : s.fullest w = some q) (hopen : s.wellOpen w q.ctx q.seq q.att = some o)
include hrun hwait hfull hopen

theorem partialTile_forms : ∃ done, partialTile w s = (s.bump (WEL_PARTIAL_CNT.COUNT w.val)).formTile w o q done := by
  unfold partialTile
  rw [hrun, hwait, if_neg (by decide), hfull]
  dsimp only
  rw [hopen]
  exact ⟨_, rfl⟩

/-- A partial tile is counted once. -/
theorem partialTile_counted : Counted s (partialTile w s) (WEL_PARTIAL_CNT.COUNT w.val) 1 := by
  obtain ⟨done, heq⟩ := partialTile_forms hrun hwait hfull hopen
  rw [heq]
  exact ((LandFrame.refl _).formTile.partials w).trans (State.bump_rd _ _ (Nat.le_refl 32))

end

theorem execPartialTile_eq {w : WellNo} (hup : s.hubUp = true) (hserv : s.wells[w].inService = true) :
    exec (.partialTile w) s = .next (partialTile w s) :=
  congrArg Host.Outcome.next (if_pos (Bool.and_eq_true_iff.mpr ⟨hup, hserv⟩))

/-- Settles O18: what follows an issued or a counted tile keeps the tile table and the counters of partial tiles. -/
theorem tilesIssue : Obligations.TilesIssue := by
  unfold Obligations.TilesIssue
  intro s
  refine ⟨fun home e c st q hup hlive hchip hslot hq hissue hfree => ?_, fun w q o hup hserv hrun hwait hfull hopen => ?_⟩
  · obtain ⟨u, heq, htiles, hissued⟩ := State.issueHost_eq hq hissue hfree
    have hkept := (LandFrame.refl u).retryLanded
    refine ⟨_, execIssueTile_host hup hlive hchip hslot, ?_⟩
    rw [heq]
    exact ⟨hkept.issued.trans hissued, q.tile s c st e, by rw [hkept.tiles, htiles]; exact List.mem_append_right _ (List.mem_singleton_self _),
      q.tile_slot c st e hfree, rfl, rfl, rfl⟩
  · exact ⟨_, execPartialTile_eq hup hserv, partialTile_counted hrun hwait hfull hopen⟩

end Sys2Proof.Machine
end
